-- ==== Sys2Proof/Word.lean ====
section
/-! DEFINITION. The word types of the Sahuno (spec/00_scope.md R2, R3) and the plainest helpers on them. -/

namespace Sys2Proof

/-- A 32-bit word (R3): registers, token values, rule and command words. -/
abbrev Word := BitVec 32

/-- A byte of a pad, a vault, DRAM or host memory. -/
abbrev Byte := BitVec 8

/-- A 16-bit token sideband (R96). -/
abbrev Side := BitVec 16

/-- A 64-bit host register or record word. -/
abbrev Dword := BitVec 64

/-- The 512 bits of a 64-byte buffer token (R51). -/
abbrev Line := BitVec 512

/-- Reading a vector of registers at a bounded index. -/
abbrev vget {α : Type} {n : Nat} (v : Vector α n) (i : Fin n) : α := v[i.val]'i.isLt

/-- Writing a vector of registers at a bounded index. -/
abbrev vset {α : Type} {n : Nat} (v : Vector α n) (i : Fin n) (x : α) : Vector α n :=
  v.set i.val x i.isLt

end Sys2Proof
end

