-- ==== Sys2Proof/Machine/Assoc.lean ====
section
/-! DEFINITION. Finite maps from numbers to data, as lists of pairs in rising order of key, and the byte memory
(unlisted addresses read as 0, log entry 1). -/

namespace Sys2Proof.Machine

/-- A finite map keyed by numbers. -/
abbrev Assoc (α : Type) := List (Nat × α)

/-- The value at a key. -/
def Assoc.get? {α : Type} : Assoc α → Nat → Option α
  | [], _ => none
  | (j, a) :: r, k => if j = k then some a else Assoc.get? r k

/-- The value at a key, or a default. -/
def Assoc.getD {α : Type} (m : Assoc α) (k : Nat) (d : α) : α := (m.get? k).getD d

/-- The map with the key set. -/
def Assoc.put {α : Type} : Assoc α → Nat → α → Assoc α
  | [], k, a => [(k, a)]
  | (j, b) :: r, k, a =>
    if k < j then (k, a) :: (j, b) :: r
    else if k = j then (k, a) :: r
    else (j, b) :: Assoc.put r k a

/-- The map without the key. -/
def Assoc.del {α : Type} (m : Assoc α) (k : Nat) : Assoc α := m.filter (fun x => x.1 != k)

/-- The map with the value at a key changed, if there is one. -/
def Assoc.modify {α : Type} (m : Assoc α) (k : Nat) (f : α → α) : Assoc α :=
  m.map fun x => if x.1 = k then (x.1, f x.2) else x

/-- Every value changed. -/
def Assoc.mapAll {α : Type} (m : Assoc α) (f : Nat → α → α) : Assoc α := m.map fun x => (x.1, f x.1 x.2)

/-- The values that satisfy a test are dropped. -/
def Assoc.dropIf {α : Type} (m : Assoc α) (f : Nat → α → Bool) : Assoc α := m.filter fun x => !f x.1 x.2

def Assoc.any? {α : Type} (m : Assoc α) (f : Nat → α → Bool) : Bool := m.any fun x => f x.1 x.2

/-- The bytes of a memory that are not 0, in rising order of address (log entry 1). -/
abbrev Memory := List Host.Cell

/-- The byte at an address; an unlisted address reads as 0. DESIGN CHOICE, log entry 1. -/
def Memory.read (m : Memory) (a : Nat) : Byte := Assoc.getD m a 0

/-- A byte written; writing 0 removes the entry. -/
def Memory.write (m : Memory) (a : Nat) (b : Byte) : Memory :=
  if b = 0 then Assoc.del m a else Assoc.put m a b

/-- Bytes written from an address on. -/
def Memory.writes (m : Memory) (a : Nat) : List Byte → Memory
  | [] => m
  | b :: r => Memory.writes (Memory.write m a b) (a + 1) r

/-- Bytes written one after the other, from an offset on, each at the address that the placement gives its offset. -/
def Memory.writesBy (m : Memory) (place : Nat → Nat) (off : Nat) : List Byte → Memory
  | [] => m
  | b :: r => Memory.writesBy (Memory.write m (place off) b) place (off + 1) r

/-- n bytes from an address on. -/
def Memory.reads (m : Memory) (a : Nat) : Nat → List Byte
  | 0 => []
  | n + 1 => Memory.read m a :: Memory.reads m (a + 1) n

/-- n bytes from an address on, set to 0. -/
def Memory.clear (m : Memory) (a n : Nat) : Memory := m.filter fun c => !(a ≤ c.1 && c.1 < a + n)

/-- Addresses strictly rising above a bound, no entry 0. -/
def Memory.wfAbove : Nat → Memory → Bool
  | _, [] => true
  | lo, (a, b) :: r => decide (lo ≤ a) && b != 0 && Memory.wfAbove (a + 1) r

/-- The canonical form of a memory. -/
def Memory.wf (m : Memory) : Bool := Memory.wfAbove 0 m

/-- A little-endian value of bytes (R3). -/
def leNat : List Byte → Nat
  | [] => 0
  | b :: r => b.toNat + 256 * leNat r

/-- The n low bytes of a value, little-endian (R3). -/
def leBytes : Nat → Nat → List Byte
  | 0, _ => []
  | n + 1, v => BitVec.ofNat 8 v :: leBytes n (v / 256)

end Sys2Proof.Machine
end

