-- ==== Sys2Proof/Machine/Num.lean ====
section
/-! DEFINITION. Number formats and arithmetic (spec/03_formats.md R50-R78): exact dyadic and fractional values, the
rounding of an exact value to a format, and the operations that elements, vector and matrix nodes share. -/

namespace Sys2Proof.Machine

/-- A rounding mode (R61). -/
inductive Mode where
  | rne
  | rz
  | rdn
  | sr
  deriving DecidableEq, Repr

/-- RND code to mode (R61). -/
def modeOf (c : Nat) : Mode :=
  match c with
  | 0 => .rne
  | 1 => .rz
  | 2 => .rdn
  | _ => .sr

/-- The ARSTAT bits one operation sets (R63). -/
structure Ar where
  inv : Bool := false
  sat : Bool := false
  wrap : Bool := false
  deriving DecidableEq, Repr

def Ar.or (a b : Ar) : Ar := ⟨a.inv || b.inv, a.sat || b.sat, a.wrap || b.wrap⟩

/-- The bits as they stand in ARSTAT [2:0] (R63). -/
def Ar.bits (a : Ar) : Nat := (if a.inv then 4 else 0) + (if a.sat then 2 else 0) + (if a.wrap then 1 else 0)

/-- The exact value (-1)^neg × m × 2^e. A zero keeps its sign (R57). -/
structure Dy where
  neg : Bool
  m : Nat
  e : Int
  deriving DecidableEq, Repr

/-- A floating-point value: NaN, an infinity, or an exact finite value. -/
inductive Fv where
  | nan
  | inf (neg : Bool)
  | fin (x : Dy)
  deriving DecidableEq, Repr

/-- A floating-point format (R53): fraction bits, exponent bits, bias, and whether it has infinities. -/
structure Ffmt where
  m : Nat
  eb : Nat
  bias : Nat
  infs : Bool
  deriving DecidableEq, Repr

def fp32 : Ffmt := ⟨23, 8, 127, true⟩
def bf16 : Ffmt := ⟨7, 8, 127, true⟩
def fp16 : Ffmt := ⟨10, 5, 15, true⟩
def e4m3 : Ffmt := ⟨3, 4, 7, false⟩
def e5m2 : Ffmt := ⟨2, 5, 15, true⟩

/-- A format code of R50. -/
inductive Fmt where
  | fp32
  | bf16
  | fp16
  | e4m3
  | e5m2
  | int8
  | int32
  | uint8
  | dp8
  | e8
  | mask32
  deriving DecidableEq, Repr

/-- The code table of R50. -/
def Fmt.ofCode (c : Nat) : Option Fmt :=
  match c with
  | 0 => some .fp32
  | 1 => some .bf16
  | 2 => some .fp16
  | 3 => some .e4m3
  | 4 => some .e5m2
  | 5 => some .int8
  | 6 => some .int32
  | 7 => some .uint8
  | 8 => some .dp8
  | 9 => some .e8
  | 10 => some .mask32
  | _ => none

def Fmt.code (f : Fmt) : Nat :=
  match f with
  | .fp32 => 0
  | .bf16 => 1
  | .fp16 => 2
  | .e4m3 => 3
  | .e5m2 => 4
  | .int8 => 5
  | .int32 => 6
  | .uint8 => 7
  | .dp8 => 8
  | .e8 => 9
  | .mask32 => 10

/-- Width in bits (R50). -/
def Fmt.bits (f : Fmt) : Nat :=
  match f with
  | .fp32 | .int32 | .mask32 => 32
  | .bf16 | .fp16 => 16
  | _ => 8

def Fmt.bytes (f : Fmt) : Nat := f.bits / 8

/-- Lanes of a 64-byte token (R51). -/
def Fmt.lanes (f : Fmt) : Nat := 512 / f.bits

/-- The floating-point parameters of a code, for codes 0-4. -/
def Fmt.float? (f : Fmt) : Option Ffmt :=
  match f with
  | .fp32 => some Machine.fp32
  | .bf16 => some Machine.bf16
  | .fp16 => some Machine.fp16
  | .e4m3 => some Machine.e4m3
  | .e5m2 => some Machine.e5m2
  | _ => none

def Fmt.isFloat (f : Fmt) : Bool := f.float?.isSome

/-- Exponent of the last place of subnormals: 1 - bias - m. -/
def Ffmt.qmin (f : Ffmt) : Int := 1 - (f.bias : Int) - (f.m : Int)

/-- The all-ones exponent. -/
def Ffmt.emax (f : Ffmt) : Nat := 2 ^ f.eb - 1

/-- The largest finite encoding without its sign (R54). -/
def Ffmt.largest (f : Ffmt) : Nat :=
  if f.infs then f.emax * 2 ^ f.m - 1 else f.emax * 2 ^ f.m + (2 ^ f.m - 2)

/-- The canonical NaN (R53, R56). -/
def Ffmt.nan (f : Ffmt) : Nat :=
  if f.infs then f.emax * 2 ^ f.m + 2 ^ (f.m - 1) else f.emax * 2 ^ f.m + (2 ^ f.m - 1)

def Ffmt.signBit (f : Ffmt) : Nat := 2 ^ (f.m + f.eb)

def Ffmt.withSign (f : Ffmt) (neg : Bool) (b : Nat) : Nat := if neg then f.signBit + b else b

/-- The value of an encoding (R53). -/
def Ffmt.decode (f : Ffmt) (b : Nat) : Fv :=
  let neg := (b / f.signBit) % 2 == 1
  let ef := (b / 2 ^ f.m) % 2 ^ f.eb
  let mf := b % 2 ^ f.m
  if f.infs && ef == f.emax then (if mf == 0 then .inf neg else .nan)
  else if !f.infs && ef == f.emax && mf == 2 ^ f.m - 1 then .nan
  else if ef == 0 then .fin ⟨neg, mf, f.qmin⟩
  else .fin ⟨neg, 2 ^ f.m + mf, f.qmin + (ef : Int) - 1⟩

/-! ### Fractions and rounding -/

/-- A magnitude num/den to be rounded (den > 0). -/
structure Mag where
  num : Nat
  den : Nat
  deriving DecidableEq, Repr

/-- The fraction of m × 2^e. -/
def magOf (m : Nat) (e : Int) : Mag :=
  if 0 ≤ e then ⟨m * 2 ^ e.toNat, 1⟩ else ⟨m, 2 ^ (-e).toNat⟩

/-- x / 2^q. -/
def Mag.scale (x : Mag) (q : Int) : Mag :=
  if 0 ≤ q then ⟨x.num, x.den * 2 ^ q.toNat⟩ else ⟨x.num * 2 ^ (-q).toNat, x.den⟩

/-- floor(log2 x) for x > 0. -/
def Mag.log2 (x : Mag) : Int :=
  let l : Int := (Nat.log2 x.num : Int) - (Nat.log2 x.den : Int)
  let y := x.scale l
  if y.num < y.den then l - 1 else l

/-- One rounding decision: `lo` is floor of the scaled magnitude, `r`/`d` its remainder, `neg` the sign, `s` the
stochastic word (R61, R65). -/
def roundUp (mode : Mode) (neg : Bool) (s : Nat) (lo r d : Nat) : Bool :=
  match mode with
  | .rne => 2 * r > d || (2 * r == d && lo % 2 == 1)
  | .rz => false
  | .rdn => neg && r != 0
  | .sr => r != 0 && s < r * 2 ^ 32 / d

/-- A magnitude rounded to an integer count of 2^q. -/
def Mag.roundAt (x : Mag) (q : Int) (mode : Mode) (neg : Bool) (s : Nat) : Nat :=
  let y := x.scale q
  let lo := y.num / y.den
  if roundUp mode neg s lo (y.num % y.den) y.den then lo + 1 else lo

/-- The magnitude lies halfway between n and n + 1 counts of 2^q. -/
def Mag.halfAbove (x : Mag) (q : Int) (n : Nat) : Bool :=
  let y := x.scale q
  2 * y.num == (2 * n + 1) * y.den

/-- A magnitude rounded into a format, sign included, with SAT when it clamps (R61, R62, R65). Under RNE the point halfway above the
largest finite value overflows in every format (R62; DEDUCED, log entry 90). -/
def Ffmt.round (f : Ffmt) (mode : Mode) (neg : Bool) (s : Nat) (x : Mag) : Nat × Ar :=
  if x.num == 0 then (f.withSign neg 0, {})
  else
    let q := max (x.log2 - (f.m : Int)) f.qmin
    let n0 := x.roundAt q mode neg s
    let (n, q) := if n0 == 2 ^ (f.m + 1) then (2 ^ f.m, q + 1) else (n0, q)
    let b := if n < 2 ^ f.m then n else (q - f.qmin + 1).toNat * 2 ^ f.m + (n - 2 ^ f.m)
    if b < f.largest || (b == f.largest && !(mode == .rne && x.halfAbove q n)) then (f.withSign neg b, {})
    else
      let toInf := f.infs &&
        (match mode with
         | .rne | .sr => true
         | .rz => false
         | .rdn => neg)
      if toInf then (f.withSign neg (f.emax * 2 ^ f.m), {})
      else (f.withSign neg f.largest, { sat := true })

/-- An infinity written into a format (R62). -/
def Ffmt.ofInf (f : Ffmt) (neg : Bool) : Nat × Ar :=
  if f.infs then (f.withSign neg (f.emax * 2 ^ f.m), {}) else (f.withSign neg f.largest, { sat := true })

/-- A floating-point value rounded into a format; a NaN sets no bit here. -/
def Ffmt.ofFv (f : Ffmt) (mode : Mode) (s : Nat) (v : Fv) : Nat × Ar :=
  match v with
  | .nan => (f.nan, {})
  | .inf neg => f.ofInf neg
  | .fin x => f.round mode x.neg s (magOf x.m x.e)

/-! ### Exact operations -/

def Dy.negate (x : Dy) : Dy := { x with neg := !x.neg }

def Dy.mul (x y : Dy) : Dy := ⟨x.neg != y.neg, x.m * y.m, x.e + y.e⟩

/-- The signed mantissa at exponent e, for e ≤ x.e. -/
def Dy.at (x : Dy) (e : Int) : Int :=
  let m : Int := x.m * 2 ^ (x.e - e).toNat
  if x.neg then -m else m

/-- The exact sum; the sign of a zero sum follows R57, `down` being RDN. -/
def Dy.add (down : Bool) (x y : Dy) : Dy :=
  let e := min x.e y.e
  let z := x.at e + y.at e
  if z == 0 then
    ⟨if x.m == 0 && y.m == 0 then (if down then x.neg || y.neg else x.neg && y.neg) else down, 0, e⟩
  else ⟨decide (z < 0), z.natAbs, e⟩

/-- x < y as numbers. -/
def Dy.lt (x y : Dy) : Bool := let e := min x.e y.e; decide (x.at e < y.at e)

def Dy.isZero (x : Dy) : Bool := x.m == 0

def Fv.negate (v : Fv) : Fv :=
  match v with
  | .nan => .nan
  | .inf n => .inf (!n)
  | .fin x => .fin x.negate

/-- Sum under R57. -/
def Fv.add (down : Bool) (a b : Fv) : Fv :=
  match a, b with
  | .nan, _ => .nan
  | _, .nan => .nan
  | .inf x, .inf y => if x == y then .inf x else .nan
  | .inf x, .fin _ => .inf x
  | .fin _, .inf y => .inf y
  | .fin x, .fin y => .fin (x.add down y)

/-- Product under R57. -/
def Fv.mul (a b : Fv) : Fv :=
  match a, b with
  | .nan, _ => .nan
  | _, .nan => .nan
  | .inf x, .inf y => .inf (x != y)
  | .inf x, .fin y => if y.isZero then .nan else .inf (x != y.neg)
  | .fin x, .inf y => if x.isZero then .nan else .inf (x.neg != y)
  | .fin x, .fin y => .fin (x.mul y)

def Fv.isNan (a : Fv) : Bool := a == .nan

def Fv.sign (a : Fv) : Bool :=
  match a with
  | .nan => false
  | .inf n => n
  | .fin x => x.neg

/-- a < b, false when either is NaN; -0 is not below +0 (R144). -/
def Fv.lt (a b : Fv) : Bool :=
  match a, b with
  | .nan, _ => false
  | _, .nan => false
  | .inf x, .inf y => x && !y
  | .inf x, .fin _ => x
  | .fin _, .inf y => !y
  | .fin x, .fin y => x.lt y

/-- Equality of numbers, -0 equal to +0, false for NaN (R210). -/
def Fv.eq (a b : Fv) : Bool := !a.isNan && !b.isNan && !a.lt b && !b.lt a

/-- Maximum under R57: NaN when either is, -0 below +0. -/
def Fv.max (a b : Fv) : Fv :=
  if a.isNan || b.isNan then .nan
  else if a.lt b then b
  else if b.lt a then a
  else if a.sign then b else a

def Fv.min (a b : Fv) : Fv :=
  if a.isNan || b.isNan then .nan
  else if a.lt b then a
  else if b.lt a then b
  else if a.sign then a else b

def Fv.abs (a : Fv) : Fv :=
  match a with
  | .nan => .nan
  | .inf _ => .inf false
  | .fin x => .fin { x with neg := false }

/-- INV when a NaN arose from operands that are not NaN (R63). -/
def invOf (r : Fv) (ops : List Fv) : Ar := { inv := r.isNan && !ops.any Fv.isNan }

/-- A result rounded into a format with INV of its operands. -/
def Ffmt.result (f : Ffmt) (mode : Mode) (s : Nat) (r : Fv) (ops : List Fv) : Nat × Ar :=
  let (b, ar) := f.ofFv mode s r
  (b, ar.or (invOf r ops))

/-! ### Element scalar operations (R144) -/

def fv32 (w : Word) : Fv := fp32.decode w.toNat

def fop32 (r : Fv) (ops : List Fv) : Word × Ar :=
  let (b, ar) := fp32.result .rne 0 r ops
  (BitVec.ofNat 32 b, { inv := ar.inv })

def fadd32 (a b : Word) : Word × Ar := fop32 ((fv32 a).add false (fv32 b)) [fv32 a, fv32 b]
def fsub32 (a b : Word) : Word × Ar := fop32 ((fv32 a).add false (fv32 b).negate) [fv32 a, fv32 b]
def fmul32 (a b : Word) : Word × Ar := fop32 ((fv32 a).mul (fv32 b)) [fv32 a, fv32 b]
def fma32 (a b c : Word) : Word × Ar :=
  fop32 (((fv32 a).mul (fv32 b)).add false (fv32 c)) [fv32 a, fv32 b, fv32 c]
def fmax32 (a b : Word) : Word × Ar := fop32 ((fv32 a).max (fv32 b)) [fv32 a, fv32 b]
def fmin32 (a b : Word) : Word × Ar := fop32 ((fv32 a).min (fv32 b)) [fv32 a, fv32 b]
def fclt32 (a b : Word) : Word := if (fv32 a).lt (fv32 b) then 1 else 0

/-! ### Integers (R58-R60) -/

/-- The integer value of a lane of an integer format. -/
def intOf (f : Fmt) (b : Nat) : Int :=
  match f with
  | .int8 => if b % 256 < 128 then ((b % 256 : Nat) : Int) else ((b % 256 : Nat) : Int) - 256
  | .uint8 => ((b % 256 : Nat) : Int)
  | _ => if b % 2 ^ 32 < 2 ^ 31 then ((b % 2 ^ 32 : Nat) : Int) else ((b % 2 ^ 32 : Nat) : Int) - 2 ^ 32

/-- The bits of an integer in a w-bit format. -/
def intBits (w : Nat) (x : Int) : Nat := (x % ((2 ^ w : Nat) : Int)).toNat

/-- The range of an integer format (R58). -/
def intRange (f : Fmt) : Int × Int :=
  match f with
  | .int8 => (-128, 127)
  | .uint8 => (0, 255)
  | _ => (-2147483648, 2147483647)

/-- Saturating write of an integer (R60). DEDUCED, log entry 17. -/
def satInt (f : Fmt) (x : Int) : Nat × Ar :=
  let (lo, hi) := intRange f
  if x < lo then (intBits f.bits lo, { sat := true })
  else if hi < x then (intBits f.bits hi, { sat := true })
  else (intBits f.bits x, {})

/-- Wrapping write of an INT32 (R59). -/
def wrapInt (x : Int) : Nat × Ar :=
  (intBits 32 x, { wrap := decide (x < -2147483648) || decide (2147483647 < x) })

/-- A float rounded to an integer format (R60). -/
def intOfFv (f : Fmt) (mode : Mode) (s : Nat) (v : Fv) : Nat × Ar :=
  match v with
  | .nan => (0, { inv := true })
  | .inf neg => (intBits f.bits (if neg then (intRange f).1 else (intRange f).2), { sat := true })
  | .fin x =>
    let n : Int := (magOf x.m x.e).roundAt 0 mode x.neg s
    satInt f (if x.neg then -n else n)

/-- An integer as an exact value. -/
def dyOfInt (x : Int) : Dy := ⟨decide (x < 0), x.natAbs, 0⟩

/-! ### DP8 and E8 (R67-R71) -/

/-- T(c) in units of 2^-6. -/
def dpTerm (c : Nat) : Int := if c == 7 then 0 else ((2 ^ (6 - c) : Nat) : Int)

/-- The value of a DP8 byte in units of 2^-6 (R67). -/
def dpUnits (b : Nat) : Int :=
  let a := dpTerm ((b / 16) % 8)
  let c := dpTerm (b % 8)
  (if b / 128 % 2 == 1 then -a else a) + (if b / 8 % 2 == 1 then -c else c)

def dpValue (b : Nat) : Dy := ⟨decide (dpUnits b < 0), (dpUnits b).natAbs, -6⟩

/-- The canonical codes of nonnegative values, in the order of R68: zero, +2, single powers, sums, differences. -/
def dpCanonical : List Nat :=
  [0x77, 0x00] ++ (List.range 7).map (fun c => 16 * c + 7)
    ++ (List.range 7).flatMap (fun a => (List.range 7).filterMap fun b => if a < b then some (16 * a + b) else none)
    ++ (List.range 7).flatMap (fun a => (List.range 7).filterMap fun b => if a < b then some (16 * a + 8 + b) else none)

/-- The first canonical code of a magnitude in units of 2^-6 (R68). -/
def dpEncode (neg : Bool) (u : Nat) : Nat :=
  match dpCanonical.find? (fun b => dpUnits b == (u : Int)) with
  | some b =>
    if b == 0x77 then b
    else if !neg then b
    else if b == 0x00 then 0x88
    else if b % 8 == 7 then b + 128
    else b + 128 + (if b / 8 % 2 == 1 then 0 else 8) - (if b / 8 % 2 == 1 then 8 else 0)
  | none => 0x77

/-- The nearest representable magnitude, the smaller on a tie, in units of 2^-6 (R69). -/
def dpNearest (x : Mag) : Nat :=
  let dist (u : Nat) : Nat := ((u * x.den : Nat) - (64 * x.num : Nat) : Int).natAbs
  ((List.range 129).filter (fun (u : Nat) => dpCanonical.any (fun b => dpUnits b == (u : Int)))).foldl
    (fun best u => if dist u < dist best then u else best) 0

/-- Conversion of a finite quotient to DP8 (R69). -/
def dpOfMag (neg : Bool) (x : Mag) : Nat × Ar :=
  if x.num > 2 * x.den then (dpEncode neg 128, { sat := true })
  else if 128 * x.num ≤ x.den then (0x77, {})
  else (dpEncode neg (dpNearest x), {})

/-- Quantisation to DP8 under an E8 scale (R69, R205). -/
def dpOfFv (scale : Nat) (v : Fv) : Nat × Ar :=
  if scale == 255 then (0x77, { inv := true })
  else
    match v with
    | .nan => (0x77, { inv := true })
    | .inf _ => (0x77, { inv := true })
    | .fin x => dpOfMag x.neg (magOf x.m (x.e - ((scale : Int) - 127)))

/-! ### Conversion between formats (R78) -/

/-- The value of a lane read in a format, as a float value. -/
def fvOf (f : Fmt) (b : Nat) : Fv :=
  match f with
  | .fp32 => Machine.fp32.decode b
  | .bf16 => Machine.bf16.decode b
  | .fp16 => Machine.fp16.decode b
  | .e4m3 => Machine.e4m3.decode b
  | .e5m2 => Machine.e5m2.decode b
  | .int8 | .int32 | .uint8 => .fin (dyOfInt (intOf f b))
  | .dp8 => .fin (dpValue b)
  | .e8 => if b % 256 == 255 then .nan else .fin ⟨false, 1, ((b % 256 : Nat) : Int) - 127⟩
  | .mask32 => .fin (dyOfInt (intOf .int32 b))

/-- A value written into a format, as a conversion writes it (R60, R62, R69, R78). DEDUCED, log entry 16. DEDUCED, log entry 17. -/
def fmtOfFv (f : Fmt) (mode : Mode) (s : Nat) (v : Fv) : Nat × Ar :=
  match f.float? with
  | some g => g.ofFv mode s v
  | none =>
    match f with
    | .dp8 => dpOfFv 127 v
    | _ => intOfFv f mode s v

/-- Conversion of one lane (R78). DEDUCED, log entry 16. -/
def convert (src dst : Fmt) (mode : Mode) (s : Nat) (b : Nat) : Nat × Ar := fmtOfFv dst mode s (fvOf src b)

/-- A lane of a format extended into a 32-bit token value (R47, R51). -/
def extend (f : Fmt) (b : Nat) : Word :=
  match f with
  | .uint8 => BitVec.ofNat 32 (b % 256)
  | .bf16 | .fp16 => BitVec.ofNat 32 (b % 65536)
  | .fp32 | .int32 | .mask32 => BitVec.ofNat 32 b
  | _ => (BitVec.ofNat 8 b).signExtend 32

/-- FCVT of one value (R145): the low bits of `a` in `src`, the result placed under R51 and R47. -/
def fcvt (src dst : Fmt) (mode : Mode) (a : Word) : Word × Ar :=
  let (b, ar) := convert src dst mode 0 (a.toNat % 2 ^ src.bits)
  (extend dst b, ar)

/-! ### Exact functions (R203, R214), in fixed point with `fix` fraction bits -/

/-- Fraction bits of the fixed-point evaluation. UNVERIFIED, log entry 15. -/
def fix : Nat := 640

def one : Nat := 2 ^ fix

/-- Sum of t × r^k / (2k+1): the atanh series. -/
def atanhLoop (fuel k : Nat) (t r2 acc : Nat) : Nat :=
  match fuel with
  | 0 => acc
  | n + 1 => atanhLoop n (k + 1) (t * r2 / one) r2 (acc + t / (2 * k + 1))

/-- 2 atanh(r), for r at most one third. UNVERIFIED, log entry 15. -/
def twoAtanh (r : Nat) : Nat := 2 * atanhLoop 240 0 r (r * r / one) 0

def ln2 : Nat := twoAtanh (one / 3)

/-- Taylor series of e^x for 0 ≤ x < 1. -/
def expLoop (fuel k : Nat) (t x acc : Nat) : Nat :=
  match fuel with
  | 0 => acc
  | n + 1 => expLoop n (k + 1) (t * x / one / (k + 1)) x (acc + t)

def expFrac (x : Nat) : Nat := expLoop 160 0 one x 0

/-- 2^(n / 2^fix) for a fixed-point n of either sign, as m × 2^e. -/
def exp2Fix (n : Int) : Nat × Int :=
  let i := n / (one : Int)
  let f := (n % (one : Int)).toNat
  (expFrac (f * ln2 / one), i - (fix : Int))

/-- A finite value as a fixed-point integer (exact for |e| ≤ fix), clamped to ±4096. -/
def fixOf (x : Dy) : Int :=
  let g := magOf x.m x.e
  let big := 4096 * one
  let n := if g.num ≥ 4096 * g.den then big else g.num * one / g.den
  if x.neg then -(n : Int) else (n : Int)

/-- e^(n / 2^fix) as m × 2^e. -/
def expFix (n : Int) : Nat × Int := exp2Fix (n * (one : Int) / (ln2 : Int))

/-- A fixed-point magnitude that stands for an irrational value just above it: the sticky half unit decides every
rounding as the exact value does. -/
def sticky (m : Nat) (e : Int) : Mag := magOf (2 * m + 1) (e - 1)

/-- 2^x (R203). -/
def exp2Mag (x : Dy) : Mag :=
  let n := fixOf x
  if n % (one : Int) == 0 then magOf 1 (n / (one : Int)) else let (m, e) := exp2Fix n; sticky m e

/-- log2 of a positive value (R203): sign and magnitude. -/
def log2Mag (x : Dy) : Bool × Mag :=
  let k : Int := (Nat.log2 x.m : Int) + x.e
  if x.m == 2 ^ Nat.log2 x.m then (decide (k < 0), magOf k.natAbs 0)
  else
    -- x = 2^k × y with 1 < y < 2
    let y := x.m * one / 2 ^ Nat.log2 x.m
    let l := twoAtanh ((y - one) * one / (y + one)) * one / ln2
    let v : Int := k * (one : Int) + (l : Int)
    if 0 ≤ v then (false, sticky v.toNat (-(fix : Int)))
    else (true, sticky ((-v).toNat - 1) (-(fix : Int)))

/-- 1/sqrt of a positive value (R203), exact squares exact. -/
def rsqMag (x : Dy) : Mag :=
  let e := if x.e % 2 == 0 then x.e else x.e - 1
  let m := if x.e % 2 == 0 then x.m else 2 * x.m
  -- 1/sqrt(m × 2^e) = sqrt(2^(2 fix) / m) × 2^(-e/2 - fix)
  let r := Nat.sqrt (2 ^ (2 * fix) / m)
  if r * r * m == 2 ^ (2 * fix) then magOf r (-(e / 2) - (fix : Int)) else sticky r (-(e / 2) - (fix : Int))

/-- 1 / (1 + e^-x) for a finite nonzero x (R203). -/
def sigmMag (x : Dy) : Mag :=
  -- t = e^-|x|; for x > 0 the value is 1/(1+t), for x < 0 it is t/(1+t)
  let (m, e) := expFix (-(fixOf { x with neg := false }))
  let t := magOf m e
  let den := t.den + t.num
  if x.neg then sticky (t.num * one * one / den) (-(2 * (fix : Int)))
  else sticky (min (t.den * one * one / den) (one * one - 1)) (-(2 * (fix : Int)))

/-- tanh of a finite nonzero |x| (R203). -/
def tanhMag (x : Dy) : Mag :=
  let (m, e) := expFix (-(2 * fixOf { x with neg := false }))
  let t := magOf m e
  sticky (min ((t.den - t.num) * one / (t.den + t.num)) (one - 1)) (-(fix : Int))

/-- A transcendental lane (R203): the value as a sign and a magnitude, or a special value; INV with a NaN from a
number. -/
inductive Fx where
  | spec (v : Fv)
  | mag (neg : Bool) (x : Mag)
  deriving DecidableEq, Repr

def fxExp2 (v : Fv) : Fx :=
  match v with
  | .nan => .spec .nan
  | .inf n => if n then .spec (.fin ⟨false, 0, 0⟩) else .spec (.inf false)
  | .fin x => .mag false (exp2Mag x)

def fxLog2 (v : Fv) : Fx :=
  match v with
  | .nan => .spec .nan
  | .inf n => if n then .spec .nan else .spec (.inf false)
  | .fin x =>
    if x.isZero then .spec (.inf true)
    else if x.neg then .spec .nan
    else let (n, m) := log2Mag x; .mag n m

def fxRcp (v : Fv) : Fx :=
  match v with
  | .nan => .spec .nan
  | .inf n => .spec (.fin ⟨n, 0, 0⟩)
  | .fin x => if x.isZero then .spec (.inf x.neg) else let g := magOf x.m x.e; .mag x.neg ⟨g.den, g.num⟩

def fxRsq (v : Fv) : Fx :=
  match v with
  | .nan => .spec .nan
  | .inf n => if n then .spec .nan else .spec (.fin ⟨false, 0, 0⟩)
  | .fin x =>
    if x.isZero then .spec (.inf x.neg)
    else if x.neg then .spec .nan
    else .mag false (rsqMag x)

def fxTanh (v : Fv) : Fx :=
  match v with
  | .nan => .spec .nan
  | .inf n => .spec (.fin ⟨n, 1, 0⟩)
  | .fin x => if x.isZero then .spec (.fin x) else .mag x.neg (tanhMag x)

def fxSigm (v : Fv) : Fx :=
  match v with
  | .nan => .spec .nan
  | .inf n => if n then .spec (.fin ⟨false, 0, 0⟩) else .spec (.fin ⟨false, 1, 0⟩)
  | .fin x => if x.isZero then .spec (.fin ⟨false, 1, -1⟩) else .mag false (sigmMag x)

/-- The lane rounded once into a format. -/
def Ffmt.ofFx (f : Ffmt) (mode : Mode) (s : Nat) (op : Fv) (r : Fx) : Nat × Ar :=
  match r with
  | .spec v => f.result mode s v [op]
  | .mag neg x => f.round mode neg s x

/-- 1/(1 + e^(s2 - s1)) and its complement, rounded as R214 says. -/
def gateFactors (s1 s2 : Fv) : Nat × Nat :=
  let half := 0x3F000000
  let unit := 0x3F800000
  let gate (d : Fv) : Nat × Nat :=
    match fxSigm d with
    | .spec v =>
      let b := (fp32.ofFv .rne 0 v).1
      (b, (fp32.ofFv .rne 0 ((Fv.fin ⟨false, 1, 0⟩).add false (fp32.decode b).negate)).1)
    | .mag n x =>
      let b := (fp32.round .rne n 0 x).1
      (b, (fp32.ofFv .rne 0 ((Fv.fin ⟨false, 1, 0⟩).add false (fp32.decode b).negate)).1)
  if s1.isNan && s2.isNan then (half, half)
  else if s2.isNan then (unit, 0)
  else if s1.eq s2 then (half, half)
  else
    match s1, s2 with
    | .inf false, _ => (unit, 0)
    | _, .inf true => (unit, 0)
    | _, _ => gate (s1.add false s2.negate)

/-! ### Stochastic registers (R64, R65) -/

/-- The seed of register j (R64). -/
def lfsrSeed (taskNo vt j : Nat) : Word :=
  let w := BitVec.ofNat 32 (taskNo * 1024 + vt * 64 + j)
  if w == 0 then 0xFFFFFFFF else w

/-- One advance (R65). -/
def lfsrNext (s : Word) : Word :=
  (s <<< 1) ||| ((s >>> 31 ^^^ s >>> 21 ^^^ s >>> 1 ^^^ s) &&& 1)

/-! ### CRC-32 (IEEE 802.3) -/

def crcBits : Nat → Word → Word
  | 0, c => c
  | n + 1, c => crcBits n (if c.getLsbD 0 then (c >>> 1) ^^^ 0xEDB88320 else c >>> 1)

def crcByte (c : Word) (b : Byte) : Word := crcBits 8 (c ^^^ b.setWidth 32)

/-- The CRC-32 of bytes. -/
def crc32 (l : List Byte) : Word := (l.foldl crcByte 0xFFFFFFFF) ^^^ 0xFFFFFFFF

end Sys2Proof.Machine
end

