-- ==== Sys2Proof/Syntax.lean ====
section
/-! DEFINITION. The instructions and events of the Sahuno, one constructor of `Instr` per row of spec/opcode_table.json:
rule words (spec/04_encoding.md R79-R89), engine command words (R90-R94), and the events of the part, which have no
encoding and whose operands say where they happen and what the outside supplies. -/

namespace Sys2Proof

/-! ### Fields of a rule word -/

/-- The trigger of a rule (R39, R80). -/
inductive Trig where
  | alw
  | pt (n : Fin 8)
  | pf (n : Fin 8)
  | tok (c : Fin 4)
  | ctl (c : Fin 4)
  | dend (c : Fin 4)
  | endc (c : Fin 4)
  | tag (c : Fin 4)
  | null (c : Fin 4)
  | rdy (o : Fin 4)
  deriving DecidableEq, Repr

/-- A DST field that names a destination (R40, R82). `pred` is code 12, `none` code 13. -/
inductive Dst where
  | d (n : Fin 8)
  | o (n : Fin 4)
  | pred
  | none
  deriving DecidableEq, Repr

/-- An SA field that names a source (R40, R82). -/
inductive SrcA where
  | d (n : Fin 8)
  | deq (c : Fin 4)
  | peek (c : Fin 4)
  deriving DecidableEq, Repr

/-- An SB field that names a source (R40, R82). -/
inductive SrcB where
  | d (n : Fin 8)
  | deq (c : Fin 4)
  | k (n : Fin 4)
  deriving DecidableEq, Repr

/-- DIMC, the dim-end bits of the result (R83). -/
inductive DimC where
  | none
  | a
  | b
  | ab
  deriving DecidableEq, Repr

/-- The scope of an access, in widening order (R41). -/
inductive Scope where
  | elem
  | tile
  | group
  | region
  | device
  | span
  deriving DecidableEq, Repr

/-- The order field of an access (R41, R171). -/
inductive Order where
  | rlx
  | acq
  | rel
  | acqrel
  deriving DecidableEq, Repr

/-- The size field of LDP and STP (R85). -/
inductive Size where
  | byte
  | half
  | word
  deriving DecidableEq, Repr

/-- Two-source register form (R83). -/
structure Ea2 where
  trig : Trig
  dst : Dst
  sa : SrcA
  sb : SrcB
  pd : Fin 8
  pw : Bool
  ctag : Bool
  dim : DimC
  deriving DecidableEq, Repr

/-- One-source register form (R83; SB unused). -/
structure Ea1 where
  trig : Trig
  dst : Dst
  sa : SrcA
  pd : Fin 8
  pw : Bool
  ctag : Bool
  dim : DimC
  deriving DecidableEq, Repr

/-- IMM11 form (R84): ADDI, ANDI, ORI, XORI. -/
structure Ei where
  trig : Trig
  dst : Dst
  sa : SrcA
  imm : BitVec 11
  deriving DecidableEq, Repr

/-- Immediate shifts (R129). -/
structure EiShift where
  trig : Trig
  dst : Dst
  sa : SrcA
  n : BitVec 5
  deriving DecidableEq, Repr

/-- BFX (R130). -/
structure EiBfx where
  trig : Trig
  dst : Dst
  sa : SrcA
  lo : BitVec 5
  wm1 : BitVec 5
  sx : Bool
  deriving DecidableEq, Repr

/-- IMM7 compares (R84, R132). -/
structure EiCmp where
  trig : Trig
  dst : Dst
  sa : SrcA
  imm : BitVec 7
  pd : Fin 8
  pw : Bool
  deriving DecidableEq, Repr

/-- Predicate instructions of two, one and no sources (R133). -/
structure Pr2 where
  trig : Trig
  pd : Fin 8
  pa : Fin 8
  pb : Fin 8
  deriving DecidableEq, Repr

structure Pr1 where
  trig : Trig
  pd : Fin 8
  pa : Fin 8
  deriving DecidableEq, Repr

structure Pr0 where
  trig : Trig
  pd : Fin 8
  deriving DecidableEq, Repr

/-- MOVI and MOVHI (R135). -/
structure EiMov where
  trig : Trig
  dst : Dst
  imm : BitVec 15
  deriving DecidableEq, Repr

/-- MOVK (R134). -/
structure EaMovk where
  trig : Trig
  dst : Dst
  k : Fin 4
  pd : Fin 8
  pw : Bool
  dim : DimC
  deriving DecidableEq, Repr

/-- DROP and REQ, which name one channel (R120, R137). -/
structure EaChan where
  trig : Trig
  c : Fin 4
  deriving DecidableEq, Repr

/-- ENDT (R138). -/
structure EiEndt where
  trig : Trig
  o : Fin 4
  level : Fin 5
  deriving DecidableEq, Repr

/-- SEL (R136). -/
structure EaSel where
  trig : Trig
  dst : Dst
  sa : SrcA
  sb : SrcB
  p : Fin 8
  ctag : Bool
  dim : DimC
  deriving DecidableEq, Repr

/-- GETS (R88, R122). -/
structure EiGets where
  trig : Trig
  dst : Dst
  sel : Fin 19
  deriving DecidableEq, Repr

/-- FMA, whose DST register is the addend (R144). -/
structure EaFma where
  trig : Trig
  d : Fin 8
  sa : SrcA
  sb : SrcB
  pd : Fin 8
  pw : Bool
  ctag : Bool
  dim : DimC
  deriving DecidableEq, Repr

/-- FCVT (R89, R145): format codes 0-7 and rounding codes 0-2. -/
structure EiFcvt where
  trig : Trig
  dst : Dst
  sa : SrcA
  src : Fin 8
  tgt : Fin 8
  rnd : Fin 3
  deriving DecidableEq, Repr

/-- LDP (R174). -/
structure EmLdp where
  trig : Trig
  dst : Dst
  sa : SrcA
  scope : Scope
  order : Order
  size : Size
  deriving DecidableEq, Repr

/-- STP (R174). -/
structure EmStp where
  trig : Trig
  dst : Dst
  sa : SrcA
  sb : SrcB
  scope : Scope
  order : Order
  size : Size
  deriving DecidableEq, Repr

/-- Loads through a tensor pointer (R174, R176). -/
structure EmLd where
  trig : Trig
  dst : Dst
  sa : SrcA
  scope : Scope
  order : Order
  deriving DecidableEq, Repr

/-- Stores, LDLINK, DISC and atomics: pointer and a second source (R174, R175, R182, R185). -/
structure EmSt where
  trig : Trig
  dst : Dst
  sa : SrcA
  sb : SrcB
  scope : Scope
  order : Order
  deriving DecidableEq, Repr

/-- ACAS, whose DST register is the compare value (R185). -/
structure EmCas where
  trig : Trig
  d : Fin 8
  sa : SrcA
  sb : SrcB
  scope : Scope
  order : Order
  deriving DecidableEq, Repr

/-- FENCE (R183). -/
structure EmFence where
  trig : Trig
  dst : Dst
  scope : Scope
  order : Order
  deriving DecidableEq, Repr

/-- PREF (R184). -/
structure EmPref where
  trig : Trig
  sa : SrcA
  scope : Scope
  deriving DecidableEq, Repr

/-- SEMADD and SEMSET (R427). -/
structure EiSem where
  trig : Trig
  sa : SrcA
  m : Fin 64
  deriving DecidableEq, Repr

/-- SEMWAIT (R427). -/
structure EiSemw where
  trig : Trig
  o : Fin 4
  sa : SrcA
  m : Fin 64
  deriving DecidableEq, Repr

/-- SEMRD (R427). -/
structure EiSemr where
  trig : Trig
  dst : Dst
  m : Fin 64
  deriving DecidableEq, Repr

/-- BARRIV (R433). -/
structure EiBar where
  trig : Trig
  g : Fin 16
  deriving DecidableEq, Repr

/-- BARWT and BARAW (R433). -/
structure EiBarw where
  trig : Trig
  o : Fin 4
  g : Fin 16
  deriving DecidableEq, Repr

/-- SPAWN (R409). -/
structure EaDa where
  trig : Trig
  dst : Dst
  sa : SrcA
  deriving DecidableEq, Repr

/-- FRES, BIND and REBIND: two sources, no destination (R322, R409). -/
structure EaAb where
  trig : Trig
  sa : SrcA
  sb : SrcB
  deriving DecidableEq, Repr

/-- FJOIN, CLOSE, UNBIND and SETS: one source, no destination. -/
structure EaA where
  trig : Trig
  sa : SrcA
  deriving DecidableEq, Repr

/-- FPOLL, FILL, OPEN and MKOBJ: destination, source and PD, PW. -/
structure EaDap where
  trig : Trig
  dst : Dst
  sa : SrcA
  pd : Fin 8
  pw : Bool
  deriving DecidableEq, Repr

/-- QUERY (R322). -/
structure EaQuery where
  trig : Trig
  dst : Dst
  sa : SrcA
  sb : SrcB
  pd : Fin 8
  pw : Bool
  deriving DecidableEq, Repr

/-- SEAL and PKRD: destination and PD, PW (R300, R302). -/
structure EaDp where
  trig : Trig
  dst : Dst
  pd : Fin 8
  pw : Bool
  deriving DecidableEq, Repr

/-- TRIGGER, TRET and DONE: only a trigger. -/
structure EaT where
  trig : Trig
  deriving DecidableEq, Repr

/-- The sources of ISSUE by its parameter count (R86). -/
inductive IssueArgs where
  | none
  | one (a : SrcA)
  | two (a : SrcA) (b : SrcB)
  deriving DecidableEq, Repr

/-- ISSUE (R42, R86). -/
structure ExIssue where
  trig : Trig
  eng : Fin 5
  idx : Fin 64
  args : IssueArgs
  deriving DecidableEq, Repr

/-- The parameters of ISSUEV by its count (R147). -/
inductive IssuevArgs where
  | none
  | one (a : SrcB)
  | two (a : SrcB) (b : Fin 8)
  deriving DecidableEq, Repr

/-- ISSUEV (R147). -/
structure ExIssuev where
  trig : Trig
  eng : Fin 5
  w : SrcA
  args : IssuevArgs
  deriving DecidableEq, Repr

/-- TRAP (R463). -/
structure EiTrap where
  trig : Trig
  cause : BitVec 8
  deriving DecidableEq, Repr

/-- EVCNT (R506). -/
structure EiEvcnt where
  trig : Trig
  sa : SrcA
  n : Fin 4
  deriving DecidableEq, Repr

/-! ### Fields of the engine command words -/

/-- The V-word without its opcode (R91). -/
structure VCmd where
  ba : Fin 8
  bb : Fin 8
  bo : Fin 8
  fmt : Fin 8
  rnd : Fin 4
  half : Bool
  cnt : BitVec 8
  deriving DecidableEq, Repr

/-- Activation and weight formats of a multiply (R92): codes of AF and WF. -/
structure MxPair where
  af : Fin 4
  wf : Fin 4
  deriving DecidableEq, Repr

/-- MXLD and MXLDT (R233): bank, source slot, weight format. -/
structure MxLd where
  bank : Fin 8
  src : Fin 6
  wf : Fin 4
  deriving DecidableEq, Repr

/-- MXEVICT and MXRES (R233). -/
structure MxBank where
  bank : Fin 8
  deriving DecidableEq, Repr

/-- MXMUL (R233): ASRC 6 is the pad operand; rows is M - 1. -/
structure MxMul where
  acc : Bool
  bank : Fin 8
  src : Fin 7
  fmts : MxPair
  rows : Fin 128
  deriving DecidableEq, Repr

/-- MXMULT (R233). -/
structure MxMult where
  acc : Bool
  src : Fin 6
  fmts : MxPair
  rows : Fin 128
  miss : Bool
  deriving DecidableEq, Repr

/-- A bank by number, or by the selector tag of each row, with MISSKIP (R92). -/
inductive BankSel where
  | bank (b : Fin 8)
  | tag (miss : Bool)
  deriving DecidableEq, Repr

/-- MXMULS (R233): `s8` is SPN. -/
structure MxMuls where
  acc : Bool
  sel : BankSel
  src : Fin 7
  fmts : MxPair
  rows : Fin 128
  s8 : Bool
  deriving DecidableEq, Repr

/-- MXGRAD (R233). -/
structure MxGrad where
  sel : BankSel
  src : Fin 5
  rows : Fin 128
  deriving DecidableEq, Repr

/-- MXGDRN (R233). -/
structure MxGdrn where
  keep : Bool
  bank : Fin 8
  deriving DecidableEq, Repr

/-- MXDRN (R233): source 6 is `-`. -/
structure MxDrn where
  keep : Bool
  src : Fin 7
  int : Bool
  rows : Fin 128
  deriving DecidableEq, Repr

/-- MXZERO (R233). -/
structure MxZero where
  grads : Bool
  rows : Fin 128
  deriving DecidableEq, Repr

/-- SWALK (R260). -/
structure SWalk where
  nest : Fin 8
  out : Fin 8
  deriving DecidableEq, Repr

/-- SBND (R260). -/
structure SBnd where
  nest : Fin 8
  level : Fin 5
  tok : Bool
  deriving DecidableEq, Repr

/-- SSTOP (R260). -/
structure SStop where
  nest : Fin 8
  deriving DecidableEq, Repr

/-- The completion semaphore of a copy command (R94). -/
structure CpySem where
  en : Bool
  m : Fin 64
  deriving DecidableEq, Repr

/-- CPY and CPYG (R265). -/
structure Cpy where
  nest : Fin 8
  inp : Fin 8
  out : Fin 8
  sem : CpySem
  zf : Bool
  deriving DecidableEq, Repr

/-- CPYS (R265). -/
structure CpyS where
  nest : Fin 8
  inp : Fin 8
  sem : CpySem
  zf : Bool
  deriving DecidableEq, Repr

/-- CPYW (R265). -/
structure CpyW where
  nest : Fin 8
  out : Fin 8
  sem : CpySem
  zf : Bool
  deriving DecidableEq, Repr

/-- CPYF and CPYX (R265). -/
structure CpyF where
  nest : Fin 8
  sem : CpySem
  zf : Bool
  deriving DecidableEq, Repr

/-- CPYB (R265). -/
structure CpyB where
  sem : CpySem
  deriving DecidableEq, Repr

/-! ### Operands of the events -/

/-- A node of a tile, by the port order of R283 and R189: the engines, the elements, the sequencer. -/
inductive Node where
  | matrix
  | vector
  | streamA
  | streamB
  | copy
  | elem (e : Fin 16)
  | seq
  deriving DecidableEq, Repr

/-- One copy of a virtual tile: TASKNO of its dispatch and virtual tile index (R123). -/
structure At where
  task : Nat
  vt : Fin 16
  deriving DecidableEq, Repr

/-- A host register that a plain write reaches; `grpcmd` and `hubcmd` stand for their reserved commands (R4, R457, R469, R477,
R503, R504, R509, R510, R517). -/
inductive HostReg where
  | ctxctl (ctx : Nat)
  | ctxquota (ctx : Nat)
  | pgaddr (ctx : Nat)
  | dirarg (ctx : Nat) (i : Fin 8)
  | dirsel (ctx : Nat)
  | kaddr (ctx : Nat)
  | dwsel (ctx : Nat)
  | grpcmd (ctx : Nat)
  | hubcmd
  | pwctl
  | routelo
  | routehi
  | lnkctl (n : Fin 8)
  | hubst
  | mbbuf (i : Fin 512)
  | evsel (region : Nat) (k : Fin 8)
  | evval (region : Nat) (k : Fin 8)
  | evselH (k : Fin 16)
  | evvalH (k : Fin 16)
  | reserved
  deriving DecidableEq, Repr

/-- The function a host access came through (R507, R508): the physical one, or virtual function id f. -/
inductive Via where
  | pf
  | vf (f : Fin 64)
  deriving DecidableEq, Repr

/-- A host access to a window of a context: the function it came through and the context it addresses (R508). -/
structure HostAt where
  via : Via
  ctx : Nat
  deriving DecidableEq, Repr

/-- The alarms of one period (R499). -/
structure Alarms where
  oc : Bool
  droop : Bool
  supin : Bool
  deriving DecidableEq, Repr

/-- What the power arbiter measures in one period (R494-R498): draw in W, demanded current in W at the rail, and the length
of the period in ns. -/
structure PowerSample where
  draw : Nat
  demand : Nat
  ns : Nat
  deriving DecidableEq, Repr

/-- One instruction or event of the Sahuno: a constructor per row of spec/opcode_table.json, in its order.
DESIGN CHOICE, log entry 84. -/
inductive Instr where
  /-- ADD (R124). -/
  | add (x : Ea2)
  /-- SUB (R124). -/
  | sub (x : Ea2)
  /-- ADDI (R126). -/
  | addi (x : Ei)
  /-- MUL (R124). -/
  | mul (x : Ea2)
  /-- MULH (R124). -/
  | mulh (x : Ea2)
  /-- MULHU (R124). -/
  | mulhu (x : Ea2)
  /-- MIN (R124). -/
  | min (x : Ea2)
  /-- MAX (R124). -/
  | max (x : Ea2)
  /-- MINU (R124). -/
  | minu (x : Ea2)
  /-- MAXU (R124). -/
  | maxu (x : Ea2)
  /-- ADDSH (R124). -/
  | addsh (x : Ea2)
  /-- ABSD (R124). -/
  | absd (x : Ea2)
  /-- ADDS (R124). -/
  | adds (x : Ea2)
  /-- SUBS (R124). -/
  | subs (x : Ea2)
  /-- NEG (R125). -/
  | neg (x : Ea1)
  /-- ABS (R125). -/
  | abs (x : Ea1)
  /-- AND (R128). -/
  | and (x : Ea2)
  /-- OR (R128). -/
  | or (x : Ea2)
  /-- XOR (R128). -/
  | xor (x : Ea2)
  /-- ANDN (R128). -/
  | andn (x : Ea2)
  /-- ANDI (R129). -/
  | andi (x : Ei)
  /-- ORI (R129). -/
  | ori (x : Ei)
  /-- XORI (R129). -/
  | xori (x : Ei)
  /-- SHL (R128). -/
  | shl (x : Ea2)
  /-- SHR (R128). -/
  | shr (x : Ea2)
  /-- SAR (R128). -/
  | sar (x : Ea2)
  /-- SHLI (R129). -/
  | shli (x : EiShift)
  /-- SHRI (R129). -/
  | shri (x : EiShift)
  /-- SARI (R129). -/
  | sari (x : EiShift)
  /-- CLZ (R128). -/
  | clz (x : Ea1)
  /-- POPC (R128). -/
  | popc (x : Ea1)
  /-- BFX (R130). -/
  | bfx (x : EiBfx)
  /-- CEQ (R131). -/
  | ceq (x : Ea2)
  /-- CNE (R131). -/
  | cne (x : Ea2)
  /-- CLT (R131). -/
  | clt (x : Ea2)
  /-- CLE (R131). -/
  | cle (x : Ea2)
  /-- CLTU (R131). -/
  | cltu (x : Ea2)
  /-- CLEU (R131). -/
  | cleu (x : Ea2)
  /-- CEQI (R132). -/
  | ceqi (x : EiCmp)
  /-- CLTI (R132). -/
  | clti (x : EiCmp)
  /-- CGTI (R132). -/
  | cgti (x : EiCmp)
  /-- PAND (R133). -/
  | pand (x : Pr2)
  /-- POR (R133). -/
  | por (x : Pr2)
  /-- PXOR (R133). -/
  | pxor (x : Pr2)
  /-- PNOT (R133). -/
  | pnot (x : Pr1)
  /-- PSET (R133). -/
  | pset (x : Pr0)
  /-- PCLR (R133). -/
  | pclr (x : Pr0)
  /-- PMOV (R133). -/
  | pmov (x : Pr1)
  /-- MOV (R134). -/
  | mov (x : Ea1)
  /-- MOVI (R135). -/
  | movi (x : EiMov)
  /-- MOVHI (R135). -/
  | movhi (x : EiMov)
  /-- MOVK (R134). -/
  | movk (x : EaMovk)
  /-- STEER (R139). -/
  | steer (x : Ea2)
  /-- MERGE (R140). -/
  | merge (x : Ea2)
  /-- CARRY (R141). -/
  | carry (x : Ea2)
  /-- DROP (R137). -/
  | drop (x : EaChan)
  /-- ENDT (R138). -/
  | endt (x : EiEndt)
  /-- TAGW (R134). -/
  | tagw (x : Ea2)
  /-- TAGR (R134). -/
  | tagr (x : Ea1)
  /-- DIMR (R134). -/
  | dimr (x : Ea1)
  /-- REQ (R120). -/
  | req (x : EaChan)
  /-- CNTUP (R142). -/
  | cntup (x : Ea2)
  /-- SEL (R136). -/
  | sel (x : EaSel)
  /-- GETS (R122). -/
  | gets (x : EiGets)
  /-- FADD (R144). -/
  | fadd (x : Ea2)
  /-- FSUB (R144). -/
  | fsub (x : Ea2)
  /-- FMUL (R144). -/
  | fmul (x : Ea2)
  /-- FMA (R144). -/
  | fma (x : EaFma)
  /-- FMAX (R144). -/
  | fmax (x : Ea2)
  /-- FMIN (R144). -/
  | fmin (x : Ea2)
  /-- FCLT (R144). -/
  | fclt (x : Ea2)
  /-- FCVT (R145). -/
  | fcvt (x : EiFcvt)
  /-- LDP (R174). -/
  | ldp (x : EmLdp)
  /-- STP (R174). -/
  | stp (x : EmStp)
  /-- LDT (R174). -/
  | ldt (x : EmLd)
  /-- STT (R174). -/
  | stt (x : EmSt)
  /-- LDLINK (R175). -/
  | ldlink (x : EmSt)
  /-- LDFE (R176). -/
  | ldfe (x : EmLd)
  /-- LDFEC (R176). -/
  | ldfec (x : EmLd)
  /-- STFE (R176). -/
  | stfe (x : EmSt)
  /-- DISC (R182). -/
  | disc (x : EmSt)
  /-- FENCE (R183). -/
  | fence (x : EmFence)
  /-- PREF (R184). -/
  | pref (x : EmPref)
  /-- AADD (R185). -/
  | aadd (x : EmSt)
  /-- AMAX (R185). -/
  | amax (x : EmSt)
  /-- AFMAX (R185). -/
  | afmax (x : EmSt)
  /-- AMIN (R185). -/
  | amin (x : EmSt)
  /-- AXCHG (R185). -/
  | axchg (x : EmSt)
  /-- ACAS (R185). -/
  | acas (x : EmCas)
  /-- AOR (R185). -/
  | aor (x : EmSt)
  /-- ARDRS (R185). -/
  | ardrs (x : EmSt)
  /-- SEMADD (R428). -/
  | semadd (x : EiSem)
  /-- SEMWAIT (R428). -/
  | semwait (x : EiSemw)
  /-- SEMSET (R428). -/
  | semset (x : EiSem)
  /-- SEMRD (R428). -/
  | semrd (x : EiSemr)
  /-- BARRIV (R433). -/
  | barriv (x : EiBar)
  /-- BARWT (R433). -/
  | barwt (x : EiBarw)
  /-- BARAW (R433). -/
  | baraw (x : EiBarw)
  /-- SPAWN (R410). -/
  | spawn (x : EaDa)
  /-- FRES (R412). -/
  | fres (x : EaAb)
  /-- FJOIN (R411). -/
  | fjoin (x : EaA)
  /-- FPOLL (R415). -/
  | fpoll (x : EaDap)
  /-- TRIGGER (R413). -/
  | trigger (x : EaT)
  /-- SEAL (R300). -/
  | seal (x : EaDp)
  /-- FILL (R301). -/
  | fill (x : EaDap)
  /-- PKRD (R302). -/
  | pkrd (x : EaDp)
  /-- OPEN (R323). -/
  | openName (x : EaDap)
  /-- CLOSE (R325). -/
  | close (x : EaA)
  /-- BIND (R326). -/
  | bind (x : EaAb)
  /-- UNBIND (R326). -/
  | unbind (x : EaA)
  /-- REBIND (R327). -/
  | rebind (x : EaAb)
  /-- QUERY (R328). -/
  | query (x : EaQuery)
  /-- MKOBJ (R324). -/
  | mkobj (x : EaDap)
  /-- ISSUE (R146). -/
  | issue (x : ExIssue)
  /-- ISSUEV (R147). -/
  | issuev (x : ExIssuev)
  /-- SETS (R463). -/
  | sets (x : EaA)
  /-- TRAP (R463). -/
  | trap (x : EiTrap)
  /-- TRET (R463). -/
  | tret (x : EaT)
  /-- DONE (R151). -/
  | done (x : EaT)
  /-- EVCNT (R506). -/
  | evcnt (x : EiEvcnt)
  /-- VADD (R202). -/
  | vadd (x : VCmd)
  /-- VSUB (R202). -/
  | vsub (x : VCmd)
  /-- VMUL (R202). -/
  | vmul (x : VCmd)
  /-- VFMA (R202). -/
  | vfma (x : VCmd)
  /-- VMIN (R202). -/
  | vmin (x : VCmd)
  /-- VMAX (R202). -/
  | vmax (x : VCmd)
  /-- VABS (R202). -/
  | vabs (x : VCmd)
  /-- VNEG (R202). -/
  | vneg (x : VCmd)
  /-- VSCL (R202). -/
  | vscl (x : VCmd)
  /-- VADDS (R202). -/
  | vadds (x : VCmd)
  /-- VEXP2 (R203). -/
  | vexp2 (x : VCmd)
  /-- VLOG2 (R203). -/
  | vlog2 (x : VCmd)
  /-- VRCP (R203). -/
  | vrcp (x : VCmd)
  /-- VRSQ (R203). -/
  | vrsq (x : VCmd)
  /-- VTANH (R203). -/
  | vtanh (x : VCmd)
  /-- VSIGM (R203). -/
  | vsigm (x : VCmd)
  /-- VCVT (R204). -/
  | vcvt (x : VCmd)
  /-- VQDP8 (R205). -/
  | vqdp8 (x : VCmd)
  /-- VSPC (R206). -/
  | vspc (x : VCmd)
  /-- VSPX (R207). -/
  | vspx (x : VCmd)
  /-- VRSUM (R208). -/
  | vrsum (x : VCmd)
  /-- VRMAX (R208). -/
  | vrmax (x : VCmd)
  /-- VRAMAX (R208). -/
  | vramax (x : VCmd)
  /-- VRDRN (R208). -/
  | vrdrn (x : VCmd)
  /-- VCMP (R210). -/
  | vcmp (x : VCmd)
  /-- VSEL (R211). -/
  | vsel (x : VCmd)
  /-- VPERM (R212). -/
  | vperm (x : VCmd)
  /-- VBCAST (R212). -/
  | vbcast (x : VCmd)
  /-- VZIP (R213). -/
  | vzip (x : VCmd)
  /-- VUZP (R213). -/
  | vuzp (x : VCmd)
  /-- VTOP2 (R214). -/
  | vtop2 (x : VCmd)
  /-- VTAGS (R215). -/
  | vtags (x : VCmd)
  /-- VHEAP (R218). -/
  | vheap (x : VCmd)
  /-- VHDRN (R219). -/
  | vhdrn (x : VCmd)
  /-- VCNT (R221). -/
  | vcnt (x : VCmd)
  /-- VSCAN (R209). -/
  | vscan (x : VCmd)
  /-- MXLD (R239). -/
  | mxld (x : MxLd)
  /-- MXLDT (R240). -/
  | mxldt (x : MxLd)
  /-- MXEVICT (R242). -/
  | mxevict (x : MxBank)
  /-- MXRES (R241). -/
  | mxres (x : MxBank)
  /-- MXMUL (R243). -/
  | mxmul (x : MxMul)
  /-- MXMULT (R243). -/
  | mxmult (x : MxMult)
  /-- MXMULS (R243). -/
  | mxmuls (x : MxMuls)
  /-- MXGRAD (R247). -/
  | mxgrad (x : MxGrad)
  /-- MXGDRN (R248). -/
  | mxgdrn (x : MxGdrn)
  /-- MXDRN (R249). -/
  | mxdrn (x : MxDrn)
  /-- MXZERO (R250). -/
  | mxzero (x : MxZero)
  /-- SWALK (R261). -/
  | swalk (x : SWalk)
  /-- SBND (R262). -/
  | sbnd (x : SBnd)
  /-- SSTOP (R263). -/
  | sstop (x : SStop)
  /-- CPY (R271). -/
  | cpy (x : Cpy)
  /-- CPYG (R272). -/
  | cpyg (x : Cpy)
  /-- CPYS (R272). -/
  | cpys (x : CpyS)
  /-- CPYW (R273). -/
  | cpyw (x : CpyW)
  /-- CPYF (R275). -/
  | cpyf (x : CpyF)
  /-- CPYB (R276). -/
  | cpyb (x : CpyB)
  /-- CPYX (R277). -/
  | cpyx (x : CpyF)
  /-- TOKEN_ARRIVAL (R108). -/
  | tokenArrival (task edge : Nat)
  /-- PULL_REQUEST_ARRIVAL (R119). -/
  | pullRequestArrival (l : At) (e : Fin 16) (c : Fin 4)
  /-- LOAD_REPLY (R166). -/
  | loadReply (id : Nat)
  /-- ATOMIC_REPLY (R185). -/
  | atomicReply (id : Nat)
  /-- STORE_COMPLETION (R172). -/
  | storeCompletion (id : Nat)
  /-- DIRECTORY_REPLY (R322). -/
  | directoryReply (id : Nat)
  /-- FILL_GRANT (R301). -/
  | fillGrant (id : Nat)
  /-- PKRD_REPLY (R302). -/
  | pkrdReply (id : Nat)
  /-- FPOLL_REPLY (R415). -/
  | fpollReply (id : Nat)
  /-- SEMWAIT_ANSWER (R428). -/
  | semwaitAnswer (id : Nat)
  /-- BARRIER_ANSWER (R432). -/
  | barrierAnswer (id : Nat)
  /-- IMPLICIT_SEAL (R294). -/
  | implicitSeal (l : At)
  /-- COMMAND_BEGIN (R148). -/
  | commandBegin (l : At) (n : Node)
  /-- VECTOR_TOKEN_STEP (R194). -/
  | vectorTokenStep (l : At)
  /-- MATRIX_ROW_STEP (R243). -/
  | matrixRowStep (l : At)
  /-- MATRIX_LOAD_TOKEN (R239). -/
  | matrixLoadToken (l : At)
  /-- STREAM_TOKEN (R257). -/
  | streamToken (l : At) (n : Node)
  /-- COPY_UNIT (R267). -/
  | copyUnit (l : At)
  /-- COPY_COMPLETION (R270). -/
  | copyCompletion (l : At)
  /-- BOX_COMPLETE (R276). -/
  | boxComplete (l : At)
  /-- RIDGELINE_TRANSFER (R525). -/
  | ridgelineTransfer (task edge : Nat)
  /-- TRANSLATION_FILL (R161). -/
  | translationFill (tile : Nat) (i : Nat)
  /-- PAGE_WALK (R338). -/
  | pageWalk (region : Nat) (i : Nat)
  /-- PAGE_FAULT (R348). -/
  | pageFault (task : Nat)
  /-- VAULT_PORT_SERVE (R19). -/
  | vaultPortServe (id : Nat)
  /-- PAGE_MOVE_DONE (R344). -/
  | pageMoveDone (obj page : Nat)
  /-- ATOMIC_ENGINE_SERVE (R190). -/
  | atomicEngineServe (region : Nat) (arrivals : List Nat)
  /-- HOT_LINE_FETCH (R190). -/
  | hotLineFetch (region line : Nat)
  /-- SYNC_UNIT_SERVE (R421). -/
  | syncUnitServe (region : Nat) (arrivals : List Nat)
  /-- DIRECTORY_SERVE (R312). -/
  | directoryServe (id : Nat)
  /-- OBJECT_FREED (R315). -/
  | objectFreed (obj : Nat)
  /-- DISPATCH_DECISION (R417). -/
  | dispatchDecision
  /-- IMAGE_FETCH_DONE (R369). -/
  | imageFetchDone (region : Nat) (slot : Fin 4)
  /-- TILE_ARM (R373). -/
  | tileArm (l : At)
  /-- START (R374). -/
  | start (l : At) (n : Node)
  /-- FLUSH (R376). -/
  | flush (l : At) (n : Node)
  /-- CRST (R376). -/
  | crst (l : At) (n : Node)
  /-- CTXSW (R376). -/
  | ctxsw (l : At) (n : Node)
  /-- RECFG (R382). -/
  | recfg (l : At) (kid : Nat)
  /-- HALTC (R376). -/
  | haltc (l : At) (n : Node)
  /-- DRAIN (R389). -/
  | drain (l : At)
  /-- KSET (R380). -/
  | kset (l : At) (e : Fin 16) (c : Fin 4)
  /-- CAIRN_SEED (R384). -/
  | cairnSeed (task : Nat)
  /-- CAIRN_PASSAGE (R385). -/
  | cairnPassage (l : At) (n : Node)
  /-- CUT_COMPLETE (R297). -/
  | cutComplete (task : Nat)
  /-- COMMIT (R395). -/
  | commit (task : Nat)
  /-- SHORTFALL (R303). -/
  | shortfall (task : Nat)
  /-- GROUP_FAULT (R466). -/
  | groupFault (task : Nat)
  /-- GROUP_HALT (R389). -/
  | groupHalt (task : Nat)
  /-- DRAIN_COMPLETE (R389). -/
  | drainComplete (task : Nat)
  /-- FOLD (R391). -/
  | fold (task : Nat) (four : Bool)
  /-- FOLD_SWAP (R392). -/
  | foldSwap (task host : Nat)
  /-- UNFOLD (R393). -/
  | unfold (task : Nat)
  /-- WATCHDOG_EXPIRY (R470). -/
  | watchdogExpiry (task ticks : Nat)
  /-- REMOTE_RETRAIN_EXPIRY (R470). -/
  | remoteRetrainExpiry (task : Nat)
  /-- STORE_BUILD (R285). -/
  | storeBuild (l : At)
  /-- STORE_UNDERRUN (R288). -/
  | storeUnderrun (l : At)
  /-- ARBITRATION_PERIOD (R494). -/
  | arbitrationPeriod (x : PowerSample)
  /-- POWER_ALARM (R499). -/
  | powerAlarm (x : Alarms)
  /-- EMERGENCY_EXIT (R501). -/
  | emergencyExit
  /-- RAIL_REMOVED (R501). -/
  | railRemoved
  /-- POWER_ON (R512). -/
  | powerOn
  /-- PART_RESET (R519). -/
  | partReset
  /-- SHOCK_EVENT (R517). -/
  | shockEvent (g : Nat)
  /-- LAUNCH (R400). -/
  | launch (h : HostAt) (bytes : List Byte)
  /-- QDESC_WRITE (R402). -/
  | qdescWrite (h : HostAt) (q : Fin 16) (w : Dword)
  /-- ACCADD (R458). -/
  | accadd (h : HostAt) (w : Dword)
  /-- HOST_SEM_WRITE (R426). -/
  | hostSemWrite (h : HostAt) (m : Fin 64) (w : Dword)
  /-- FQIDX_WRITE (R468). -/
  | fqidxWrite (h : HostAt) (w : Dword)
  /-- RESUME (R469). -/
  | resume (h : HostAt) (task : Word)
  /-- REQUEUE (R469). -/
  | requeue (h : HostAt) (task : Word)
  /-- ABORT (R469). -/
  | abort (h : HostAt) (task : Word)
  /-- HALT (R469). -/
  | halt (h : HostAt) (task : Word)
  /-- PREEMPT (R469). -/
  | preempt (h : HostAt) (task : Word)
  /-- PGIN (R347). -/
  | pgin (h : HostAt) (w : Dword)
  /-- PGOUT (R347). -/
  | pgout (h : HostAt) (w : Dword)
  /-- PGUNPIN (R347). -/
  | pgunpin (h : HostAt) (w : Dword)
  /-- PGREAD (R347). -/
  | pgread (h : HostAt) (w : Dword)
  /-- HOST_OPEN (R331). -/
  | hostOpen (h : HostAt) (w : Dword)
  /-- HOST_CLOSE (R331). -/
  | hostClose (h : HostAt) (w : Dword)
  /-- HOST_BIND (R331). -/
  | hostBind (h : HostAt) (w : Dword)
  /-- HOST_UNBIND (R331). -/
  | hostUnbind (h : HostAt) (w : Dword)
  /-- HOST_REBIND (R331). -/
  | hostRebind (h : HostAt) (w : Dword)
  /-- HOST_QUERY (R331). -/
  | hostQuery (h : HostAt) (w : Dword)
  /-- HOST_MKOBJ (R331). -/
  | hostMkobj (h : HostAt) (w : Dword)
  /-- DIRENT_READ (R510). -/
  | direntRead (h : HostAt)
  /-- KERNEL_REGISTER (R368). -/
  | kernelRegister (h : HostAt) (kid : Nat)
  /-- KERNEL_UNLOAD (R368). -/
  | kernelUnload (h : HostAt) (kid : Nat)
  /-- APERTURE_READ (R511). -/
  | apertureRead (h : HostAt) (off : Nat)
  /-- APERTURE_WRITE (R511). -/
  | apertureWrite (h : HostAt) (off : Nat) (w : Word)
  /-- DEFINE_CONTEXT (R454). -/
  | defineContext (ctx : Nat) (fn : Fin 64)
  /-- UNDEFINE_CONTEXT (R454). -/
  | undefineContext (ctx : Nat)
  /-- RESET_FUNCTION (R472). -/
  | resetFunction (fn : Fin 64)
  /-- INITIATE_FUNCTION_LEVEL_RESET (R472). -/
  | initiateFunctionLevelReset (fn : Fin 64)
  /-- SPRING_CHECK (R518). -/
  | springCheck
  /-- SPRING_CHECK_DONE (R518). -/
  | springCheckDone (fenced : Dword) (router : Bool)
  /-- ATTEST (R513). -/
  | attest
  /-- KEYLOAD (R514). -/
  | keyload (w : Dword)
  /-- KEYDROP (R514). -/
  | keydrop (w : Dword)
  /-- SPAN (R515). -/
  | span
  /-- RECOVER (R516). -/
  | recover
  /-- BOOTST (R516). -/
  | bootst
  /-- LINK_RETRAIN (R483). -/
  | linkRetrain (n : Fin 8)
  /-- LINK_RESET (R483). -/
  | linkReset (n : Fin 8)
  /-- PARK (R501). -/
  | park (w : Dword)
  /-- UNPARK (R501). -/
  | unpark (w : Dword)
  /-- PWCAUSE_CLEAR (R500). -/
  | pwcauseClear (w : Dword)
  /-- REGISTER_WRITE (R4). -/
  | registerWrite (via : Via) (r : HostReg) (w : Dword)
  /-- LINK_TRAINING_DONE (R483). -/
  | linkTrainingDone (n : Fin 8) (lanes : Fin 9)
  /-- LANE_LOST (R483). -/
  | laneLost (n : Fin 8)
  /-- LINK_RETRAIN_TIMEOUT (R483). -/
  | linkRetrainTimeout (n : Fin 8)
  /-- FLIT_RECEIVE (R481). -/
  | flitReceive (n : Fin 8) (bytes : List Byte)
  /-- FLIT_APPLY (R488). -/
  | flitApply (src : Fin 16)
  /-- CLOCK_PROBE (R488). -/
  | clockProbe (src : Fin 16)
  /-- PROBE_ANSWER (R488). -/
  | probeAnswer (src : Fin 16)
  /-- WRITE_APPLIED (R490). -/
  | writeApplied (src : Fin 16)
  /-- FUNCTION_LEVEL_RESET_COMPLETE (R472). -/
  | functionLevelResetComplete (fn : Fin 64)
  deriving DecidableEq, Repr

end Sys2Proof
end

