-- ==== Sys2Proof/Machine/Types.lean ====
section
/-! DEFINITION. The data types of the state: images, tokens, the units of a tile, requests, groups, tasks, the
directory, region blocks, contexts, links, power and security. Plain data only. -/

namespace Sys2Proof.Machine

/-! ### Kernel images (spec/13_kernels.md) -/

/-- The count of a nest level (R47). -/
inductive Count where
  | num (n : Nat)
  | pa
  | pb
  deriving DecidableEq, Repr, Inhabited

/-- A level of a nest (R47). -/
structure Level where
  axis : Option (Fin 4) := none
  count : Count := .num 0
  step : Int := 1
  deriving DecidableEq, Repr, Inhabited

/-- The handle of a nest (R47). -/
inductive NestHandle where
  | h (n : Nat)
  | pa
  | pb
  deriving DecidableEq, Repr, Inhabited

/-- A nest of the image (R47), levels innermost first. -/
structure Nest where
  handle : NestHandle := .h 0
  fmt : Nat := 0
  levels : List Level := []
  endTok : Bool := false
  deriving DecidableEq, Repr, Inhabited

/-- A buffer descriptor (R46). -/
structure BufDesc where
  base : Nat := 0
  tokens : Nat := 0
  wide : Bool := false
  fmt : Nat := 0
  deriving DecidableEq, Repr, Inhabited

/-- A route endpoint (R44, R366); `cmd`: an engine's command port, which its ISSUE rules reach without a token (R42). -/
inductive Ep where
  | out (vt : Fin 16) (e : Fin 16) (o : Fin 4)
  | inp (vt : Fin 16) (e : Fin 16) (c : Fin 4)
  | buf (vt : Fin 16) (b : Fin 32)
  | bnd (vt : Fin 16) (n : Fin 3)
  | mst (vt : Fin 16)
  | cmd (vt : Fin 16) (eng : Fin 5)
  deriving DecidableEq, Repr, Inhabited

/-- An edge of the image (R356), with the pull mark of R117. -/
structure Edge where
  src : Ep := .mst 0
  dst : Ep := .mst 0
  pull : Bool := false
  deriving DecidableEq, Repr, Inhabited

/-- The target of an `.init` (R45). -/
inductive InitTarget where
  | d (n : Fin 8)
  | p (n : Fin 8)
  | k (n : Fin 4)
  | i (n : Fin 4)
  deriving DecidableEq, Repr, Inhabited

/-- The value of an `.init` (R45). -/
inductive InitVal where
  | num (w : Word)
  | arg (n : Fin 8)
  deriving DecidableEq, Repr, Inhabited

structure InitRec where
  elem : Fin 16 := 0
  target : InitTarget := .d 0
  value : InitVal := .num 0
  deriving DecidableEq, Repr, Inhabited

/-- The sections of one tile under one alternative (R355). `setsSlots`: its SLOTS section is its own, not the base's; `offs`: byte offsets
of its sections in the image, by type; `initAt`: those of its `.init` records; `host`: the tile that its report names (R364). -/
structure TileCfg where
  slots : Vector (Vector Word 40) 16 := Vector.replicate 16 (Vector.replicate 40 0xFFFFFFFF)
  inits : List InitRec := []
  stages : List Nat := []
  bufs : List (Option BufDesc) := []
  ports : List (Option Nat) := []
  nests : List (Option Nest) := []
  cmds : Vector Word 64 := Vector.replicate 64 0
  setsSlots : Bool := true
  offs : Assoc Nat := []
  initAt : List Nat := []
  host : Nat := 0
  deriving DecidableEq, Repr, Inhabited

/-- The header of an image (R352) and its parts; swap orders by host tile (R392); `edgeAt`: byte offsets of the edge
records in the image (R364). -/
structure Image where
  kid : Nat := 0
  gw : Nat := 1
  gh : Nat := 1
  p : Nat := 0
  staged : Nat := 0
  pad : Nat := 0
  owns : BitVec 64 := 0
  sems : BitVec 64 := 0
  bars : BitVec 16 := 0
  dregs : Nat := 0
  bufn : Nat := 0
  folds : BitVec 2 := 0
  tiles : Assoc TileCfg := []
  alt2 : Assoc TileCfg := []
  alt4 : Assoc TileCfg := []
  edges : List Edge := []
  edges2 : List Edge := []
  edges4 : List Edge := []
  edgeAt : List Nat := []
  edgeAt2 : List Nat := []
  edgeAt4 : List Nat := []
  order2 : Assoc (List Nat) := []
  order4 : Assoc (List Nat) := []
  deriving DecidableEq, Repr, Inhabited

/-! ### Tokens, channels and elements (spec/05_elements.md) -/

/-- A channel token (R96): sideband, value, and the outstanding accesses the value is derived from (R437). -/
structure Tok where
  side : Side := 0
  val : Word := 0
  deps : List Nat := []
  deriving DecidableEq, Repr, Inhabited

/-- A buffer token (R51, R96). -/
structure Wtok where
  side : Side := 0
  val : Line := 0
  deps : List Nat := []
  deriving DecidableEq, Repr, Inhabited

/-- An input channel (R108, R118): tokens held, tokens of this step that arrive at its end, requests sent and not yet
at the producer. `stood`: a KSET stood at its head as the step of its tile began, and is applied as it ends (R380). -/
structure Chan where
  toks : List Tok := []
  incoming : List Tok := []
  reqs : Nat := 0
  stood : Bool := false
  deriving DecidableEq, Repr, Inhabited

/-- What an output channel still owes, in firing order (R168); `bar`: the token of a request that holds back its element until it is
written (R183, R433, R434). -/
inductive Owed where
  | tok (t : Tok)
  | bar (t : Tok) (id : Nat)
  | wait (id : Nat)
  deriving DecidableEq, Repr, Inhabited

/-- A pending continuation (R410). -/
structure Cont where
  spawn : Nat := 0
  taken : Nat := 0
  slots : Nat := 0
  deriving DecidableEq, Repr, Inhabited

/-- An element (R12, R121). `past`: the accesses that it has fired and those that they derive from, while they are in flight (R446).
`barWait`: the barrier wait whose token is not yet written (R434); `portBlock`: the FENCEs and barrier waits that close the memory port
until their tokens are written (R183, R433). -/
structure Elem where
  slots : Vector Word 40 := Vector.replicate 40 0xFFFFFFFF
  d : Vector Word 8 := Vector.replicate 8 0
  p : BitVec 8 := 0
  k : Vector Word 4 := Vector.replicate 4 0
  inq : Vector Chan 4 := Vector.replicate 4 {}
  outq : Vector (List Owed) 4 := Vector.replicate 4 []
  pulls : Vector Nat 4 := Vector.replicate 4 0
  pend : BitVec 8 := 0
  carry : BitVec 40 := 0
  esw : Word := 0
  done : Bool := false
  ac : Vector Word 16 := Vector.replicate 16 0
  part : BitVec 16 := 0
  barWait : Option Nat := none
  portBlock : List Nat := []
  cont : Option Cont := none
  badWord : Option Nat := none
  past : List Nat := []
  dDeps : Vector (List Nat) 8 := Vector.replicate 8 []
  pDeps : Vector (List Nat) 8 := Vector.replicate 8 []
  deriving DecidableEq, Repr, Inhabited

/-! ### Engines (spec/07_vector.md, 08_matrix.md, 09_streams.md) -/

/-- A command at an engine: word, parameters, the table index that sent it (63 when built by ISSUEV). -/
structure Cmd where
  word : Word := 0
  a : Word := 0
  b : Word := 0
  idx : Nat := 63
  deps : List Nat := []
  deriving DecidableEq, Repr, Inhabited

/-- Kind of an accumulator (R200). -/
inductive VKind where
  | sum
  | max
  | amax
  deriving DecidableEq, Repr, Inhabited

structure Vacc where
  lanes : Vector Word 16 := Vector.replicate 16 0
  kind : VKind := .sum
  isFloat : Bool := false
  deriving DecidableEq, Repr, Inhabited

/-- A vector command in progress (R194): tokens left, the step-held operand, lanes gathered and not yet written, the
sidebands of the tokens being gathered (`side0`, `dims` for BO, `gside`, `gdims` for a group of VSPC), the row state of
VTOP2, and whether the first of the two steps of a half-width token step is done (R198). -/
structure VRun where
  cmd : Cmd := {}
  left : Nat := 0
  held : Option Line := none
  lanesIn : List Nat := []
  lanesOut : List Nat := []
  side0 : Option Side := none
  dims : Side := 0
  gside : Option Side := none
  gdims : Side := 0
  row : List (Nat × Nat) := []
  lane : Nat := 0
  deps : List Nat := []
  paid : Bool := false
  deriving DecidableEq, Repr, Inhabited

/-- The vector node (R192-R200, R64). -/
structure Vec where
  run : Option VRun := none
  wait : Option Cmd := none
  va : Vector Vacc 4 := Vector.replicate 4 {}
  lfsr : Vector Word 64 := Vector.replicate 64 0
  deriving DecidableEq, Repr, Inhabited

/-- State of a bank (R224). -/
inductive BankSt where
  | empty
  | loading
  | resident
  | leaving
  deriving DecidableEq, Repr, Inhabited

/-- A weight bank (R222, R224): planes keyed by row × 64 + column, masks by group × 64 + column, scales by column. -/
structure Bank where
  w : Assoc Word := []
  mask : Assoc Word := []
  scale : Assoc Byte := []
  grad : Assoc Word := []
  expid : BitVec 16 := 0
  gen : BitVec 4 := 0
  st : BankSt := .empty
  rsv : Bool := false
  hold : Bool := false
  readers : Nat := 0
  km1 : Nat := 0
  nm1 : Nat := 0
  sp : Nat := 0
  wfmt : Nat := 0
  owedEvict : Bool := false
  deriving DecidableEq, Repr, Inhabited

/-- The load lane (R239, R240): whether LOADING was entered, tokens taken of the present part, values gathered. -/
structure MLoad where
  cmd : Cmd := {}
  entered : Bool := false
  col : Nat := 0
  got : List Nat := []
  masks : List Nat := []
  scales : Nat := 0
  finished : Bool := false
  deriving DecidableEq, Repr, Inhabited

/-- The compute lane (R243-R250): `begun` once the bank check has passed, rows done and skipped, tokens written of the row
being drained, its steering, the last token kept back until the next is known, and the END that ended the command. -/
structure MComp where
  cmd : Cmd := {}
  begun : Bool := false
  row : Nat := 0
  skip : Nat := 0
  tok : Nat := 0
  steer : Option Nat := none
  kept : Option (Nat × Wtok) := none
  finished : Bool := false
  told : Bool := false
  endTok : Option Tok := none
  deriving DecidableEq, Repr, Inhabited

/-- Who waits for a status token to be written: a lane, or nobody (R251). -/
inductive Teller where
  | load
  | comp
  | late
  deriving DecidableEq, Repr, Inhabited

/-- A token that waits for the status route: its place among the events of the node, by step and by kind (R524). -/
structure Told where
  key : Nat := 0
  who : Teller := .late
  tok : Tok := {}
  deriving DecidableEq, Repr, Inhabited

/-- The matrix node (R222). `status`: tokens for the status route, in the order of their events (R524); `paid`: the immediate command that
waits has taken its debit. -/
structure Mat where
  banks : Vector Bank 8 := Vector.replicate 8 {}
  acc : Assoc Word := []
  sbank : Fin 8 := 0
  load : Option MLoad := none
  comp : Option MComp := none
  wait : Option Cmd := none
  paid : Bool := false
  status : List Told := []
  deriving DecidableEq, Repr, Inhabited

/-- A bound source (R256). -/
inductive BSrc where
  | image
  | param
  | fixed (n : Nat)
  | token
  deriving DecidableEq, Repr, Inhabited

/-- The progress of a walk (R257): index and bound in force of each level, innermost first; `fresh` counts the levels,
from the innermost, whose pass has still to begin. -/
structure Walk where
  idx : Vector Nat 5 := Vector.replicate 5 0
  bnd : Vector Nat 5 := Vector.replicate 5 0
  fresh : Nat := 5
  atEnd : Bool := false
  deriving DecidableEq, Repr, Inhabited

/-- A running stream command, with the reads of remote elements that its next token waits for. -/
structure SRun where
  cmd : Cmd := {}
  walk : Walk := {}
  stopped : Bool := false
  reads : List Nat := []
  deriving DecidableEq, Repr, Inhabited

/-- Where a lane of a position is read: nothing moves, zero fill, a value, a place of an object. -/
inductive MSrc where
  | skip
  | zero
  | lit (v : Nat)
  | at (obj byte handle : Nat)
  deriving DecidableEq, Repr, Inhabited

/-- One position that a unit has still to take: its lanes with their destinations, and the sideband of the token it
writes, if it writes one. -/
structure Move where
  lanes : List (MSrc × Option (Nat × Nat × Nat)) := []
  out : Option Side := none
  deps : List Nat := []
  deriving DecidableEq, Repr, Inhabited

/-- A word or element of a tensor object: object, byte offset in its storage (R160), and the handle that named it. -/
structure Loc where
  obj : Nat := 0
  byte : Nat := 0
  handle : Nat := 0
  deriving DecidableEq, Repr, Inhabited

/-- A running copy command: whether its record was read, the walk, the index k and index token of CPYG and CPYS, whether
the list ended, the box j and byte of CPYB with the record's three words, the positions of the unit in progress, the cells
that its write flits will carry (object, byte, handle, value), the elements that its read flits have brought, the reads that the next of
them waits for, the writes not yet performed. -/
structure CRun where
  cmd : Cmd := {}
  walk : Walk := {}
  k : Nat := 0
  ix : Option Wtok := none
  lastIx : Bool := false
  box : Nat := 0
  byte : Nat := 0
  rcd : Word × Word × Word := (0, 0, 0)
  atEnd : Bool := false
  moves : List Move := []
  cells : List (Nat × Nat × Nat × Byte) := []
  got : List (Loc × Nat) := []
  reads : List Nat := []
  writes : List Nat := []
  deriving DecidableEq, Repr, Inhabited

/-- A stream engine (R256, R279); bound sets keyed by nest × 5 + level. -/
structure Stream where
  run : Option SRun := none
  wait : Option Cmd := none
  bnds : Assoc BSrc := []
  bnd : Chan := {}
  deriving DecidableEq, Repr, Inhabited

/-- The copy engine (R265, R279). -/
structure Copy where
  run : Option CRun := none
  wait : Option Cmd := none
  bnds : Assoc BSrc := []
  bnd : Chan := {}
  deriving DecidableEq, Repr, Inhabited

/-! ### Requests -/

/-- Atomic operations (R185). -/
inductive AtOp where
  | add
  | max
  | fmax
  | min
  | xchg
  | cas (old : Word)
  | or
  | reset
  deriving DecidableEq, Repr, Inhabited

/-- Full-empty requests (R177). -/
inductive FeOp where
  | ldfe
  | ldfec
  | stfe (v : Word)
  deriving DecidableEq, Repr, Inhabited

/-- Semaphore requests (R428). -/
inductive SemOp where
  | add (a : Word)
  | set (a : Word)
  | host (v : Word) (sat : Bool)
  | rd
  | wait (a : Word)
  deriving DecidableEq, Repr, Inhabited

/-- Barrier requests (R433): arrival count, wait target (none: GEN + 1 at service). -/
inductive BarOp where
  | arrive (n : Word)
  | wait (t : Option Word)
  | both (n : Word)
  deriving DecidableEq, Repr, Inhabited

/-- Directory requests (R322). -/
inductive DirOp where
  | open_ (name : Word) (probe : Bool)
  | query (obj : Nat) (sel : Nat)
  | mkobj (desc : Nat) (probe : Bool)
  deriving DecidableEq, Repr, Inhabited

/-- Future requests (R406, R415). A join names the waiter and the TASKNO of the first instance of its spread, for a task of another die
with that die's number plus 1 above 32 bits. -/
inductive FutOp where
  | join (waiter no : Nat)
  | resolve (v : Nat)
  | fault (c : Nat)
  | poll
  deriving DecidableEq, Repr, Inhabited

/-- What a request asks of its unit. `put`: a write flit; `rds`: the elements of n bytes that a
read flit of CPYX asks for (R277); `hub`: a staged entry that the hub applies (R297). -/
inductive Req where
  | padRd (vt : Fin 16) (off : Nat) (n : Nat)
  | padWr (vt : Fin 16) (off : Nat) (n : Nat) (v : Word)
  | rd (l : Loc) (fmt : Fmt)
  | wr (l : Loc) (n : Nat) (v : Nat)
  | atom (l : Loc) (op : AtOp) (b : Word)
  | fe (l : Loc) (op : FeOp)
  | disc (l : Loc) (count : Nat)
  | fence
  | sem (ctx : Nat) (m : Fin 64) (op : SemOp)
  | bar (g : Fin 16) (op : BarOp)
  | dir (op : DirOp)
  | fut (l : Loc) (op : FutOp)
  | put (l : Loc) (cells : List (Nat × Byte))
  | rds (places : List Loc) (n : Nat)
  | fill (asked : Nat)
  | pkrd
  | hub
  deriving DecidableEq, Repr, Inhabited

/-- Where a reply goes. -/
inductive Dest where
  | none
  | reg (n : Fin 8)
  | out (o : Fin 4)
  deriving DecidableEq, Repr, Inhabited

/-- How far an access has performed (R170). -/
inductive Perf where
  | none
  | group
  | device
  | span
  deriving DecidableEq, Repr, Inhabited

/-- A request in flight (R165-R173, R437). `task` none: the hub's own. `deps`: accesses with an edge into it that it
waits for. `queued`: it stands in a queue of an atomic engine or sync unit. `deferred`: its unit holds it. `held`: withdrawn by a halt
until START (R179, R435). `staged`: its effect waits in the commit buffer or for the cut it closes (R187, R292); `cut`: the completed cut that it is the last
effect of (R445). `step`: the step of its tile in which it fired (R15). `data`: the
elements of a read flit's first places that have been read, its places being turned as they are; `asked`: how many of them another die has been asked for. `remote`: sent to the die `sentTo`; one that is then `held` is asked back. `slot`: arrival slot of R189; `rule`: slot of the
rule that fired. A request from another die has no task and a slot of 1024 to 1031: `rule` is then the die that sent it, `opc` the die
that it comes from (R343), `tokVal` the number that the sender gave it and `clock` its flit's clock (R488). A look at a future that a SPAWN or a
launch would own is a poll of the SPAWN's element, with its opcode, or of the hub for the function `rule` (R400, R410). -/
structure Acc where
  task : Option Nat := none
  vt : Fin 16 := 0
  node : Node := .seq
  req : Req := .fence
  scope : Scope := .elem
  order : Order := .rlx
  deps : List Nat := []
  dest : Dest := .none
  pw : Option (Fin 8) := none
  link : Option (Fin 8 × Word) := none
  tokVal : Word := 0
  perf : Perf := .none
  reply : Option Word := none
  data : List Nat := []
  asked : Nat := 0
  answered : Bool := false
  queued : Bool := false
  deferred : Bool := false
  held : Bool := false
  staged : Bool := false
  closes : Bool := false
  cut : Option Nat := none
  clock : List (BitVec 16) := []
  step : Nat := 0
  remote : Bool := false
  sentTo : Nat := 0
  acks : List Nat := []
  slot : Nat := 0
  opc : Nat := 0
  rule : Nat := 0
  deriving DecidableEq, Repr, Inhabited

/-- One bind of a staged entry (R319): the name, and the object, none to unbind. -/
structure BindEnt where
  name : Nat := 0
  obj : Option Nat := none
  deriving DecidableEq, Repr, Inhabited

/-- A byte that a store holds in a commit-buffer line: its place in the line and the store's staging number (R173, R445). -/
structure Held where
  off : Nat
  no : Nat
  byte : Byte
  deriving DecidableEq, Repr, Inhabited

/-- The content of a staged entry (R292): the stores of a line in staging order, another request (an atomic, DISC or semaphore
operation), binds, a declaration, a join, a trigger. -/
inductive Stg where
  | line (obj line : Nat) (bytes : List Held)
  | req (acc : Nat)
  | binds (l : List BindEnt)
  | spawn (id : Nat) (trec : Nat) (slots : List Nat)
  | join (spawn : Nat) (no : Nat) (ref : Word)
  | trigger
  deriving DecidableEq, Repr, Inhabited

/-- A staged entry of a tile (R173, R292, R297): its place in staging order, the requests whose effect it holds or that it has
supplied with the staging number up to which each waits, the cut that covers it, whether it has been released and has performed.
`going`: the bytes of a line under way to another die. `after`: the cut in progress that its node had passed when it was staged (0:
none). `paid`: a SEAL's firing debited its line (R300). -/
structure Staged where
  no : Nat := 0
  what : Stg := .trigger
  accs : List (Nat × Nat) := []
  going : List Held := []
  cut : Option Nat := none
  released : Bool := false
  sent : Bool := false
  node : Node := .seq
  after : Nat := 0
  paid : Bool := false
  deriving DecidableEq, Repr, Inhabited

/-! ### One copy of a tile -/

/-- A physical store of the dispenser (R285-R288): packets, how it was filled. -/
structure Store where
  packets : Nat := 0
  boost : Bool := false
  deriving DecidableEq, Repr, Inhabited

/-- One copy of a virtual tile of a group. `spent`: drops debited from stores that a scan-out returned to the rail (R348).
`drain`: the tile's part of the drain counter (R389). `tagged`, `cleared`: the nodes that CTXSW and CRST have reached since
arm; `discards`: the tokens that each node has flushed, keyed by `Node.key` (R376). `handover`: the tile waits for its next store
(R287); `ready`: scrubbed and written, so that it takes CTXSW and CRST (R373); `quiet`: in its last step no element fired and no engine advanced (R392).
`heap`: the pad bytes, by start and length, that a heap of the vector node holds in this step (R220); `recs`: the banks as the step before
left them (R216, R230); `lines`: lines covered at the passage of the tile's last node, whose debit is due (R283, R300). -/
structure Inst where
  elems : Vector Elem 16 := Vector.replicate 16 {}
  used : BitVec 16 := 0
  cfg : TileCfg := {}
  bufs : Assoc (List Wtok) := []
  bufWr : Assoc Nat := []
  bufBy : Assoc Node := []
  vec : Vec := {}
  mat : Mat := {}
  sa : Stream := {}
  sb : Stream := {}
  cpy : Copy := {}
  arstat : Word := 0
  meter : Nat := 0
  debited : Nat := 0
  granted : Nat := 0
  spent : Nat := 0
  drain : Nat := 0
  sinceCut : Nat := 0
  sinceOpen : Nat := 0
  stepDrops : Nat := 0
  stepNo : Nat := 0
  staged : List Staged := []
  stores : List Store := []
  host : Nat := 0
  ready : Bool := false
  armed : Bool := false
  cleared : List Node := []
  started : List Node := []
  halted : List Node := []
  tagged : List Node := []
  discards : Assoc Nat := []
  portUse : Nat := 0
  dirUse : Bool := false
  cmdUse : List Node := []
  handover : Bool := false
  quiet : Bool := false
  heap : List (Nat × Nat) := []
  recs : Vector Bank 8 := Vector.replicate 8 {}
  lines : Nat := 0
  deriving DecidableEq, Repr, Inhabited

/-! ### Cuts and groups (spec/10_charge.md, 14_groups.md) -/

/-- What a cut records of one copy (R296). -/
structure InstRec where
  elems : Assoc Elem := []
  bufs : Assoc (List Wtok) := []
  vec : Option Vec := none
  mat : Option Mat := none
  sa : Option Stream := none
  sb : Option Stream := none
  cpy : Option Copy := none
  heap : List (Nat × Nat) := []
  arstat : Word := 0
  pad : List Host.Cell := []
  accs : Assoc Acc := []
  deriving DecidableEq, Repr, Inhabited

/-- The record of a cut: one part per virtual tile. -/
abbrev CutRec := Assoc InstRec

/-- A cut in progress (R384-R387). `behind`: tokens that came after the CAIRN on an edge, or into a buffer that an engine
fills, while their consumer had still to pass. -/
structure Cut where
  no : Nat := 1
  sent : List (Fin 16 × Node) := []
  passed : List (Fin 16 × Node) := []
  arrived : List Nat := []
  behind : Assoc Nat := []
  closer : Option Nat := none
  shrink : Option Bool := none
  record : CutRec := []
  deriving DecidableEq, Repr, Inhabited

/-- States of a group (R375). -/
inductive GState where
  | placed
  | arming
  | running
  | stopped
  | halted
  | folded
  | committing
  | retired
  deriving DecidableEq, Repr, Inhabited

/-- Why a group stops (R303, R348, R466). -/
inductive Stop where
  | short (vt : Fin 16) (node : Node) (opc failed : Nat)
  | fault (code : Nat) (vt : Fin 16) (node : Node) (opc slot : Nat)
  | page (vt : Fin 16) (node : Node) (opc obj page kind : Nat)
  deriving DecidableEq, Repr

/-- Why a group is halted. -/
inductive Why where
  | page
  | halt
  | preempt
  | park
  | shrink (four : Bool)
  | unfold
  | held
  | abort
  deriving DecidableEq, Repr, Inhabited

/-- A group (R372-R396). `flight`: tokens on an edge between tiles, keyed by edge number. `seals`: implicit seals that
wait, with the tile, the node and the request each closes with (R294). `sealUse`: a SEAL has been accepted in the present step
(R298); `later`: a page fault raised in it, which stops the group as the step ends (R348). `mirror`: the unit's copy of the arrival counters,
keyed by virtual tile × 256 + element × 16 + barrier, and `gens`: GEN of each barrier (R430). `pads`: the pads of a group
that has left its rectangle (R351), as `saved` tells. `asked`: the host's operation on the group that is in progress (R469);
`atCut`: no step since its last cut completed (R393). -/
structure Group where
  ctx : Nat := 0
  fn : Nat := 0
  region : Nat := 0
  x0 : Nat := 0
  y0 : Nat := 0
  img : Image := {}
  args : Vector Word 8 := Vector.replicate 8 0
  fold : Nat := 1
  state : GState := .placed
  stop : Option Stop := none
  why : Option Why := none
  asked : Option Why := none
  draining : Bool := false
  cut : Option Cut := none
  lastCut : Nat := 0
  atCut : Bool := false
  nextCut : Nat := 1
  back : CutRec := []
  seals : List (Fin 16 × Node × Option Nat) := []
  sealUse : Bool := false
  later : Option Stop := none
  flight : Assoc (List Wtok) := []
  wd : Nat := 0
  episode : Option Nat := none
  sur : Assoc Nat := []
  resident : Assoc Nat := []
  pads : Assoc (List Host.Cell) := []
  mirror : Assoc Word := []
  gens : Assoc Word := []
  released : Bool := false
  saved : Bool := false
  deriving DecidableEq, Repr, Inhabited

/-! ### Tasks (spec/15_queues.md) -/

/-- A task record (R397). -/
structure TaskRec where
  crec : Word := 0
  ownf : Word := 0
  fut : Vector Word 4 := Vector.replicate 4 0
  argp : Word := 0
  sprm1 : Nat := 0
  p : Nat := 0
  kid : Nat := 0
  gw : Nat := 1
  gh : Nat := 1
  queue : Fin 16 := 0
  prio : Nat := 0
  npred : Nat := 0
  etrig : Bool := false
  rpol : Nat := 0
  astep : Bool := false
  deriving DecidableEq, Repr, Inhabited

/-- States of a task (R404); RETIRED tasks leave the pool. -/
inductive TState where
  | declared
  | waiting
  | unfunded
  | ready
  | placed
  | armed
  | running
  | shortfall
  | committed
  | aborted
  deriving DecidableEq, Repr, Inhabited

/-- A task in the pool (R403). `first`: TASKNO of the first instance of its spread; `inst`: its number in it. -/
structure Task where
  trec : TaskRec := {}
  ctx : Nat := 0
  slot : Nat := 0
  first : Nat := 0
  inst : Nat := 0
  state : TState := .declared
  p : Nat := 0
  rtry : Nat := 0
  left : Nat := 0
  triggered : Bool := false
  pass : Nat := 0
  endc : Nat := 0
  fcode : Nat := 0
  arst : Nat := 0
  disc : Nat := 0
  dres : Bool := false
  short : Nat := 0
  resume : Option (Nat × CutRec) := none
  openSlots : Nat := 0
  parent : Option Nat := none
  age : Nat := 0
  ended : Bool := false
  written : Option (List Nat) := none
  deriving DecidableEq, Repr, Inhabited

/-- One spread (R403, R413): instances not yet triggered or retired. -/
structure Spread where
  left : Nat := 0
  ownf : Word := 0
  ctx : Nat := 0
  settled : Bool := false
  deriving DecidableEq, Repr, Inhabited

/-! ### Directory and pages (spec/11_tensors.md, 12_pages.md) -/

/-- A name entry (R319), keyed by context × 2^31 + name id. `refs`: staged operations that name it. -/
structure NameEnt where
  obj : Option Nat := none
  fifo : List Nat := []
  refs : Nat := 0
  deriving DecidableEq, Repr, Inhabited

/-- A page entry (R333) with the write streak (R343), the presence bits' word list (R340), and a move in progress: where it goes, and at the
holder the dies that have still to invalidate their translations (R339, R344). `held`: the entry is to change, so no port of this die accepts
an access of the page until it has (R339). `clocks`: by word, the clock of the atomic of another die that last wrote it (R444, R449). -/
structure Page where
  v : Bool := true
  dead : Bool := true
  mig : Nat := 0
  home : Nat := 0
  die : Nat := 0
  loc : Nat := 0
  pin : Bool := false
  drt : Bool := false
  frame : Nat := 0
  sdie : Nat := 0
  scount : Nat := 0
  full : List Nat := []
  clocks : Assoc (List (BitVec 16)) := []
  moving : Option Nat := none
  asked : List Nat := []
  held : Bool := false
  deriving DecidableEq, Repr, Inhabited

/-- States of an object (R315). A FRESH object of another die bears that die's number plus 1 above the 32 bits of its TASKNO. -/
inductive ObjSt where
  | fresh (task : Nat)
  | shared
  | reclaiming
  deriving DecidableEq, Repr, Inhabited

/-- An object (R313), its descriptor as a 256-bit number. -/
structure Obj where
  ctx : Nat := 0
  desc : Nat := 0
  st : ObjSt := .shared
  refs : Nat := 0
  tile : Nat := 0
  region : Nat := 0
  pages : Assoc Page := []
  deriving DecidableEq, Repr, Inhabited

/-- State of a handle slot that is not FREE (R320, R321). `prev`: owner before a CLOSE. -/
inductive HSt where
  | priv (owner : Nat)
  | opened
  | closing (owner : Nat) (prev : Option Nat) (prevKeep prevCvd : Bool)
  deriving DecidableEq, Repr, Inhabited

/-- A handle slot (R320), keyed by context × 4,096 + slot. `cover`: the cut that covers the entering rule. -/
structure Slot where
  st : HSt := .opened
  keep : Bool := false
  cvd : Bool := false
  obj : Nat := 0
  deriving DecidableEq, Repr, Inhabited

/-! ### Region blocks -/

/-- A cache slot of a region sequencer (R369). -/
inductive CacheSt where
  | empty
  | fetching
  | ready
  | pinned
  deriving DecidableEq, Repr, Inhabited

structure Cache where
  st : CacheSt := .empty
  ctx : Nat := 0
  kid : Nat := 0
  pins : Nat := 0
  age : Nat := 0
  deriving DecidableEq, Repr, Inhabited

/-- An event counter (R504). -/
structure Ctr where
  sel : Dword := 0
  val : BitVec 48 := 0
  deriving DecidableEq, Repr, Inhabited

/-- A translation entry (R337): context, handle (tile cache) or object (region cache), page. `bad`: its fill found the
page not valid. `pref`: only PREF asked for it (R184). -/
structure Trans where
  ctx : Nat := 0
  key : Nat := 0
  page : Nat := 0
  tile : Nat := 0
  bad : Bool := false
  pref : Bool := false
  deriving DecidableEq, Repr, Inhabited

/-- A token parked at a region's ingress (R371): of a group that is placed there, or a RECFG of one of its tiles to another kernel. -/
structure Park where
  task : Nat := 0
  recfg : Option (Fin 16 × Nat) := none
  deriving DecidableEq, Repr, Inhabited

/-- A region block (R22). -/
structure Region where
  caches : Vector Cache 4 := Vector.replicate 4 {}
  ingress : List Park := []
  hot : List Nat := []
  deferred : List Nat := []
  aq : List Nat := []
  aLast : Nat := 1032
  sq : List Nat := []
  sDeferred : List Nat := []
  sLast : Nat := 1032
  cache : List Trans := []
  walks : List Trans := []
  waiting : List Trans := []
  wLast : Nat := 1032
  ctrs : Vector Ctr 8 := Vector.replicate 8 {}
  adm : BitVec 16 := 0
  half : Bool := false
  undr : Word := 0
  deriving DecidableEq, Repr, Inhabited

/-- The translation port of a physical tile (R337, R338), and the context that last armed on it. -/
structure Tile where
  cache : List Trans := []
  fills : List Trans := []
  lastCtx : Option Nat := none
  owner : Option Nat := none
  deriving DecidableEq, Repr, Inhabited

/-! ### Contexts (spec/18_contexts.md) -/

/-- States of a context (R454). -/
inductive CState where
  | free
  | defined
  | resident
  | resetting
  deriving DecidableEq, Repr, Inhabited

structure Queue where
  st : Nat := 0
  alim : Nat := 0
  count : Nat := 0
  rmax : Nat := 0
  wm1 : Nat := 0
  pmax : Nat := 0
  deficit : Nat := 0
  deriving DecidableEq, Repr, Inhabited

structure Sem where
  val : Word := 0
  sat : Bool := false
  deriving DecidableEq, Repr, Inhabited

/-- Kernel states (R368); ABSENT ids are not listed, and a kernel is LOADING only within its registration. -/
inductive KSt where
  | loaded
  | retiring
  deriving DecidableEq, Repr, Inhabited

structure Kernel where
  st : KSt := .loaded
  bytes : List Byte := []
  deriving DecidableEq, Repr, Inhabited

/-- A context (R454-R469, R509). A context never defined is not listed. -/
structure Ctx where
  state : CState := .free
  dbgok : Bool := false
  fhold : Bool := false
  vf : Nat := 0
  wdlim : Word := 0x00100000
  names : Nat := 0
  objs : Nat := 0
  savefr : Nat := 0
  acct : Nat := 0
  prod : BitVec 8 := 0
  cons : BitVec 8 := 0
  ring : Assoc Nat := []
  irq : Nat := 0
  grpstat : Nat := 0
  acc : Word := 0
  ref : Nat := 0
  last : Nat := 0
  queues : Vector Queue 16 := Vector.replicate 16 {}
  sems : Vector Sem 64 := Vector.replicate 64 {}
  pgaddr : Dword := 0
  pgstat : Dword := 0
  pgst : Nat := 0
  dirstat : Dword := 0
  dirarg : Vector Dword 8 := Vector.replicate 8 0
  dirsel : Dword := 0
  kaddr : Dword := 0
  kstat : Nat := 0
  dwsel : Dword := 0
  kernels : Assoc Kernel := []
  placedAge : Nat := 0
  saveUse : Nat := 0
  deriving DecidableEq, Repr, Inhabited

/-- A function-level reset in progress (R472): its function, the requests accepted for it and not yet served, the groups
that it stopped. -/
structure Flr where
  fn : Nat := 0
  hub : Bool := false
  accs : List Nat := []
  tasks : List Nat := []
  deriving DecidableEq, Repr, Inhabited

/-! ### Links (spec/19_links.md) -/

inductive LSt where
  | down
  | training
  | up
  | retraining
  | degraded
  | failed
  deriving DecidableEq, Repr, Inhabited

/-- Why a die is told of an entry that another die changes (R339): it is to change, the page moves, the change has been given up. -/
inductive Still where
  | change
  | move
  | over
  deriving DecidableEq, Repr, Inhabited

/-- What a flit carries (R480): type 5 or 6 for `fut` and `refused`, type 11 from `freed` on. `org` is the die from which a request that
was sent on comes (R343); `probeAns` reports SEEN of the die that asked (R489); `made`, `shared`, `entry`, `flags` (DEAD and DRT) and `unpin`
keep the copies of a page table alike (R332); `pgout` asks the holder for a page that goes OUT (R347); `still` asks a die to invalidate its
translations of a page and to tell when its accesses have performed (R339); `cancel` withdraws a full-empty request (R179). The layouts of
payloads are Config's (log entry 9). -/
inductive Msg where
  | idle
  | read (id obj byte n : Nat)
  | reads (id : Nat) (places : List (Nat × Nat)) (n : Nat)
  | readRep (id v : Nat)
  | write (id org obj : Nat) (cells : List (Nat × Byte))
  | applied (id : Nat)
  | atom (id org obj byte : Nat) (op : AtOp) (b : Word)
  | fe (id org obj byte : Nat) (op : FeOp)
  | atomRep (id v : Nat)
  | probe
  | probeAns (seen : BitVec 16)
  | fullClock (l : List (BitVec 16))
  | move (obj page part : Nat) (data : List Byte) (last dead : Bool)
  | fut (id org obj byte : Nat) (op : FutOp)
  | refused (id code : Nat)
  | freed (obj : Nat)
  | freedOk (obj : Nat)
  | made (obj : Nat) (o : Obj)
  | shared (obj : Nat)
  | entry (obj page die : Nat) (v : Bool) (mig : Nat) (pin dead drt : Bool)
  | flags (obj page : Nat) (dead drt : Bool)
  | unpin (obj page : Nat)
  | dead (id obj page count : Nat)
  | pgout (obj page die : Nat)
  | still (obj page : Nat) (why : Still)
  | stilled (obj page : Nat) (why : Still)
  | cancel (id : Nat)
  | cancelled (id : Nat)
  | wake (no : Nat) (ok : Bool)
  deriving DecidableEq, Repr, Inhabited

/-- A flit received or kept: its 256 bytes. -/
abbrev Flit := List Byte

/-- A received flit that waits to be served (R488): link, source, SCNT, clock, message; the request that serves it at a memory
node or an engine; a part of a page move that waits for the last one. -/
structure Rx where
  link : Nat := 0
  src : Nat := 0
  scnt : BitVec 16 := 0
  clock : List (BitVec 16) := []
  msg : Msg := .idle
  acc : Option Nat := none
  parked : Bool := false
  deriving DecidableEq, Repr, Inhabited

/-- A flit that waits to be sent: destination and content; for one already formed, by another die or for another link, its
bytes 0 to 235 with the payload in clear. -/
structure Tx where
  dst : Nat := 0
  msg : Msg := .idle
  formed : Option (List Byte) := none
  deriving DecidableEq, Repr, Inhabited

/-- A flit in a replay buffer (R481): as sent, and what it was before the link's own fields. -/
structure Kept where
  seq : BitVec 8 := 0
  dst : Nat := 0
  msg : Msg := .idle
  plain : List Byte := []
  flit : Flit := []
  deriving DecidableEq, Repr, Inhabited

/-- A chip link (R481-R485). `txSeq`, `rxSeq`: the next SEQ to send and to accept; `sent`, `rcvd`: flits encrypted and accepted
under the epoch; `bad`: R482 discards since the last good flit; `nak`: a NAK is owed; `barred`: its peer is not of the span; `wire`: the
flit last put on the link. -/
structure Lnk where
  st : LSt := .down
  peer : BitVec 4 := 0
  lanes : Nat := 0
  retrn : Nat := 0
  crcerr : Nat := 0
  autherr : Nat := 0
  rtb : BitVec 16 := 1953
  kept : List Kept := []
  txSeq : BitVec 8 := 0
  rxSeq : BitVec 8 := 0
  epoch : Word := 0
  sent : BitVec 64 := 0
  rcvd : BitVec 64 := 0
  bad : Nat := 0
  nak : Bool := false
  barred : Bool := false
  wire : Flit := []
  deriving DecidableEq, Repr, Inhabited

/-! ### Power and security (spec/20_power.md, 21_bringup.md) -/

inductive PSt where
  | off
  | run
  | boost
  | throttle
  | parked
  | emergency
  deriving DecidableEq, Repr, Inhabited

inductive Sec where
  | production
  | development
  | failed
  deriving DecidableEq, Repr, Inhabited

inductive Dbg where
  | off
  | observe
  | invasive
  deriving DecidableEq, Repr, Inhabited

/-- A loaded key slot: the context that it is loaded for, and its pair (R514). -/
structure Key where
  ctx : Nat := 0
  pair : Nat := 0
  deriving DecidableEq, Repr, Inhabited

/-! ### Page operations (spec/12_pages.md R346, R347) -/

inductive PgKind where
  | pgin
  | pgout
  | pgunpin
  | pgread
  deriving DecidableEq, Repr

/-- How far a page operation has come (R339, R347): not begun; the dies that have still to answer; the holder is asked for the page. -/
inductive PgStage where
  | fresh
  | asked (dies : List Nat)
  | sent
  deriving DecidableEq, Repr

/-- A page operation that the hub has still to end (R346): the window's context, whether the physical function wrote it. -/
structure PgOp where
  ctx : Nat
  pf : Bool
  op : PgKind
  obj : Nat
  page : Nat
  stage : PgStage := .fresh
  deriving DecidableEq, Repr

/-! ### Host writes (R511) -/

/-- A write of the host to a window, that waits for its turn among the writes of its function. -/
inductive HostCmd where
  | launch (h : HostAt) (bytes : List Byte)
  | qdescWrite (h : HostAt) (q : Fin 16) (w : Dword)
  | accadd (h : HostAt) (w : Dword)
  | hostSemWrite (h : HostAt) (m : Fin 64) (w : Dword)
  | fqidxWrite (h : HostAt) (w : Dword)
  | resume (h : HostAt) (task : Word)
  | requeue (h : HostAt) (task : Word)
  | abort (h : HostAt) (task : Word)
  | halt (h : HostAt) (task : Word)
  | preempt (h : HostAt) (task : Word)
  | pgin (h : HostAt) (w : Dword)
  | pgout (h : HostAt) (w : Dword)
  | pgunpin (h : HostAt) (w : Dword)
  | pgread (h : HostAt) (w : Dword)
  | hostOpen (h : HostAt) (w : Dword)
  | hostClose (h : HostAt) (w : Dword)
  | hostBind (h : HostAt) (w : Dword)
  | hostUnbind (h : HostAt) (w : Dword)
  | hostRebind (h : HostAt) (w : Dword)
  | hostQuery (h : HostAt) (w : Dword)
  | hostMkobj (h : HostAt) (w : Dword)
  | kernelRegister (h : HostAt) (kid : Nat)
  | kernelUnload (h : HostAt) (kid : Nat)
  | apertureWrite (h : HostAt) (off : Nat) (w : Word)
  | defineContext (ctx : Nat) (fn : Fin 64)
  | undefineContext (ctx : Nat)
  | resetFunction (fn : Fin 64)
  | springCheck
  | attest
  | keyload (w : Dword)
  | keydrop (w : Dword)
  | span
  | recover
  | bootst
  | linkRetrain (n : Fin 8)
  | linkReset (n : Fin 8)
  | park (w : Dword)
  | unpark (w : Dword)
  | pwcauseClear (w : Dword)
  | registerWrite (via : Via) (r : HostReg) (w : Dword)
  deriving DecidableEq, Repr

/-! ### Turns -/

/-- Where the instruction now executed acts. -/
structure Locus where
  task : Nat := 0
  vt : Fin 16 := 0
  node : Node := .elem 0
  slot : Fin 40 := 0
  deriving DecidableEq, Repr, Inhabited

/-- One turn of the machine: a step that tiles of a group take together, in which the engines named advance too, or an event. -/
inductive Turn where
  | tiles (task : Nat) (vts : List (Fin 16)) (engines : List (Fin 16 × Node))
  | event (i : Instr)
  deriving DecidableEq, Repr

/-- What a node does in a step: an engine advances the command of a lane (R235), an element fires a slot or raises 0x01 for a
refused word (R103, R107), the sequencer takes the debit of lines (R283, R300), a channel interface takes the control token at its head
(R380). -/
inductive Deed where
  | advance (n : Node) (lane : Nat)
  | lines
  | fire (e : Fin 16) (slot : Fin 40)
  | refuse (e : Fin 16) (slot : Nat)
  | hidden (e : Fin 16) (c : Fin 4)
  deriving DecidableEq, Repr

/-- A deed that a step has chosen and not yet done. -/
structure Planned where
  l : At
  deed : Deed
  deriving DecidableEq, Repr

/-- A CLOSE that fired in the present step: its slot's key, its group, CVD of the slot (R320, R325). -/
structure Closing where
  key : Nat
  task : Nat
  cvd : Bool
  deriving DecidableEq, Repr

end Sys2Proof.Machine
end

