-- ==== Sys2Proof/Machine/State.lean ====
section
/-! DEFINITION. The state of the Sahuno as plain data, the reasons a step can stop, and the state after reset. -/

namespace Sys2Proof.Machine

/-- Reasons the machine stops. -/
inductive Fault where
  /-- A page entry names a frame that the part does not have (01 R16, R20; 12 R334). Raised by the serving of a tensor
  access in a state no run reaches. Safe: the model stops where the spec gives no frame. -/
  | noFrame
  deriving DecidableEq, Repr

/-- Reasons an instruction has no meaning. -/
inductive Refusal where
  /-- The instruction has no meaning in the model yet. Raised by exec only. Safe: the model stops. -/
  | notModelled (mnemonic : String)
  deriving DecidableEq, Repr

/-- The state of the part. -/
structure State where
  /-- Where the instruction now executed acts: TASKNO, virtual tile, node, slot (the model's own). -/
  cur : Locus
  /-- The turns still to come, a list (the model's own). -/
  agenda : List Turn
  /-- Turns taken by the free schedule, a number (the model's own). -/
  turnNo : Nat
  /-- What a step has chosen and not yet done, a list (the model's own; 05 R105, 10 R283). -/
  plan : List Planned
  /-- CLOSE rules that fired in the present step, whose slots change as it ends, a list (the model's own; 11 R325). -/
  closes : List Closing
  /-- Whether a rule of the firing element has fired in this step, 1 (the model's own; 05 R107). -/
  fired : Bool
  /-- Free values taken, a number (the model's own). -/
  freeNo : Nat
  /-- Number of the next request, a number (the model's own). -/
  nextId : Nat
  /-- Number of the next staged entry, which orders staging across the tiles of a group (the model's own; 06 R169). -/
  stageNo : Nat
  /-- The bytes of pads, vaults and DRAM, at the addresses of log entry 2 (01 R15, R16, R20). -/
  mem : Memory
  /-- Bytes of host memory that PGADDR and KADDR reach; outside the part (12 R346; 13 R368; 21 R510). -/
  hostMem : Memory
  /-- Frames that hold a page, a list of frame numbers (11 R533; 12 R334). -/
  usedFrames : List Nat
  /-- One Inst for each copy of a virtual tile of a dispatched group (14 R372, R373). -/
  insts : Assoc Inst
  /-- One Group for each dispatched task, by TASKNO (14 R372). -/
  groups : Assoc Group
  /-- One Acc for each request in flight (06 R165-R173; 17 R437). -/
  accs : Assoc Acc
  /-- One Tile for each of 1,024 physical tiles (01 R10; 12 R337). -/
  tiles : Assoc Tile
  /-- 64 Region blocks (01 R22). -/
  regions : Vector Region 64
  /-- 65,536 slots of the task pool, occupied ones listed by TASKNO (15 R403). -/
  tasks : Assoc Task
  /-- One Spread for each declared spread with instances left (15 R403, R413). -/
  spreads : Assoc Spread
  /-- The spreads that wait for each future, by the TASKNO of their first instance (15 R405). -/
  waiters : Assoc (List Nat)
  /-- TASKNO of the first instance of each declaration staged by SPAWN (15 R410). -/
  spawns : Assoc Nat
  /-- Last TASKNO assigned, 32 (15 R403). -/
  lastTask : Word
  /-- Round-robin pointer of each priority, 16 (15 R417). -/
  ptr : Vector Nat 16
  /-- Name entries, by context and 31-bit name (11 R319). -/
  names : Assoc NameEnt
  /-- Objects 1 to 65,535 (11 R311, R313). -/
  objs : Assoc Obj
  /-- Handle slots h0-h4095 of each context, 64-bit entries (11 R320). -/
  slots : Assoc Slot
  /-- 4,096 contexts, those ever defined listed (18 R454). -/
  ctxs : Assoc Ctx
  /-- GRADE SCCOUNT 16 (01 R28). -/
  sccount : BitVec 16
  /-- GRADE CLASS 2 (01 R28). -/
  cls : BitVec 2
  /-- GRADE GOOD 7 (01 R28). -/
  good : BitVec 7
  /-- FENCEMAP 64 (01 R28, R31). -/
  fenced : BitVec 64
  /-- SHOCK EVENTS 32 (21 R517). -/
  shocks : Word
  /-- SHOCK PEND 1 (21 R517). -/
  shockPend : Bool
  /-- SHOCK PEAK 16 (21 R517). -/
  shockPeak : BitVec 16
  /-- The largest shock of the spring check in progress, in g (21 R517, R518). -/
  shockNew : Option (BitVec 16)
  /-- HUBST SEC 2 (21 R512, R517). -/
  sec : Sec
  /-- HUBST DBG 2 (21 R517). -/
  dbg : Dbg
  /-- HUBCMD STAT 3 (21 R517). -/
  hubStat : Nat
  /-- A spring check is in progress, 1 (01 R29; 21 R518). -/
  springing : Bool
  /-- Function-level resets in progress (18 R472). -/
  flrs : List Flr
  /-- 16 x (EVSEL 64, EVVAL 48) (20 R504). -/
  hubCtrs : Vector Ctr 16
  /-- The value that the last host read returned, 64; the model's own (21 R508-R511). -/
  readData : Dword
  /-- Page operations in progress, in the hub's order (12 R346). -/
  pgops : List PgOp
  /-- Host writes that wait, in order, each with its function; 64 is the physical one (21 R511). -/
  hostQ : List (Nat × HostCmd)
  /-- PWCTL BOOSTEN 1 (20 R503). -/
  boosten : Bool
  /-- PWCTL PARK 1 (20 R503). -/
  park : Bool
  /-- PWCTL PLIM 16 (20 R503). -/
  plim : BitVec 16
  /-- PWCTL PBST 16 (20 R503). -/
  pbst : BitVec 16
  /-- PWSTAT STATE 3 (20 R497, R503). -/
  pst : PSt
  /-- Snowcap, of which PWSTAT SNOW 10 is the reading (20 R496, R503). -/
  snow : Nat
  /-- PWSTAT DRAW 16 (20 R503). -/
  draw : BitVec 16
  /-- PWCAUSE CNT 8 (20 R503). -/
  causeCnt : BitVec 8
  /-- PWCAUSE SUPIN, DROOP, OC (20 R503). -/
  supin : Bool
  /-- PWCAUSE SUPIN, DROOP, OC (20 R503). -/
  droop : Bool
  /-- PWCAUSE SUPIN, DROOP, OC (20 R503). -/
  oc : Bool
  /-- Conditions that still hold (20 R500). -/
  holds : Alarms
  /-- State before EMERGENCY (20 R501, R502). -/
  before : PSt
  /-- Last region given a left-over admission slot (20 R494). -/
  lastLeft : Nat
  /-- SPANCFG DIE 4 (19 R476). -/
  die : BitVec 4
  /-- SPANCFG SPM1 4 (19 R476). -/
  spm1 : BitVec 4
  /-- ROUTELO 64, ROUTEHI 64 (19 R477). -/
  routeLo : Dword
  /-- ROUTELO 64, ROUTEHI 64 (19 R477). -/
  routeHi : Dword
  /-- 8 chip links, each as below (19 R477, R485). -/
  lnks : Vector Lnk 8
  /-- CLK[16] x 16 (19 R486). -/
  clk : Vector (BitVec 16) 16
  /-- SEEN[16] x 16 (19 R486, R489). -/
  seen : Vector (BitVec 16) 16
  /-- Clock last sent to each die (19 R487). -/
  sentClk : Assoc (List (BitVec 16))
  /-- SEEN of this die as each die reported it (19 R489). -/
  seenBy : Vector (BitVec 16) 16
  /-- Clock last received from each die (19 R487). -/
  srcClk : Assoc (List (BitVec 16))
  /-- Dies with a probe outstanding, 16 (19 R489). -/
  probed : BitVec 16
  /-- Routes on their alternate link, 16 (19 R478, R485). -/
  onAlt : BitVec 16
  /-- Flits accepted and not yet applied (19 R488). -/
  rx : List Rx
  /-- Messages that wait to be sent (19 R479, R481). -/
  tx : List Tx
  /-- Objects that are gone, each with the other dies that have not said so: their ids are not free yet (11 R311, 18 R472, R473). -/
  gone : Assoc (List Nat)
  /-- Development fuse, 1 (21 R512). -/
  devFuse : Bool
  /-- Fused minimum version, 32 (21 R512). -/
  minVer : Word
  /-- Firmware store (21 R512, R516). -/
  fw : List Byte
  /-- Measurements of the boot and the hub image (21 R512, R513). -/
  measured : Nat × Nat
  /-- Reason of the last failed boot (21 R516). -/
  bootReason : Nat
  /-- Failed boots, 32 (21 R516). -/
  badBoots : Word
  /-- Hash of the image that failed (21 R516). -/
  badHash : Nat
  /-- MBCMD STAT 3 (21 R515). -/
  mbStat : Nat
  /-- MBBUF, 4 KiB of bytes (21 R515). -/
  mbBuf : Memory
  /-- 8,192 key slots, those loaded listed: the context each is loaded for and its pair (21 R514). -/
  keys : Assoc Key
  /-- The pair under which the DRAM pages of a context's slot stand encrypted, by context × 8,192 + slot (12 R342). -/
  pairs : Assoc Nat
  deriving DecidableEq, Repr

/-- The machine right after reset (DESIGN CHOICE, log entry 6 names every value the spec does not state). -/
def State.reset : State where
  cur := {}
  agenda := []
  turnNo := 0
  plan := []
  closes := []
  fired := false
  freeNo := 0
  nextId := 1
  stageNo := 0
  mem := []
  hostMem := []
  usedFrames := []
  insts := []
  groups := []
  accs := []
  tiles := []
  regions := Vector.replicate 64 {}
  tasks := []
  spreads := []
  waiters := []
  spawns := []
  lastTask := 0xFFFFFFFF
  ptr := Vector.replicate 16 0
  names := []
  objs := []
  slots := []
  ctxs := []
  sccount := 0
  cls := 0
  good := 64
  fenced := 0
  shocks := 0
  shockPend := false
  shockPeak := 0
  shockNew := none
  sec := .production
  dbg := .off
  hubStat := 0
  springing := false
  flrs := []
  hubCtrs := Vector.replicate 16 {}
  readData := 0
  pgops := []
  hostQ := []
  boosten := true
  park := false
  plim := 1500
  pbst := 1800
  pst := .off
  snow := 600000000000
  draw := 0
  causeCnt := 0
  supin := false
  droop := false
  oc := false
  holds := ⟨false, false, false⟩
  before := .off
  lastLeft := 63
  die := 0
  spm1 := 0
  routeLo := 0
  routeHi := 0
  lnks := Vector.replicate 8 {}
  clk := Vector.replicate 16 0
  seen := Vector.replicate 16 0
  sentClk := []
  seenBy := Vector.replicate 16 0
  srcClk := []
  probed := 0
  onAlt := 0
  rx := []
  gone := []
  tx := []
  devFuse := false
  minVer := 0
  fw := []
  measured := (0, 0)
  bootReason := 0
  badBoots := 0
  badHash := 0
  mbStat := 0
  mbBuf := []
  keys := []
  pairs := []

end Sys2Proof.Machine
end

