-- ==== Sys2Proof/Machine/Ops.lean ====
section
/-! DEFINITION. Named operations over the state: copies of tiles and elements, the meter, stops and traps, routes and
tokens, requests. -/

namespace Sys2Proof.Machine

/-- The outcome of a meaning. -/
abbrev Out := Host.Outcome State Fault Refusal

/-! ### Keys, accessors -/

/-- Key of a copy of virtual tile vt of the dispatch TASKNO. -/
def ikey (task : Nat) (vt : Fin 16) : Nat := task * 16 + vt.val

def State.inst? (s : State) (task : Nat) (vt : Fin 16) : Option Inst := s.insts.get? (ikey task vt)

def State.inst (s : State) (task : Nat) (vt : Fin 16) : Inst := s.insts.getD (ikey task vt) {}

def State.setInst (s : State) (task : Nat) (vt : Fin 16) (x : Inst) : State :=
  { s with insts := s.insts.put (ikey task vt) x }

def State.updInst (s : State) (task : Nat) (vt : Fin 16) (f : Inst → Inst) : State :=
  { s with insts := s.insts.modify (ikey task vt) f }

def State.group? (s : State) (task : Nat) : Option Group := s.groups.get? task

def State.group (s : State) (task : Nat) : Group := s.groups.getD task {}

def State.setGroup (s : State) (task : Nat) (g : Group) : State := { s with groups := s.groups.put task g }

def State.updGroup (s : State) (task : Nat) (f : Group → Group) : State :=
  { s with groups := s.groups.modify task f }

def Inst.elem (x : Inst) (e : Fin 16) : Elem := vget x.elems e

def Inst.setElem (x : Inst) (e : Fin 16) (el : Elem) : Inst := { x with elems := vset x.elems e el }

def State.updElem (s : State) (task : Nat) (vt : Fin 16) (e : Fin 16) (f : Elem → Elem) : State :=
  s.updInst task vt fun x => x.setElem e (f (x.elem e))

def State.elem (s : State) (task : Nat) (vt : Fin 16) (e : Fin 16) : Elem := (s.inst task vt).elem e

def State.ctx (s : State) (c : Nat) : Ctx := s.ctxs.getD c {}

def State.updCtx (s : State) (c : Nat) (f : Ctx → Ctx) : State := { s with ctxs := s.ctxs.modify c f }

def State.updTask (s : State) (t : Nat) (f : Task → Task) : State := { s with tasks := s.tasks.modify t f }

def State.updAcc (s : State) (id : Nat) (f : Acc → Acc) : State := { s with accs := s.accs.modify id f }

def State.tile (s : State) (t : Nat) : Tile := s.tiles.getD t {}

def State.setTile (s : State) (t : Nat) (x : Tile) : State := { s with tiles := s.tiles.put t x }

/-- A region block by number; numbers above 63 read region 0's neighbour modulo 64. -/
def State.region (s : State) (r : Nat) : Region := s.regions[r % 64]'(Nat.mod_lt _ (by decide))

def State.updRegion (s : State) (r : Nat) (f : Region → Region) : State :=
  { s with regions := s.regions.set (r % 64) (f (s.region r)) (Nat.mod_lt _ (by decide)) }

/-- Virtual tile numbers of a kernel's grid (R123). -/
def Image.gsz (i : Image) : Nat := i.gw * i.gh

def vtOf (n : Nat) : Fin 16 := ⟨n % 16, Nat.mod_lt _ (by decide)⟩

def Group.vts (g : Group) : List (Fin 16) := (List.range (min 16 g.img.gsz)).map vtOf

/-- The window W of the pad of an instance (R156). -/
def padWindow (pad : Nat) : Nat :=
  if pad ≤ 32 then 32 else 2 ^ (Nat.log2 (pad - 1) + 1)

/-- Stage of a node (R13, R355 STAGES). -/
def TileCfg.stage (c : TileCfg) (n : Node) : Nat :=
  match n with
  | .elem e => c.stages.getD e.val 0
  | .matrix => c.stages.getD 16 0
  | .vector => c.stages.getD 17 0
  | .streamA => c.stages.getD 18 0
  | .streamB => c.stages.getD 19 0
  | .copy => c.stages.getD 20 0
  | .seq => 0

/-- NODE code of the records (R305, R349). -/
def Node.code (n : Node) : Nat :=
  match n with
  | .elem _ => 0
  | .matrix => 1
  | .vector => 2
  | .streamA => 3
  | .streamB => 4
  | .copy => 5
  | .seq => 6

def Node.eid (n : Node) : Nat :=
  match n with
  | .elem e => e.val
  | _ => 0

/-- A node's number within its tile. -/
def Node.key (n : Node) : Nat := Node.code n * 16 + Node.eid n

/-- Port order within one slot (R189, R283). -/
def Node.port (n : Node) : Nat :=
  match n with
  | .matrix => 0
  | .vector => 1
  | .streamA => 2
  | .streamB => 3
  | .copy => 4
  | .elem e => 5 + e.val
  | .seq => 21

/-- The engine nodes of a tile in port order. -/
def engineNodes : List Node := [.matrix, .vector, .streamA, .streamB, .copy]

/-- The nodes of a copy that take part: the engines and the used elements (R38). -/
def Inst.nodes (x : Inst) : List Node :=
  engineNodes ++ ((List.range 16).map vtOf).filterMap fun e => if x.used.getLsbD e.val then some (.elem e) else none

/-! ### Logical and physical regions (R31) -/

/-- Physical regions in service, rising. -/
def State.inService (s : State) : List Nat := (List.range 64).filter fun n => !s.fenced.getLsbD n

/-- The physical region of a logical number. One that a spring check has taken away, GOOD having fallen, counts on from 0 again (DESIGN
CHOICE, log entry 108); where every region is fenced no unit serves, whatever the number (R25). -/
def State.physRegion (s : State) (r : Nat) : Nat := s.inService.getD (r % max 1 s.inService.length) 0

/-- The home region of a context (R420), logical. -/
def State.home (s : State) (c : Nat) : Nat := if s.good = 0 then 0 else c % s.good.toNat

/-- One halving of a shape: the width when it is at least 2, else the height (R359). -/
def halve (x : Nat × Nat) : Nat × Nat := if x.1 ≥ 2 then (x.1 / 2, x.2) else (x.1, x.2 / 2)

/-- Host shape of a group under its fold factor (R359). -/
def Group.shape (g : Group) : Nat × Nat :=
  if g.fold = 1 then (g.img.gw, g.img.gh)
  else if g.fold = 2 then halve (g.img.gw, g.img.gh)
  else halve (halve (g.img.gw, g.img.gh))

/-- Host tile and slot of a virtual tile (R359). -/
def Group.hostOf (g : Group) (vt : Fin 16) : Nat × Nat :=
  let (w, h) := g.shape
  let w := max 1 w
  let h := max 1 h
  let vx := vt.val % max 1 g.img.gw
  let vy := vt.val / max 1 g.img.gw
  (vx % w + w * (vy % h), vx / w + (g.img.gw / w) * (vy / h))

/-- The physical tile within its region that hosts a copy (R9, R357, R359). -/
def Group.tileOf (g : Group) (x : Inst) : Nat :=
  let w := max 1 g.shape.1
  (g.y0 + x.host / w) * 4 + (g.x0 + x.host % w)

def State.globalTile (s : State) (g : Group) (x : Inst) : Nat := s.physRegion g.region * 16 + g.tileOf x

/-- Die-grid distance class of a frame for a tile (R21): 0 near, 1 same region, 2 far, 3 DRAM, 4 remote. -/
def distClass (tile : Nat) (loc frame : Nat) : Nat :=
  if loc = 0 then
    (if frame / 48 = tile then 0 else if frame / 48 / 16 = tile / 16 then 1 else 2)
  else if loc = 1 then 3
  else 4

/-- Drops of an element tensor access (R164). -/
def classDrops (c : Nat) : Nat :=
  match c with
  | 0 => 6
  | 1 => 12
  | 2 => 24
  | 3 => 48
  | _ => 96

/-- Drops of a copy unit (R267). -/
def unitDrops (c : Nat) : Nat :=
  match c with
  | 0 => 8
  | 1 => 16
  | 2 => 32
  | 3 => 64
  | _ => 128

/-! ### Running, stops, the meter -/

/-- No group runs: the part is PARKED, or in an EMERGENCY that began there (R475, R502). -/
def State.parkedNow (s : State) : Bool := s.pst == .parked || (s.pst == .emergency && s.before == .parked)

/-- Nodes of the group act (R303, R376, R389). -/
def Group.live (g : Group) : Bool :=
  (g.state == .running || g.state == .folded) && g.stop.isNone && !g.draining

/-- The copy is resident on its host (R392). -/
def Group.isResident (g : Group) (vt : Fin 16) (x : Inst) : Bool :=
  g.fold == 1 || g.resident.get? x.host == some vt.val

/-- A node of a copy may act: armed, started, not halted, its tile not waiting at handover (R287, R373, R374, R376). -/
def Inst.nodeLive (x : Inst) (n : Node) : Bool :=
  x.armed && x.started.contains n && !x.halted.contains n && !x.handover

/-- A rule of the present step has fired, or stopped its group: its element fires no other (R107). -/
def State.mark (s : State) : State := { s with fired := true }

/-- The stop of a group once st is raised: the first prevails, but a group fault prevails over a page fault (R303, R350, R465). A
page fault stops the group between steps: within a step it is kept until the step ends (R348). -/
def Group.stopped (g : Group) (inStep : Bool) (st : Stop) : Group :=
  match g.stop, st with
  | none, .page .. => if inStep then { g with later := some (g.later.getD st) } else { g with stop := some (g.later.getD st), later := none }
  | none, _ => { g with stop := some st }
  | some (.page ..), .fault .. => { g with stop := some st }
  | _, _ => g

/-- A stop is noted. -/
def State.raise (s : State) (task : Nat) (st : Stop) : State :=
  { s with fired := true }.updGroup task fun g => g.stopped (!s.plan.isEmpty) st

/-- The tile waits at handover until its next store is built (R287). -/
def State.waitStore (s : State) (task : Nat) (vt : Fin 16) : State :=
  { s with fired := true }.updInst task vt fun x => { x with handover := true }

/-- Drops of the stores built (R285). -/
def Inst.built (x : Inst) : Nat := x.spent + 256 * (x.stores.map (·.packets)).sum

/-- Fate of a debit: the tile waits at handover (R287), the debit is not covered (R282), or it is taken. -/
inductive Pay where
  | wait
  | short
  | ok (x : Inst)
  deriving DecidableEq, Repr

/-- A copy after a debit of d drops. -/
def Inst.debit (x : Inst) (d : Nat) : Inst :=
  { x with meter := x.meter - d, debited := x.debited + d, sinceCut := x.sinceCut + d, sinceOpen := x.sinceOpen + d }

/-- A debit of d drops tried on a copy (R281, R282). -/
def Inst.pay (x : Inst) (d : Nat) : Pay :=
  if x.meter < d + 256 then .short
  else if x.built < x.debited + d then .wait
  else .ok (x.debit d)

/-- Set ARSTAT bits (R63). -/
def Inst.setAr (x : Inst) (a : Ar) : Inst := { x with arstat := x.arstat ||| BitVec.ofNat 32 a.bits }

/-! ### Traps and faults of element rules (R461, R462, R466) -/

/-- Trap entry of an element, taken at the end of its step (R461). -/
def Elem.trapIn (el : Elem) (cause slot : Nat) : Elem :=
  { el with esw := BitVec.ofNat 32 (cause % 256 * 16777216 + slot % 32 * 524288 + el.p.toNat * 256 + 1) }

/-- TS of esw (R460). -/
def Elem.inTrap (el : Elem) : Bool := el.esw.getLsbD 0

/-- No trap slot is filled (R461). -/
def Elem.noHandler (el : Elem) : Bool := (el.slots.toList.drop 32).all (· == 0xFFFFFFFF)

/-- An element rule that raises a cause: trap entry, or a group fault where R461 says so. `opc` and `slot` name the
rule in the record. -/
def State.trapOrFault (s : State) (task : Nat) (vt e : Fin 16) (cause opc slot : Nat) : State :=
  let el := s.elem task vt e
  if el.inTrap || el.noHandler then s.raise task (.fault cause vt (.elem e) opc slot)
  else { s with fired := true }.updElem task vt e fun el => el.trapIn cause slot

/-- A fault that an element rule raises before it fires (R462, R464). -/
def State.ruleFault (s : State) (task : Nat) (vt e : Fin 16) (code opc slot : Nat) : State :=
  if code = 0x02 ∨ code = 0x21 ∨ code = 0x22 ∨ code = 0x23 ∨ code = 0x41 then s.trapOrFault task vt e code opc slot
  else s.raise task (.fault code vt (.elem e) opc slot)

/-- Return from a trap (R463). -/
def Elem.trapOut (el : Elem) : Elem :=
  { el with p := BitVec.ofNat 8 (el.esw.toNat / 256), esw := el.esw &&& 0xFFFFFFFE }

/-! ### Tokens -/

def Side.ctl (x : Side) : Bool := x.getLsbD 15
def Side.op (x : Side) : Nat := x.toNat / 256 % 16
def Side.dim (x : Side) : Side := x &&& 0x7000
def Side.tagGen (x : Side) : Side := x &&& 0x0FF0
def Side.tag (x : Side) : Nat := x.toNat / 256 % 16
def Side.gen (x : Side) : Nat := x.toNat / 16 % 16
def Side.sel (x : Side) : Nat := x.toNat % 256

/-- A CAIRN token (R97). -/
def isCairn (x : Side) : Bool := Side.ctl x && Side.op x == 5

/-- A control token that no rule of an element sees: KSET of its registers and slots, port-only tokens, reserved
opcodes and selectors (R100, R377, R380). -/
def hiddenCtl (x : Side) : Bool :=
  Side.ctl x && !(Side.op x == 10 || (Side.op x == 6 && 0x80 ≤ Side.sel x && Side.sel x ≤ 0x8F))

/-- Selectors of a KSET that R98 assigns. -/
def ksetOk (n : Nat) : Bool := n ≤ 3 || (0x20 ≤ n && n ≤ 0x47) || (0x80 ≤ n && n ≤ 0x8F)

def Tok.wide (t : Tok) : Wtok := ⟨t.side, t.val.setWidth 512, t.deps⟩
def Wtok.narrow (t : Wtok) : Tok := ⟨t.side, t.val.setWidth 32, t.deps⟩

/-- The head that rules see (R80). -/
def Elem.head (el : Elem) (c : Fin 4) : Option Tok :=
  match (vget el.inq c).toks with
  | [] => none
  | t :: _ => if hiddenCtl t.side then none else some t

/-! ### Routes (R44, R356) -/

/-- The edges of an image with their numbers. -/
def Image.numbered (i : Image) : List (Edge × Nat) := i.edges.zipIdx

/-- The edge ends at a command port. -/
def Edge.isCmd (e : Edge) : Bool :=
  match e.dst with
  | .cmd .. => true
  | _ => false

/-- The edges on which an endpoint sends tokens. -/
def Image.from (i : Image) (p : Ep) : List (Edge × Nat) := i.numbered.filter fun x => decide (x.1.src = p) && !x.1.isCmd

def Image.into (i : Image) (p : Ep) : Option (Edge × Nat) := i.numbered.find? fun x => decide (x.1.dst = p)

/-- The input channel is a pull channel (R117). -/
def Image.isPull (i : Image) (vt e : Fin 16) (c : Fin 4) : Bool :=
  match i.into (.inp vt e c) with
  | some x => x.1.pull
  | none => false

/-- The descriptor of a buffer of a copy. -/
def Inst.desc (x : Inst) (b : Nat) : BufDesc := ((x.cfg.bufs.getD b none).getD {})

def Inst.buf (x : Inst) (b : Nat) : List Wtok := x.bufs.getD b []

/-- Tokens of a buffer that take room: CAIRN takes none (R386). -/
def roomCount (l : List Wtok) : Nat := (l.filter fun t => !isCairn t.side).length

/-- Tokens on an edge that are under way between tiles. -/
def Group.inFlight (g : Group) (n : Nat) : List Wtok := g.flight.getD n []

/-- Tokens that a consumer holds or is owed, and how many it can hold (R44, R108). DEDUCED, log entry 48. -/
def State.fill (s : State) (task : Nat) (g : Group) (n : Nat) (p : Ep) : Nat × Nat :=
  let fly := roomCount (g.inFlight n)
  match p with
  | .inp vt e c =>
    let ch := vget (s.elem task vt e).inq c
    (ch.toks.length + (ch.incoming.filter fun t => !isCairn t.side).length + fly, 4)
  | .buf vt b => let x := s.inst task vt; (roomCount (x.buf b.val) + fly, (x.desc b.val).tokens)
  | .bnd vt k =>
    let x := s.inst task vt
    let ch := if k.val = 0 then x.sa.bnd else if k.val = 1 then x.sb.bnd else x.cpy.bnd
    (ch.toks.length + fly, 4)
  | _ => (0, 1)

/-- Room for n more tokens of an endpoint at each of its consumers, `owed` tokens being owed already. -/
def State.hasRoom (s : State) (task : Nat) (g : Group) (p : Ep) (owed n : Nat) : Bool :=
  (g.img.from p).all fun x => let (held, cap) := s.fill task g x.2 x.1.dst; held + owed + n ≤ cap

def Owed.isTok (o : Owed) : Bool :=
  match o with
  | .tok t => !isCairn t.side
  | .bar .. | .wait _ => true

/-- Output channel o of an element has room (R44, R108, R118). -/
def State.outRoom (s : State) (task : Nat) (g : Group) (vt e : Fin 16) (o : Fin 4) : Bool :=
  let el := s.elem task vt e
  let edges := g.img.from (.out vt e o)
  if edges.any (fun x => x.1.pull) then 0 < vget el.pulls o
  else s.hasRoom task g (.out vt e o) ((vget el.outq o).filter Owed.isTok).length 1

/-- A write takes one request of a pull output (R118). -/
def State.takePull (s : State) (task : Nat) (g : Group) (vt e : Fin 16) (o : Fin 4) : State :=
  if (g.img.from (.out vt e o)).any (fun x => x.1.pull) then
    s.updElem task vt e fun el => { el with pulls := vset el.pulls o (vget el.pulls o - 1) }
  else s

/-! ### Cut bookkeeping of arriving tokens (R386) -/

def Ep.vt (p : Ep) : Fin 16 :=
  match p with
  | .inp v _ _ => v
  | .buf v _ => v
  | .bnd v _ => v
  | .out v _ _ => v
  | .mst v => v
  | .cmd v _ => v

/-- The engine of a place in the port table: eight slots each, in the order of R355. -/
def portNode (n : Nat) : Node :=
  if n < 8 then .matrix else if n < 16 then .vector else if n < 24 then .streamA else if n < 32 then .streamB else .copy

/-- The node that consumes an endpoint: an element, an engine, or the element that a buffer's route feeds. -/
def Image.consumer (i : Image) (x : Inst) (p : Ep) : Option (Fin 16 × Node) :=
  match p with
  | .inp vt e _ => some (vt, .elem e)
  | .bnd vt k => some (vt, if k.val = 0 then .streamA else if k.val = 1 then .streamB else .copy)
  | .buf vt b =>
    match (i.from (.buf vt b)).head? with
    | some y =>
      match y.1.dst with
      | .inp v e _ => some (v, .elem e)
      | .bnd v k => some (v, if k.val = 0 then .streamA else if k.val = 1 then .streamB else .copy)
      | _ => none
    | none =>
      -- an engine other than the one that last wrote it; else that one
      let l := (x.cfg.ports.zipIdx.filter fun d => d.1 == some b.val).map fun d => portNode d.2
      match l.find? fun n => x.bufBy.get? b.val != some n with
      | some n => some (vt, n)
      | none => l.head?.map fun n => (vt, n)
  | _ => none

def Cut.hasPassed (c : Cut) (n : Fin 16 × Node) : Bool := c.passed.contains n

def Cut.reach (c : Cut) (n : Fin 16 × Node) : Cut := if c.sent.contains n then c else { c with sent := c.sent ++ [n] }

/-- A CAIRN has reached a node that has not passed yet: it passes before it does anything else (R385). -/
def Group.due (g : Group) (n : Fin 16 × Node) : Bool :=
  match g.cut with
  | some c => c.sent.contains n && !c.hasPassed n
  | none => false

/-- The record of one virtual tile in a cut, changed. -/
def Cut.updRec (c : Cut) (vt : Fin 16) (f : InstRec → InstRec) : Cut :=
  { c with record := c.record.put vt.val (f (c.record.getD vt.val {})) }

/-- Key of the tokens behind the CAIRN in a buffer that an engine fills. -/
def bufKey (vt : Fin 16) (b : Nat) : Nat := 2000000 + vt.val * 32 + b

def Cut.addBehind (c : Cut) (k : Nat) : Cut := { c with behind := c.behind.put k (c.behind.getD k 0 + 1) }

/-- A CAIRN arrives on an edge: the edge has arrived and its node is reached (R385, R386). -/
def State.cairnArrives (s : State) (task : Nat) (g : Group) (n : Nat) (p : Ep) : State :=
  match g.cut with
  | none => s
  | some c =>
    let c := { c with arrived := if c.arrived.contains n then c.arrived else c.arrived ++ [n] }
    let c := match g.img.consumer (s.inst task p.vt) p with
      | some nd => c.reach nd
      | none => c
    s.updGroup task fun g => { g with cut := some c }

/-- A channel token added to what a cut recorded of its consumer. -/
def InstRec.addTok (r : InstRec) (p : Ep) (t : Tok) : InstRec :=
  let add (ch : Chan) : Chan := { ch with toks := ch.toks ++ [t] }
  match p with
  | .inp _ e c => { r with elems := Assoc.modify r.elems e.val fun el => { el with inq := vset el.inq c (add (vget el.inq c)) } }
  | .bnd _ k =>
    if k.val = 0 then { r with sa := r.sa.map fun y => { y with bnd := add y.bnd } }
    else if k.val = 1 then { r with sb := r.sb.map fun y => { y with bnd := add y.bnd } }
    else { r with cpy := r.cpy.map fun y => { y with bnd := add y.bnd } }
  | _ => r

/-- What a cut in progress makes of a token that arrives on an edge (R386): after its consumer's passage and before the
CAIRN it is recorded; before the passage and behind the CAIRN it is counted, to be left out of the record. A token out of
a buffer into a channel stands in the record of the buffer. -/
def State.recordArrival (s : State) (task : Nat) (g : Group) (n : Nat) (p : Ep) (t : Wtok) : State :=
  match g.cut, g.img.consumer (s.inst task p.vt) p with
  | some c, some nd =>
    let fromBuf := match (g.img.edges.drop n).head? with
      | some { src := .buf .., .. } => true
      | _ => false
    let set (c : Cut) : State := s.updGroup task fun g => { g with cut := some c }
    if c.hasPassed nd then
      if c.arrived.contains n then s
      else
        match p with
        | .buf vt b => set (c.updRec vt fun r => { r with bufs := r.bufs.put b.val (r.bufs.getD b.val [] ++ [t]) })
        | _ => if fromBuf then s else set (c.updRec p.vt fun r => r.addTok p t.narrow)
    else if c.arrived.contains n then set (c.addBehind n)
    else s
  | _, _ => s

/-! ### Arrival of tokens -/

/-- Physical byte address of a pad offset of a copy (DESIGN CHOICE, log entry 2): its host tile's pad and its share (R359). -/
def State.padAddr (s : State) (g : Group) (x : Inst) (vt : Fin 16) (off : Nat) : Nat :=
  let w := padWindow g.img.pad
  let share := if g.fold = 1 then 0 else (g.hostOf vt).2
  s.globalTile g x * 262144 + (share * w + off % w) % 262144

/-- Some of n pad bytes lie in the heap that the vector node of their tile holds (R220). -/
def State.heapHeld (s : State) (task : Nat) (vt : Fin 16) (off n : Nat) : Bool :=
  let w := padWindow (s.group task).img.pad
  (s.inst task vt).heap.any fun x => (List.range n).any fun i => (off + i + (w - x.1 % w)) % w < x.2

/-- A node's pad writes must wait: it has passed a cut that others have not (R388). -/
def State.padHeld (s : State) (task : Nat) (vt : Fin 16) (n : Node) : Bool :=
  let g := s.group task
  match g.cut with
  | some c => c.hasPassed (vt, n) && !(g.vts.all fun v => (s.inst task v).nodes.all fun m => c.hasPassed (v, m))
  | none => false

/-- A token appended to a buffer, its value mirrored into the pad (R46; DEDUCED, log entry 11). -/
def State.pushBuf (s : State) (task : Nat) (g : Group) (vt : Fin 16) (b : Nat) (t : Wtok) : State :=
  let x := s.inst task vt
  let d := x.desc b
  let w := if d.wide then 64 else 4
  let k := x.bufWr.getD b 0
  let s := s.setInst task vt { x with bufs := x.bufs.put b (x.buf b ++ [t]), bufWr := x.bufWr.put b ((k + 1) % max 1 d.tokens) }
  { s with mem := s.mem.writesBy (s.padAddr g x vt) (d.base + k * w) (leBytes w t.val.toNat) }

/-- A token reaches the consumer end of an edge (R108, R386). DEDUCED, log entry 11. DEDUCED, log entry 48. -/
def State.land (s : State) (task : Nat) (g : Group) (n : Nat) (p : Ep) (t : Wtok) : State :=
  match p with
  | .inp vt e c =>
    if isCairn t.side then s.cairnArrives task g n p
    else
      (s.recordArrival task g n p t).updElem task vt e fun el =>
        { el with inq := vset el.inq c { vget el.inq c with toks := (vget el.inq c).toks ++ [t.narrow] } }
  | .buf vt b =>
    if isCairn t.side then
      -- a buffer that a route empties passes the CAIRN on in order; an engine's buffer has it arrive here
      if (g.img.from (.buf vt b)).isEmpty then s.cairnArrives task g n p
      else (s.cairnArrives task g n p).updInst task vt fun x => { x with bufs := x.bufs.put b.val (x.buf b.val ++ [t]) }
    else (s.recordArrival task g n p t).pushBuf task g vt b.val t
  | .bnd vt k =>
    if isCairn t.side then s.cairnArrives task g n p
    else
      (s.recordArrival task g n p t).updInst task vt fun x =>
        let add (ch : Chan) : Chan := { ch with toks := ch.toks ++ [t.narrow] }
        if k.val = 0 then { x with sa := { x.sa with bnd := add x.sa.bnd } }
        else if k.val = 1 then { x with sb := { x.sb with bnd := add x.sb.bnd } }
        else { x with cpy := { x.cpy with bnd := add x.cpy.bnd } }
  | _ => s

/-- A token sent on one edge: at once or at the end of the step within a tile, in flight between tiles (R108). -/
def State.sendEdge (s : State) (task : Nat) (x : Edge × Nat) (t : Wtok) : State :=
  let g := s.group task
  if x.1.src.vt = x.1.dst.vt then
    match x.1.dst with
    | .inp vt e c =>
      s.updElem task vt e fun el =>
        { el with inq := vset el.inq c { vget el.inq c with incoming := (vget el.inq c).incoming ++ [t.narrow] } }
    | p => s.land task g x.2 p t
  else s.updGroup task fun g => { g with flight := g.flight.put x.2 (g.inFlight x.2 ++ [t]) }

/-- A token sent to every consumer of an endpoint (R44). -/
def State.send (s : State) (task : Nat) (p : Ep) (t : Wtok) : State :=
  ((s.group task).img.from p).foldl (fun s x => s.sendEdge task x t) s

/-- The tokens at the front of an output channel's queue that need no longer wait (R168). -/
def takeToks : List Owed → List Tok × List Owed
  | .tok t :: r => let (a, b) := takeToks r; (t :: a, b)
  | .bar t _ :: r => let (a, b) := takeToks r; (t :: a, b)
  | l => ([], l)

/-- The requests whose tokens a queue holds and whose writing ends what they hold back. -/
def barIds (l : List Owed) : List Nat := l.filterMap fun o =>
  match o with
  | .bar _ id => some id
  | _ => none

/-- The element after its output channel has written what it could; the token of a FENCE or a barrier wait, once written, ends what it
holds back (R183, R433, R434). -/
def Elem.afterOut (el : Elem) (o : Fin 4) (later : List Owed) : Elem :=
  let still (id : Nat) : Bool := !(barIds (vget el.outq o)).contains id || (barIds later).contains id
  { el with outq := vset el.outq o later, barWait := el.barWait.filter still, portBlock := el.portBlock.filter still }

/-- The output channel delivers what it can, in firing order (R168). -/
def State.drainOut (s : State) (task : Nat) (vt e : Fin 16) (o : Fin 4) : State :=
  let (now, later) := takeToks (vget (s.elem task vt e).outq o)
  now.foldl (fun s t => s.send task (.out vt e o) t.wide)
    (s.updElem task vt e fun el => el.afterOut o later)

/-- A token written by a firing at the end of its step (R108, R168). -/
def State.emit (s : State) (task : Nat) (vt e : Fin 16) (o : Fin 4) (t : Tok) : State :=
  (s.updElem task vt e fun el => { el with outq := vset el.outq o (vget el.outq o ++ [.tok t]) }).drainOut task vt e o

/-- A reply fills its place in an output channel (R168); `bar`: it is that of a FENCE or a barrier wait that holds back its element. -/
def State.emitReply (s : State) (task : Nat) (vt e : Fin 16) (o : Fin 4) (id : Nat) (t : Tok) (bar : Bool := false) : State :=
  (s.updElem task vt e fun el => { el with outq := vset el.outq o ((vget el.outq o).map fun y =>
      match y with
      | .wait j => if j = id then (if bar then .bar t id else .tok t) else y
      | _ => y) }).drainOut task vt e o

/-! ### Requests -/

/-- A new request with the next number. -/
def State.addAcc (s : State) (a : Acc) : State :=
  { s with accs := s.accs.put s.nextId a, nextId := s.nextId + 1 }

def Perf.level (p : Perf) : Nat :=
  match p with
  | .none => 0
  | .group => 1
  | .device => 2
  | .span => 3

/-- The scope of a pad access: a wider scope code acts as GROUP (R170). -/
def Scope.inPad (x : Scope) : Scope :=
  match x with
  | .elem => .elem
  | .tile => .tile
  | _ => .group

/-- The level at which a scope is met (R170, R442). -/
def Scope.level (x : Scope) : Nat :=
  match x with
  | .elem | .tile | .group => 1
  | .region | .device => 2
  | .span => 3

/-- The request is done with: it has performed as widely as it will, and has been answered. -/
def Acc.finished (a : Acc) : Bool := a.answered && a.perf == .span

/-- Requests among a list that have not performed at a level. -/
def State.unperformed (s : State) (l : List Nat) (lv : Nat) : Bool :=
  l.any fun i =>
    match s.accs.get? i with
    | some a => a.perf.level < lv
    | none => false

/-- Dependences still outstanding (R437). -/
def State.live (s : State) (l : List Nat) : List Nat := l.filter fun i => (s.accs.get? i).isSome

/-- Finished requests leave the state. -/
def State.reap (s : State) (id : Nat) : State :=
  match s.accs.get? id with
  | some a => if a.finished then { s with accs := s.accs.del id } else s
  | none => s

/-- A free value (DESIGN CHOICE, log entry 10). -/
def State.free (s : State) (f : Nat → Word) : Word × State := (f s.freeNo, { s with freeNo := s.freeNo + 1 })

/-! ### Messages to other dies (R486, R490) -/

/-- A message for another die waits to be sent. -/
def State.sendTo (s : State) (die : Nat) (m : Msg) : State := { s with tx := s.tx ++ [{ dst := die, msg := m }] }

/-- The other dies of the span. -/
def State.others (s : State) : List Nat := (List.range (s.spm1.toNat + 1)).filter (· != s.die.toNat)

/-- A message for every other die of the span. -/
def State.tellAll (s : State) (m : Msg) : State := s.others.foldl (fun s d => s.sendTo d m) s

/-- Counters compare modulo 2^16 (R486). -/
def clockGe (a b : BitVec 16) : Bool := (a - b).toNat < 32768

/-- A clock merged into this die's (R488). -/
def State.mergeClock (s : State) (c : List (BitVec 16)) : State :=
  { s with clk := Vector.ofFn fun k : Fin 16 =>
      let a := vget s.clk k
      let b := c.getD k.val a
      if k.val = s.die.toNat || clockGe a b then a else b }

/-! ### Event counters (R504-R506) -/

/-- A counter's EN, MODE, CTX, TILE and SRC accept an event: its context, if it has one, and whether its group is on a tile (R504). -/
def Ctr.admits (c : Ctr) (src : Nat) (ctx : Option Nat) (on : Nat → Bool) : Bool :=
  let w := c.sel.toNat
  w / 2 ^ 63 == 1 && w % 256 == src &&
    (match w / 2 ^ 61 % 4 with
     | 1 => ctx == some (w / 2 ^ 36 % 4096)
     | 2 => on (w / 2 ^ 32 % 16)
     | _ => true)

def Ctr.add (c : Ctr) (n : Nat) : Ctr := { c with val := BitVec.ofNat 48 (min (c.val.toNat + n) (2 ^ 48 - 1)) }

/-- The group of a task is on a tile of a physical region. -/
def State.onTile (s : State) (task : Option Nat) (r k : Nat) : Bool := task.isSome && (s.tile (16 * r + k)).owner == task

/-- Physical region of a task's group. -/
def State.regionOf (s : State) (task : Option Nat) : Nat := s.physRegion ((task.bind s.group?).elim 0 (·.region))

/-- An event of n in a region counted by its counters and the hub's (R505); the context and the task that it belongs to, if any. -/
def State.count (s : State) (r : Nat) (ctx task : Option Nat) (src n : Nat) : State :=
  let f (q : Nat) (c : Ctr) : Ctr := if c.admits src ctx (s.onTile task q) then c.add n else c
  { s.updRegion r (fun x => { x with ctrs := x.ctrs.map (f r) }) with hubCtrs := s.hubCtrs.map (f (s.regionOf task)) }

/-- An event of one task's copy. -/
def State.countAt (s : State) (task : Nat) (_vt : Fin 16) (src n : Nat) : State :=
  match s.group? task with
  | some g => s.count (s.physRegion g.region) (some g.ctx) (some task) src n
  | none => s

/-- An event of the hub alone (R505, sources 0x28-0x2D, and host operations); its context, if it has one. -/
def State.countHub (s : State) (src n : Nat) (ctx : Option Nat := none) : State :=
  { s with hubCtrs := s.hubCtrs.map fun c => if c.admits src ctx (fun _ => false) then c.add n else c }

/-- Progress of a group: the watchdog count returns to 0 (R470). -/
def State.progress (s : State) (task : Nat) : State := s.updGroup task fun g => { g with wd := 0, episode := none }

end Sys2Proof.Machine
end

