-- ==== Sys2Proof/Machine/Flags.lean ====
section
/-! DEFINITION. The flags of the Sahuno: predicates p0-p7 of an element (R113), the phase bits of CARRY (R141) and the
tile's ARSTAT (R63). -/

namespace Sys2Proof.Machine

/-- A bit of a small register set or cleared. -/
def setBit {w : Nat} (x : BitVec w) (n : Nat) (b : Bool) : BitVec w :=
  if b then x ||| BitVec.ofNat w (2 ^ n) else x &&& ~~~BitVec.ofNat w (2 ^ n)

/-- Predicate n. -/
def Elem.pred (el : Elem) (n : Fin 8) : Bool := el.p.getLsbD n.val

/-- A predicate written, with what its value is derived from (R437). -/
def Elem.setPred (el : Elem) (n : Fin 8) (b : Bool) (deps : List Nat) : Elem :=
  { el with p := setBit el.p n.val b, pDeps := vset el.pDeps n deps }

/-- PW: p[PD] := result ≠ 0 (R113). -/
def Elem.pw (el : Elem) (pw : Bool) (pd : Fin 8) (v : Word) (deps : List Nat) : Elem :=
  if pw then el.setPred pd (v != 0) deps else el

/-- The CARRY phase of a slot: true is LOOP (R141). -/
def Elem.phase (el : Elem) (slot : Fin 40) : Bool := el.carry.getLsbD slot.val

def Elem.setPhase (el : Elem) (slot : Fin 40) (b : Bool) : Elem := { el with carry := setBit el.carry slot.val b }

/-- Pending bit of a d register (R167). -/
def Elem.pending (el : Elem) (n : Fin 8) : Bool := el.pend.getLsbD n.val

def Elem.setPend (el : Elem) (n : Fin 8) (b : Bool) : Elem := { el with pend := setBit el.pend n.val b }

end Sys2Proof.Machine
end

