-- ==== Sys2Proof/Machine/Operands.lean ====
section
/-! DEFINITION. Every operand form of a rule: triggers (R80), sources (R111, R112), results and sidebands (R113-R115),
destinations (R82), and the firing of a rule (R106, R109). -/

namespace Sys2Proof.Machine

/-! ### Sources (R82, R111, R112) -/

/-- A source can be read: its register is not pending, its channel has a head that rules see (R106, R167). -/
def Elem.okA (el : Elem) (a : SrcA) : Bool :=
  match a with
  | .d n => !el.pending n
  | .deq c | .peek c => (el.head c).isSome

def Elem.okB (el : Elem) (b : SrcB) : Bool :=
  match b with
  | .d n => !el.pending n
  | .deq c => (el.head c).isSome
  | .k _ => true

/-- What a source delivers: value and sideband (R111), with what it is derived from. -/
def Elem.readA (el : Elem) (a : SrcA) : Tok :=
  match a with
  | .d n => ⟨0, vget el.d n, vget el.dDeps n⟩
  | .deq c | .peek c => (el.head c).getD {}

def Elem.readB (el : Elem) (b : SrcB) : Tok :=
  match b with
  | .d n => ⟨0, vget el.d n, vget el.dDeps n⟩
  | .deq c => (el.head c).getD {}
  | .k n => ⟨0, vget el.k n, []⟩

/-- The channel a source dequeues. -/
def SrcA.takes (a : SrcA) : List (Fin 4) :=
  match a with
  | .deq c => [c]
  | _ => []

def SrcB.takes (b : SrcB) : List (Fin 4) :=
  match b with
  | .deq c => [c]
  | _ => []

/-- The channels a rule dequeues, each once (R112). -/
def takesOf (a : List (Fin 4)) (b : List (Fin 4)) : List (Fin 4) := a ++ b.filter fun c => !a.contains c

/-- Channels dequeued; a pull channel sends a request for each (R119). -/
def Elem.dequeue (el : Elem) (pull : Fin 4 → Bool) : List (Fin 4) → Elem
  | [] => el
  | c :: r =>
    let ch := vget el.inq c
    let ch := { ch with toks := ch.toks.drop 1, reqs := if pull c then ch.reqs + 1 else ch.reqs }
    Elem.dequeue { el with inq := vset el.inq c ch } pull r

/-! ### Destinations (R82) -/

/-- A register destination is not pending (R167). -/
def Elem.okDst (el : Elem) (d : Dst) : Bool :=
  match d with
  | .d n => !el.pending n
  | _ => true

/-- The DST register takes a value. -/
def Elem.setD (el : Elem) (n : Fin 8) (v : Word) (deps : List Nat) : Elem :=
  { el with d := vset el.d n v, dDeps := vset el.dDeps n deps }

/-! ### Sidebands (R83, R113-R115) -/

/-- DIM bits that DIMC selects from the two sources; a control token adds none. -/
def dimOf (m : DimC) (a b : Side) : Side :=
  let f (x : Side) : Side := if Side.ctl x then 0 else Side.dim x
  match m with
  | .none => 0
  | .a => f a
  | .b => f b
  | .ab => f a ||| f b

/-- DIMC copies source A (01 or 11): a control token then goes whole (R49, R114). -/
def DimC.hasA (m : DimC) : Bool :=
  match m with
  | .a | .ab => true
  | _ => false

/-- The token an EA instruction writes to an output channel for the result v (R113, R114). -/
def resultTok (a : Tok) (bside : Side) (ctag : Bool) (m : DimC) (v : Word) (deps : List Nat) : Tok :=
  if Side.ctl a.side then
    (if DimC.hasA m then { a with deps := deps } else ⟨dimOf m a.side bside, a.val, deps⟩)
  else ⟨dimOf m a.side bside ||| (if ctag then Side.tagGen a.side else 0), v, deps⟩

/-- The result value: the computed one, or that of a control token at A (R114). DEDUCED, log entry 42. -/
def resultVal (a : Tok) (v : Word) : Word := if Side.ctl a.side then a.val else v

/-! ### Firing -/

/-- The element that the present locus names, with its copy and group. -/
structure Here where
  g : Group
  x : Inst
  e : Fin 16
  el : Elem
  deriving DecidableEq, Repr

def State.here (s : State) : Option Here :=
  match s.cur.node with
  | .elem e =>
    match s.group? s.cur.task, s.inst? s.cur.task s.cur.vt with
    | some g, some x => some ⟨g, x, e, x.elem e⟩
    | _, _ => none
  | _ => none

/-- A trigger holds (R80). -/
def State.trig (s : State) (h : Here) (t : Trig) : Bool :=
  let dataHead (c : Fin 4) (f : Side → Bool) : Bool :=
    match h.el.head c with
    | some k => !Side.ctl k.side && f k.side
    | none => false
  let ctlHead (c : Fin 4) (f : Side → Bool) : Bool :=
    match h.el.head c with
    | some k => Side.ctl k.side && f k.side
    | none => false
  match t with
  | .alw => true
  | .pt n => h.el.pred n
  | .pf n => !h.el.pred n
  | .tok c => dataHead c fun _ => true
  | .ctl c => ctlHead c fun _ => true
  | .dend c => dataHead c fun x => Side.dim x != 0
  | .endc c => ctlHead c fun x => Side.op x == 10
  | .tag c => dataHead c fun x => Side.tag x == (vget h.el.k 3).toNat % 16
  | .null c => dataHead c fun x => Side.tag x == 15
  | .rdy o => s.outRoom s.cur.task h.g s.cur.vt h.e o

/-- What a trigger's test derives from (R437). -/
def Elem.trigDeps (el : Elem) (t : Trig) : List Nat :=
  let hd (c : Fin 4) : List Nat :=
    match el.head c with
    | some k => k.deps
    | none => []
  match t with
  | .alw | .rdy _ => []
  | .pt n | .pf n => vget el.pDeps n
  | .tok c | .ctl c | .dend c | .endc c | .tag c | .null c => hd c

/-- The conditions common to every rule (R106): the group and the copy run, the element is used, not ended, in the state
that tests the slot, and the trigger holds. -/
def State.gate (s : State) (h : Here) (t : Trig) : Bool :=
  h.g.live && h.g.isResident s.cur.vt h.x && h.x.nodeLive (.elem h.e) && h.x.used.getLsbD h.e.val
    && !h.el.done && h.el.badWord.isNone && (h.el.inTrap == decide (32 ≤ s.cur.slot.val)) && s.trig h t

/-- Room for a destination's channel (R106). -/
def State.dstRoom (s : State) (h : Here) (d : Dst) : Bool :=
  match d with
  | .o o => s.outRoom s.cur.task h.g s.cur.vt h.e o
  | _ => true

/-- The state once the firing at the locus has taken its debit: the copy is x, the firing and the drops are counted. -/
def State.paid (s : State) (x : Inst) (d : Nat) : State :=
  ((s.mark.setInst s.cur.task s.cur.vt x).progress s.cur.task).countAt s.cur.task s.cur.vt 0x03 1 |>.countAt
    s.cur.task s.cur.vt 0x04 d

/-- A firing's debit is taken, or the rule does not fire: the group falls short, or the tile waits at handover (R109, R282, R287). `k` gives the state after the debit. -/
def State.charge (s : State) (h : Here) (opc d : Nat) (k : State → State) : State :=
  match h.x.pay d with
  | .wait => s.waitStore s.cur.task s.cur.vt
  | .short => s.raise s.cur.task (.short s.cur.vt (.elem h.e) opc d)
  | .ok x => k (s.paid x d)

/-- The element at the locus takes new contents. -/
def State.putHere (s : State) (h : Here) (el : Elem) : State :=
  s.updInst s.cur.task s.cur.vt fun x => x.setElem h.e el

/-- A channel of the element is a pull channel (R117). -/
def State.pullHere (s : State) (h : Here) (c : Fin 4) : Bool := h.g.img.isPull s.cur.vt h.e c

/-- A token written to an output channel by the firing element. -/
def State.out (s : State) (h : Here) (o : Fin 4) (t : Tok) : State :=
  (s.takePull s.cur.task h.g s.cur.vt h.e o).emit s.cur.task s.cur.vt h.e o t

/-- ARSTAT bits set by the firing element's tile (R63). -/
def State.setAr (s : State) (a : Ar) : State := s.updInst s.cur.task s.cur.vt fun x => x.setAr a

/-- A result written to DST with PW (R113, R114). -/
def State.result (s : State) (h : Here) (el : Elem) (dst : Dst) (tok : Tok) (val : Word) (pd : Fin 8) (pw : Bool) :
    State :=
  let el := el.pw pw pd val tok.deps
  match dst with
  | .d n => s.putHere h (el.setD n val tok.deps)
  | .o o => (s.putHere h el).out h o tok
  | .pred | .none => s.putHere h el

/-- Dependences of a firing's result: sources and trigger (R437). -/
def State.fireDeps (s : State) (h : Here) (t : Trig) (l : List Nat) : List Nat :=
  s.live ((h.el.trigDeps t ++ l).eraseDups)

/-- The two-source register form: f gives the result from the two values (R113, R114, R124). DESIGN CHOICE, log entry 18. -/
def State.fireEa2 (s : State) (i : Ea2) (opc d : Nat) (f : Word → Word → Word × Ar) : State :=
  match s.here with
  | none => s
  | some h =>
    if s.gate h i.trig && h.el.okA i.sa && h.el.okB i.sb && h.el.okDst i.dst && s.dstRoom h i.dst then
      s.charge h opc d fun s =>
        let a := h.el.readA i.sa
        let b := h.el.readB i.sb
        let deps := s.fireDeps h i.trig (a.deps ++ b.deps)
        let (v, ar) := if Side.ctl a.side then (a.val, {}) else f a.val b.val
        let el := h.el.dequeue (s.pullHere h) (takesOf (SrcA.takes i.sa) (SrcB.takes i.sb))
        (s.result h el i.dst (resultTok a b.side i.ctag i.dim v deps) v i.pd i.pw).setAr ar
    else s

/-- The one-source register form (R125, R134). `f` sees the whole token. -/
def State.fireEa1 (s : State) (i : Ea1) (opc d : Nat) (f : Tok → Word × Ar) : State :=
  match s.here with
  | none => s
  | some h =>
    if s.gate h i.trig && h.el.okA i.sa && h.el.okDst i.dst && s.dstRoom h i.dst then
      s.charge h opc d fun s =>
        let a := h.el.readA i.sa
        let deps := s.fireDeps h i.trig a.deps
        let (v, ar) := if Side.ctl a.side then (a.val, {}) else f a
        let el := h.el.dequeue (s.pullHere h) (SrcA.takes i.sa)
        (s.result h el i.dst (resultTok a 0 i.ctag i.dim v deps) v i.pd i.pw).setAr ar
    else s

/-- The immediate forms: a control token at A is data, the sideband of the result is zero (R84, R115). -/
def State.fireEi (s : State) (t : Trig) (dst : Dst) (sa : SrcA) (pd : Fin 8) (pw : Bool) (opc d : Nat)
    (f : Word → Word × Ar) : State :=
  match s.here with
  | none => s
  | some h =>
    if s.gate h t && h.el.okA sa && h.el.okDst dst && s.dstRoom h dst then
      s.charge h opc d fun s =>
        let a := h.el.readA sa
        let deps := s.fireDeps h t a.deps
        let (v, ar) := f a.val
        let el := h.el.dequeue (s.pullHere h) (SrcA.takes sa)
        (s.result h el dst ⟨0, v, deps⟩ v pd pw).setAr ar
    else s

/-- A firing with no source: f gives the result from the element (R122, R134, R135). -/
def State.fireNone (s : State) (t : Trig) (dst : Dst) (side : Side) (pd : Fin 8) (pw : Bool) (opc d : Nat)
    (f : Here → Word) : State :=
  match s.here with
  | none => s
  | some h =>
    if s.gate h t && h.el.okDst dst && s.dstRoom h dst then
      s.charge h opc d fun s =>
        let v := f h
        s.result h h.el dst ⟨side, v, s.fireDeps h t []⟩ v pd pw
    else s

/-- The predicate instructions: f gives the new predicate from the old ones (R133). -/
def State.firePred (s : State) (t : Trig) (pd : Fin 8) (opc : Nat) (reads : List (Fin 8)) (f : Elem → Bool) : State :=
  match s.here with
  | none => s
  | some h =>
    if s.gate h t then
      s.charge h opc 1 fun s =>
        s.putHere h (h.el.setPred pd (f h.el) (s.fireDeps h t (reads.flatMap fun n => vget h.el.pDeps n)))
    else s

end Sys2Proof.Machine
end

