-- ==== Sys2Proof/Machine/Tensor.lean ====
section
/-! DEFINITION. Tensor objects, pointers, layouts, pages, frames and the translation of an access
(spec/06_memory.md R155-R162, spec/11_tensors.md R313-R321, spec/12_pages.md R332-R338). -/

namespace Sys2Proof.Machine

/-! ### Object descriptors (R313) -/

/-- Field [hi:lo] of a number. -/
def field (w hi lo : Nat) : Nat := w / 2 ^ lo % 2 ^ (hi + 1 - lo)

def descFmt (d : Nat) : Nat := field d 3 0
def descLayout (d : Nat) : Nat := field d 9 8
def descAxes (d : Nat) : Nat := field d 11 10 + 1
def descFe (d : Nat) : Bool := field d 15 15 == 1
def descPlace (d : Nat) : Nat := field d 17 16
def descSbase (d : Nat) : Nat := field d 31 24
def descWr (d : Nat) : Bool := field d 32 32 == 1
def descKey (d : Nat) : Nat := field d 45 33
def descExt (d i : Nat) : Nat := field d (95 + 32 * i) (64 + 32 * i)

def descFormat (d : Nat) : Fmt := (Fmt.ofCode (descFmt d)).getD .fp32

/-- Extents of the used axes, ax0 first. -/
def descExts (d : Nat) : List Nat := (List.range (descAxes d)).map (descExt d)

/-- Element count. -/
def descCount (d : Nat) : Nat := (descExts d).foldl (· * ·) 1

def roundUpTo (n k : Nat) : Nat := (n + k - 1) / k * k

/-- Extents padded on the left with 1 to four axes. -/
def exts4 (d : Nat) : List Nat := List.replicate (4 - descAxes d) 1 ++ descExts d

/-- Storage elements of the layout (R160, R314). -/
def descStorage (d : Nat) : Nat :=
  match exts4 d with
  | [a, b, r, c] =>
    (match descLayout d with
     | 1 => a * b * roundUpTo r 32 * roundUpTo c 32
     | 2 => a * b * roundUpTo r 64 * c
     | _ => a * b * r * c)
  | _ => 0

/-- Pages of an object. -/
def descPages (d : Nat) : Nat := (descStorage d * (descFormat d).bytes + 65535) / 65536

/-- Axis coordinates of a linear coordinate over four axes, the last fastest (R160). -/
def coordsOf (e : List Nat) (n : Nat) : List Nat :=
  match e with
  | [_, b, r, c] => [n / (max 1 c * max 1 r * max 1 b), n / (max 1 c * max 1 r) % max 1 b, n / max 1 c % max 1 r, n % max 1 c]
  | _ => []

/-- Element index q of four coordinates under the layout code (R160). -/
def layoutIndex (d : Nat) (c : List Nat) : Nat :=
  match exts4 d, c with
  | [_, e1, e2, e3], [c0, c1, c2, c3] =>
    (match descLayout d with
     | 1 =>
       let bl := (e3 + 31) / 32
       (c0 * e1 + c1) * roundUpTo e2 32 * (32 * bl) + ((c2 / 32) * bl + c3 / 32) * 1024 + (c2 % 32) * 32 + c3 % 32
     | 2 => (c0 * e1 + c1) * roundUpTo e2 64 * e3 + (c2 / 64) * (64 * e3) + c3 * 64 + c2 % 64
     | 3 => ((c0 * e2 + c2) * e3 + c3) * e1 + c1
     | _ => ((c0 * e1 + c1) * e2 + c2) * e3 + c3)
  | _, _ => 0

/-- Byte offset of a linear coordinate. -/
def byteOf (d n : Nat) : Nat := layoutIndex d (coordsOf (exts4 d) n) * (descFormat d).bytes

/-! ### Handle slots (R320, R321) -/

def slotKey (ctx h : Nat) : Nat := ctx * 4096 + h % 4096

def State.slot? (s : State) (ctx h : Nat) : Option Slot := if h % 4096 = 0 then none else s.slots.get? (slotKey ctx h)

/-- A slot may be used by a group (R321). -/
def Slot.usable (x : Slot) (task : Nat) : Bool :=
  match x.st with
  | .opened => true
  | .priv o => o == task
  | .closing o _ _ _ => o != task

/-- A slot may be used by the host (R321). -/
def Slot.hostUsable (x : Slot) : Bool :=
  match x.st with
  | .priv _ => false
  | _ => true

/-- The object that a handle names for a group. -/
def State.objOf (s : State) (ctx task h : Nat) : Option (Nat × Obj) :=
  match s.slot? ctx h with
  | some x => if x.usable task then (s.objs.get? x.obj).map fun o => (x.obj, o) else none
  | none => none

def State.hostObj (s : State) (ctx h : Nat) : Option (Nat × Obj) :=
  match s.slot? ctx h with
  | some x => if x.hostUsable then (s.objs.get? x.obj).map fun o => (x.obj, o) else none
  | none => none

/-! ### Frames (R16, R20, R334; physical numbering, log entry 2) -/

/-- Byte address of a frame; none where the part has no such frame. DESIGN CHOICE, log entry 2. -/
def frameAddr (loc frame : Nat) : Option Nat :=
  if loc = 0 then (if frame < 49152 && frame % 48 != 47 then some (268435456 + frame * 65536) else none)
  else if loc = 1 then (if frame < 4194304 then some (4294967296 + frame * 65536) else none)
  else none

/-- Physical region whose engine serves a frame (R186). -/
def homeRegion (loc frame : Nat) : Nat := if loc = 0 then frame / 48 / 16 else frame / 65536

/-- The page entry of a byte of an object. -/
def Obj.page (o : Obj) (byte : Nat) : Page := o.pages.getD (byte / 65536) {}

/-- Physical address of a byte of a resident page. -/
def Obj.addr (o : Obj) (byte : Nat) : Option Nat :=
  let p := o.page byte
  (frameAddr p.loc p.frame).map fun a => a + byte % 65536

/-- The page of a byte can be reached: valid and not moving. -/
def State.pageReady (s : State) (obj byte : Nat) : Bool :=
  match s.objs.get? obj with
  | some o => let p := o.page byte; p.v && p.moving.isNone
  | none => false

/-- A port of this die may accept an access of the page: it can be reached, and its entry is not about to change (R335, R339). -/
def State.pageOpen (s : State) (obj byte : Nat) : Bool :=
  match s.objs.get? obj with
  | some o => let p := o.page byte; p.v && p.moving.isNone && !p.held
  | none => false

/-- The die that holds the page of a byte. -/
def State.pageDie (s : State) (obj byte : Nat) : Nat :=
  match s.objs.get? obj with
  | some o => (o.page byte).die
  | none => 0

def State.isRemote (s : State) (obj byte : Nat) : Bool := s.pageDie obj byte != s.die.toNat

/-- The 64-bit page entry (R333). -/
def pageEntry (desc : Nat) (die : Nat) (p : Page) : Nat :=
  let b (x : Bool) : Nat := if x then 1 else 0
  let remote := p.loc == 2 || p.die != die
  b p.v * 2 ^ 63 + b (descWr desc) * 2 ^ 62 + b (descFe desc) * 2 ^ 61 + b p.dead * 2 ^ 60 + descKey desc * 2 ^ 47
    + p.mig * 2 ^ 44 + p.home * 2 ^ 40 + p.die * 2 ^ 36 + (if remote then 2 else p.loc) * 2 ^ 34 + b p.pin * 2 ^ 33
    + b p.drt * 2 ^ 32 + (if remote then 0 else p.frame)

/-! ### The commit buffer seen by its group (R169, R173) -/

/-- The stores that an entry still holds: those of its line that have not performed. -/
def Staged.held (e : Staged) : List Held :=
  match e.what with
  | .line _ _ bs => e.going ++ bs
  | _ => []

/-- The staged value of a byte and its staging number in one entry, until it has performed. -/
def Staged.byte? (e : Staged) (obj byte : Nat) : Option (Nat × Byte) :=
  match e.what with
  | .line o l _ =>
    if o = obj ∧ l = byte / 64 then ((e.held.filter fun h => h.off == byte % 64).getLast?).map fun h => (h.no, h.byte) else none
  | _ => none

/-- The latest staged value of a byte over the tiles of a group (R169). -/
def State.stagedByte (s : State) (task obj byte : Nat) : Option (Nat × Byte) :=
  ((s.group task).vts.flatMap fun vt => (s.inst task vt).staged.filterMap fun e => e.byte? obj byte).foldl
    (fun best x =>
      match best with
      | some y => if y.1 < x.1 then some x else best
      | none => some x) none

/-- A byte of an object as its memory node holds it: 0 on a dead page (R174, R341). -/
def State.objByte (s : State) (o : Obj) (byte : Nat) : Byte :=
  if (o.page byte).dead then 0
  else
    match o.addr byte with
    | some a => s.mem.read a
    | none => 0

/-- n bytes of an object as a task's group reads them; true when the commit buffer supplied any (R169). -/
def State.readObj (s : State) (task : Option Nat) (obj : Nat) (o : Obj) (byte n : Nat) : Nat × Bool :=
  let bs := (List.range n).map fun i =>
    match task.bind fun t => s.stagedByte t obj (byte + i) with
    | some (_, b) => (b, true)
    | none => (s.objByte o (byte + i), false)
  (leNat (bs.map (·.1)), bs.any (·.2))

/-- The other dies learn the fields of a page entry that every copy holds alike (R332, R335, R339). DEDUCED, log entry 79. -/
def State.tellEntry (s : State) (obj page : Nat) : State :=
  match s.objs.get? obj with
  | none => s
  | some o => let p := o.pages.getD page {}; s.tellAll (.entry obj page p.die p.v p.mig p.pin p.dead p.drt)

/-- A write to storage clears the dead bit first: what was not written since reads 0 (R174, R335). -/
def State.revive (s : State) (obj : Nat) (o : Obj) (byte : Nat) : State × Obj :=
  let p := o.page byte
  let mem := if p.dead then
      (match frameAddr p.loc p.frame with
       | some a => s.mem.clear a 65536
       | none => s.mem)
    else s.mem
  let o := { o with pages := o.pages.put (byte / 65536) { p with dead := false, drt := true } }
  let s := { s with mem := mem, objs := s.objs.put obj o }
  (if p.dead || !p.drt then s.tellAll (.flags obj (byte / 65536) false true) else s, o)

/-- The write streak of a page after a write from a die (R343): the page starts to move when the streak reaches 64. -/
def Page.streak (p : Page) (die : Nat) : Page :=
  if p.pin then p
  else
    let n := if p.sdie = die && 0 < p.scount then p.scount + 1 else 1
    { p with sdie := die, scount := n, moving := if n = 64 && die != p.die && p.moving.isNone then some die else p.moving }

/-- A page starts to move: every other die invalidates its translations, and its ports accept no access of the page (R335, R339, R344).
DEDUCED, log entry 104. -/
def State.beginMove (s : State) (obj page : Nat) (p : Page) : State × Page :=
  (s.tellAll (.still obj page .move), { p with asked := s.others })

/-- Bytes of one page written at its memory node for a die, FE words becoming full; one write of the streak (R176, R177,
R343). DESIGN CHOICE, log entry 99. -/
def State.writeCells (s : State) (die obj : Nat) (l : List (Nat × Byte)) : State :=
  match l, s.objs.get? obj with
  | (first, _) :: _, some o =>
    (match o.addr first with
     | none => s
     | some _ =>
       let (s, o) := s.revive obj o first
       let p := (o.page first).streak die
       let (s, p) := if p.moving.isSome && (o.page first).moving.isNone then s.beginMove obj (first / 65536) p else (s, p)
       let words := l.map fun (x : Nat × Byte) => x.1 % 65536 / 4
       let p := { p with clocks := p.clocks.filter fun x => !words.contains x.1 }
       let p := if descFe o.desc then { p with full := (p.full ++ words).eraseDups } else p
       let o := { o with pages := o.pages.put (first / 65536) p }
       { s with mem := l.foldl (fun m x => match o.addr x.1 with
                  | some a => m.write a x.2
                  | none => m) s.mem,
                objs := s.objs.put obj o })
  | _, _ => s

/-- Bytes from an offset on, as cells. -/
def cellsFrom (byte : Nat) (bs : List Byte) : List (Nat × Byte) := bs.zipIdx.map fun x => (byte + x.2, x.1)

/-- Consecutive bytes written at the memory node for a die. -/
def State.writeObj (s : State) (die obj : Nat) (byte : Nat) (bs : List Byte) : State :=
  s.writeCells die obj (cellsFrom byte bs)

/-! ### Translation (R161, R162, R337, R338) -/

/-- What an access does to a page (R162, R349 KIND). -/
inductive Use where
  | read
  | write
  | atomic
  deriving DecidableEq, Repr

/-- Outcome of the checks of an access. -/
inductive Chk where
  | fault (code : Nat)
  | page (obj page : Nat)
  | miss (t : Trans)
  | ok (l : Loc) (desc cls : Nat) (fresh : Bool)
  deriving DecidableEq, Repr

/-- The object is fresh for its writers (R292). -/
def Obj.isFresh (o : Obj) : Bool :=
  match o.st with
  | .fresh _ => true
  | _ => false

/-- The checks of R162 on one element of an object, in their order, for a tile; `cached` tells whether a translation is
looked for in the tile's cache. -/
def State.checkByte (s : State) (tile ctx h obj : Nat) (o : Obj) (byte : Nat) (writes : Bool) : Chk :=
  let pg := byte / 65536
  let t : Trans := ⟨ctx, h, pg, tile, false, false⟩
  let c := (s.tile tile).cache
  if c.any (fun x => x.ctx == ctx && x.key == h && x.page == pg && x.bad) then .page obj pg
  else if !c.any (fun x => x.ctx == ctx && x.key == h && x.page == pg) then .miss t
  else
    let p := o.page byte
    if !p.v then .page obj pg
    else if writes && !descWr o.desc then .fault 0x23
    else if !(s.keys.get? (descKey o.desc)).any (·.ctx == ctx) then .fault 0x24
    else .ok ⟨obj, byte, h⟩ o.desc
      (distClass tile (if p.loc = 2 || p.die != s.die.toNat then 2 else p.loc) p.frame) o.isFresh

/-- The checks of R162 on a tensor pointer. DEDUCED, log entry 47. -/
def State.check (s : State) (tile ctx task : Nat) (ptr : Word) (writes atomic : Bool) : Chk :=
  let h := ptr.toNat / 1048576
  match s.objOf ctx task h with
  | none => .fault 0x22
  | some (obj, o) =>
    let c := ptr.toNat % 1048576
    if descCount o.desc ≤ c then .fault 0x21
    else if atomic && (descFormat o.desc).bits != 32 then .fault 0x02
    else s.checkByte tile ctx h obj o (byteOf o.desc c) writes

/-- A fill is started for a missing translation: at most 4 outstanding, one for each page (R161, R338); a PREF that finds 4 outstanding
starts none. DESIGN CHOICE, log entry 112. -/
def State.startFill (s : State) (tile : Nat) (t : Trans) : State :=
  let x := s.tile tile
  let same (y : Trans) : Bool := y.ctx == t.ctx && y.key == t.key && y.page == t.page
  if x.fills.any same then
    s.setTile tile { x with fills := x.fills.map fun y => if same y then { y with pref := y.pref && t.pref } else y }
  else if x.fills.length < 4 then (s.setTile tile { x with fills := x.fills ++ [t] }).count (tile / 16) (some t.ctx) x.owner 0x16 1
  else s

/-- A cache of n entries takes an entry as its most recently used; the least recently used leaves (R337). -/
def lruPut (n : Nat) (t : Trans) (l : List Trans) : List Trans :=
  let l := l.filter fun x => !(x.ctx == t.ctx && x.key == t.key && x.page == t.page)
  (if l.length < n then l else l.drop 1) ++ [t]

/-- The set of the region cache an entry falls in (R337: 256 sets of 8 ways; the index is DESIGN CHOICE, log entry 14's choice). -/
def transSet (t : Trans) : Nat := (t.key * 1048576 + t.page + t.ctx) % 256

/-- The region cache with an entry. DESIGN CHOICE, log entry 14. -/
def regionPut (t : Trans) (l : List Trans) : List Trans :=
  let same := l.filter fun x => transSet x == transSet t
  l.filter (fun x => transSet x != transSet t) ++ lruPut 8 t same

/-- An accepted access uses the tile's translation of its page (R337). -/
def State.touch (s : State) (tile ctx : Nat) (l : Loc) : State :=
  let x := s.tile tile
  let mine (y : Trans) : Bool := y.ctx == ctx && y.key == l.handle && y.page == l.byte / 65536
  if x.cache.any mine then s.setTile tile { x with cache := x.cache.filter (fun y => !mine y) ++ x.cache.filter mine } else s

/-- An engine's access uses its tile's translations of some places (R337). -/
def State.touchAll (s : State) (tile ctx : Nat) (l : List Loc) : State := l.foldl (fun s p => s.touch tile ctx p) s

/-- The object that a tile's translation names. -/
def State.transObj (s : State) (t : Trans) : Nat :=
  match s.slot? t.ctx t.key with
  | some x => x.obj
  | none => 0

/-- A page entry change invalidates every cached translation of the page (R339). -/
def State.invalidate (s : State) (obj page : Nat) : State :=
  let names (t : Trans) : Bool := s.transObj t == obj && t.page == page
  { s with
    tiles := s.tiles.mapAll fun _ x => { x with cache := x.cache.filter fun t => !names t }
    regions := s.regions.map fun r => { r with cache := r.cache.filter fun t => !(t.key == obj && t.page == page) } }

end Sys2Proof.Machine
end

