-- ==== Sys2Proof/Machine/Staging.lean ====
section
/-! DEFINITION. The commit buffer (spec/06_memory.md R173, R187), the opening of cairn cuts and implicit seals
(spec/10_charge.md R294-R300), and requests that a cut records. -/

namespace Sys2Proof.Machine

/-! ### The commit buffer -/

/-- Lines of a tile in use: staged entries that have not performed (R173). -/
def Inst.linesUsed (x : Inst) : Nat := (x.staged.filter fun e => !e.sent).length

/-- Entries staged and not covered by a cut (R300). -/
def Inst.uncovered (x : Inst) : Nat := (x.staged.filter fun e => e.cut.isNone).length

/-- Lines that one instance may use (R310). -/
def Group.lineCap (g : Group) : Nat := 1024 / max 1 g.fold

/-- The cut in progress that a node has passed, 0 for none. -/
def Group.afterOf (g : Group) (vt : Fin 16) (n : Node) : Nat :=
  match g.cut with
  | some c => if c.hasPassed (vt, n) then c.no else 0
  | none => 0

/-- An entry that a store to a line merges into (R173); stores on the two sides of a cut in progress do not share one. DEDUCED, log
entry 22. -/
def Staged.takes (e : Staged) (after obj line : Nat) : Bool :=
  match e.what with
  | .line o l _ => o == obj && l == line && e.cut.isNone && e.after == after
  | _ => false

/-- A staged entry can be placed: a free line, or for a store a line to merge into (R173). -/
def State.hasLine (s : State) (task : Nat) (g : Group) (vt : Fin 16) (n : Node) (merge : Option (Nat × Nat)) : Bool :=
  let x := s.inst task vt
  x.linesUsed < g.lineCap ||
    (match merge with
     | some (obj, line) => x.staged.any fun e => e.takes (g.afterOf vt n) obj line
     | none => false)

/-- An entry staged with the next staging number (R292). -/
def State.stage (s : State) (task : Nat) (vt : Fin 16) (n : Node) (what : Stg) (accs : List Nat) : State :=
  let after := (s.group task).afterOf vt n
  State.updInst { s with stageNo := s.stageNo + 1 } task vt fun x =>
    { x with staged := x.staged ++ [{ no := s.stageNo, what := what, accs := accs.map fun i => (i, s.stageNo), node := n, after := after }] }

/-- The bytes of one store in a line, from an offset on. -/
def heldFrom (off no : Nat) (bs : List Byte) : List Held := bs.zipIdx.map fun x => ⟨off + x.2, no, x.1⟩

/-- A store of bytes within one line staged: it merges into a line that its tile has staged, or takes one (R173). A line keeps its
stores apart until they perform, since another tile's effect on a word may stand between two of them (R445). DEDUCED, log entry 22.
-/
def State.stageLine (s : State) (task : Nat) (vt : Fin 16) (n : Node) (obj byte : Nat) (bs : List Byte)
    (accs : List Nat) : State :=
  let after := (s.group task).afterOf vt n
  let line := byte / 64
  let hs := heldFrom (byte % 64) s.stageNo bs
  if (s.inst task vt).staged.any fun e => Staged.takes e after obj line then
    State.updInst { s with stageNo := s.stageNo + 1 } task vt fun x =>
      { x with staged := x.staged.map fun e =>
          if e.takes after obj line then
            (match e.what with
             | .line o l old =>
               { e with what := .line o l (old ++ hs), accs := e.accs ++ accs.map fun i => (i, s.stageNo) }
             | _ => e)
          else e }
  else s.stage task vt n (.line obj line hs) accs

/-! ### Opening a cut (R294, R295, R300) -/

/-- The next cut of a group opens; the lines of the tile that pays for it are paid (R295, R300). -/
def State.openCut (s : State) (task : Nat) (vt : Fin 16) (closer : Option Nat) : State :=
  let s := s.updGroup task fun g =>
    { g with cut := some { no := g.nextCut, closer := closer },
             nextCut := if 4294967295 ≤ g.nextCut then 1 else g.nextCut + 1 }
  { s with insts := s.insts.mapAll fun k x =>
      if k / 16 = task then
        { x with sinceOpen := 0,
                 staged := if k % 16 = vt.val then x.staged.map fun e => { e with paid := e.paid || e.cut.isNone } else x.staged }
      else x }

/-- A debit outside a rule's firing: taken with its events, or not covered (R282). `wait`: the state in which the tile waits for its
next store (R287). -/
def State.debit (s : State) (task : Nat) (vt : Fin 16) (node : Node) (opc d : Nat) (wait : State) (k : State → State) :
    State :=
  match (s.inst task vt).pay d with
  | .wait => wait.waitStore task vt
  | .short => s.raise task (.short vt node opc d)
  | .ok x => k (((s.setInst task vt x).progress task).countAt task vt 0x04 d)

/-- An implicit seal waits (R294). -/
def State.queueSeal (s : State) (task : Nat) (vt : Fin 16) (node : Node) (closer : Option Nat) : State :=
  s.updGroup task fun g =>
    if g.seals.contains (vt, node, closer) then g else { g with seals := g.seals ++ [(vt, node, closer)] }

/-- An implicit seal opens and takes its debit (R294). -/
def State.openSeal (s : State) (task : Nat) (vt : Fin 16) (node : Node) (closer : Option Nat) : State :=
  let d := 64 + (s.inst task vt).uncovered
  s.debit task vt node 0x6D d (s.queueSeal task vt node closer) fun s => s.openCut task vt closer

/-- An implicit seal asked for: at once when no cut is in progress, else after (R294, R521). -/
def State.wantSeal (s : State) (task : Nat) (vt : Fin 16) (node : Node) (closer : Option Nat) : State :=
  if (s.group task).cut.isNone then s.openSeal task vt node closer else s.queueSeal task vt node closer

/-- The seal that a full commit buffer asks for (R173): none while a cut is in progress. -/
def State.sealFull (s : State) (task : Nat) (vt : Fin 16) (node : Node) : State :=
  if (s.group task).cut.isNone then s.wantSeal task vt node none else s

/-! ### Requests that a cut records (log entry 12) -/

/-- A look of a SPAWN at the future that its task would own (R410): no access of a rule that has fired. -/
def Acc.isLook (a : Acc) : Bool :=
  match a.req with
  | .fut _ .poll => a.opc == 0x68
  | _ => false

/-- A wait at a sync unit (R435). -/
def Acc.waits (a : Acc) : Bool :=
  match a.req with
  | .sem _ _ (.wait _) | .bar _ (.wait _) | .bar _ (.both _) => true
  | _ => false

/-- A record takes what becomes of a request, the reply to a read among it (R279); of a wait at a sync unit only the target, since a
rollback withdraws it (R430, R435). -/
def CutRec.updAcc (r : CutRec) (id : Nat) (a : Acc) : CutRec :=
  r.mapAll fun _ x => { x with accs := x.accs.modify id fun b => if a.waits then { b with req := a.req } else a }

/-- A request changed, in the records that hold it too. -/
def State.setAcc (s : State) (id : Nat) (a : Acc) : State :=
  let s := { s with accs := s.accs.put id a }
  match a.task with
  | none => s
  | some t => s.updGroup t fun g =>
      { g with back := CutRec.updAcc g.back id a, cut := g.cut.map fun c => { c with record := CutRec.updAcc c.record id a } }

/-- A request has performed at a level (R170). -/
def State.perform (s : State) (id : Nat) (p : Perf) : State :=
  match s.accs.get? id with
  | some a => if a.perf.level < p.level then (s.setAcc id { a with perf := p }).reap id else s
  | none => s

def State.performAll (s : State) (l : List Nat) (p : Perf) : State := l.foldl (fun s i => s.perform i p) s

/-! ### Sending a request from a rule (R165-R168) -/

def destOf (d : Dst) : Dest :=
  match d with
  | .d n => .reg n
  | .o o => .out o
  | .pred | .none => .none

/-- The element has fired an access, derived from some (R446). -/
def Elem.remember (el : Elem) (l : List Nat) : Elem := { el with past := (el.past ++ l).eraseDups }

/-- The element with its reply places reserved: DST and a stepped address pending, the channel's place kept. -/
def Elem.reserve (el : Elem) (id : Nat) (d : Dest) (link : Option (Fin 8 × Word)) : Elem :=
  let el := match d with
    | .reg n => el.setPend n true
    | .out o => { el with outq := vset el.outq o (vget el.outq o ++ [.wait id]) }
    | .none => el
  match link with
  | some (x, _) => el.setPend x true
  | none => el

/-- A request of the firing element leaves with its place for the reply reserved. -/
def State.sendReq (s : State) (h : Here) (el : Elem) (dst : Dst) (a : Acc) : State :=
  let id := s.nextId
  let a := { a with task := some s.cur.task, vt := s.cur.vt, node := .elem h.e, slot := s.globalTile h.g h.x, dest := destOf dst,
                    rule := s.cur.slot.val, step := h.x.stepNo }
  let el := { el with past := s.live el.past }.remember (id :: a.deps)
  let s := s.putHere h (el.reserve id a.dest a.link)
  let s := match dst with
    | .o o => s.takePull s.cur.task h.g s.cur.vt h.e o
    | _ => s
  s.addAcc a

/-- An entry that the hub applies is staged by the firing element (R292): a request stands for it until it has performed, for what
waits for the element's accesses (R425, R446). -/
def State.stageHub (s : State) (h : Here) (opc : Nat) (deps : List Nat) (what : Stg) : State :=
  let id := s.nextId
  let s := s.updElem s.cur.task s.cur.vt h.e fun el => { el with past := s.live el.past }.remember (id :: deps)
  (s.addAcc { task := some s.cur.task, vt := s.cur.vt, node := .elem h.e, req := .hub, scope := .device, order := .rel, opc := opc,
              deps := deps, perf := .group, answered := true, staged := true, rule := s.cur.slot.val }).stage
    s.cur.task s.cur.vt (.elem h.e) what [id]

end Sys2Proof.Machine
end

