-- ==== Sys2Proof/Machine/Access.lean ====
section
/-! DEFINITION. Loads, stores, linked loads, full-empty accesses, DISC, FENCE and PREF (spec/06_memory.md
R155-R184). Replies and completions are events of their own. -/

namespace Sys2Proof.Machine

/-! ### The pad (R155-R158) -/

def Size.bytes (x : Size) : Nat :=
  match x with
  | .byte => 1
  | .half => 2
  | .word => 4

/-- Virtual tile and offset that a pad address reaches with an access of n bytes (R155-R157). -/
def padTarget (g : Group) (vt : Fin 16) (a n : Nat) : Fin 16 × Nat :=
  (if a / 268435456 % 2 = 1 then vtOf (a / 16777216 % 16 % max 1 g.img.gsz) else vt,
   a % 262144 % padWindow g.img.pad / n * n)

/-- The conditions of an EM rule beside its sources' (R106, R183). -/
def State.emReady (s : State) (h : Here) (t : Trig) (dst : Dst) : Bool :=
  s.gate h t && h.el.okDst dst && s.dstRoom h dst && h.el.portBlock.isEmpty

/-- The pad bytes that an element's access of n bytes reaches are not those of a heap that is held (R220). -/
def State.padFree (s : State) (h : Here) (a : Word) (n : Nat) : Bool :=
  let (vt, off) := padTarget h.g s.cur.vt a.toNat n
  !s.heapHeld s.cur.task vt off n

/-- LDP (R174). -/
def execLdp (x : EmLdp) (s : State) : Out :=
  match s.here with
  | none => .next s
  | some h =>
    if s.emReady h x.trig x.dst && h.el.okA x.sa && s.padFree h (h.el.readA x.sa).val (Size.bytes x.size) then
      .next <| s.charge h 0x48 2 fun s =>
        let a := h.el.readA x.sa
        let n := Size.bytes x.size
        let (vt, off) := padTarget h.g s.cur.vt a.val.toNat n
        let el := h.el.dequeue (s.pullHere h) (SrcA.takes x.sa)
        s.sendReq h el x.dst { req := .padRd vt off n, scope := Scope.inPad x.scope, order := x.order,
                               deps := s.fireDeps h x.trig a.deps, tokVal := a.val, opc := 0x48 }
    else .next s

/-- STP (R174). -/
def execStp (x : EmStp) (s : State) : Out :=
  match s.here with
  | none => .next s
  | some h =>
    if s.emReady h x.trig x.dst && h.el.okA x.sa && h.el.okB x.sb && s.padFree h (h.el.readA x.sa).val (Size.bytes x.size)
        && !s.padHeld s.cur.task s.cur.vt (.elem h.e) then
      .next <| s.charge h 0x49 2 fun s =>
        let a := h.el.readA x.sa
        let b := h.el.readB x.sb
        let n := Size.bytes x.size
        let (vt, off) := padTarget h.g s.cur.vt a.val.toNat n
        let el := h.el.dequeue (s.pullHere h) (takesOf (SrcA.takes x.sa) (SrcB.takes x.sb))
        s.sendReq h el x.dst { req := .padWr vt off n b.val, scope := Scope.inPad x.scope, order := x.order,
                               deps := s.fireDeps h x.trig (a.deps ++ b.deps), tokVal := a.val, opc := 0x49,
                               answered := destOf x.dst == .none }
    else .next s

/-! ### Tensor accesses (R161-R164) -/

/-- How an access takes effect (R170, R181, R187, R292): at its unit at once, staged as an entry or a line, or at its unit
as the end of a cut of its own. -/
inductive How where
  | direct
  | staged
  | closes
  deriving DecidableEq, Repr

/-- What a tensor access instruction says: its fields, how its page is used, its debit by distance class, and its
request and its way to take effect from the sources and the object. -/
structure Tensor where
  trig : Trig
  dst : Dst
  sa : SrcA
  sb : Option SrcB := none
  scope : Scope
  order : Order
  opc : Nat
  kind : Nat
  writes : Bool := false
  atomic : Bool := false
  cost : Nat → Nat := classDrops
  also : List Nat := []
  link : Bool := false
  req : Tok → Tok → Loc → Nat → Req
  how : Tok → Nat → Bool → How

/-- The line that a staged store can merge into (R173). -/
def Req.line (r : Req) : Option (Nat × Nat) :=
  match r with
  | .wr l _ _ => some (l.obj, l.byte / 64)
  | _ => none

/-- The commit buffer takes a request's effect (R173, R187, R292). -/
def State.stageReq (s : State) (task : Nat) (vt : Fin 16) (n : Node) (id : Nat) (r : Req) : State :=
  match r with
  | .wr l k v => s.stageLine task vt n l.obj l.byte (leBytes k v) [id]
  | _ => s.stage task vt n (.req id) [id]

/-- The firing of an accepted access. -/
def State.tensorGo (s : State) (h : Here) (m : Tensor) (a b : Tok) (l : Loc) (desc cls : Nat) (how : How) : State :=
  s.charge h m.opc (m.cost cls) fun s =>
    let id := s.nextId
    let vt := s.cur.vt
    let r := m.req a b l desc
    let el := h.el.dequeue (s.pullHere h) (takesOf (SrcA.takes m.sa) (m.sb.elim [] SrcB.takes))
    let s := (s.updInst s.cur.task vt fun x => { x with portUse := x.portUse + 1 }).touch (s.globalTile h.g h.x) h.g.ctx l
    let s := s.sendReq h el m.dst
      { req := r, scope := m.scope, order := m.order, opc := m.opc, tokVal := a.val, answered := destOf m.dst == .none,
        deps := s.fireDeps h m.trig (a.deps ++ b.deps ++ m.also),
        link := if m.link then (match m.sa with
          | .d x => some (x, b.val)
          | _ => none) else none,
        perf := if how = .staged then .group else .none, staged := how != .direct, closes := how == .closes }
    match how with
    | .direct => s
    | .staged => s.stageReq s.cur.task vt (.elem h.e) id r
    | .closes => s.wantSeal s.cur.task vt (.elem h.e) (some id)

/-- A tensor access of an element: acceptance by the layout unit (R161-R163), faults (R162), the line it needs (R173),
and its firing. -/
def State.fireTensor (s : State) (m : Tensor) : State :=
  match s.here with
  | none => s
  | some h =>
    let okB := match m.sb with
      | some b => h.el.okB b
      | none => true
    if s.emReady h m.trig m.dst && h.el.okA m.sa && okB && h.x.portUse < 2 then
      let a := h.el.readA m.sa
      let b := match m.sb with
        | some b => h.el.readB b
        | none => {}
      match s.check (s.globalTile h.g h.x) h.g.ctx s.cur.task a.val m.writes m.atomic with
      | .fault c => s.ruleFault s.cur.task s.cur.vt h.e c m.opc s.cur.slot.val
      | .page obj pg => s.raise s.cur.task (.page s.cur.vt (.elem h.e) m.opc obj pg m.kind)
      | .miss t => s.startFill (s.globalTile h.g h.x) t
      | .ok l desc cls fresh =>
        if !s.pageOpen l.obj l.byte then s
        else
        let how := m.how b desc fresh
        if how = .staged && !s.hasLine s.cur.task h.g s.cur.vt (.elem h.e) (m.req a b l desc).line then
          s.sealFull s.cur.task s.cur.vt (.elem h.e)
        else s.tensorGo h m a b l desc cls how
    else s

/-- A plain read of an element. -/
def readReq (_ _ : Tok) (l : Loc) (desc : Nat) : Req := .rd l (descFormat desc)

/-- A plain write of an element's low bits (R174). -/
def writeReq (_ b : Tok) (l : Loc) (desc : Nat) : Req :=
  .wr l (descFormat desc).bytes (b.val.toNat % 2 ^ (descFormat desc).bits)

/-- Immediate on a fresh object, staged on a shared one (R292). -/
def howWrite (_ : Tok) (_ : Nat) (fresh : Bool) : How := if fresh then .direct else .staged

def howRead (_ : Tok) (_ : Nat) (_ : Bool) : How := .direct

/-- LDT (R174). -/
def execLdt (x : EmLd) (s : State) : Out :=
  .next (s.fireTensor { trig := x.trig, dst := x.dst, sa := x.sa, scope := x.scope, order := x.order, opc := 0x4A,
                        kind := 0, req := readReq, how := howRead })

/-- STT (R174). -/
def execStt (x : EmSt) (s : State) : Out :=
  .next (s.fireTensor { trig := x.trig, dst := x.dst, sa := x.sa, sb := some x.sb, scope := x.scope, order := x.order,
                        opc := 0x4B, kind := 1, writes := true, req := writeReq, how := howWrite })

/-- LDLINK (R175). -/
def execLdlink (x : EmSt) (s : State) : Out :=
  .next (s.fireTensor { trig := x.trig, dst := x.dst, sa := x.sa, sb := some x.sb, scope := x.scope, order := x.order,
                        opc := 0x4C, kind := 0, link := true, req := readReq, how := howRead })

/-- LDFE (R176, R180): LDT on a page without presence bits. -/
def execLdfe (x : EmLd) (s : State) : Out :=
  .next (s.fireTensor { trig := x.trig, dst := x.dst, sa := x.sa, scope := x.scope, order := x.order, opc := 0x4D,
                        kind := 2, how := howRead
                        req := fun a b l d => if descFe d then .fe l .ldfe else readReq a b l d })

/-- LDFEC (R176, R180, R181). DEDUCED, log entry 47. -/
def execLdfec (x : EmLd) (s : State) : Out :=
  .next (s.fireTensor { trig := x.trig, dst := x.dst, sa := x.sa, scope := x.scope, order := x.order, opc := 0x4E,
                        kind := 2, writes := true
                        req := fun a b l d => if descFe d then .fe l .ldfec else readReq a b l d
                        how := fun _ d fresh => if descFe d && !fresh then .closes else .direct })

/-- STFE (R176, R180, R181). -/
def execStfe (x : EmSt) (s : State) : Out :=
  .next (s.fireTensor { trig := x.trig, dst := x.dst, sa := x.sa, sb := some x.sb, scope := x.scope, order := x.order,
                        opc := 0x4F, kind := 2, writes := true
                        req := fun a b l d => if descFe d then .fe l (.stfe b.val) else writeReq a b l d
                        how := fun b d fresh => if descFe d then (if fresh then .direct else .closes) else howWrite b d fresh })

/-- DISC (R182): with count 0 nothing is marked, so nothing is staged. -/
def execDisc (x : EmSt) (s : State) : Out :=
  .next (s.fireTensor { trig := x.trig, dst := x.dst, sa := x.sa, sb := some x.sb, scope := x.scope, order := x.order,
                        opc := 0x50, kind := 1, writes := true
                        req := fun _ b l _ => .disc l b.val.toNat
                        how := fun b d fresh => if b.val = 0 then .direct else howWrite b d fresh })

/-! ### FENCE and PREF -/

/-- The requests that an element has fired and that have not finished (R183). -/
def State.ownAccs (s : State) (task : Nat) (vt e : Fin 16) : List (Nat × Acc) :=
  s.accs.filter fun x => x.2.task == some task && x.2.vt == vt && x.2.node == .elem e

/-- FENCE (R183, R446): it waits for the accesses of its element, what they derive from, and what its firing derives from. -/
def execFence (x : EmFence) (s : State) : Out :=
  match s.here with
  | none => .next s
  | some h =>
    if s.emReady h x.trig x.dst then
      .next <| s.charge h 0x51 1 fun s =>
        let id := s.nextId
        let deps := s.fireDeps h x.trig h.el.past
        let block := x.order == .acq || x.order == .acqrel
        let el := if block then { h.el with portBlock := h.el.portBlock ++ [id] } else h.el
        s.sendReq h el x.dst { req := .fence, scope := x.scope, order := x.order, deps := deps, opc := 0x51,
                               answered := false }
    else .next s

def Trans.same (a b : Trans) : Bool := a.ctx == b.ctx && a.key == b.key && a.page == b.page

/-- Cyclic distance of a requesting tile from the one after the last started (R189, R338). -/
def walkKey (last tile : Nat) : Nat := (tile + 1033 - (last + 1) % 1033) % 1033

/-- The walker starts what waits, in cyclic order of the requesting tiles, up to 16 walks at once (R338). -/
def Region.startWalks : Nat → Region → Region
  | 0, x => x
  | n + 1, x =>
    if 16 ≤ x.walks.length then x
    else
      let best := x.waiting.foldl (fun (b : Option Trans) t => match b with
        | none => some t
        | some u => if walkKey x.wLast t.tile < walkKey x.wLast u.tile then some t else b) none
      match best with
      | none => x
      | some t =>
        Region.startWalks n { x with walks := x.walks ++ [t], waiting := x.waiting.filter (fun u => !u.same t), wLast := t.tile }

/-- A translation asked of a region's walker; one that a walk or a wait covers joins it. -/
def Region.askWalk (x : Region) (t : Trans) : Region :=
  if x.walks.any (·.same t) || x.waiting.any (·.same t) then
    let keep (u : Trans) : Trans := if u.same t then { u with pref := u.pref && t.pref } else u
    { x with walks := x.walks.map keep, waiting := x.waiting.map keep }
  else Region.startWalks 16 { x with waiting := x.waiting ++ [t] }

/-- The translation a PREF asks for, where it is there to be loaded (R184). -/
def State.prefetch (s : State) (h : Here) (scope : Scope) (ptr : Word) : State :=
  let hd := ptr.toNat / 1048576
  let tile := s.globalTile h.g h.x
  match s.objOf h.g.ctx s.cur.task hd with
  | none => s
  | some (obj, o) =>
    let c := ptr.toNat % 1048576
    if descCount o.desc ≤ c then s
    else
      let pg := byteOf o.desc c / 65536
      match scope with
      | .elem | .tile =>
        if (s.tile tile).cache.any fun x => x.ctx == h.g.ctx && x.key == hd && x.page == pg && !x.bad then s
        else s.startFill tile ⟨h.g.ctx, hd, pg, tile, false, true⟩
      | _ =>
        let r := s.physRegion h.g.region
        let t : Trans := ⟨h.g.ctx, obj, pg, tile, false, true⟩
        if (s.region r).cache.any (·.same t) then s else s.updRegion r fun x => x.askWalk t

/-- PREF (R184): never faults; counts against the two accesses of a step. -/
def execPref (x : EmPref) (s : State) : Out :=
  match s.here with
  | none => .next s
  | some h =>
    if s.emReady h x.trig .none && h.el.okA x.sa && h.x.portUse < 2 then
      .next <| s.charge h 0x52 1 fun s =>
        let a := h.el.readA x.sa
        let el := h.el.dequeue (s.pullHere h) (SrcA.takes x.sa)
        ((s.putHere h el).updInst s.cur.task s.cur.vt fun x => { x with portUse := x.portUse + 1 }).prefetch h x.scope a.val
    else .next s

end Sys2Proof.Machine
end

