-- ==== Sys2Proof/Machine/Arith.lean ====
section
/-! DEFINITION. Integer arithmetic of the elements (spec/05_elements.md R124-R127). -/

namespace Sys2Proof.Machine

/-- A clamped signed sum or difference (R124). -/
def clamp32 (x : Int) : Word := BitVec.ofInt 32 (max (-2147483648) (min 2147483647 x))

/-- Bits [63:32] of an exact product (R124). -/
def high32 (x : Int) : Word := BitVec.ofInt 32 (x / 4294967296)

/-- The smaller or larger by an order (R124). -/
def pick (p : Bool) (a b : Word) : Word := if p then a else b

/-- ADD (R124). -/
def execAdd (x : Ea2) (s : State) : Out := .next (s.fireEa2 x 0x00 1 fun a b => (a + b, {}))

/-- SUB (R124). -/
def execSub (x : Ea2) (s : State) : Out := .next (s.fireEa2 x 0x01 1 fun a b => (a - b, {}))

/-- MUL (R124). -/
def execMul (x : Ea2) (s : State) : Out := .next (s.fireEa2 x 0x03 2 fun a b => (a * b, {}))

/-- MULH (R124). -/
def execMulh (x : Ea2) (s : State) : Out := .next (s.fireEa2 x 0x04 2 fun a b => (high32 (a.toInt * b.toInt), {}))

/-- MULHU (R124). -/
def execMulhu (x : Ea2) (s : State) : Out := .next (s.fireEa2 x 0x05 2 fun a b => (high32 (a.toNat * b.toNat : Nat), {}))

/-- MIN (R124). -/
def execMin (x : Ea2) (s : State) : Out := .next (s.fireEa2 x 0x06 1 fun a b => (pick (a.slt b) a b, {}))

/-- MAX (R124). -/
def execMax (x : Ea2) (s : State) : Out := .next (s.fireEa2 x 0x07 1 fun a b => (pick (a.slt b) b a, {}))

/-- MINU (R124). -/
def execMinu (x : Ea2) (s : State) : Out := .next (s.fireEa2 x 0x08 1 fun a b => (pick (a.ult b) a b, {}))

/-- MAXU (R124). -/
def execMaxu (x : Ea2) (s : State) : Out := .next (s.fireEa2 x 0x09 1 fun a b => (pick (a.ult b) b a, {}))

/-- ADDSH (R124). -/
def execAddsh (x : Ea2) (s : State) : Out := .next (s.fireEa2 x 0x0A 1 fun a b => (BitVec.ofInt 32 ((a.toInt + b.toInt) / 2), {}))

/-- ABSD (R124). -/
def execAbsd (x : Ea2) (s : State) : Out := .next (s.fireEa2 x 0x0B 1 fun a b => (BitVec.ofNat 32 (a.toInt - b.toInt).natAbs, {}))

/-- ADDS (R124). -/
def execAdds (x : Ea2) (s : State) : Out := .next (s.fireEa2 x 0x0C 1 fun a b => (clamp32 (a.toInt + b.toInt), {}))

/-- SUBS (R124). -/
def execSubs (x : Ea2) (s : State) : Out := .next (s.fireEa2 x 0x0D 1 fun a b => (clamp32 (a.toInt - b.toInt), {}))

/-- NEG (R125). -/
def execNeg (x : Ea1) (s : State) : Out := .next (s.fireEa1 x 0x0E 1 fun a => (0 - a.val, {}))

/-- ABS (R125): ABS of 0x80000000 is itself. -/
def execAbs (x : Ea1) (s : State) : Out :=
  .next (s.fireEa1 x 0x0F 1 fun a => (if a.val.msb then 0 - a.val else a.val, {}))

/-- ADDI (R126). -/
def execAddi (x : Ei) (s : State) : Out :=
  .next (s.fireEi x.trig x.dst x.sa 0 false 0x02 1 fun a => (a + x.imm.signExtend 32, {}))

end Sys2Proof.Machine
end

