-- ==== Sys2Proof/Config.lean ====
section
/-! DEFINITION. What the implementation fixes and the spec leaves open: the free schedule, free values, the section and
payload layouts the spec does not give, and the cryptographic primitives it names. Opaque constants: nothing can be
proved about their values. The numbers the spec does give stand beside them. -/

namespace Sys2Proof.Config

open Sys2Proof.Machine

/-- The turn taken when the agenda is empty; none: nothing happens (DESIGN CHOICE, log entry 3). -/
opaque freeTurn : Nat → Option Turn

/-- Free values, one for each count of State.freeNo (DESIGN CHOICE, log entry 10). -/
opaque freeWord : Nat → Word

/-- The records of an INIT section (R355; DESIGN CHOICE, log entry 8). -/
opaque initRecords : List Byte → List InitRec

/-- The descriptor that 16 bytes of a BUFD section hold (R355; DESIGN CHOICE, log entry 8). -/
opaque bufDesc : List Byte → BufDesc

/-- Offsets of the records of an INIT or ROUTES section from its start, by type (R355, R364; DESIGN CHOICE, log entry 8). -/
opaque recordAt : Nat → List Byte → Nat → Nat

/-- The nests of a NESTS section (R355; DESIGN CHOICE, log entry 8). -/
opaque nests : List Byte → List (Option Nest)

/-- The edge records of a ROUTES section (R355; DESIGN CHOICE, log entry 8). -/
opaque edges : List Byte → List Edge

/-- The swap order of a FOLDMAP section (R355; DESIGN CHOICE, log entry 8). -/
opaque foldOrder : List Byte → List Nat

/-- The content of a flit's payload of a type (R480; DESIGN CHOICE, log entry 9). -/
opaque message : Nat → List Byte → Msg

/-- The payload of a flit (R480; DESIGN CHOICE, log entry 9). -/
opaque payload : Msg → List Byte

/-- SHA-256 (R512; DESIGN CHOICE, log entry 7). -/
opaque sha256 : List Byte → Nat

/-- The boot and the hub part of a firmware image (R512, R516; DESIGN CHOICE, log entry 7). -/
opaque bootPart : List Byte → List Byte
opaque hubPart : List Byte → List Byte

/-- Whether an ECDSA P-256 signature over a digest verifies under the key of the fused hash (R512; DESIGN CHOICE, log entry 7). -/
opaque verifies : Nat → List Byte → Bool

/-- The public identity key and the signature of a digest with it (R513; DESIGN CHOICE, log entry 7). -/
opaque identityKey : Nat
opaque signature : Nat → Nat

/-- Whether an encrypted key pair unwraps (R514; DESIGN CHOICE, log entry 7). -/
opaque unwraps : List Byte → Bool

/-- The AES-256-XTS key pair that an encrypted pair unwraps to (R514; DESIGN CHOICE, log entry 7). -/
opaque keyPair : List Byte → Nat

/-- What byte i of a line encrypted under one pair decrypts to under another: the two pairs, the tweak, the line (R342; DESIGN CHOICE, log
entry 7). -/
opaque rekeyed : Nat → Nat → Nat → List Byte → Nat → Byte

/-- Bytes of a context's kernel area in DRAM (R368, R510; DESIGN CHOICE, log entry 121). -/
opaque kernelArea : Nat

/-- AES-256-GCM of a flit's payload under the key of a link's direction (true: from this die), with its nonce and the authenticated bytes (R482; DESIGN CHOICE, log entry 7). -/
opaque sealPayload : Nat → Bool → Nat → List Byte → List Byte → List Byte
opaque sealTag : Nat → Bool → Nat → List Byte → List Byte → List Byte
opaque unsealPayload : Nat → Bool → Nat → List Byte → List Byte → List Byte

/-- The die id and the span size - 1 that a SPAN command gives (R515; DESIGN CHOICE, log entry 7). -/
opaque spanDie : List Byte → BitVec 4
opaque spanSize : List Byte → BitVec 4

/-- The admission slots of one period (R494; DESIGN CHOICE, log entry 10). -/
opaque slots : Nat → Nat

/-- Oscillator ticks of a region in one period (R32, R505; DESIGN CHOICE, log entry 110). -/
opaque ticks : Nat → Nat

/-- Whether the dies of a SPAN command attest each other (R515; DESIGN CHOICE, log entry 7). -/
opaque spanAttests : List Byte → Nat → Bool

/-- Key epochs agreed when a span is formed (R482; DESIGN CHOICE, log entry 7). -/
opaque spanEpoch : List Byte → Nat → Word

/-- The die at the far end of a link when a span is formed (R515; DESIGN CHOICE, log entry 7). -/
opaque spanPeer : List Byte → Nat → Nat

end Sys2Proof.Config
end

