-- ==== Sys2Proof/Machine/Sync.lean ====
section
/-! DEFINITION. Semaphores, barriers and DONE (spec/16_barriers.md R420-R435, spec/05_elements.md R151): the
instructions and what the region sync unit does with their requests. -/

namespace Sys2Proof.Machine

/-! ### The instructions (R427, R428) -/

/-- The header of the group's kernel owns a semaphore (R292). -/
def Image.ownsSem (i : Image) (m : Fin 64) : Bool := i.owns.getLsbD m.val

/-- What a release of an element waits for: the requests it has fired, and what its firing derives from (R425, R433). DEDUCED,
log entry 86. -/
def State.releaseDeps (s : State) (h : Here) (t : Trig) (l : List Nat) : List Nat :=
  s.fireDeps h t (l ++ (s.ownAccs s.cur.task s.cur.vt h.e).map (·.1))

/-- SEMADD and SEMSET: owned at once, staged otherwise (R424, R425). -/
def State.fireSem (s : State) (x : EiSem) (opc : Nat) (op : Word → SemOp) : State :=
  match s.here with
  | none => s
  | some h =>
    if s.gate h x.trig && h.el.okA x.sa then
      let a := h.el.readA x.sa
      let owned := h.g.img.ownsSem x.m
      if !owned && !s.hasLine s.cur.task h.g s.cur.vt (.elem h.e) none then s.sealFull s.cur.task s.cur.vt (.elem h.e)
      else
        s.charge h opc 4 fun s =>
          let id := s.nextId
          let el := h.el.dequeue (s.pullHere h) (SrcA.takes x.sa)
          let acc : Acc := { req := .sem h.g.ctx x.m (op a.val), scope := .device, opc := opc, answered := true }
          if owned then
            s.sendReq h el .none { acc with order := .rel, deps := s.releaseDeps h x.trig a.deps }
          else
            (s.sendReq h el .none { acc with staged := true, perf := .group, deps := s.fireDeps h x.trig a.deps }).stage
              s.cur.task s.cur.vt (.elem h.e) (.req id) [id]
    else s

/-- SEMADD (R428). -/
def execSemadd (x : EiSem) (s : State) : Out := .next (s.fireSem x 0x60 SemOp.add)

/-- SEMSET (R428). -/
def execSemset (x : EiSem) (s : State) : Out := .next (s.fireSem x 0x62 SemOp.set)

/-- SEMWAIT (R428): never staged. -/
def execSemwait (x : EiSemw) (s : State) : Out :=
  match s.here with
  | none => .next s
  | some h =>
    if s.gate h x.trig && h.el.okA x.sa && s.dstRoom h (.o x.o) then
      .next <| s.charge h 0x61 4 fun s =>
        let a := h.el.readA x.sa
        let el := h.el.dequeue (s.pullHere h) (SrcA.takes x.sa)
        s.sendReq h el (.o x.o) { req := .sem h.g.ctx x.m (.wait a.val), scope := .device, order := .acq,
                                  deps := s.fireDeps h x.trig a.deps, opc := 0x61 }
    else .next s

/-- SEMRD (R428). -/
def execSemrd (x : EiSemr) (s : State) : Out :=
  match s.here with
  | none => .next s
  | some h =>
    if s.gate h x.trig && h.el.okDst x.dst && s.dstRoom h x.dst then
      .next <| s.charge h 0x63 4 fun s =>
        s.sendReq h h.el x.dst { req := .sem h.g.ctx x.m .rd, scope := .device, deps := s.fireDeps h x.trig [], opc := 0x63 }
    else .next s

/-! ### Barrier instructions (R433, R434) -/

/-- The element takes part in a barrier (R429). -/
def Elem.takesPart (el : Elem) (g : Fin 16) : Bool := el.part.getLsbD g.val

/-- The element after an arrival (R430): a participant's counter grows. -/
def Elem.arrive (el : Elem) (g : Fin 16) : Elem :=
  if el.takesPart g then { el with ac := vset el.ac g (vget el.ac g + 1) } else el

/-- BARRIV (R433): a non-participant has no arrival to send. DEDUCED, log entry 24. -/
def execBarriv (x : EiBar) (s : State) : Out :=
  match s.here with
  | none => .next s
  | some h =>
    if s.gate h x.trig && h.el.barWait.isNone then
      .next <| s.charge h 0x64 4 fun s =>
        let el := h.el.arrive x.g
        if h.el.takesPart x.g then
          s.sendReq h el .none { req := .bar x.g (.arrive (vget el.ac x.g)), scope := .group, order := .rel,
                                 deps := s.releaseDeps h x.trig [], opc := 0x64, answered := true }
        else s.putHere h el
    else .next s

/-- The wait of BARWT and BARAW: until its token is written the memory port accepts nothing and no barrier rule fires. -/
def State.sendBarWait (s : State) (h : Here) (el : Elem) (x : EiBarw) (opc : Nat) (op : BarOp) (order : Order)
    (deps : List Nat) : State :=
  s.sendReq h { el with barWait := some s.nextId, portBlock := el.portBlock ++ [s.nextId] } (.o x.o)
    { req := .bar x.g op, scope := .group, order := order, deps := deps, opc := opc }

/-- BARWT (R433). DEDUCED, log entry 24. -/
def execBarwt (x : EiBarw) (s : State) : Out :=
  match s.here with
  | none => .next s
  | some h =>
    if s.gate h x.trig && h.el.barWait.isNone && s.dstRoom h (.o x.o) then
      .next <| s.charge h 0x65 4 fun s =>
        let t := if h.el.takesPart x.g then some (vget h.el.ac x.g) else none
        s.sendBarWait h h.el x 0x65 (.wait t) .acq (s.fireDeps h x.trig [])
    else .next s

/-- BARAW (R433): the arrival and the wait as one request. -/
def execBaraw (x : EiBarw) (s : State) : Out :=
  match s.here with
  | none => .next s
  | some h =>
    if s.gate h x.trig && h.el.barWait.isNone && s.dstRoom h (.o x.o) then
      .next <| s.charge h 0x66 4 fun s =>
        let el := h.el.arrive x.g
        s.sendBarWait h el x 0x66 (.both (vget el.ac x.g)) .acqrel (s.releaseDeps h x.trig [])
    else .next s

/-! ### The sync unit (R420-R428, R430-R432, R435) -/

/-- Physical region of the unit that serves a context's semaphores (R420). -/
def State.semHome (s : State) (ctx : Nat) : Nat := s.physRegion (s.home ctx)

def State.sem (s : State) (ctx : Nat) (m : Fin 64) : Sem := vget (s.ctx ctx).sems m

/-- A semaphore changed (R426, R428). -/
def Sem.change (x : Sem) (op : SemOp) : Sem :=
  match op with
  | .add a =>
    let v := x.val.toInt + a.toInt
    if 2147483647 < v then ⟨0x7FFFFFFF, true⟩
    else if v < -2147483648 then ⟨0x80000000, true⟩
    else ⟨BitVec.ofInt 32 v, x.sat⟩
  | .set a => ⟨a, x.sat⟩
  | .host v sat => ⟨v, sat⟩
  | .rd | .wait _ => x

/-- The request came from another die (R189). -/
def Acc.foreign (a : Acc) : Bool := a.task.isNone && 1024 ≤ a.slot && a.slot < 1032

/-- A request of another die is done with, and the flit that brought it. -/
def State.dropForeign (s : State) (id : Nat) : State :=
  { s with accs := s.accs.del id, rx := s.rx.filter fun x => x.acc != some id }

/-- The hub takes the answer to a read of its own: of the host through an aperture, or of an argument word of a group that it places (R398,
R511). -/
def State.hubAnswer (s : State) (a : Acc) (v : Word) : State :=
  match a.req, a.task with
  | .rd .., none => if a.slot = 1032 then { s with readData := v.setWidth 64 } else s
  | .rd .., some t => if a.node = .seq then s.updGroup t fun g => { g with args := vset g.args ⟨a.rule % 8, Nat.mod_lt _ (by decide)⟩ v } else s
  | _, _ => s

/-- A request answered with a value; it leaves its unit. A request of another die is answered over the link; the clock of a write or of a
future operation is merged (R488). -/
def State.answer (s : State) (id : Nat) (v : Word) (p : Perf) : State :=
  match s.accs.get? id with
  | some a =>
    if a.foreign then
      let n := a.tokVal.toNat
      match a.req with
      | .put .. => ((s.mergeClock a.clock).dropForeign id).sendTo a.rule (.applied n)
      | .rd .. => (s.dropForeign id).sendTo a.rule (.readRep n v.toNat)
      | .fut _ (.join ..) | .fut _ (.resolve _) | .fut _ (.fault _) => ((s.mergeClock a.clock).dropForeign id).sendTo a.rule (.atomRep n v.toNat)
      | _ => (s.dropForeign id).sendTo a.rule (.atomRep n v.toNat)
    else
      let s := s.hubAnswer a v
      (s.setAcc id { a with reply := some v, perf := p, queued := false, deferred := false, staged := false }).reap id
  | none => s

/-- Deferred requests leave a unit's list. -/
def State.undefer (s : State) (r : Nat) (ids : List Nat) : State :=
  s.updRegion r fun x => { x with deferred := x.deferred.filter fun i => !ids.contains i,
                                  sDeferred := x.sDeferred.filter fun i => !ids.contains i }

/-- Deferred waits of a semaphore whose threshold is met are answered in the order they were deferred (R428). -/
def State.semCheck (s : State) (ctx : Nat) (m : Fin 64) : State :=
  let r := s.semHome ctx
  let v := (s.sem ctx m).val
  let ids := (s.region r).sDeferred.filter fun i =>
    match s.accs.get? i with
    | some { req := .sem c n (.wait a), .. } => c == ctx && n == m && a.toInt ≤ v.toInt
    | _ => false
  ids.foldl (fun s i => s.answer i v .span) (s.undefer r ids)

/-- A semaphore takes a change at its unit (R428). -/
def State.semDo (s : State) (ctx : Nat) (m : Fin 64) (op : SemOp) : State :=
  (s.updCtx ctx fun c => { c with sems := vset c.sems m ((vget c.sems m).change op) }).semCheck ctx m

/-- A wait deferred at a unit, or returned to its tile when the unit holds 256 (R435). -/
def State.deferWait (s : State) (r id : Nat) : State :=
  match s.accs.get? id with
  | none => s
  | some a =>
    if (s.region r).sDeferred.length < 256 then
      (s.setAcc id { a with queued := false, deferred := true }).updRegion r fun x =>
        { x with sDeferred := x.sDeferred ++ [id] }
    else s.setAcc id { a with queued := false }

/-- A semaphore request served (R428). -/
def State.serveSem (s : State) (id ctx : Nat) (m : Fin 64) (op : SemOp) : State :=
  match op with
  | .rd => s.answer id (s.sem ctx m).val .span
  | .wait a =>
    if a.toInt ≤ (s.sem ctx m).val.toInt then s.answer id (s.sem ctx m).val .span
    else s.deferWait (s.semHome ctx) id
  | _ => (s.semDo ctx m op).answer id 0 .span

/-- The smaller of two counters modulo 2^32 (R430, R432). -/
def minCounter (a b : Word) : Word := if (b - a).toNat < 2147483648 then a else b

def mirrorKey (vt e n : Fin 16) : Nat := vt.val * 256 + e.val * 16 + n.val

/-- The counters of the participants of a barrier that have not executed DONE (R430). -/
def State.counters (s : State) (task : Nat) (n : Fin 16) : List Word :=
  let g := s.group task
  g.vts.flatMap fun vt => ((List.range 16).map vtOf).filterMap fun e =>
    let el := s.elem task vt e
    if el.takesPart n && !el.done then some (g.mirror.getD (mirrorKey vt e n) 0) else none

/-- GEN after a change (R430); an empty barrier keeps it. -/
def State.genOf (s : State) (task : Nat) (n : Fin 16) : Word :=
  match s.counters task n with
  | [] => (s.group task).gens.getD n.val 0
  | c :: r => r.foldl minCounter c

/-- A wait with target t is met (R432). -/
def State.barMet (s : State) (task : Nat) (n : Fin 16) (t : Word) : Bool :=
  decide (((s.group task).gens.getD n.val 0 - t).toNat < 2147483648) || (s.counters task n).isEmpty

/-- GEN recomputed, and the deferred waits that it meets answered (R431, R432). -/
def State.barUpdate (s : State) (task : Nat) (n : Fin 16) : State :=
  let gen := s.genOf task n
  let s := s.updGroup task fun g => { g with gens := g.gens.put n.val gen }
  let r := s.physRegion (s.group task).region
  let ids := (s.region r).sDeferred.filter fun i =>
    match s.accs.get? i with
    | some { task := some t, req := .bar m (.wait (some x)), .. } => t == task && m == n && s.barMet task n x
    | _ => false
  ids.foldl (fun s i => s.answer i gen .span) (s.undefer r ids)

/-- The unit learns of an element's DONE (R431). -/
def State.barDone (s : State) (task : Nat) (part : BitVec 16) : State :=
  ((List.range 16).map vtOf).foldl (fun s n => if part.getLsbD n.val then s.barUpdate task n else s) s

/-- The mirror takes an arrival of a participant; one sent again after a rollback does not lower it (R430). -/
def State.arrived (s : State) (task : Nat) (vt : Fin 16) (node : Node) (n : Fin 16) (c : Word) : State :=
  match node with
  | .elem e =>
    if (s.elem task vt e).takesPart n then
      (s.updGroup task fun g =>
        let old := g.mirror.getD (mirrorKey vt e n) 0
        { g with mirror := g.mirror.put (mirrorKey vt e n) (if minCounter old c = old then c else old) }).barUpdate task n
    else s
  | _ => s

/-- The wait of a barrier served: answered when met, else deferred with its target (R432, R435). -/
def State.barWaitServe (s : State) (id task : Nat) (n : Fin 16) (t : Word) : State :=
  if s.barMet task n t then s.answer id ((s.group task).gens.getD n.val 0) .span
  else
    match s.accs.get? id with
    | some a => (s.setAcc id { a with req := .bar n (.wait (some t)) }).deferWait (s.physRegion (s.group task).region) id
    | none => s

/-- A barrier request served (R433). -/
def State.serveBar (s : State) (id task : Nat) (vt : Fin 16) (node : Node) (n : Fin 16) (op : BarOp) : State :=
  match op with
  | .arrive c => (s.arrived task vt node n c).answer id 0 .span
  | .wait (some t) => s.barWaitServe id task n t
  | .wait none => s.barWaitServe id task n ((s.group task).gens.getD n.val 0 + 1)
  | .both c => (s.arrived task vt node n c).barWaitServe id task n c

/-- DONE (R151). -/
def execDone (x : EaT) (s : State) : Out :=
  match s.here with
  | none => .next s
  | some h =>
    if s.gate h x.trig then
      .next <| s.charge h 0x7D 1 fun s => (s.putHere h { h.el with done := true }).barDone s.cur.task h.el.part
    else .next s

end Sys2Proof.Machine
end

