-- ==== Sys2Proof/Machine/Pool.lean ====
section
/-! DEFINITION. The task pool (spec/15_queues.md R397-R408, R413-R416): task records, references to futures, task
slots, waiters, funding, the end of a task. -/

namespace Sys2Proof.Machine

/-! ### Task records (R397) -/

def oneTwoFour (n : Nat) : Bool := n == 1 || n == 2 || n == 4

/-- The task record of 64 bytes; none when a reserved bit is 1 or a field lies outside its range (R397). -/
def TaskRec.parse (w : Nat) : Option TaskRec :=
  let f (hi lo : Nat) : Nat := field w hi lo
  let fut (i : Fin 4) : Word := BitVec.ofNat 32 (f (351 + 32 * i.val) (320 + 32 * i.val))
  if f 255 64 = 0 && f 27 0 = 0 && f 271 256 != 0 && oneTwoFour (f 51 48) && oneTwoFour (f 47 44) then
    some { crec := BitVec.ofNat 32 (f 511 480), ownf := BitVec.ofNat 32 (f 479 448)
           fut := Vector.ofFn fut
           argp := BitVec.ofNat 32 (f 319 288), sprm1 := f 287 272, p := f 271 256, kid := f 63 52, gw := f 51 48
           gh := f 47 44, queue := vtOf (f 43 40), prio := f 39 36, npred := f 35 32, etrig := f 31 31 == 1
           rpol := f 30 29, astep := f 28 28 == 1 }
  else none

/-- The nonzero FUT entries in order (R520). -/
def TaskRec.futs (r : TaskRec) : List Word := r.fut.toList.filter (· != 0)

/-! ### Future references (R405, R408) -/

/-- An object that can hold futures (R405). -/
def isFutureObj (d : Nat) : Bool := descFormat d == .int32 && descFmt d == 6 && descLayout d == 0 && !descFe d && descWr d

/-- The checks of a reference on the object that its handle names: the place of the future word, or the fault code. -/
def futurePlace (o : Option (Nat × Obj)) (ref : Word) : Except Nat Loc :=
  match o with
  | none => .error 0x22
  | some (obj, o) =>
    let f := ref.toNat % 1048576
    if descCount o.desc ≤ 2 * f + 1 then .error 0x21
    else if isFutureObj o.desc then .ok ⟨obj, 8 * f, ref.toNat / 1048576⟩
    else .error 0x41

/-- A reference checked in the view of a group, of the host, and of the hub at release (R408). -/
def State.refGroup (s : State) (ctx task : Nat) (ref : Word) : Except Nat Loc :=
  futurePlace (s.objOf ctx task (ref.toNat / 1048576)) ref

def State.refHost (s : State) (ctx : Nat) (ref : Word) : Except Nat Loc :=
  futurePlace (s.hostObj ctx (ref.toNat / 1048576)) ref

def State.refHub (s : State) (ctx : Nat) (ref : Word) : Except Nat Loc :=
  futurePlace ((s.slot? ctx (ref.toNat / 1048576)).bind fun x => (s.objs.get? x.obj).map fun o => (x.obj, o)) ref

def Except.code (x : Except Nat Loc) : Option Nat :=
  match x with
  | .error c => some c
  | .ok _ => none

/-- The first failing check among references that are not 0 (R408). -/
def firstCode (f : Word → Except Nat Loc) : List Word → Option Nat
  | [] => none
  | r :: l => if r = 0 then firstCode f l else
    match Except.code (f r) with
    | some c => some c
    | none => firstCode f l

/-- A future word as its memory node holds it (R405). -/
def State.futureWord (s : State) (l : Loc) : Nat :=
  match s.objs.get? l.obj with
  | some o => (s.readObj none l.obj o l.byte 8).1
  | none => 0

def futState (w : Nat) : Nat := w / 2 ^ 62 % 4

def futKey (l : Loc) : Nat := l.obj * 1048576 + l.byte / 8

/-! ### Accounts and funding (R284, R404, R458) -/

def Task.need (t : Task) : Nat := t.p * t.trec.gw * t.trec.gh

/-- READY and UNFUNDED follow the account (R404). -/
def State.retest (s : State) (ctx : Nat) : State :=
  { s with tasks := s.tasks.mapAll fun _ t =>
      if t.ctx = ctx && (t.state == .ready || t.state == .unfunded) then
        { t with state := if t.need ≤ (s.ctx ctx).acct then .ready else .unfunded }
      else t }

/-- An account changed in the hub's serial order (R458). -/
def State.account (s : State) (ctx : Nat) (f : Nat → Nat) : State :=
  (s.updCtx ctx fun c => { c with acct := min (f c.acct) (2 ^ 48 - 1) }).retest ctx

/-! ### Queues and slots -/

def State.queue (s : State) (ctx : Nat) (q : Fin 16) : Queue := vget (s.ctx ctx).queues q

def State.updQueue (s : State) (ctx : Nat) (q : Fin 16) (f : Queue → Queue) : State :=
  s.updCtx ctx fun c => { c with queues := vset c.queues q (f (vget c.queues q)) }

/-- Task slots reserved by SPAWNs not yet released (R410). -/
def State.reserved (s : State) : List Nat :=
  s.insts.flatMap fun x => x.2.staged.flatMap fun e =>
    match e.what with
    | .spawn _ _ l => if e.sent then [] else l
    | _ => []

/-- The lowest n free numbers from k on. -/
def takeFree (used : List Nat) : Nat → Nat → Nat → List Nat
  | 0, _, _ => []
  | fuel + 1, k, n =>
    if n = 0 then []
    else if used.contains k then takeFree used fuel (k + 1) n
    else k :: takeFree used fuel (k + 1) (n - 1)

/-- n task slots of the pool, the lowest free ones; none when it lacks them (R403). -/
def State.takeSlots (s : State) (n : Nat) : Option (List Nat) :=
  let used := s.tasks.map (fun x => x.2.slot) ++ s.reserved
  if used.length + n ≤ 65536 then some (takeFree used (used.length + n) 0 n) else none

/-- Field of a kernel's header (R352). -/
def Kernel.header (k : Kernel) (hi lo : Nat) : Nat := field (leNat (k.bytes.take 64)) hi lo

def State.kernel (s : State) (ctx kid : Nat) : Option Kernel := (s.ctx ctx).kernels.get? kid

/-- A look at a future of another die that has been asked for: a poll of the same asker. -/
def Acc.looks (a b : Acc) : Bool := a.task == b.task && a.vt == b.vt && a.node == b.node && a.req == b.req && a.opc == b.opc && a.rule == b.rule

/-- Whether OWNF names a future that is RESOLVED or FAULTED (R400), with the state after the look: the word as its memory node holds it; of a
page on another die its holder is asked (R336), and none is known until it has answered. Of a page that is OUT no node holds the word, and
it is a free value (DESIGN CHOICE, log entry 101). -/
def State.futureSettled (s : State) (l : Except Nat Loc) (asker : Acc) : Option Bool × State :=
  match l with
  | .error _ => (some false, s)
  | .ok l =>
    match (s.objs.get? l.obj).map fun o => o.page l.byte with
    | none => (some false, s)
    | some p =>
      let ask : Acc := { asker with req := .fut l .poll }
      match s.accs.find? fun x => x.2.looks ask with
      | some (id, a) =>
        (match a.reply with
         | some v => (some (v != 0), { s with accs := s.accs.del id })
         | none => (none, s))
      | none =>
        if !p.v then let (w, s) := s.free Config.freeWord; (some (w.getLsbD 0), s)
        else if p.die = s.die.toNat then (some (decide (2 ≤ futState (s.futureWord l))), s)
        else (none, s.addAcc ask)

/-- The refusals that a host record and a SPAWN share: codes 3 to 7 of R400. -/
def State.recordCode (s : State) (ctx : Nat) (r : TaskRec) : Nat :=
  let q := s.queue ctx r.queue
  match s.kernel ctx r.kid with
  | some k =>
    if s.cls = 3 then 3
    else if k.st != .loaded then 4
    else if k.header 91 88 != r.gw || k.header 95 92 != r.gh then 5
    else if q.st != 1 then 6
    else if q.alim < q.count + (r.sprm1 + 1) || (s.takeSlots (r.sprm1 + 1)).isNone then 7
    else 0
  | none => if s.cls = 3 then 3 else 4

/-! ### The end of a task (R413, R414, R416) -/

/-- The completion record (R416). -/
def completionRecord (no : Nat) (t : Task) : List Byte :=
  let b (x : Bool) : Nat := if x then 1 else 0
  leBytes 8 (t.endc * 2 ^ 62 + t.rtry * 2 ^ 60 + b t.dres * 2 ^ 59 + t.fcode * 2 ^ 51 + t.arst * 2 ^ 48
      + min t.disc (2 ^ 32 - 1))
    ++ leBytes 4 no ++ List.replicate 20 0 ++ (if t.endc = 1 then leBytes 32 t.short else List.replicate 32 0)

/-- The pages that a range of elements lies on are all here to be written. -/
def Obj.resident (o : Obj) (coord n : Nat) : Bool :=
  (List.range n).all fun i => let p := o.page (byteOf o.desc (coord + i)); p.v && p.moving.isNone

/-- Bytes that the hub writes to an object, by a request of slot 1032 to the memory node, or the hot line, that holds them (R188, R189).
-/
def State.hubWrite (s : State) (obj byte : Nat) (bs : List Byte) : State :=
  s.addAcc { req := .put ⟨obj, byte, 0⟩ (cellsFrom byte bs), slot := 1032, answered := true }

/-- Where a task's completion record goes, when it goes anywhere (R416): object and first coordinate. -/
def State.recordPlace (s : State) (t : Task) : Option (Nat × Obj × Nat) :=
  if t.trec.crec = 0 then none
  else
    match s.slot? t.ctx (t.trec.crec.toNat / 1048576) with
    | none => none
    | some x =>
      match s.objs.get? x.obj with
      | none => none
      | some o =>
        let c := t.trec.crec.toNat % 1048576 + 16 * t.inst
        if descFormat o.desc == .int32 && descWr o.desc && c + 16 ≤ descCount o.desc then some (x.obj, o, c) else none

/-- The words of a completion record written at their elements: the numbers of the requests. -/
def State.writeWords (s : State) (obj desc : Nat) : Nat → List Byte → Nat → List Nat × State
  | _, _, 0 => ([], s)
  | c, bs, n + 1 =>
    let (more, t) := State.writeWords (s.hubWrite obj (byteOf desc c) (bs.take 4)) obj desc (c + 1) (bs.drop 4) n
    (s.nextId :: more, t)

/-- The dispatcher resolves or faults the own future of a spread (R408, R413, R414). -/
def State.ownFuture (s : State) (first : Nat) (op : FutOp) : State :=
  match s.spreads.get? first with
  | none => s
  | some sp =>
    if sp.ownf = 0 then s
    else
      match s.refHub sp.ctx sp.ownf with
      | .ok l => s.addAcc { req := .fut l op, slot := 1032, answered := true, tokVal := BitVec.ofNat 32 first }
      | .error _ => { s with tasks := s.tasks.mapAll fun _ t => if t.first = first then { t with dres := true } else t }

/-- An instance counts as triggered (R413). -/
def State.countTrigger (s : State) (first : Nat) : State :=
  match s.spreads.get? first with
  | none => s
  | some sp =>
    let sp := { sp with left := sp.left - 1 }
    let s := { s with spreads := s.spreads.put first sp }
    if sp.left = 0 && !sp.settled then
      State.ownFuture { s with spreads := s.spreads.put first { sp with settled := true } } first (.resolve 0)
    else s

/-- A kernel that no task names any more and that is RETIRING becomes ABSENT; caches that hold it empty (R368, R369). -/
def State.kernelGone (s : State) (ctx kid : Nat) : State :=
  match s.kernel ctx kid with
  | some k =>
    if k.st == .retiring && !s.tasks.any (fun x => x.2.ctx == ctx && x.2.trec.kid == kid) then
      { s.updCtx ctx fun c => { c with kernels := c.kernels.del kid } with
        regions := s.regions.map fun r => { r with caches := r.caches.map fun c =>
          if c.ctx = ctx && c.kid = kid && c.st != .fetching then {} else c } }
    else s
  | none => s

/-- An instance whose record stands leaves the pool and counts as triggered (R404, R413, R414). -/
def State.leavePool (s : State) (no : Nat) (t : Task) : State :=
  let s := State.updQueue { s with tasks := s.tasks.del no } t.ctx t.trec.queue fun q => { q with count := q.count - 1 }
  let s := if t.triggered then s else s.countTrigger t.first
  let s := if s.tasks.any fun x => x.2.first == t.first then s else { s with spreads := s.spreads.del t.first }
  s.kernelGone t.ctx t.trec.kid

/-- An instance that has ended writes its record, and leaves once that has performed (R404, R416). It waits while a page of its record
is OUT. -/
def State.retireOne (s : State) (no : Nat) : State :=
  match s.tasks.get? no with
  | none => s
  | some t =>
    match t.written with
    | some ids => if ids.any fun i => (s.accs.get? i).isSome then s else s.leavePool no t
    | none =>
      match s.recordPlace t with
      | none => s.leavePool no t
      | some (obj, o, c) =>
        if !o.resident c 16 then s.updTask no fun t => { t with ended := true }
        else
          let (ids, s) := s.writeWords obj o.desc c (completionRecord no t) 16
          s.updTask no fun t => { t with ended := true, written := some ids }

/-- An instance is ABORTED: its own future is faulted at once, unless it has counted as triggered (R414). -/
def State.faultOwn (s : State) (no : Nat) : State :=
  match s.tasks.get? no with
  | some t => if t.triggered then s else s.ownFuture t.first (.fault t.fcode)
  | none => s

/-- A task that has not run ends with END 3 (R404, R411). -/
def State.abortWaiting (s : State) (no : Nat) : State :=
  ((s.updTask no fun t => { t with state := .aborted, endc := 3, fcode := 0x41 }).faultOwn no).retireOne no

/-- Continuations that a retired task left with open slots are aborted (R411). -/
def State.abortOrphans (s : State) : State :=
  let left := s.tasks.filter fun x => x.2.state == .waiting && x.2.openSlots != 0 && x.2.parent.any fun p => (s.tasks.get? p).isNone
  left.foldl (fun s x => s.abortWaiting x.1) s

/-- A task retires, as soon as its record stands (R404, R411). -/
def State.retire (s : State) (no : Nat) : State := (s.retireOne no).abortOrphans

/-- Completion records that wait are tried again (R416). -/
def State.retryEnded (s : State) : State :=
  (((s.tasks.filter fun x => x.2.ended).map (·.1)).foldl State.retireOne s).abortOrphans

/-! ### Waiters (R404-R406) -/

/-- The tasks of a spread, by the TASKNO of its first instance: its instances share their predecessors (R403). -/
def State.spreadOf (s : State) (first : Nat) : List Nat := (s.tasks.filter fun y => y.2.first == first).map (·.1)

/-- A task whose predecessors are all satisfied is READY or UNFUNDED (R404). -/
def State.makeReady (s : State) (no : Nat) : State :=
  s.updTask no fun t => { t with state := if t.need ≤ (s.ctx t.ctx).acct then .ready else .unfunded }

/-- The die whose task waits, for a waiter of another die. -/
def waiterDie (first : Nat) : Option Nat := if first < 2 ^ 32 then none else some (first / 2 ^ 32 - 1)

/-- One predecessor of a waiting spread is satisfied. -/
def State.satisfy (s : State) (first : Nat) : State :=
  if let some d := waiterDie first then s.sendTo d (.wake (first % 2 ^ 32) true) else
  (s.spreadOf first).foldl (fun s no =>
    match s.tasks.get? no with
    | some t =>
      if t.state == .waiting then
        let s := s.updTask no fun t => { t with left := t.left - 1 }
        if t.left ≤ 1 then s.makeReady no else s
      else s
    | none => s) s

/-- A predecessor of a waiting spread is FAULTED. -/
def State.failWaiter (s : State) (first : Nat) : State :=
  if let some d := waiterDie first then s.sendTo d (.wake (first % 2 ^ 32) false) else
  (s.spreadOf first).foldl (fun s no =>
    match s.tasks.get? no with
    | some t => if t.state == .waiting then s.abortWaiting no else s
    | none => s) s

/-- The hub sends a join of a waiter to a future, its own or, for an FJOIN, a tile's commit-buffer release (R189, R404, R408). DEDUCED,
log entry 77. -/
def State.hubJoin (s : State) (ctx waiter first : Nat) (ref : Word) (slot : Nat) : State :=
  match s.refHub ctx ref with
  | .ok l => s.addAcc { req := .fut l (.join waiter first), slot := slot, answered := true }
  | .error _ => s.failWaiter first

/-! ### Entering the pool (R403, R404) -/

/-- Every task of a spread changed. -/
def State.updSpread (s : State) (first : Nat) (f : Task → Task) : State :=
  { s with tasks := s.tasks.mapAll fun _ t => if t.first = first then f t else t }

/-- The tasks of a spread, in instance order. -/
def State.addTasks (s : State) (ctx first : Nat) (r : TaskRec) (parent : Option Nat) (open_ : Nat) :
    Nat → List Nat → State
  | _, [] => s
  | i, slot :: l =>
    let no := (s.lastTask + 1).toNat
    let t : Task := { trec := r, ctx := ctx, slot := slot, first := first, inst := i, state := .waiting, p := r.p
                      left := r.npred, openSlots := open_, parent := parent, age := s.nextId }
    let s := { s with lastTask := s.lastTask + 1, nextId := s.nextId + 1, tasks := s.tasks.put no t }
    (if r.npred = 0 then s.makeReady no else s).addTasks ctx first r parent open_ (i + 1) l

/-- A record enters DECLARED: its tasks, its spread, and the joins of its FUT entries (R403, R404, R520). -/
def State.declare (s : State) (ctx : Nat) (r : TaskRec) (slots : List Nat) (parent : Option Nat) : State :=
  let first := (s.lastTask + 1).toNat
  let s := { s with spreads := s.spreads.put first { left := slots.length, ownf := r.ownf, ctx := ctx } }
  let s := s.addTasks ctx first r parent (r.npred - r.futs.length) 0 slots
  let slot := slots.getD 0 0
  (r.futs.zipIdx).foldl (fun s x => s.hubJoin ctx (slot * 16 + x.2) first x.1 1032) s

/-! ### Futures at their engine (R406, R415) -/

/-- Waiters of a future are taken from the pool's list. -/
def State.takeWaiters (s : State) (l : Loc) : List Nat × State :=
  (s.waiters.getD (futKey l) [], { s with waiters := s.waiters.del (futKey l) })

def State.writeFuture (s : State) (die : Nat) (l : Loc) (w : Nat) : State := s.writeObj die l.obj l.byte (leBytes 8 w)

/-- A resolver meets a future that is settled: fault 0x40 in its rule, DRES for the dispatcher's (R406, R412, R413). -/
def State.doubleResolve (s : State) (a : Acc) : State :=
  match a.task with
  | some t => s.raise t (.fault 0x40 a.vt a.node a.opc a.rule)
  | none =>
    if a.foreign then s.sendTo a.rule (.refused a.tokVal.toNat 0x40)
    else if a.slot != 1032 then s
    else { s with tasks := s.tasks.mapAll fun _ t => if t.first = a.tokVal.toNat then { t with dres := true } else t }

/-- A future request served for a die: the reply's value (R406, R415). -/
def State.serveFut (s : State) (a : Acc) (die : Nat) (l : Loc) (op : FutOp) : Word × State :=
  let w := s.futureWord l
  let st := futState w
  match op with
  | .poll => (if st < 2 then 0 else BitVec.ofNat 32 (st - 1), s)
  | .join x no =>
    if st = 2 then (0, s.satisfy no)
    else if st = 3 then (0, s.failWaiter no)
    else
      let n := if st = 0 then 1 else (w / 2 ^ 48 % 2 ^ 14 + 1) % 2 ^ 14
      let s := { s with waiters := s.waiters.put (futKey l) (s.waiters.getD (futKey l) [] ++ [no]) }
      (0, s.writeFuture die l (2 ^ 62 + n * 2 ^ 48 + x % 2 ^ 20))
  | .resolve v =>
    if 2 ≤ st then (0, s.doubleResolve a)
    else
      let (ws, s) := (s.writeFuture die l (2 * 2 ^ 62 + v % 2 ^ 48)).takeWaiters l
      (0, ws.foldl State.satisfy s)
  | .fault c =>
    if 2 ≤ st then (0, s)
    else
      let (ws, s) := (s.writeFuture die l (3 * 2 ^ 62 + c % 256)).takeWaiters l
      (0, ws.foldl State.failWaiter s)

end Sys2Proof.Machine
end

