-- ==== Sys2Proof/Machine/Future.lean ====
section
/-! DEFINITION. SPAWN, FRES, FJOIN, FPOLL and TRIGGER (spec/15_queues.md R409-R415, spec/22_futures.md R520, R521). -/

namespace Sys2Proof.Machine

/-- n bytes of a copy's pad from an offset on, as its group reads them (R155-R157). -/
def State.padRead (s : State) (task : Nat) (g : Group) (vt : Fin 16) (off n : Nat) : List Byte :=
  let x := s.inst task vt
  (List.range n).map fun i => s.mem.read (s.padAddr g x vt (off + i))

/-- The bytes that an instruction reads at its pad address, rounded down to a multiple of `align` (R410, R324, R327). -/
def State.padArg (s : State) (h : Here) (a : Word) (align n : Nat) : List Byte :=
  let (vt, off) := padTarget h.g s.cur.vt a.toNat align
  s.padRead s.cur.task h.g vt off n

/-- The bytes of a pad argument are not those of a heap that is held (R220). -/
def State.argFree (s : State) (h : Here) (a : Word) (align n : Nat) : Bool :=
  let (vt, off) := padTarget h.g s.cur.vt a.toNat align
  !s.heapHeld s.cur.task vt off n

/-- The fault that a SPAWN's record raises before the rule fires (R410). -/
def State.spawnFault (s : State) (h : Here) (r : Option TaskRec) : Option Nat :=
  match r with
  | none => some 0x02
  | some r =>
    if r.npred < r.futs.length then some 0x02
    else
      match firstCode (s.refGroup h.g.ctx s.cur.task) (r.ownf :: r.futs) with
      | some c => some c
      | none =>
        match h.el.cont with
        | some c => if 0 < c.slots then some 0x41 else none
        | none => none

/-- One of codes 3 to 7 and 9 of R400 holds for a SPAWN's record; none while its OWNF is looked at on another die. -/
def State.spawnRefused (s : State) (h : Here) (r : TaskRec) : Option Bool × State :=
  if s.recordCode h.g.ctx r != 0 then (some true, s)
  else if r.ownf = 0 then (some false, s)
  else
    s.futureSettled (s.refGroup h.g.ctx s.cur.task r.ownf)
      { task := some s.cur.task, vt := s.cur.vt, node := .elem h.e, scope := .device, order := .acq, opc := 0x68, rule := s.cur.slot.val }

/-- SPAWN (R410). DEDUCED, log entry 26. -/
def execSpawn (x : EaDa) (s : State) : Out :=
  match s.here with
  | none => .next s
  | some h =>
    if s.gate h x.trig && h.el.okA x.sa && h.el.okDst x.dst && s.dstRoom h x.dst && s.argFree h (h.el.readA x.sa).val 64 64 then
      let a := h.el.readA x.sa
      let w := leNat (s.padArg h a.val 64 64)
      let rec? := TaskRec.parse w
      match s.spawnFault h rec?, rec? with
      | some c, _ => .next (s.ruleFault s.cur.task s.cur.vt h.e c 0x68 s.cur.slot.val)
      | none, none => .next s
      | none, some r =>
        match s.spawnRefused h r with
        | (none, t) => .next t
        | (some refused, s) =>
        if !refused && !s.hasLine s.cur.task h.g s.cur.vt (.elem h.e) none then
          .next (s.sealFull s.cur.task s.cur.vt (.elem h.e))
        else
          .next <| s.charge h 0x68 32 fun s =>
            let deps := s.fireDeps h x.trig a.deps
            let el := h.el.dequeue (s.pullHere h) (SrcA.takes x.sa)
            if refused then s.result h el x.dst ⟨0, 0, deps⟩ 0 0 false
            else
              let id := s.nextId
              let slots := (s.takeSlots (r.sprm1 + 1)).getD []
              let open_ := r.npred - r.futs.length
              let el := { el with cont := if 0 < open_ then some ⟨id, r.futs.length, open_⟩ else none }
              let v : Word := if r.ownf = 0 then 1 else r.ownf
              let s := s.updQueue h.g.ctx r.queue fun q => { q with count := q.count + slots.length }
              (s.result h el x.dst ⟨0, v, deps⟩ v 0 false).stageHub h 0x68 deps (.spawn id w slots)
    else .next s

/-- FRES (R412, R521): the last effect of the cut that it closes; it takes no line. -/
def execFres (x : EaAb) (s : State) : Out :=
  match s.here with
  | none => .next s
  | some h =>
    if s.gate h x.trig && h.el.okA x.sa && h.el.okB x.sb then
      let a := h.el.readA x.sa
      let b := h.el.readB x.sb
      match s.refGroup h.g.ctx s.cur.task a.val with
      | .error c => .next (s.ruleFault s.cur.task s.cur.vt h.e c 0x69 s.cur.slot.val)
      | .ok l =>
        .next <| s.charge h 0x69 24 fun s =>
          let id := s.nextId
          let el := h.el.dequeue (s.pullHere h) (takesOf (SrcA.takes x.sa) (SrcB.takes x.sb))
          (s.sendReq h el .none { req := .fut l (.resolve b.val.toNat), scope := .device, order := .rel, opc := 0x69,
                                  deps := s.fireDeps h x.trig (a.deps ++ b.deps), answered := true, staged := true,
                                  closes := true, tokVal := a.val }).wantSeal s.cur.task s.cur.vt (.elem h.e) (some id)
    else .next s

/-- FJOIN (R411, R520). -/
def execFjoin (x : EaA) (s : State) : Out :=
  match s.here with
  | none => .next s
  | some h =>
    if s.gate h x.trig && h.el.okA x.sa then
      let a := h.el.readA x.sa
      match h.el.cont, s.refGroup h.g.ctx s.cur.task a.val with
      | none, _ => .next (s.ruleFault s.cur.task s.cur.vt h.e 0x41 0x6A s.cur.slot.val)
      | some _, .error c => .next (s.ruleFault s.cur.task s.cur.vt h.e c 0x6A s.cur.slot.val)
      | some c, .ok _ =>
        if !s.hasLine s.cur.task h.g s.cur.vt (.elem h.e) none then .next (s.sealFull s.cur.task s.cur.vt (.elem h.e))
        else
          .next <| s.charge h 0x6A 24 fun s =>
            let el := h.el.dequeue (s.pullHere h) (SrcA.takes x.sa)
            let el := { el with cont := if c.slots ≤ 1 then none else some ⟨c.spawn, c.taken + 1, c.slots - 1⟩ }
            (s.putHere h el).stageHub h 0x6A (s.fireDeps h x.trig a.deps) (.join c.spawn c.taken a.val)
    else .next s

/-- FPOLL (R415): never staged. DEDUCED, log entry 89. -/
def execFpoll (x : EaDap) (s : State) : Out :=
  match s.here with
  | none => .next s
  | some h =>
    if s.gate h x.trig && h.el.okA x.sa && h.el.okDst x.dst && s.dstRoom h x.dst then
      let a := h.el.readA x.sa
      match s.refGroup h.g.ctx s.cur.task a.val with
      | .error c => .next (s.ruleFault s.cur.task s.cur.vt h.e c 0x6B s.cur.slot.val)
      | .ok l =>
        .next <| s.charge h 0x6B 16 fun s =>
          let el := h.el.dequeue (s.pullHere h) (SrcA.takes x.sa)
          s.sendReq h el x.dst { req := .fut l .poll, scope := .device, order := .acq, opc := 0x6B,
                                 deps := s.fireDeps h x.trig a.deps, pw := if x.pw then some x.pd else none }
    else .next s

/-- TRIGGER (R413): one staged line; its release marks the instance. DEDUCED, log entry 44. -/
def execTrigger (x : EaT) (s : State) : Out :=
  match s.here with
  | none => .next s
  | some h =>
    if s.gate h x.trig then
      if !s.hasLine s.cur.task h.g s.cur.vt (.elem h.e) none then .next (s.sealFull s.cur.task s.cur.vt (.elem h.e))
      else
        .next <| s.charge h 0x6C 4 fun s => s.stageHub h 0x6C (s.fireDeps h x.trig []) .trigger
    else .next s

end Sys2Proof.Machine
end

