-- ==== Sys2Proof/Machine/Meter.lean ====
section
/-! DEFINITION. SEAL, FILL and PKRD (spec/10_charge.md R298, R300-R302). -/

namespace Sys2Proof.Machine

/-- SEAL (R298, R300): opens the next cut; lines that elements of a lower place staged in the same step count in its debit. DESIGN CHOICE, log
entry 118. -/
def execSeal (x : EaDp) (s : State) : Out :=
  match s.here with
  | none => .next s
  | some h =>
    if s.gate h x.trig && h.el.okDst x.dst && s.dstRoom h x.dst && h.g.cut.isNone && !h.g.sealUse then
      .next <| (s.updGroup s.cur.task fun g => { g with sealUse := true }).charge h 0x6D (64 + h.x.uncovered) fun s =>
        let n := BitVec.ofNat 32 h.g.nextCut
        (s.result h h.el x.dst ⟨0, n, s.fireDeps h x.trig []⟩ n x.pd x.pw).openCut s.cur.task s.cur.vt none
    else .next s

/-- Packets that a FILL is granted (R301). DEDUCED, log entry 41. A cut that an element of a lower place opens in the same step is in
progress. DESIGN CHOICE, log entry 118. -/
def State.grant (s : State) (h : Here) (p asked : Nat) : Nat :=
  if h.g.cut.isNone then 0 else min asked (min (s.ctx h.g.ctx).acct (65535 - (p + h.x.granted)))

/-- Packets per tile of a dispatch (R281). -/
def State.packets (s : State) (task : Nat) : Nat :=
  match s.tasks.get? task with
  | some t => t.p
  | none => 0

/-- FILL (R301): the account is debited at once; the meter rises when the grant returns. DEDUCED, log entry 41. -/
def execFill (x : EaDap) (s : State) : Out :=
  match s.here with
  | none => .next s
  | some h =>
    if s.gate h x.trig && h.el.okA x.sa && h.el.okDst x.dst && s.dstRoom h x.dst then
      .next <| s.charge h 0x6E 16 fun s =>
        let a := h.el.readA x.sa
        let n := s.grant h (s.packets s.cur.task) a.val.toNat
        let el := h.el.dequeue (s.pullHere h) (SrcA.takes x.sa)
        let s := (s.updInst s.cur.task s.cur.vt fun y => { y with granted := y.granted + n }).account h.g.ctx fun b => b - n
        s.sendReq h el x.dst { req := .fill a.val.toNat, scope := .device, opc := 0x6E, deps := s.fireDeps h x.trig a.deps,
                               pw := if x.pw then some x.pd else none, reply := some (BitVec.ofNat 32 n), perf := .span,
                               tokVal := BitVec.ofNat 32 n }
    else .next s

/-- PKRD (R302): the balance is read when the request reaches the hub. -/
def execPkrd (x : EaDp) (s : State) : Out :=
  match s.here with
  | none => .next s
  | some h =>
    if s.gate h x.trig && h.el.okDst x.dst && s.dstRoom h x.dst then
      .next <| s.charge h 0x6F 4 fun s =>
        s.sendReq h h.el x.dst { req := .pkrd, scope := .device, opc := 0x6F, deps := s.fireDeps h x.trig [],
                                 pw := if x.pw then some x.pd else none, perf := .span }
    else .next s

end Sys2Proof.Machine
end

