-- ==== Sys2Proof/Machine/Directory.lean ====
section
/-! DEFINITION. The directory (spec/11_tensors.md R311-R331, R533): its tables, the seven directory instructions and the
serving of their requests. -/

namespace Sys2Proof.Machine

/-! ### Objects (R313-R316, R533) -/

/-- A descriptor is invalid (R314). -/
def descInvalid (d : Nat) : Bool :=
  let axes := descAxes d
  field d 255 192 != 0 || field d 63 46 != 0 || field d 23 18 != 0 || field d 14 12 != 0 || field d 7 4 != 0
    || decide (10 < descFmt d)
    || (List.range 4).any (fun i => if i < axes then descExt d i == 0 || decide (16777216 < descExt d i) else descExt d i != 0)
    || (descLayout d == 3 && axes != 4)
    || (descFe d && descFmt d != 0 && descFmt d != 6 && descFmt d != 10)
    || decide (1048576 < descPages d)

/-- The key slot of a descriptor is loaded for a context (R314). -/
def State.keyLoaded (s : State) (ctx d : Nat) : Bool := (s.keys.get? (descKey d)).any (·.ctx == ctx)

/-- A frame as one number: its kind and its FRAME of R334. -/
def frameNo (loc frame : Nat) : Nat := loc * 4194304 + frame

/-- The lowest number from k on, below a limit, that a base plus it does not find used. -/
def lowFree (used : List Nat) (base : Nat) : Nat → Nat → Nat → Option Nat
  | 0, _, _ => none
  | fuel + 1, k, limit =>
    if limit ≤ k then none
    else if used.contains (base + k) then lowFree used base fuel (k + 1) limit
    else some k

/-- The lowest free frame of a vault, frame 47 never (R533). -/
def vaultFrame (used : List Nat) (vault : Nat) : Option (Nat × Nat) :=
  (lowFree used (frameNo 0 (vault * 48)) (used.length + 1) 0 47).map fun k => (0, vault * 48 + k)

/-- The lowest free frame of a DRAM channel. -/
def dramFrame (used : List Nat) (channel : Nat) : Option (Nat × Nat) :=
  (lowFree used (frameNo 1 (channel * 65536)) (used.length + 1) 0 65536).map fun k => (1, channel * 65536 + k)

/-- The first of some places that has a frame. -/
def firstFrame (f : Nat → Option (Nat × Nat)) : List Nat → Option (Nat × Nat)
  | [] => none
  | v :: l =>
    match f v with
    | some x => some x
    | none => firstFrame f l

/-- The frame of page j of an object, by PLACE, creating tile and logical region (R316, R533); none where every region is fenced (R25). -/
def State.placePage (s : State) (used : List Nat) (place t r j : Nat) : Option (Nat × Nat) :=
  let n := s.good.toNat
  let vault (i : Nat) : Nat := s.physRegion r * 16 + i % 16
  let dram := firstFrame (dramFrame used) ((List.range n).map fun i => s.physRegion ((r + j + i) % max 1 n))
  if s.inService.isEmpty then none
  else
  match place with
  | 0 => (firstFrame (vaultFrame used) ((List.range 16).map fun i => vault (t + i))).or dram
  | 1 => (firstFrame (vaultFrame used) ((List.range 16).map fun i => vault (t + j + i))).or dram
  | 2 => (dramFrame used (s.physRegion r)).or dram
  | _ => dram

/-- Frames for pages j, j + 1, …; none when they cannot all be placed. -/
def State.placePages (s : State) (place t r : Nat) : List Nat → Nat → Nat → Option (List (Nat × Nat))
  | _, _, 0 => some []
  | used, j, n + 1 =>
    match s.placePage used place t r j with
    | none => none
    | some x => (s.placePages place t r (frameNo x.1 x.2 :: used) (j + 1) n).map fun l => x :: l

/-- An object's pages placed on its creating tile and region. -/
def State.framesFor (s : State) (d t r : Nat) : Option (List (Nat × Nat)) :=
  s.placePages (descPlace d) t r s.usedFrames 0 (descPages d)

/-- A free object id (R311), one that no die still has. Which one is taken the spec leaves open: the search starts at a free value (DESIGN CHOICE, log entry
10). -/
def State.freeObj (s : State) : Option Nat × State :=
  let (w, s) := s.free Config.freeWord
  let start := w.toNat % 65535 + 1
  let used := s.objs.map (·.1) ++ s.gone.map (·.1)
  let a := lowFree used 0 (used.length + 1) start 65536
  (a.or (lowFree used 0 (used.length + 1) 1 start), s)

/-- Objects of a context that were made on this die (R324, R332). -/
def State.objCount (s : State) (ctx : Nat) : Nat :=
  (s.objs.filter fun x => x.2.ctx == ctx && (x.2.page 0).home == s.die.toNat).length

/-- The lowest FREE slot of a context (R323). -/
def State.freeSlot (s : State) (ctx : Nat) : Option Nat :=
  let used := s.slots.map (·.1)
  lowFree used (ctx * 4096) (used.length + 1) 1 4096

/-- Creation would succeed now (R324). -/
def State.canMake (s : State) (ctx d t r : Nat) : Bool :=
  s.objCount ctx < (s.ctx ctx).objs && s.objs.length < 65535 && (s.freeSlot ctx).isSome && (s.framesFor d t r).isSome

/-- An object created with the first page list, and a slot on it (R315, R333); the other dies take its page table (R332). Answers the
slot's number. DEDUCED, log entry 79. -/
def State.makeObj (s : State) (ctx d t r : Nat) (st : ObjSt) (slot : HSt) (cvd : Bool) : Nat × State :=
  match s.framesFor d t r, s.freeSlot ctx with
  | some frames, some h =>
    match s.freeObj with
    | (some id, s) =>
      let die := s.die.toNat
      let pages : Assoc Page := (frames.zipIdx).map fun x =>
        (x.2, { v := true, dead := true, home := die, die := die, loc := x.1.1, frame := x.1.2 })
      let o : Obj := { ctx := ctx, desc := d, st := st, refs := 1, tile := t, region := r, pages := pages }
      let s : State := { s with objs := s.objs.put id o, slots := s.slots.put (slotKey ctx h) { st := slot, cvd := cvd, obj := id }
                                usedFrames := s.usedFrames ++ frames.map fun (x : Nat × Nat) => frameNo x.1 x.2 }
      (h, s.tellAll (.made id o))
    | (none, s) => (0, s)
  | _, _ => (0, s)

/-- A reference to an object taken, and one given up: the last takes it to RECLAIMING (R315). -/
def State.refObj (s : State) (obj : Nat) : State :=
  { s with objs := s.objs.modify obj fun o => { o with refs := o.refs + 1 } }

def State.unrefObj (s : State) (obj : Nat) : State :=
  { s with objs := s.objs.modify obj fun o =>
      { o with refs := o.refs - 1, st := if o.refs ≤ 1 then .reclaiming else o.st } }

/-- A slot becomes FREE; its tile translations are invalidated (R321, R339). -/
def State.freeHandle (s : State) (key : Nat) : State :=
  match s.slots.get? key with
  | none => s
  | some x =>
    let s := s.unrefObj x.obj
    { s with
      slots := s.slots.del key
      tiles := s.tiles.mapAll fun _ t => { t with cache := t.cache.filter (fun y => !(y.ctx * 4096 + y.key == key)),
                                                  fills := t.fills.filter fun y => !(y.ctx * 4096 + y.key == key) } }

/-- A FRESH object becomes SHARED, and its PRIVATE slots OPEN (R315, R321); the other dies learn of it. -/
def State.share (s : State) (obj : Nat) : State :=
  match s.objs.get? obj with
  | some { st := .fresh _, .. } =>
    State.tellAll { s with
      objs := s.objs.modify obj fun o => { o with st := .shared }
      slots := s.slots.mapAll fun _ x =>
        match x.st with
        | .priv _ => if x.obj = obj then { x with st := .opened, keep := false, cvd := false } else x
        | .closing o _ _ _ => if x.obj = obj then { x with st := .closing o none false false } else x
        | .opened => x } (.shared obj)
  | _ => s

/-! ### Names (R318, R319) -/

def nameId (w : Word) : Nat := w.toNat % 2147483648
def nameWait (w : Word) : Bool := w.msb
def nameKey (ctx id : Nat) : Nat := ctx * 2147483648 + id

def State.name (s : State) (ctx id : Nat) : NameEnt := s.names.getD (nameKey ctx id) {}

/-- A new name entry finds no place (R326). -/
def State.namesFull (s : State) (ctx : Nat) : Bool :=
  65536 ≤ s.names.length || (s.ctx ctx).names ≤ (s.names.filter fun x => x.1 / 2147483648 == ctx).length

def State.hasName (s : State) (ctx id : Nat) : Bool := (s.names.get? (nameKey ctx id)).isSome

def State.updName (s : State) (ctx id : Nat) (f : NameEnt → NameEnt) : State :=
  { s with names := s.names.put (nameKey ctx id) (f (s.name ctx id)) }

/-- A name entry that is UNBOUND and that nothing refers to is freed (R319). -/
def State.dropName (s : State) (ctx id : Nat) : State :=
  match s.names.get? (nameKey ctx id) with
  | some e => if e.obj.isNone && e.fifo.isEmpty && e.refs = 0 then { s with names := s.names.del (nameKey ctx id) } else s
  | none => s

/-- An entry is staged for a name: the name entry is reserved, and the object's reference taken (R326). -/
def State.reserveBind (s : State) (ctx : Nat) (b : BindEnt) : State :=
  let s := s.updName ctx b.name fun e => { e with refs := e.refs + 1 }
  match b.obj with
  | some o => s.refObj o
  | none => s

/-- A staged entry is voided (R326). -/
def State.voidBind (s : State) (ctx : Nat) (b : BindEnt) : State :=
  let s := s.updName ctx b.name fun e => { e with refs := e.refs - 1 }
  (match b.obj with
   | some o => s.unrefObj o
   | none => s).dropName ctx b.name

/-- PIN and MIG of an object's pinned pages cleared, on every die (R335). -/
def State.unpinObj (s : State) (obj : Nat) : State :=
  let pinned := ((s.objs.get? obj).elim [] (·.pages)).filter fun y => y.2.pin
  let s := { s with objs := s.objs.modify obj fun o =>
      { o with pages := o.pages.mapAll fun _ p => if p.pin then { p with pin := false, mig := 0 } else p } }
  pinned.foldl (fun s y => s.tellAll (.unpin obj y.1)) s

/-- A name takes a binding; the reference held for the binding passes to the name (R319), and the object's pages lose
their pins (R335). -/
def State.bindName (s : State) (ctx : Nat) (b : BindEnt) : State :=
  let old := (s.name ctx b.name).obj
  let s := s.updName ctx b.name fun e => { e with obj := b.obj }
  let s := match b.obj with
    | some o => (s.share o).unpinObj o
    | none => s
  match old with
  | some o => s.unrefObj o
  | none => s

/-- The CVD of a slot that a rule of a node enters (R320): `id` is its request, when it waits for a service; the cut in
progress recorded it when it fired before its node's passage. -/
def Group.covers (g : Group) (vt : Fin 16) (n : Node) (id : Option Nat) : Bool :=
  match g.cut with
  | some c => !c.hasPassed (vt, n) ||
      (match id with
       | some i => ((c.record.getD vt.val {}).accs.get? i).isSome
       | none => false)
  | none => true

/-- An OPEN answered: probe, or the lowest FREE slot on the bound object (R323). -/
def State.openDo (s : State) (id : Nat) (a : Acc) (ctx task obj : Nat) (probe : Bool) : State :=
  if probe then s.answer id 1 .span
  else
    match s.freeSlot ctx with
    | none => s.answer id 0 .span
    | some h =>
      let x : Slot := { st := .priv task, cvd := (s.group task).covers a.vt a.node (some id), obj := obj }
      let s := State.refObj { s with slots := s.slots.put (slotKey ctx h) x } obj
      s.answer id (BitVec.ofNat 32 h) .span

/-- The waiting opens of a bound name are served, oldest first (R319, R323). -/
def State.serveWaiters (s : State) (ctx name : Nat) : State :=
  match s.names.get? (nameKey ctx name) with
  | some { obj := some o, fifo := l, .. } =>
    let s := s.updName ctx name fun e => { e with fifo := [] }
    l.foldl (fun s id =>
      match s.accs.get? id with
      | some a =>
        (match a.req, a.task with
         | .dir (.open_ _ probe), some t => s.openDo id a ctx t o probe
         | _, _ => s)
      | none => s) s
  | _ => s

/-- The entries of one staged bind take effect at one serial point, then the waiters of the names bound (R319, R327). -/
def State.releaseBinds (s : State) (ctx : Nat) (l : List BindEnt) : State :=
  let s := l.foldl (fun s b => s.bindName ctx b) s
  let s := l.foldl (fun s b => if b.obj.isSome then s.serveWaiters ctx b.name else s) s
  l.foldl (fun s b => (s.updName ctx b.name fun e => { e with refs := e.refs - 1 }).dropName ctx b.name) s

/-! ### The instructions (R322-R328) -/

/-- A handle that CLOSE and BIND take: OPEN, or PRIVATE of the group (R325, R326). -/
def State.ownHandle (s : State) (ctx task h : Nat) : Option Slot :=
  match s.slot? ctx h with
  | some x =>
    match x.st with
    | .opened => some x
    | .priv o => if o = task then some x else none
    | .closing .. => none
  | none => none

/-- The port accepts the element's directory instruction (R312). -/
def State.dirReady (s : State) (h : Here) (t : Trig) : Bool := s.gate h t && !h.x.dirUse

/-- A rule's fault before it fires. -/
def State.dirFault (s : State) (h : Here) (code opc : Nat) : State :=
  s.ruleFault s.cur.task s.cur.vt h.e code opc s.cur.slot.val

/-- The port is taken for this step. -/
def State.useDir (s : State) : State := s.updInst s.cur.task s.cur.vt fun x => { x with dirUse := true }

def isProbe (d : Dst) : Bool :=
  match d with
  | .pred | .none => true
  | _ => false

/-- OPEN (R323). -/
def execOpenName (x : EaDap) (s : State) : Out :=
  match s.here with
  | none => .next s
  | some h =>
    if s.dirReady h x.trig && h.el.okA x.sa && h.el.okDst x.dst && s.dstRoom h x.dst then
      let a := h.el.readA x.sa
      if nameId a.val = 0 then .next (s.dirFault h 0x02 0x70)
      else
        .next <| s.charge h 0x70 32 fun s =>
          let el := h.el.dequeue (s.pullHere h) (SrcA.takes x.sa)
          s.useDir.sendReq h el x.dst { req := .dir (.open_ a.val (isProbe x.dst)), scope := .device, order := .acq,
                                        opc := 0x70, deps := s.fireDeps h x.trig a.deps,
                                        pw := if x.pw then some x.pd else none }
    else .next s

/-- A handle slot is CLOSING for a group (R321), an operation of the directory (R312). -/
def State.closeSlot (s : State) (c : Closing) : State :=
  match s.slots.get? c.key with
  | none => s
  | some y =>
    let prev : Option Nat := match y.st with
      | .priv o => some o
      | _ => none
    let y : Slot := { y with st := .closing c.task prev y.keep y.cvd, keep := false, cvd := c.cvd }
    State.countAt { s with slots := s.slots.put c.key y } c.task 0 0x1F 1

/-- CLOSE (R325): the slot is CLOSING from the end of the step on, so accesses of the same step proceed (R330). -/
def execClose (x : EaA) (s : State) : Out :=
  match s.here with
  | none => .next s
  | some h =>
    if s.dirReady h x.trig && h.el.okA x.sa then
      let a := h.el.readA x.sa
      if 4096 ≤ a.val.toNat then .next (s.dirFault h 0x02 0x71)
      else
        match s.ownHandle h.g.ctx s.cur.task a.val.toNat with
        | none => .next (s.dirFault h 0x22 0x71)
        | some _ =>
          let c : Closing := ⟨slotKey h.g.ctx a.val.toNat, s.cur.task, h.g.covers s.cur.vt (.elem h.e) none⟩
          if s.closes.any fun d => d.key == c.key then .next (s.dirFault h 0x22 0x71)
          else
            .next <| s.charge h 0x71 16 fun s =>
              let s := s.useDir.putHere h (h.el.dequeue (s.pullHere h) (SrcA.takes x.sa))
              if s.plan.isEmpty then s.closeSlot c else { s with closes := s.closes ++ [c] }
    else .next s

/-- The entry that a name word and a handle word stage, or the fault code (R318, R322, R326). `unbind0`: handle 0 unbinds
(R327). `look`: the slots that may be bound. -/
def bindEntry (look : Nat → Option Slot) (name handle : Word) (unbind0 : Bool) : Except Nat BindEnt :=
  if nameWait name || nameId name = 0 || 4096 ≤ handle.toNat then .error 0x02
  else if unbind0 && handle = 0 then .ok ⟨nameId name, none⟩
  else
    match look handle.toNat with
    | some y => .ok ⟨nameId name, some y.obj⟩
    | none => .error 0x22

/-- New name entries find no place (R326, R327). -/
def State.bindsFull (s : State) (ctx : Nat) : List BindEnt → Bool
  | [] => false
  | b :: l => if s.hasName ctx b.name then s.bindsFull ctx l
    else s.namesFull ctx || (s.updName ctx b.name id).bindsFull ctx l

/-- The firing of BIND, UNBIND and REBIND with its entries: one staged line (R326, R327, R527). -/
def State.fireBinds (s : State) (h : Here) (opc drops : Nat) (el : Elem) (deps : List Nat) (l : List BindEnt) : State :=
  if s.bindsFull h.g.ctx l then s.dirFault h 0x23 opc
  else if !s.hasLine s.cur.task h.g s.cur.vt (.elem h.e) none then s.sealFull s.cur.task s.cur.vt (.elem h.e)
  else
    s.charge h opc drops fun s =>
      let s := s.useDir.putHere h el
      let s := l.foldl (fun s b => s.reserveBind h.g.ctx b) s
      s.stageHub h opc deps (.binds l)

/-- BIND (R326). -/
def execBind (x : EaAb) (s : State) : Out :=
  match s.here with
  | none => .next s
  | some h =>
    if s.dirReady h x.trig && h.el.okA x.sa && h.el.okB x.sb then
      match bindEntry (s.ownHandle h.g.ctx s.cur.task) (h.el.readA x.sa).val (h.el.readB x.sb).val false with
      | .error c => .next (s.dirFault h c 0x72)
      | .ok b =>
        .next (s.fireBinds h 0x72 32 (h.el.dequeue (s.pullHere h) (takesOf (SrcA.takes x.sa) (SrcB.takes x.sb)))
          (s.fireDeps h x.trig ((h.el.readA x.sa).deps ++ (h.el.readB x.sb).deps)) [b])
    else .next s

/-- UNBIND (R326). -/
def execUnbind (x : EaA) (s : State) : Out :=
  match s.here with
  | none => .next s
  | some h =>
    if s.dirReady h x.trig && h.el.okA x.sa then
      match bindEntry (s.ownHandle h.g.ctx s.cur.task) (h.el.readA x.sa).val 0 true with
      | .error c => .next (s.dirFault h c 0x73)
      | .ok b => .next (s.fireBinds h 0x73 32 (h.el.dequeue (s.pullHere h) (SrcA.takes x.sa))
          (s.fireDeps h x.trig (h.el.readA x.sa).deps) [b])
    else .next s

/-- The entries of a list of n pairs of words (R327). -/
def bindList (look : Nat → Option Slot) : List Byte → Nat → Except Nat (List BindEnt)
  | _, 0 => .ok []
  | bs, n + 1 =>
    let name := BitVec.ofNat 32 (leNat (bs.take 4))
    let handle := BitVec.ofNat 32 (leNat ((bs.drop 4).take 4))
    match bindEntry look name handle true, bindList look (bs.drop 8) n with
    | .ok b, .ok l => .ok (b :: l)
    | .error 0x02, _ => .error 0x02
    | _, .error 0x02 => .error 0x02
    | .error c, _ => .error c
    | _, .error c => .error c

/-- Two entries name the same id (R327). -/
def sameName : List BindEnt → Bool
  | [] => false
  | b :: l => l.any (fun c => c.name == b.name) || sameName l

/-- REBIND (R327, R526). -/
def execRebind (x : EaAb) (s : State) : Out :=
  match s.here with
  | none => .next s
  | some h =>
    if s.dirReady h x.trig && h.el.okA x.sa && h.el.okB x.sb then
      let n := (h.el.readB x.sb).val.toNat
      if n = 0 || 8 < n then .next (s.dirFault h 0x02 0x74)
      else if !s.argFree h (h.el.readA x.sa).val 8 (8 * n) then .next s
      else
        let bs := s.padArg h (h.el.readA x.sa).val 8 (8 * n)
        let el := h.el.dequeue (s.pullHere h) (takesOf (SrcA.takes x.sa) (SrcB.takes x.sb))
        match bindList (s.ownHandle h.g.ctx s.cur.task) bs n with
        | .error c => .next (s.dirFault h c 0x74)
        | .ok l =>
          if sameName l then .next (s.dirFault h 0x02 0x74)
          else .next (s.fireBinds h 0x74 (32 + 16 * n) el (s.fireDeps h x.trig ((h.el.readA x.sa).deps ++ (h.el.readB x.sb).deps)) l)
    else .next s

/-- QUERY (R328). -/
def execQuery (x : EaQuery) (s : State) : Out :=
  match s.here with
  | none => .next s
  | some h =>
    if s.dirReady h x.trig && h.el.okA x.sa && h.el.okB x.sb && h.el.okDst x.dst && s.dstRoom h x.dst then
      let a := h.el.readA x.sa
      let b := h.el.readB x.sb
      if 4096 ≤ a.val.toNat || 12 < b.val.toNat then .next (s.dirFault h 0x02 0x75)
      else
        match s.objOf h.g.ctx s.cur.task a.val.toNat with
        | none => .next (s.dirFault h 0x22 0x75)
        | some (obj, _) =>
          .next <| s.charge h 0x75 16 fun s =>
            let el := h.el.dequeue (s.pullHere h) (takesOf (SrcA.takes x.sa) (SrcB.takes x.sb))
            s.useDir.sendReq h el x.dst { req := .dir (.query obj b.val.toNat), scope := .device, opc := 0x75,
                                          deps := s.fireDeps h x.trig (a.deps ++ b.deps),
                                          pw := if x.pw then some x.pd else none }
    else .next s

/-- MKOBJ (R324, R526). -/
def execMkobj (x : EaDap) (s : State) : Out :=
  match s.here with
  | none => .next s
  | some h =>
    if s.dirReady h x.trig && h.el.okA x.sa && h.el.okDst x.dst && s.dstRoom h x.dst && s.argFree h (h.el.readA x.sa).val 32 32 then
      let a := h.el.readA x.sa
      let d := leNat (s.padArg h a.val 32 32)
      if descInvalid d then .next (s.dirFault h 0x02 0x76)
      else if !s.keyLoaded h.g.ctx d then .next (s.dirFault h 0x24 0x76)
      else
        .next <| s.charge h 0x76 48 fun s =>
          let el := h.el.dequeue (s.pullHere h) (SrcA.takes x.sa)
          s.useDir.sendReq h el x.dst { req := .dir (.mkobj d (isProbe x.dst)), scope := .device, opc := 0x76,
                                        deps := s.fireDeps h x.trig a.deps, pw := if x.pw then some x.pd else none }
    else .next s

/-! ### Serving (R312, R323, R324, R328) -/

/-- A field of an object (R328). -/
def State.queryVal (s : State) (obj sel : Nat) : Nat :=
  match s.objs.get? obj with
  | none => 0
  | some o =>
    let d := o.desc
    let b (x : Bool) : Nat := if x then 1 else 0
    match sel with
    | 0 => descFmt d
    | 1 => descLayout d
    | 2 => descAxes d
    | 3 => descExt d 0
    | 4 => descExt d 1
    | 5 => descExt d 2
    | 6 => descExt d 3
    | 7 => descSbase d
    | 8 => descCount d % 2 ^ 32
    | 9 => descCount d / 2 ^ 32
    | 10 => descPages d
    | 11 => b (descWr d) + 2 * b (descFe d) + 4 * b o.isFresh + 8 * b ((o.page 0).home != s.die.toNat)
    | 12 => obj
    | _ => 0

/-- Opens that wait, over the whole part (R323). -/
def State.waitingOpens (s : State) : Nat := (s.names.map fun x => x.2.fifo.length).sum

/-- The creating tile and logical region of a group's MKOBJ (R533). -/
def State.creator (s : State) (task : Nat) (vt : Fin 16) : Nat × Nat :=
  let g := s.group task
  (g.tileOf (s.inst task vt), g.region)

/-- A directory request served (R323, R324, R328). A waiting OPEN takes an entry of the name table (R311); where it finds none, it is
resent, as one that finds 1,024 waiting. DESIGN CHOICE, log entry 123. -/
def State.serveDir (s : State) (id : Nat) (a : Acc) (task : Nat) (op : DirOp) : State :=
  let ctx := (s.group task).ctx
  match op with
  | .query obj sel => s.answer id (BitVec.ofNat 32 (s.queryVal obj sel)) .span
  | .mkobj d probe =>
    let (t, r) := s.creator task a.vt
    if !s.canMake ctx d t r then s.answer id 0 .span
    else if probe then s.answer id 1 .span
    else
      let (h, s) := s.makeObj ctx d t r (.fresh task) (.priv task) ((s.group task).covers a.vt a.node (some id))
      s.answer id (BitVec.ofNat 32 h) .span
  | .open_ name probe =>
    match (s.name ctx (nameId name)).obj with
    | some o => s.openDo id a ctx task o probe
    | none =>
      if !nameWait name then s.answer id 0 .span
      else if s.waitingOpens < 1024 && (s.hasName ctx (nameId name) || !s.namesFull ctx) then
        (s.updName ctx (nameId name) fun e => { e with fifo := e.fifo ++ [id] }).setAcc id { a with deferred := true }
      else s

end Sys2Proof.Machine
end

