-- ==== Sys2Proof/WellFormed.lean ====
section
/-! DEFINITION. Which instructions are well formed: the operand limits of spec/04_encoding.md R82-R95 that the types of
Syntax.lean do not already carry. An ill-formed term has no word; its encoding would be refused under R102. -/

namespace Sys2Proof

/-- DST 0-11 (R87). -/
def Dst.isReg : Dst → Bool
  | .d _ => true
  | .o _ => true
  | .pred => false
  | .none => false

/-- DST 8-11 or 13, a completion channel (R87). -/
def Dst.isDone : Dst → Bool
  | .d _ => false
  | .o _ => true
  | .pred => false
  | .none => true

/-- DST 0-11 or 13 (R87). -/
def Dst.notPred : Dst → Bool
  | .pred => false
  | _ => true

/-- DST 0-13, where code 12 needs PW = 1 (R82). -/
def Dst.okWith (d : Dst) (pw : Bool) : Bool := d.notPred || pw

/-- The legal pairs of AF and WF (R225). -/
def MxPair.legal (p : MxPair) : Bool :=
  (p.af = 0 ∧ p.wf = 0) ∨ ((p.af = 1 ∨ p.af = 2) ∧ (p.wf = 1 ∨ p.wf = 3)) ∨ (p.af = 3 ∧ p.wf = 2)

/-- The pairs that FCVT may name (R89). -/
def fcvtLegal (src tgt : Fin 8) : Bool := src ≠ tgt ∧ (src = 0 ∨ tgt = 0)

/-- BFX limits (R130). -/
def bfxLegal (lo wm1 : BitVec 5) : Bool := lo.toNat + wm1.toNat + 1 ≤ 32

/-- The FMT codes that a vector command allows (R192), by opcode. VRDRN and VHDRN do not read FMT. -/
def vFmtLegal (op : Nat) (fmt : Fin 8) : Bool :=
  if 0x10 ≤ op ∧ op ≤ 0x15 then fmt.val ≤ 4
  else if op = 0x21 then fmt.val ≤ 2
  else if op = 0x50 then fmt.val ≤ 4
  else if op = 0x52 then fmt.val = 0
  else if op = 0x60 then fmt.val = 6
  else if op = 0x61 then fmt.val = 0 ∨ fmt.val = 6
  else true

/-- Well-formedness of an instruction. Events have no encoding and no limits beyond their operand types. -/
def Instr.wf : Instr → Bool
  | .add x => x.dst.okWith x.pw
  | .sub x => x.dst.okWith x.pw
  | .addi x => x.dst.notPred
  | .mul x => x.dst.okWith x.pw
  | .mulh x => x.dst.okWith x.pw
  | .mulhu x => x.dst.okWith x.pw
  | .min x => x.dst.okWith x.pw
  | .max x => x.dst.okWith x.pw
  | .minu x => x.dst.okWith x.pw
  | .maxu x => x.dst.okWith x.pw
  | .addsh x => x.dst.okWith x.pw
  | .absd x => x.dst.okWith x.pw
  | .adds x => x.dst.okWith x.pw
  | .subs x => x.dst.okWith x.pw
  | .neg x => x.dst.okWith x.pw
  | .abs x => x.dst.okWith x.pw
  | .and x => x.dst.okWith x.pw
  | .or x => x.dst.okWith x.pw
  | .xor x => x.dst.okWith x.pw
  | .andn x => x.dst.okWith x.pw
  | .andi x => x.dst.notPred
  | .ori x => x.dst.notPred
  | .xori x => x.dst.notPred
  | .shl x => x.dst.okWith x.pw
  | .shr x => x.dst.okWith x.pw
  | .sar x => x.dst.okWith x.pw
  | .shli x => x.dst.notPred
  | .shri x => x.dst.notPred
  | .sari x => x.dst.notPred
  | .clz x => x.dst.okWith x.pw
  | .popc x => x.dst.okWith x.pw
  | .bfx x => x.dst.notPred && bfxLegal x.lo x.wm1
  | .ceq x => x.dst.okWith x.pw
  | .cne x => x.dst.okWith x.pw
  | .clt x => x.dst.okWith x.pw
  | .cle x => x.dst.okWith x.pw
  | .cltu x => x.dst.okWith x.pw
  | .cleu x => x.dst.okWith x.pw
  | .ceqi x => x.dst.okWith x.pw
  | .clti x => x.dst.okWith x.pw
  | .cgti x => x.dst.okWith x.pw
  | .pand _ => true
  | .por _ => true
  | .pxor _ => true
  | .pnot _ => true
  | .pset _ => true
  | .pclr _ => true
  | .pmov _ => true
  | .mov x => x.dst.okWith x.pw
  | .movi x => x.dst.notPred
  | .movhi x => x.dst.notPred
  | .movk x => x.dst.okWith x.pw
  | .steer x => x.dst.okWith x.pw
  | .merge x => x.dst.okWith x.pw
  | .carry x => x.dst.okWith x.pw
  | .drop _ => true
  | .endt _ => true
  | .tagw x => x.dst.okWith x.pw
  | .tagr x => x.dst.okWith x.pw
  | .dimr x => x.dst.okWith x.pw
  | .req _ => true
  | .cntup x => x.dst.okWith x.pw
  | .sel x => x.dst.notPred
  | .gets x => x.dst.isReg
  | .fadd x => x.dst.okWith x.pw
  | .fsub x => x.dst.okWith x.pw
  | .fmul x => x.dst.okWith x.pw
  | .fma _ => true
  | .fmax x => x.dst.okWith x.pw
  | .fmin x => x.dst.okWith x.pw
  | .fclt x => x.dst.okWith x.pw
  | .fcvt x => x.dst.notPred && fcvtLegal x.src x.tgt
  | .ldp x => x.dst.isReg
  | .stp x => x.dst.isDone
  | .ldt x => x.dst.isReg
  | .stt x => x.dst.isDone
  | .ldlink x => x.dst.isReg
  | .ldfe x => x.dst.isReg
  | .ldfec x => x.dst.isReg
  | .stfe x => x.dst.isDone
  | .disc x => x.dst.isDone
  | .fence x => x.dst.isDone
  | .pref _ => true
  | .aadd x => x.dst.notPred
  | .amax x => x.dst.notPred
  | .afmax x => x.dst.notPred
  | .amin x => x.dst.notPred
  | .axchg x => x.dst.notPred
  | .acas _ => true
  | .aor x => x.dst.notPred
  | .ardrs x => x.dst.notPred
  | .semadd _ => true
  | .semwait _ => true
  | .semset _ => true
  | .semrd x => x.dst.isReg
  | .barriv _ => true
  | .barwt _ => true
  | .baraw _ => true
  | .spawn x => x.dst.notPred
  | .fres _ => true
  | .fjoin _ => true
  | .fpoll x => x.dst.okWith x.pw
  | .trigger _ => true
  | .seal x => x.dst.okWith x.pw
  | .fill x => x.dst.notPred
  | .pkrd x => x.dst.okWith x.pw
  | .openName x => x.dst.okWith x.pw
  | .close _ => true
  | .bind _ => true
  | .unbind _ => true
  | .rebind _ => true
  | .query x => x.dst.okWith x.pw
  | .mkobj x => x.dst.okWith x.pw
  | .issue _ => true
  | .issuev _ => true
  | .sets _ => true
  | .trap x => decide (0x80 ≤ x.cause.toNat)
  | .tret _ => true
  | .done _ => true
  | .evcnt _ => true
  | .vadd x => vFmtLegal 1 x.fmt
  | .vsub x => vFmtLegal 2 x.fmt
  | .vmul x => vFmtLegal 3 x.fmt
  | .vfma x => vFmtLegal 4 x.fmt
  | .vmin x => vFmtLegal 5 x.fmt
  | .vmax x => vFmtLegal 6 x.fmt
  | .vabs x => vFmtLegal 7 x.fmt
  | .vneg x => vFmtLegal 8 x.fmt
  | .vscl x => vFmtLegal 9 x.fmt
  | .vadds x => vFmtLegal 10 x.fmt
  | .vexp2 x => vFmtLegal 16 x.fmt
  | .vlog2 x => vFmtLegal 17 x.fmt
  | .vrcp x => vFmtLegal 18 x.fmt
  | .vrsq x => vFmtLegal 19 x.fmt
  | .vtanh x => vFmtLegal 20 x.fmt
  | .vsigm x => vFmtLegal 21 x.fmt
  | .vcvt x => vFmtLegal 32 x.fmt
  | .vqdp8 x => vFmtLegal 33 x.fmt
  | .vspc x => vFmtLegal 34 x.fmt
  | .vspx x => vFmtLegal 35 x.fmt
  | .vrsum x => vFmtLegal 48 x.fmt
  | .vrmax x => vFmtLegal 49 x.fmt
  | .vramax x => vFmtLegal 50 x.fmt
  | .vrdrn x => vFmtLegal 51 x.fmt
  | .vcmp x => vFmtLegal 64 x.fmt
  | .vsel x => vFmtLegal 65 x.fmt
  | .vperm x => vFmtLegal 66 x.fmt
  | .vbcast x => vFmtLegal 67 x.fmt
  | .vzip x => vFmtLegal 68 x.fmt
  | .vuzp x => vFmtLegal 69 x.fmt
  | .vtop2 x => vFmtLegal 80 x.fmt
  | .vtags x => vFmtLegal 81 x.fmt
  | .vheap x => vFmtLegal 82 x.fmt
  | .vhdrn x => vFmtLegal 83 x.fmt
  | .vcnt x => vFmtLegal 96 x.fmt
  | .vscan x => vFmtLegal 97 x.fmt
  | .mxld _ => true
  | .mxldt _ => true
  | .mxevict _ => true
  | .mxres _ => true
  | .mxmul x => x.fmts.legal
  | .mxmult x => x.fmts.legal
  | .mxmuls x => x.fmts.legal && (match x.sel with | .bank _ => true | .tag _ => decide (x.src.val ≤ 5))
  | .mxgrad _ => true
  | .mxgdrn _ => true
  | .mxdrn _ => true
  | .mxzero _ => true
  | .swalk _ => true
  | .sbnd _ => true
  | .sstop _ => true
  | .cpy _ => true
  | .cpyg _ => true
  | .cpys _ => true
  | .cpyw _ => true
  | .cpyf _ => true
  | .cpyb _ => true
  | .cpyx _ => true
  | .tokenArrival _ _ => true
  | .pullRequestArrival _ _ _ => true
  | .loadReply _ => true
  | .atomicReply _ => true
  | .storeCompletion _ => true
  | .directoryReply _ => true
  | .fillGrant _ => true
  | .pkrdReply _ => true
  | .fpollReply _ => true
  | .semwaitAnswer _ => true
  | .barrierAnswer _ => true
  | .implicitSeal _ => true
  | .commandBegin _ _ => true
  | .vectorTokenStep _ => true
  | .matrixRowStep _ => true
  | .matrixLoadToken _ => true
  | .streamToken _ _ => true
  | .copyUnit _ => true
  | .copyCompletion _ => true
  | .boxComplete _ => true
  | .ridgelineTransfer _ _ => true
  | .translationFill _ _ => true
  | .pageWalk _ _ => true
  | .pageFault _ => true
  | .vaultPortServe _ => true
  | .pageMoveDone _ _ => true
  | .atomicEngineServe _ _ => true
  | .hotLineFetch _ _ => true
  | .syncUnitServe _ _ => true
  | .directoryServe _ => true
  | .objectFreed _ => true
  | .dispatchDecision => true
  | .imageFetchDone _ _ => true
  | .tileArm _ => true
  | .start _ _ => true
  | .flush _ _ => true
  | .crst _ _ => true
  | .ctxsw _ _ => true
  | .recfg _ _ => true
  | .haltc _ _ => true
  | .drain _ => true
  | .kset _ _ _ => true
  | .cairnSeed _ => true
  | .cairnPassage _ _ => true
  | .cutComplete _ => true
  | .commit _ => true
  | .shortfall _ => true
  | .groupFault _ => true
  | .groupHalt _ => true
  | .drainComplete _ => true
  | .fold _ _ => true
  | .foldSwap _ _ => true
  | .unfold _ => true
  | .watchdogExpiry _ _ => true
  | .remoteRetrainExpiry _ => true
  | .storeBuild _ => true
  | .storeUnderrun _ => true
  | .arbitrationPeriod _ => true
  | .powerAlarm _ => true
  | .emergencyExit => true
  | .railRemoved => true
  | .powerOn => true
  | .partReset => true
  | .shockEvent _ => true
  | .launch _ _ => true
  | .qdescWrite _ _ _ => true
  | .accadd _ _ => true
  | .hostSemWrite _ _ _ => true
  | .fqidxWrite _ _ => true
  | .resume _ _ => true
  | .requeue _ _ => true
  | .abort _ _ => true
  | .halt _ _ => true
  | .preempt _ _ => true
  | .pgin _ _ => true
  | .pgout _ _ => true
  | .pgunpin _ _ => true
  | .pgread _ _ => true
  | .hostOpen _ _ => true
  | .hostClose _ _ => true
  | .hostBind _ _ => true
  | .hostUnbind _ _ => true
  | .hostRebind _ _ => true
  | .hostQuery _ _ => true
  | .hostMkobj _ _ => true
  | .direntRead _ => true
  | .kernelRegister _ _ => true
  | .kernelUnload _ _ => true
  | .apertureRead _ _ => true
  | .apertureWrite _ _ _ => true
  | .defineContext _ _ => true
  | .undefineContext _ => true
  | .resetFunction _ => true
  | .initiateFunctionLevelReset _ => true
  | .springCheck => true
  | .springCheckDone _ _ => true
  | .attest => true
  | .keyload _ => true
  | .keydrop _ => true
  | .span => true
  | .recover => true
  | .bootst => true
  | .linkRetrain _ => true
  | .linkReset _ => true
  | .park _ => true
  | .unpark _ => true
  | .pwcauseClear _ => true
  | .registerWrite _ _ _ => true
  | .linkTrainingDone _ _ => true
  | .laneLost _ => true
  | .linkRetrainTimeout _ => true
  | .flitReceive _ _ => true
  | .flitApply _ => true
  | .clockProbe _ => true
  | .probeAnswer _ => true
  | .writeApplied _ => true
  | .functionLevelResetComplete _ => true

end Sys2Proof
end

