-- ==== Sys2Proof/Decode.lean ====
section
/-! DEFINITION. The decoder of rule words and of the four kinds of engine command words (spec/04_encoding.md R79-R95),
rejecting by name, and after it the encoder written from the same tables. -/

namespace Sys2Proof

/-- Why a word names no instruction: the rows of R102 that refuse it. -/
inductive Reject where
  /-- 0xFFFFFFFF, the empty slot (R81). -/
  | emptySlot
  /-- Class 111 or an index outside R80. -/
  | trigger
  /-- A reserved element opcode (R87). -/
  | reservedOpcode
  /-- A DST, SA or SB code outside the instruction's set, or PW against R82 (R102). -/
  | operand
  /-- A reserved scope or size of an EM word (R85). -/
  | emField
  /-- An engine or count of an EX word that is reserved (R86). -/
  | exField
  /-- Immediate bits, a selector or a pair that R87-R89 refuse. -/
  | immediate
  /-- An opcode that its engine does not assign (R90). -/
  | unassigned
  /-- A reserved value or a reserved bit of a command word (R95). -/
  | commandField
  /-- A format or field combination that the engine's chapter does not allow (R95, R192, R234). -/
  | commandFormat
  deriving DecidableEq, Repr

/-- The five spaces of words: rule words, and the command words of each kind of engine (R79, R91-R94). -/
inductive Space where
  | rule
  | vector
  | matrix
  | stream
  | copy
  deriving DecidableEq, Repr

/-! ### The fields of a rule word (R79) -/

/-- The six fields of a rule word. -/
structure RuleFields where
  trig : BitVec 6
  op : BitVec 7
  dst : BitVec 4
  sa : BitVec 4
  sb : BitVec 4
  md : BitVec 7
  deriving DecidableEq, Repr

/-- The word of six fields, most significant first (R79). -/
def RuleFields.word (f : RuleFields) : Word :=
  f.trig ++ f.op ++ f.dst ++ f.sa ++ f.sb ++ f.md

/-- The six fields of a word (R79). -/
def fieldsOf (w : Word) : RuleFields :=
  { trig := w.extractLsb' 26 6, op := w.extractLsb' 19 7, dst := w.extractLsb' 15 4,
    sa := w.extractLsb' 11 4, sb := w.extractLsb' 7 4, md := w.extractLsb' 0 7 }

/-- The trigger of [31:26] (R80). -/
def decTrig (t : BitVec 6) : Option Trig :=
  let i := t.extractLsb' 0 3
  let c : Fin 4 := (t.extractLsb' 0 2).toFin
  let hi := t.extractLsb' 2 1
  match (t.extractLsb' 3 3).toNat with
  | 0 => if i = 0 then some .alw else none
  | 1 => some (.pt i.toFin)
  | 2 => some (.pf i.toFin)
  | 3 => some (if hi = 0 then .tok c else .ctl c)
  | 4 => some (if hi = 0 then .dend c else .endc c)
  | 5 => some (if hi = 0 then .tag c else .null c)
  | 6 => if hi = 0 then some (.rdy c) else none
  | _ => none

/-- [31:26] of a trigger (R39, R80). -/
def encTrig : Trig → BitVec 6
  | .alw => 0
  | .pt n => (1 : BitVec 3) ++ BitVec.ofFin (w := 3) n
  | .pf n => (2 : BitVec 3) ++ BitVec.ofFin (w := 3) n
  | .tok c => (6 : BitVec 4) ++ BitVec.ofFin (w := 2) c
  | .ctl c => (7 : BitVec 4) ++ BitVec.ofFin (w := 2) c
  | .dend c => (8 : BitVec 4) ++ BitVec.ofFin (w := 2) c
  | .endc c => (9 : BitVec 4) ++ BitVec.ofFin (w := 2) c
  | .tag c => (10 : BitVec 4) ++ BitVec.ofFin (w := 2) c
  | .null c => (11 : BitVec 4) ++ BitVec.ofFin (w := 2) c
  | .rdy c => (12 : BitVec 4) ++ BitVec.ofFin (w := 2) c

/-- DST codes (R82). -/
def decDst (b : BitVec 4) : Option Dst :=
  if b.toNat < 8 then some (.d (b.extractLsb' 0 3).toFin)
  else if b.toNat < 12 then some (.o (b.extractLsb' 0 2).toFin)
  else if b = 12 then some .pred
  else if b = 13 then some .none
  else none

/-- DST codes (R40). -/
def encDst : Dst → BitVec 4
  | .d n => (0 : BitVec 1) ++ BitVec.ofFin (w := 3) n
  | .o c => (2 : BitVec 2) ++ BitVec.ofFin (w := 2) c
  | .pred => 12
  | .none => 13

/-- SA codes (R82). -/
def decSa (b : BitVec 4) : SrcA :=
  if b.toNat < 8 then .d (b.extractLsb' 0 3).toFin
  else if b.toNat < 12 then .deq (b.extractLsb' 0 2).toFin
  else .peek (b.extractLsb' 0 2).toFin

/-- SA codes (R40). -/
def encSa : SrcA → BitVec 4
  | .d n => (0 : BitVec 1) ++ BitVec.ofFin (w := 3) n
  | .deq c => (2 : BitVec 2) ++ BitVec.ofFin (w := 2) c
  | .peek c => (3 : BitVec 2) ++ BitVec.ofFin (w := 2) c

/-- SB codes (R82). -/
def decSb (b : BitVec 4) : SrcB :=
  if b.toNat < 8 then .d (b.extractLsb' 0 3).toFin
  else if b.toNat < 12 then .deq (b.extractLsb' 0 2).toFin
  else .k (b.extractLsb' 0 2).toFin

/-- SB codes (R40). -/
def encSb : SrcB → BitVec 4
  | .d n => (0 : BitVec 1) ++ BitVec.ofFin (w := 3) n
  | .deq c => (2 : BitVec 2) ++ BitVec.ofFin (w := 2) c
  | .k c => (3 : BitVec 2) ++ BitVec.ofFin (w := 2) c

/-- DIMC (R83). -/
def decDim (b : BitVec 2) : DimC :=
  match b.toNat with
  | 0 => .none
  | 1 => .a
  | 2 => .b
  | _ => .ab

/-- DIMC (R83). -/
def encDim : DimC → BitVec 2
  | .none => 0
  | .a => 1
  | .b => 2
  | .ab => 3

/-- Scope codes; 6 and 7 are reserved (R85). -/
def decScope (b : BitVec 3) : Option Scope :=
  match b.toNat with
  | 0 => some .elem
  | 1 => some .tile
  | 2 => some .group
  | 3 => some .region
  | 4 => some .device
  | 5 => some .span
  | _ => none

/-- Scope codes (R41). -/
def encScope : Scope → BitVec 3
  | .elem => 0
  | .tile => 1
  | .group => 2
  | .region => 3
  | .device => 4
  | .span => 5

/-- Order codes (R41). -/
def decOrder (b : BitVec 2) : Order :=
  match b.toNat with
  | 0 => .rlx
  | 1 => .acq
  | 2 => .rel
  | _ => .acqrel

/-- Order codes (R41). -/
def encOrder : Order → BitVec 2
  | .rlx => 0
  | .acq => 1
  | .rel => 2
  | .acqrel => 3

/-- Size codes; 11 is reserved (R85). -/
def decSize (b : BitVec 2) : Option Size :=
  match b.toNat with
  | 0 => some .byte
  | 1 => some .half
  | 2 => some .word
  | _ => none

/-- Size codes (R41). -/
def encSize : Size → BitVec 2
  | .byte => 0
  | .half => 1
  | .word => 2

/-- Bit of a Bool. -/
def encBit (b : Bool) : BitVec 1 := if b then 1 else 0

/-- Bool of a bit. -/
def decBit (b : BitVec 1) : Bool := b = 1

/-! ### Field groups of MOD (R83, R85) -/

/-- PD, MOD[6:4]. -/
def mdPd (m : BitVec 7) : Fin 8 := (m.extractLsb' 4 3).toFin

/-- PW, MOD[3]. -/
def mdPw (m : BitVec 7) : Bool := decBit (m.extractLsb' 3 1)

/-- CTAG, MOD[2]. -/
def mdCtag (m : BitVec 7) : Bool := decBit (m.extractLsb' 2 1)

/-- DIMC, MOD[1:0]. -/
def mdDim (m : BitVec 7) : DimC := decDim (m.extractLsb' 0 2)

/-- MOD of an EA word (R83). -/
def encMdEa (pd : Fin 8) (pw ctag : Bool) (dim : DimC) : BitVec 7 :=
  BitVec.ofFin (w := 3) pd ++ encBit pw ++ encBit ctag ++ encDim dim

/-- MOD of an EM word (R85). -/
def encMdEm (s : Scope) (o : Order) (z : BitVec 2) : BitVec 7 :=
  encScope s ++ encOrder o ++ z

/-! ### Decoding rule words, form by form -/

/-- The DST field, with the PW condition of R82. -/
def dstPw (f : RuleFields) (pw : Bool) : Except Reject Dst :=
  match decDst f.dst with
  | some d => if d.okWith pw then .ok d else .error .operand
  | none => .error .operand

/-- The DST field against one of the sets of R87. -/
def dstIn (f : RuleFields) (p : Dst → Bool) : Except Reject Dst :=
  match decDst f.dst with
  | some d => if p d then .ok d else .error .operand
  | none => .error .operand

def decEa2 (t : Trig) (f : RuleFields) (mk : Ea2 → Instr) : Except Reject Instr :=
  match dstPw f (mdPw f.md) with
  | .ok d => .ok (mk { trig := t, dst := d, sa := decSa f.sa, sb := decSb f.sb, pd := mdPd f.md,
                       pw := mdPw f.md, ctag := mdCtag f.md, dim := mdDim f.md })
  | .error e => .error e

def encEa2 (op : BitVec 7) (x : Ea2) : RuleFields :=
  { trig := encTrig x.trig, op := op, dst := encDst x.dst, sa := encSa x.sa, sb := encSb x.sb,
    md := encMdEa x.pd x.pw x.ctag x.dim }

def decEa1 (t : Trig) (f : RuleFields) (mk : Ea1 → Instr) : Except Reject Instr :=
  match dstPw f (mdPw f.md) with
  | .ok d => .ok (mk { trig := t, dst := d, sa := decSa f.sa, pd := mdPd f.md,
                       pw := mdPw f.md, ctag := mdCtag f.md, dim := mdDim f.md })
  | .error e => .error e

def encEa1 (op : BitVec 7) (x : Ea1) : RuleFields :=
  { trig := encTrig x.trig, op := op, dst := encDst x.dst, sa := encSa x.sa, sb := 0,
    md := encMdEa x.pd x.pw x.ctag x.dim }

def decEi (t : Trig) (f : RuleFields) (mk : Ei → Instr) : Except Reject Instr :=
  match dstIn f Dst.notPred with
  | .ok d => .ok (mk { trig := t, dst := d, sa := decSa f.sa, imm := f.sb ++ f.md })
  | .error e => .error e

def encEi (op : BitVec 7) (x : Ei) : RuleFields :=
  { trig := encTrig x.trig, op := op, dst := encDst x.dst, sa := encSa x.sa,
    sb := x.imm.extractLsb' 7 4, md := x.imm.extractLsb' 0 7 }

def decEiShift (t : Trig) (f : RuleFields) (mk : EiShift → Instr) : Except Reject Instr :=
  match dstIn f Dst.notPred with
  | .ok d =>
    if f.sb = 0 ∧ f.md.extractLsb' 5 2 = 0 then
      .ok (mk { trig := t, dst := d, sa := decSa f.sa, n := f.md.extractLsb' 0 5 })
    else .error .immediate
  | .error e => .error e

def encEiShift (op : BitVec 7) (x : EiShift) : RuleFields :=
  { trig := encTrig x.trig, op := op, dst := encDst x.dst, sa := encSa x.sa, sb := 0,
    md := (0 : BitVec 2) ++ x.n }

def decEiBfx (t : Trig) (f : RuleFields) (mk : EiBfx → Instr) : Except Reject Instr :=
  match dstIn f Dst.notPred with
  | .ok d =>
    let imm : BitVec 11 := f.sb ++ f.md
    let lo := imm.extractLsb' 0 5
    let wm1 := imm.extractLsb' 5 5
    if bfxLegal lo wm1 then
      .ok (mk { trig := t, dst := d, sa := decSa f.sa, lo := lo, wm1 := wm1, sx := decBit (imm.extractLsb' 10 1) })
    else .error .immediate
  | .error e => .error e

def encEiBfx (op : BitVec 7) (x : EiBfx) : RuleFields :=
  let imm : BitVec 11 := encBit x.sx ++ x.wm1 ++ x.lo
  { trig := encTrig x.trig, op := op, dst := encDst x.dst, sa := encSa x.sa,
    sb := imm.extractLsb' 7 4, md := imm.extractLsb' 0 7 }

def decEiCmp (t : Trig) (f : RuleFields) (mk : EiCmp → Instr) : Except Reject Instr :=
  match dstPw f (mdPw f.md) with
  | .ok d => .ok (mk { trig := t, dst := d, sa := decSa f.sa, imm := f.sb ++ f.md.extractLsb' 0 3,
                       pd := mdPd f.md, pw := mdPw f.md })
  | .error e => .error e

def encEiCmp (op : BitVec 7) (x : EiCmp) : RuleFields :=
  { trig := encTrig x.trig, op := op, dst := encDst x.dst, sa := encSa x.sa,
    sb := x.imm.extractLsb' 3 4,
    md := BitVec.ofFin (w := 3) x.pd ++ encBit x.pw ++ x.imm.extractLsb' 0 3 }

/-- The predicate forms: DST 12, PW 1, SA and SB codes 0-7 (R87, R133). -/
def decPr2 (t : Trig) (f : RuleFields) (mk : Pr2 → Instr) : Except Reject Instr :=
  if f.dst = 12 ∧ mdPw f.md = true ∧ f.sa.toNat < 8 ∧ f.sb.toNat < 8 then
    .ok (mk { trig := t, pd := mdPd f.md, pa := (f.sa.extractLsb' 0 3).toFin, pb := (f.sb.extractLsb' 0 3).toFin })
  else .error .operand

def encPr2 (op : BitVec 7) (x : Pr2) : RuleFields :=
  { trig := encTrig x.trig, op := op, dst := 12, sa := (0 : BitVec 1) ++ BitVec.ofFin (w := 3) x.pa,
    sb := (0 : BitVec 1) ++ BitVec.ofFin (w := 3) x.pb, md := encMdEa x.pd true false .none }

def decPr1 (t : Trig) (f : RuleFields) (mk : Pr1 → Instr) : Except Reject Instr :=
  if f.dst = 12 ∧ mdPw f.md = true ∧ f.sa.toNat < 8 then
    .ok (mk { trig := t, pd := mdPd f.md, pa := (f.sa.extractLsb' 0 3).toFin })
  else .error .operand

def encPr1 (op : BitVec 7) (x : Pr1) : RuleFields :=
  { trig := encTrig x.trig, op := op, dst := 12, sa := (0 : BitVec 1) ++ BitVec.ofFin (w := 3) x.pa, sb := 0,
    md := encMdEa x.pd true false .none }

def decPr0 (t : Trig) (f : RuleFields) (mk : Pr0 → Instr) : Except Reject Instr :=
  if f.dst = 12 ∧ mdPw f.md = true then .ok (mk { trig := t, pd := mdPd f.md }) else .error .operand

def encPr0 (op : BitVec 7) (x : Pr0) : RuleFields :=
  { trig := encTrig x.trig, op := op, dst := 12, sa := 0, sb := 0, md := encMdEa x.pd true false .none }

def decEiMov (t : Trig) (f : RuleFields) (mk : EiMov → Instr) : Except Reject Instr :=
  match dstIn f Dst.notPred with
  | .ok d => .ok (mk { trig := t, dst := d, imm := f.sa ++ f.sb ++ f.md })
  | .error e => .error e

def encEiMov (op : BitVec 7) (x : EiMov) : RuleFields :=
  { trig := encTrig x.trig, op := op, dst := encDst x.dst, sa := x.imm.extractLsb' 11 4,
    sb := x.imm.extractLsb' 7 4, md := x.imm.extractLsb' 0 7 }

def decEaMovk (t : Trig) (f : RuleFields) (mk : EaMovk → Instr) : Except Reject Instr :=
  match dstPw f (mdPw f.md) with
  | .ok d =>
    if 12 ≤ f.sb.toNat then
      .ok (mk { trig := t, dst := d, k := (f.sb.extractLsb' 0 2).toFin, pd := mdPd f.md, pw := mdPw f.md,
                dim := mdDim f.md })
    else .error .operand
  | .error e => .error e

def encEaMovk (op : BitVec 7) (x : EaMovk) : RuleFields :=
  { trig := encTrig x.trig, op := op, dst := encDst x.dst, sa := 0, sb := (3 : BitVec 2) ++ BitVec.ofFin (w := 2) x.k,
    md := encMdEa x.pd x.pw false x.dim }

/-- SA 8-11 names the channel (R120, R137). -/
def decEaChan (t : Trig) (f : RuleFields) (mk : EaChan → Instr) : Except Reject Instr :=
  if 8 ≤ f.sa.toNat ∧ f.sa.toNat < 12 then .ok (mk { trig := t, c := (f.sa.extractLsb' 0 2).toFin })
  else .error .operand

def encEaChan (op : BitVec 7) (x : EaChan) : RuleFields :=
  { trig := encTrig x.trig, op := op, dst := 0, sa := (2 : BitVec 2) ++ BitVec.ofFin (w := 2) x.c, sb := 0, md := 0 }

/-- DST 8-11 names the output channel. -/
def decOut (b : BitVec 4) : Option (Fin 4) :=
  if 8 ≤ b.toNat ∧ b.toNat < 12 then some (b.extractLsb' 0 2).toFin else none

def encOut (o : Fin 4) : BitVec 4 := (2 : BitVec 2) ++ BitVec.ofFin (w := 2) o

/-- IMM11[3:0] as the level 0-4 of ENDT. -/
def decLevel (b : BitVec 4) : Option (Fin 5) := if h : b.toNat < 5 then some ⟨b.toNat, h⟩ else none

def decEiEndt (t : Trig) (f : RuleFields) (mk : EiEndt → Instr) : Except Reject Instr :=
  match decOut f.dst with
  | some o =>
    if f.sb = 0 ∧ f.md.extractLsb' 4 3 = 0 then
      match decLevel (f.md.extractLsb' 0 4) with
      | some l => .ok (mk { trig := t, o := o, level := l })
      | none => .error .immediate
    else .error .immediate
  | none => .error .operand

def encEiEndt (op : BitVec 7) (x : EiEndt) : RuleFields :=
  { trig := encTrig x.trig, op := op, dst := encOut x.o, sa := 0, sb := 0, md := BitVec.ofNat 7 x.level.val }

def decEaSel (t : Trig) (f : RuleFields) (mk : EaSel → Instr) : Except Reject Instr :=
  match dstIn f Dst.notPred with
  | .ok d =>
    if mdPw f.md = false then
      .ok (mk { trig := t, dst := d, sa := decSa f.sa, sb := decSb f.sb, p := mdPd f.md, ctag := mdCtag f.md,
                dim := mdDim f.md })
    else .error .operand
  | .error e => .error e

def encEaSel (op : BitVec 7) (x : EaSel) : RuleFields :=
  { trig := encTrig x.trig, op := op, dst := encDst x.dst, sa := encSa x.sa, sb := encSb x.sb,
    md := encMdEa x.p false x.ctag x.dim }

/-- GETS selectors 0-18 (R88). -/
def decSel (b : BitVec 5) : Option (Fin 19) := if h : b.toNat < 19 then some ⟨b.toNat, h⟩ else none

def decEiGets (t : Trig) (f : RuleFields) (mk : EiGets → Instr) : Except Reject Instr :=
  match dstIn f Dst.isReg with
  | .ok d =>
    if f.sb = 0 ∧ f.md.extractLsb' 5 2 = 0 then
      match decSel (f.md.extractLsb' 0 5) with
      | some s => .ok (mk { trig := t, dst := d, sel := s })
      | none => .error .immediate
    else .error .immediate
  | .error e => .error e

def encEiGets (op : BitVec 7) (x : EiGets) : RuleFields :=
  { trig := encTrig x.trig, op := op, dst := encDst x.dst, sa := 0, sb := 0, md := BitVec.ofNat 7 x.sel.val }

/-- DST 0-7, a register that is read and then written (R144, R185). -/
def decDreg (b : BitVec 4) : Option (Fin 8) := if b.toNat < 8 then some (b.extractLsb' 0 3).toFin else none

def encDreg (d : Fin 8) : BitVec 4 := (0 : BitVec 1) ++ BitVec.ofFin (w := 3) d

def decEaFma (t : Trig) (f : RuleFields) (mk : EaFma → Instr) : Except Reject Instr :=
  match decDreg f.dst with
  | some d => .ok (mk { trig := t, d := d, sa := decSa f.sa, sb := decSb f.sb, pd := mdPd f.md, pw := mdPw f.md,
                        ctag := mdCtag f.md, dim := mdDim f.md })
  | none => .error .operand

def encEaFma (op : BitVec 7) (x : EaFma) : RuleFields :=
  { trig := encTrig x.trig, op := op, dst := encDreg x.d, sa := encSa x.sa, sb := encSb x.sb,
    md := encMdEa x.pd x.pw x.ctag x.dim }

/-- Format codes 0-7 of FCVT (R89). -/
def decFmt (b : BitVec 4) : Option (Fin 8) := if b.toNat < 8 then some (b.extractLsb' 0 3).toFin else none

def encFmt (n : Fin 8) : BitVec 4 := (0 : BitVec 1) ++ BitVec.ofFin (w := 3) n

/-- Rounding codes 00-10 of FCVT (R145). -/
def decRnd3 (b : BitVec 2) : Option (Fin 3) := if h : b.toNat < 3 then some ⟨b.toNat, h⟩ else none

def decEiFcvt (t : Trig) (f : RuleFields) (mk : EiFcvt → Instr) : Except Reject Instr :=
  match dstIn f Dst.notPred with
  | .ok d =>
    match decFmt f.sb, decFmt (f.md.extractLsb' 3 4), decRnd3 (f.md.extractLsb' 1 2) with
    | some src, some tgt, some r =>
      if fcvtLegal src tgt ∧ f.md.extractLsb' 0 1 = 0 then
        .ok (mk { trig := t, dst := d, sa := decSa f.sa, src := src, tgt := tgt, rnd := r })
      else .error .immediate
    | _, _, _ => .error .immediate
  | .error e => .error e

def encEiFcvt (op : BitVec 7) (x : EiFcvt) : RuleFields :=
  { trig := encTrig x.trig, op := op, dst := encDst x.dst, sa := encSa x.sa, sb := encFmt x.src,
    md := encFmt x.tgt ++ BitVec.ofNat 2 x.rnd.val ++ (0 : BitVec 1) }

/-- MOD[6:4] of an EM word. -/
def mdScope (m : BitVec 7) : Option Scope := decScope (m.extractLsb' 4 3)

/-- MOD[3:2] of an EM word. -/
def mdOrder (m : BitVec 7) : Order := decOrder (m.extractLsb' 2 2)

/-- MOD[1:0] of an EM word. -/
def mdSize (m : BitVec 7) : Option Size := decSize (m.extractLsb' 0 2)

def decEmLdp (t : Trig) (f : RuleFields) (mk : EmLdp → Instr) : Except Reject Instr :=
  match dstIn f Dst.isReg with
  | .ok d =>
    match mdScope f.md, mdSize f.md with
    | some s, some z => .ok (mk { trig := t, dst := d, sa := decSa f.sa, scope := s, order := mdOrder f.md, size := z })
    | _, _ => .error .emField
  | .error e => .error e

def encEmLdp (op : BitVec 7) (x : EmLdp) : RuleFields :=
  { trig := encTrig x.trig, op := op, dst := encDst x.dst, sa := encSa x.sa, sb := 0,
    md := encMdEm x.scope x.order (encSize x.size) }

def decEmStp (t : Trig) (f : RuleFields) (mk : EmStp → Instr) : Except Reject Instr :=
  match dstIn f Dst.isDone with
  | .ok d =>
    match mdScope f.md, mdSize f.md with
    | some s, some z => .ok (mk { trig := t, dst := d, sa := decSa f.sa, sb := decSb f.sb, scope := s,
                                  order := mdOrder f.md, size := z })
    | _, _ => .error .emField
  | .error e => .error e

def encEmStp (op : BitVec 7) (x : EmStp) : RuleFields :=
  { trig := encTrig x.trig, op := op, dst := encDst x.dst, sa := encSa x.sa, sb := encSb x.sb,
    md := encMdEm x.scope x.order (encSize x.size) }

/-- Loads of size 10 (R87). -/
def decEmLd (t : Trig) (f : RuleFields) (mk : EmLd → Instr) : Except Reject Instr :=
  match dstIn f Dst.isReg with
  | .ok d =>
    match mdScope f.md, mdSize f.md with
    | some s, some .word => .ok (mk { trig := t, dst := d, sa := decSa f.sa, scope := s, order := mdOrder f.md })
    | _, _ => .error .emField
  | .error e => .error e

def encEmLd (op : BitVec 7) (x : EmLd) : RuleFields :=
  { trig := encTrig x.trig, op := op, dst := encDst x.dst, sa := encSa x.sa, sb := 0,
    md := encMdEm x.scope x.order 2 }

/-- Pointer and second source, size 10, with the DST set of the instruction (R87). -/
def decEmSt (p : Dst → Bool) (t : Trig) (f : RuleFields) (mk : EmSt → Instr) : Except Reject Instr :=
  match dstIn f p with
  | .ok d =>
    match mdScope f.md, mdSize f.md with
    | some s, some .word => .ok (mk { trig := t, dst := d, sa := decSa f.sa, sb := decSb f.sb, scope := s,
                                      order := mdOrder f.md })
    | _, _ => .error .emField
  | .error e => .error e

def encEmSt (op : BitVec 7) (x : EmSt) : RuleFields :=
  { trig := encTrig x.trig, op := op, dst := encDst x.dst, sa := encSa x.sa, sb := encSb x.sb,
    md := encMdEm x.scope x.order 2 }

/-- DISC reads no size (R85). -/
def decEmDisc (t : Trig) (f : RuleFields) (mk : EmSt → Instr) : Except Reject Instr :=
  match dstIn f Dst.isDone with
  | .ok d =>
    match mdScope f.md with
    | some s => .ok (mk { trig := t, dst := d, sa := decSa f.sa, sb := decSb f.sb, scope := s, order := mdOrder f.md })
    | none => .error .emField
  | .error e => .error e

def encEmDisc (op : BitVec 7) (x : EmSt) : RuleFields :=
  { trig := encTrig x.trig, op := op, dst := encDst x.dst, sa := encSa x.sa, sb := encSb x.sb,
    md := encMdEm x.scope x.order 0 }

def decEmCas (t : Trig) (f : RuleFields) (mk : EmCas → Instr) : Except Reject Instr :=
  match decDreg f.dst with
  | some d =>
    match mdScope f.md, mdSize f.md with
    | some s, some .word => .ok (mk { trig := t, d := d, sa := decSa f.sa, sb := decSb f.sb, scope := s,
                                      order := mdOrder f.md })
    | _, _ => .error .emField
  | none => .error .operand

def encEmCas (op : BitVec 7) (x : EmCas) : RuleFields :=
  { trig := encTrig x.trig, op := op, dst := encDreg x.d, sa := encSa x.sa, sb := encSb x.sb,
    md := encMdEm x.scope x.order 2 }

def decEmFence (t : Trig) (f : RuleFields) (mk : EmFence → Instr) : Except Reject Instr :=
  match dstIn f Dst.isDone with
  | .ok d =>
    match mdScope f.md with
    | some s => .ok (mk { trig := t, dst := d, scope := s, order := mdOrder f.md })
    | none => .error .emField
  | .error e => .error e

def encEmFence (op : BitVec 7) (x : EmFence) : RuleFields :=
  { trig := encTrig x.trig, op := op, dst := encDst x.dst, sa := 0, sb := 0, md := encMdEm x.scope x.order 0 }

def decEmPref (t : Trig) (f : RuleFields) (mk : EmPref → Instr) : Except Reject Instr :=
  match mdScope f.md with
  | some s => .ok (mk { trig := t, sa := decSa f.sa, scope := s })
  | none => .error .emField

def encEmPref (op : BitVec 7) (x : EmPref) : RuleFields :=
  { trig := encTrig x.trig, op := op, dst := 0, sa := encSa x.sa, sb := 0, md := encMdEm x.scope .rlx 0 }

/-- IMM11[5:0] names the semaphore and [10:6] is zero (R427). -/
def semOf (f : RuleFields) : Option (Fin 64) :=
  if f.sb = 0 ∧ f.md.extractLsb' 6 1 = 0 then some (f.md.extractLsb' 0 6).toFin else none

def encSem (m : Fin 64) : BitVec 7 := (0 : BitVec 1) ++ BitVec.ofFin (w := 6) m

def decEiSem (t : Trig) (f : RuleFields) (mk : EiSem → Instr) : Except Reject Instr :=
  match semOf f with
  | some m => .ok (mk { trig := t, sa := decSa f.sa, m := m })
  | none => .error .immediate

def encEiSem (op : BitVec 7) (x : EiSem) : RuleFields :=
  { trig := encTrig x.trig, op := op, dst := 0, sa := encSa x.sa, sb := 0, md := encSem x.m }

def decEiSemw (t : Trig) (f : RuleFields) (mk : EiSemw → Instr) : Except Reject Instr :=
  match decOut f.dst, semOf f with
  | some o, some m => .ok (mk { trig := t, o := o, sa := decSa f.sa, m := m })
  | none, _ => .error .operand
  | _, none => .error .immediate

def encEiSemw (op : BitVec 7) (x : EiSemw) : RuleFields :=
  { trig := encTrig x.trig, op := op, dst := encOut x.o, sa := encSa x.sa, sb := 0, md := encSem x.m }

def decEiSemr (t : Trig) (f : RuleFields) (mk : EiSemr → Instr) : Except Reject Instr :=
  match dstIn f Dst.isReg with
  | .ok d =>
    match semOf f with
    | some m => .ok (mk { trig := t, dst := d, m := m })
    | none => .error .immediate
  | .error e => .error e

def encEiSemr (op : BitVec 7) (x : EiSemr) : RuleFields :=
  { trig := encTrig x.trig, op := op, dst := encDst x.dst, sa := 0, sb := 0, md := encSem x.m }

/-- IMM11[3:0] names the barrier and [10:4] is zero (R433). -/
def barOf (f : RuleFields) : Option (Fin 16) :=
  if f.sb = 0 ∧ f.md.extractLsb' 4 3 = 0 then some (f.md.extractLsb' 0 4).toFin else none

def encBar (g : Fin 16) : BitVec 7 := (0 : BitVec 3) ++ BitVec.ofFin (w := 4) g

def decEiBar (t : Trig) (f : RuleFields) (mk : EiBar → Instr) : Except Reject Instr :=
  match barOf f with
  | some g => .ok (mk { trig := t, g := g })
  | none => .error .immediate

def encEiBar (op : BitVec 7) (x : EiBar) : RuleFields :=
  { trig := encTrig x.trig, op := op, dst := 0, sa := 0, sb := 0, md := encBar x.g }

def decEiBarw (t : Trig) (f : RuleFields) (mk : EiBarw → Instr) : Except Reject Instr :=
  match decOut f.dst, barOf f with
  | some o, some g => .ok (mk { trig := t, o := o, g := g })
  | none, _ => .error .operand
  | _, none => .error .immediate

def encEiBarw (op : BitVec 7) (x : EiBarw) : RuleFields :=
  { trig := encTrig x.trig, op := op, dst := encOut x.o, sa := 0, sb := 0, md := encBar x.g }

def decEaDa (t : Trig) (f : RuleFields) (mk : EaDa → Instr) : Except Reject Instr :=
  match dstIn f Dst.notPred with
  | .ok d => .ok (mk { trig := t, dst := d, sa := decSa f.sa })
  | .error e => .error e

def encEaDa (op : BitVec 7) (x : EaDa) : RuleFields :=
  { trig := encTrig x.trig, op := op, dst := encDst x.dst, sa := encSa x.sa, sb := 0, md := 0 }

def decEaAb (t : Trig) (f : RuleFields) (mk : EaAb → Instr) : Except Reject Instr :=
  .ok (mk { trig := t, sa := decSa f.sa, sb := decSb f.sb })

def encEaAb (op : BitVec 7) (x : EaAb) : RuleFields :=
  { trig := encTrig x.trig, op := op, dst := 0, sa := encSa x.sa, sb := encSb x.sb, md := 0 }

def decEaA (t : Trig) (f : RuleFields) (mk : EaA → Instr) : Except Reject Instr :=
  .ok (mk { trig := t, sa := decSa f.sa })

def encEaA (op : BitVec 7) (x : EaA) : RuleFields :=
  { trig := encTrig x.trig, op := op, dst := 0, sa := encSa x.sa, sb := 0, md := 0 }

/-- SETS: IMM11[4:0] = 18 and [10:5] zero (R463). -/
def decSets (t : Trig) (f : RuleFields) (mk : EaA → Instr) : Except Reject Instr :=
  if f.sb = 0 ∧ f.md = 18 then .ok (mk { trig := t, sa := decSa f.sa }) else .error .immediate

def encSets (op : BitVec 7) (x : EaA) : RuleFields :=
  { trig := encTrig x.trig, op := op, dst := 0, sa := encSa x.sa, sb := 0, md := 18 }

def decEaDap (t : Trig) (f : RuleFields) (mk : EaDap → Instr) : Except Reject Instr :=
  match dstPw f (mdPw f.md) with
  | .ok d => .ok (mk { trig := t, dst := d, sa := decSa f.sa, pd := mdPd f.md, pw := mdPw f.md })
  | .error e => .error e

/-- FILL: DST 0-11 or 13 (R87). -/
def decFill (t : Trig) (f : RuleFields) (mk : EaDap → Instr) : Except Reject Instr :=
  match dstIn f Dst.notPred with
  | .ok d => .ok (mk { trig := t, dst := d, sa := decSa f.sa, pd := mdPd f.md, pw := mdPw f.md })
  | .error e => .error e

def encEaDap (op : BitVec 7) (x : EaDap) : RuleFields :=
  { trig := encTrig x.trig, op := op, dst := encDst x.dst, sa := encSa x.sa, sb := 0,
    md := encMdEa x.pd x.pw false .none }

def decEaQuery (t : Trig) (f : RuleFields) (mk : EaQuery → Instr) : Except Reject Instr :=
  match dstPw f (mdPw f.md) with
  | .ok d => .ok (mk { trig := t, dst := d, sa := decSa f.sa, sb := decSb f.sb, pd := mdPd f.md, pw := mdPw f.md })
  | .error e => .error e

def encEaQuery (op : BitVec 7) (x : EaQuery) : RuleFields :=
  { trig := encTrig x.trig, op := op, dst := encDst x.dst, sa := encSa x.sa, sb := encSb x.sb,
    md := encMdEa x.pd x.pw false .none }

def decEaDp (t : Trig) (f : RuleFields) (mk : EaDp → Instr) : Except Reject Instr :=
  match dstPw f (mdPw f.md) with
  | .ok d => .ok (mk { trig := t, dst := d, pd := mdPd f.md, pw := mdPw f.md })
  | .error e => .error e

def encEaDp (op : BitVec 7) (x : EaDp) : RuleFields :=
  { trig := encTrig x.trig, op := op, dst := encDst x.dst, sa := 0, sb := 0, md := encMdEa x.pd x.pw false .none }

def decEaT (t : Trig) (_ : RuleFields) (mk : EaT → Instr) : Except Reject Instr := .ok (mk { trig := t })

def encEaT (op : BitVec 7) (x : EaT) : RuleFields :=
  { trig := encTrig x.trig, op := op, dst := 0, sa := 0, sb := 0, md := 0 }

/-- Engines 0-4 of an EX word (R86). -/
def decEng (b : BitVec 3) : Option (Fin 5) := if h : b.toNat < 5 then some ⟨b.toNat, h⟩ else none

def decIssue (t : Trig) (f : RuleFields) (mk : ExIssue → Instr) : Except Reject Instr :=
  let idx : Fin 64 := (f.md.extractLsb' 2 2 ++ f.dst).toFin
  match decEng (f.md.extractLsb' 4 3), (f.md.extractLsb' 0 2).toNat with
  | some e, 0 => .ok (mk { trig := t, eng := e, idx := idx, args := .none })
  | some e, 1 => .ok (mk { trig := t, eng := e, idx := idx, args := .one (decSa f.sa) })
  | some e, 2 => .ok (mk { trig := t, eng := e, idx := idx, args := .two (decSa f.sa) (decSb f.sb) })
  | _, _ => .error .exField

def encIssue (op : BitVec 7) (x : ExIssue) : RuleFields :=
  let i : BitVec 6 := BitVec.ofFin (w := 6) x.idx
  let g : BitVec 5 := BitVec.ofNat 3 x.eng.val ++ i.extractLsb' 4 2
  match x.args with
  | .none => { trig := encTrig x.trig, op := op, dst := i.extractLsb' 0 4, sa := 0, sb := 0, md := g ++ (0 : BitVec 2) }
  | .one a => { trig := encTrig x.trig, op := op, dst := i.extractLsb' 0 4, sa := encSa a, sb := 0,
                md := g ++ (1 : BitVec 2) }
  | .two a b => { trig := encTrig x.trig, op := op, dst := i.extractLsb' 0 4, sa := encSa a, sb := encSb b,
                  md := g ++ (2 : BitVec 2) }

/-- ISSUEV reads no table index: MOD[3:2] is unused and ignored (R43, R87, R102). DEDUCED, log entry 85. -/
def decIssuev (t : Trig) (f : RuleFields) (mk : ExIssuev → Instr) : Except Reject Instr :=
  match decEng (f.md.extractLsb' 4 3), (f.md.extractLsb' 0 2).toNat with
  | some e, 0 => .ok (mk { trig := t, eng := e, w := decSa f.sa, args := .none })
  | some e, 1 => .ok (mk { trig := t, eng := e, w := decSa f.sa, args := .one (decSb f.sb) })
  | some e, 2 =>
    match decDreg f.dst with
    | some d => .ok (mk { trig := t, eng := e, w := decSa f.sa, args := .two (decSb f.sb) d })
    | none => .error .exField
  | _, _ => .error .exField

def encIssuev (op : BitVec 7) (x : ExIssuev) : RuleFields :=
  let g : BitVec 5 := BitVec.ofNat 3 x.eng.val ++ (0 : BitVec 2)
  match x.args with
  | .none => { trig := encTrig x.trig, op := op, dst := 0, sa := encSa x.w, sb := 0, md := g ++ (0 : BitVec 2) }
  | .one a => { trig := encTrig x.trig, op := op, dst := 0, sa := encSa x.w, sb := encSb a, md := g ++ (1 : BitVec 2) }
  | .two a b => { trig := encTrig x.trig, op := op, dst := encDreg b, sa := encSa x.w, sb := encSb a,
                  md := g ++ (2 : BitVec 2) }

/-- TRAP: IMM11[7:0] in 0x80-0xFF and [10:8] zero (R463). -/
def decEiTrap (t : Trig) (f : RuleFields) (mk : EiTrap → Instr) : Except Reject Instr :=
  let imm : BitVec 11 := f.sb ++ f.md
  let c := imm.extractLsb' 0 8
  if imm.extractLsb' 8 3 = 0 ∧ 0x80 ≤ c.toNat then .ok (mk { trig := t, cause := c }) else .error .immediate

def encEiTrap (op : BitVec 7) (x : EiTrap) : RuleFields :=
  let imm : BitVec 11 := (0 : BitVec 3) ++ x.cause
  { trig := encTrig x.trig, op := op, dst := 0, sa := 0, sb := imm.extractLsb' 7 4, md := imm.extractLsb' 0 7 }

/-- EVCNT: IMM11[1:0] and [10:2] zero (R506). -/
def decEiEvcnt (t : Trig) (f : RuleFields) (mk : EiEvcnt → Instr) : Except Reject Instr :=
  if f.sb = 0 ∧ f.md.extractLsb' 2 5 = 0 then
    .ok (mk { trig := t, sa := decSa f.sa, n := (f.md.extractLsb' 0 2).toFin })
  else .error .immediate

def encEiEvcnt (op : BitVec 7) (x : EiEvcnt) : RuleFields :=
  { trig := encTrig x.trig, op := op, dst := 0, sa := encSa x.sa, sb := 0,
    md := (0 : BitVec 5) ++ BitVec.ofFin (w := 2) x.n }

/-- The instruction of a trigger and the fields behind it, by opcode (R87). Opcodes that no row lists are reserved. -/
def decodeOp (t : Trig) (f : RuleFields) : Except Reject Instr :=
  match f.op.toNat with
  | 0x00 => decEa2 t f .add
  | 0x01 => decEa2 t f .sub
  | 0x02 => decEi t f .addi
  | 0x03 => decEa2 t f .mul
  | 0x04 => decEa2 t f .mulh
  | 0x05 => decEa2 t f .mulhu
  | 0x06 => decEa2 t f .min
  | 0x07 => decEa2 t f .max
  | 0x08 => decEa2 t f .minu
  | 0x09 => decEa2 t f .maxu
  | 0x0A => decEa2 t f .addsh
  | 0x0B => decEa2 t f .absd
  | 0x0C => decEa2 t f .adds
  | 0x0D => decEa2 t f .subs
  | 0x0E => decEa1 t f .neg
  | 0x0F => decEa1 t f .abs
  | 0x10 => decEa2 t f .and
  | 0x11 => decEa2 t f .or
  | 0x12 => decEa2 t f .xor
  | 0x13 => decEa2 t f .andn
  | 0x14 => decEi t f .andi
  | 0x15 => decEi t f .ori
  | 0x16 => decEi t f .xori
  | 0x17 => decEa2 t f .shl
  | 0x18 => decEa2 t f .shr
  | 0x19 => decEa2 t f .sar
  | 0x1A => decEiShift t f .shli
  | 0x1B => decEiShift t f .shri
  | 0x1C => decEiShift t f .sari
  | 0x1D => decEa1 t f .clz
  | 0x1E => decEa1 t f .popc
  | 0x1F => decEiBfx t f .bfx
  | 0x20 => decEa2 t f .ceq
  | 0x21 => decEa2 t f .cne
  | 0x22 => decEa2 t f .clt
  | 0x23 => decEa2 t f .cle
  | 0x24 => decEa2 t f .cltu
  | 0x25 => decEa2 t f .cleu
  | 0x26 => decEiCmp t f .ceqi
  | 0x27 => decEiCmp t f .clti
  | 0x28 => decEiCmp t f .cgti
  | 0x29 => decPr2 t f .pand
  | 0x2A => decPr2 t f .por
  | 0x2B => decPr2 t f .pxor
  | 0x2C => decPr1 t f .pnot
  | 0x2D => decPr0 t f .pset
  | 0x2E => decPr0 t f .pclr
  | 0x2F => decPr1 t f .pmov
  | 0x30 => decEa1 t f .mov
  | 0x31 => decEiMov t f .movi
  | 0x32 => decEiMov t f .movhi
  | 0x33 => decEaMovk t f .movk
  | 0x34 => decEa2 t f .steer
  | 0x35 => decEa2 t f .merge
  | 0x36 => decEa2 t f .carry
  | 0x37 => decEaChan t f .drop
  | 0x38 => decEiEndt t f .endt
  | 0x39 => decEa2 t f .tagw
  | 0x3A => decEa1 t f .tagr
  | 0x3B => decEa1 t f .dimr
  | 0x3C => decEaChan t f .req
  | 0x3D => decEa2 t f .cntup
  | 0x3E => decEaSel t f .sel
  | 0x3F => decEiGets t f .gets
  | 0x40 => decEa2 t f .fadd
  | 0x41 => decEa2 t f .fsub
  | 0x42 => decEa2 t f .fmul
  | 0x43 => decEaFma t f .fma
  | 0x44 => decEa2 t f .fmax
  | 0x45 => decEa2 t f .fmin
  | 0x46 => decEa2 t f .fclt
  | 0x47 => decEiFcvt t f .fcvt
  | 0x48 => decEmLdp t f .ldp
  | 0x49 => decEmStp t f .stp
  | 0x4A => decEmLd t f .ldt
  | 0x4B => decEmSt Dst.isDone t f .stt
  | 0x4C => decEmSt Dst.isReg t f .ldlink
  | 0x4D => decEmLd t f .ldfe
  | 0x4E => decEmLd t f .ldfec
  | 0x4F => decEmSt Dst.isDone t f .stfe
  | 0x50 => decEmDisc t f .disc
  | 0x51 => decEmFence t f .fence
  | 0x52 => decEmPref t f .pref
  | 0x58 => decEmSt Dst.notPred t f .aadd
  | 0x59 => decEmSt Dst.notPred t f .amax
  | 0x5A => decEmSt Dst.notPred t f .afmax
  | 0x5B => decEmSt Dst.notPred t f .amin
  | 0x5C => decEmSt Dst.notPred t f .axchg
  | 0x5D => decEmCas t f .acas
  | 0x5E => decEmSt Dst.notPred t f .aor
  | 0x5F => decEmSt Dst.notPred t f .ardrs
  | 0x60 => decEiSem t f .semadd
  | 0x61 => decEiSemw t f .semwait
  | 0x62 => decEiSem t f .semset
  | 0x63 => decEiSemr t f .semrd
  | 0x64 => decEiBar t f .barriv
  | 0x65 => decEiBarw t f .barwt
  | 0x66 => decEiBarw t f .baraw
  | 0x68 => decEaDa t f .spawn
  | 0x69 => decEaAb t f .fres
  | 0x6A => decEaA t f .fjoin
  | 0x6B => decEaDap t f .fpoll
  | 0x6C => decEaT t f .trigger
  | 0x6D => decEaDp t f .seal
  | 0x6E => decFill t f .fill
  | 0x6F => decEaDp t f .pkrd
  | 0x70 => decEaDap t f .openName
  | 0x71 => decEaA t f .close
  | 0x72 => decEaAb t f .bind
  | 0x73 => decEaA t f .unbind
  | 0x74 => decEaAb t f .rebind
  | 0x75 => decEaQuery t f .query
  | 0x76 => decEaDap t f .mkobj
  | 0x78 => decIssue t f .issue
  | 0x79 => decIssuev t f .issuev
  | 0x7A => decSets t f .sets
  | 0x7B => decEiTrap t f .trap
  | 0x7C => decEaT t f .tret
  | 0x7D => decEaT t f .done
  | 0x7E => decEiEvcnt t f .evcnt
  | _ => .error .reservedOpcode

/-- The instruction of the fields of a rule word. -/
def decodeFields (f : RuleFields) : Except Reject Instr :=
  match decTrig f.trig with
  | some t => decodeOp t f
  | none => .error .trigger

/-- The instruction of a rule word (R79-R89, R102). -/
def decodeRule (w : Word) : Except Reject Instr :=
  if w = 0xFFFFFFFF then .error .emptySlot else decodeFields (fieldsOf w)

/-! ### Command words -/

/-- The opcode of a command word, [31:24] (R90). -/
def cmdOp (w : Word) : Nat := (w.extractLsb' 24 8).toNat

def decV (op : Nat) (w : Word) (mk : VCmd → Instr) : Except Reject Instr :=
  if w.extractLsb' 9 1 = 0 then
    if vFmtLegal op (w.extractLsb' 12 3).toFin then
      .ok (mk { ba := (w.extractLsb' 21 3).toFin, bb := (w.extractLsb' 18 3).toFin, bo := (w.extractLsb' 15 3).toFin,
                fmt := (w.extractLsb' 12 3).toFin, rnd := (w.extractLsb' 10 2).toFin,
                half := decBit (w.extractLsb' 8 1), cnt := w.extractLsb' 0 8 })
    else .error .commandFormat
  else .error .commandField

def encV (op : BitVec 8) (x : VCmd) : Word :=
  op ++ BitVec.ofFin (w := 3) x.ba ++ BitVec.ofFin (w := 3) x.bb ++ BitVec.ofFin (w := 3) x.bo ++
    BitVec.ofFin (w := 3) x.fmt ++ BitVec.ofFin (w := 2) x.rnd ++ (0 : BitVec 1) ++ encBit x.half ++ x.cnt

/-- The instruction of a vector command word (R91). -/
def decodeVec (w : Word) : Except Reject Instr :=
  match cmdOp w with
  | 0x01 => decV 0x01 w .vadd
  | 0x02 => decV 0x02 w .vsub
  | 0x03 => decV 0x03 w .vmul
  | 0x04 => decV 0x04 w .vfma
  | 0x05 => decV 0x05 w .vmin
  | 0x06 => decV 0x06 w .vmax
  | 0x07 => decV 0x07 w .vabs
  | 0x08 => decV 0x08 w .vneg
  | 0x09 => decV 0x09 w .vscl
  | 0x0A => decV 0x0A w .vadds
  | 0x10 => decV 0x10 w .vexp2
  | 0x11 => decV 0x11 w .vlog2
  | 0x12 => decV 0x12 w .vrcp
  | 0x13 => decV 0x13 w .vrsq
  | 0x14 => decV 0x14 w .vtanh
  | 0x15 => decV 0x15 w .vsigm
  | 0x20 => decV 0x20 w .vcvt
  | 0x21 => decV 0x21 w .vqdp8
  | 0x22 => decV 0x22 w .vspc
  | 0x23 => decV 0x23 w .vspx
  | 0x30 => decV 0x30 w .vrsum
  | 0x31 => decV 0x31 w .vrmax
  | 0x32 => decV 0x32 w .vramax
  | 0x33 => decV 0x33 w .vrdrn
  | 0x40 => decV 0x40 w .vcmp
  | 0x41 => decV 0x41 w .vsel
  | 0x42 => decV 0x42 w .vperm
  | 0x43 => decV 0x43 w .vbcast
  | 0x44 => decV 0x44 w .vzip
  | 0x45 => decV 0x45 w .vuzp
  | 0x50 => decV 0x50 w .vtop2
  | 0x51 => decV 0x51 w .vtags
  | 0x52 => decV 0x52 w .vheap
  | 0x53 => decV 0x53 w .vhdrn
  | 0x60 => decV 0x60 w .vcnt
  | 0x61 => decV 0x61 w .vscan
  | _ => .error .unassigned

/-- The ten fields of an M-word below its opcode (R92). -/
structure MFields where
  acc : BitVec 1
  tag : BitVec 1
  bank : BitVec 3
  src : BitVec 3
  af : BitVec 2
  wf : BitVec 2
  rows : BitVec 7
  msk : BitVec 1
  spn : BitVec 1
  low : BitVec 3
  deriving DecidableEq, Repr

/-- An M-word from its opcode and fields (R92). -/
def MFields.word (op : BitVec 8) (f : MFields) : Word :=
  op ++ f.acc ++ f.tag ++ f.bank ++ f.src ++ f.af ++ f.wf ++ f.rows ++ f.msk ++ f.spn ++ f.low

/-- The fields of an M-word (R92). -/
def mFieldsOf (w : Word) : MFields :=
  { acc := w.extractLsb' 23 1, tag := w.extractLsb' 22 1, bank := w.extractLsb' 19 3, src := w.extractLsb' 16 3,
    af := w.extractLsb' 14 2, wf := w.extractLsb' 12 2, rows := w.extractLsb' 5 7, msk := w.extractLsb' 4 1,
    spn := w.extractLsb' 3 1, low := w.extractLsb' 0 3 }

/-- The zero fields. -/
def MFields.zero : MFields :=
  { acc := 0, tag := 0, bank := 0, src := 0, af := 0, wf := 0, rows := 0, msk := 0, spn := 0, low := 0 }

/-- ASRC 0 to k - 1 (R233). -/
def decSrc (k : Nat) (b : BitVec 3) : Option (Fin k) := if h : b.toNat < k then some ⟨b.toNat, h⟩ else none

def decMxLd (f : MFields) (mk : MxLd → Instr) : Except Reject Instr :=
  match decSrc 6 f.src with
  | some s =>
    if f = { MFields.zero with bank := f.bank, src := f.src, wf := f.wf } then
      .ok (mk { bank := f.bank.toFin, src := s, wf := f.wf.toFin })
    else .error .commandField
  | none => .error .commandField

def encMxLd (x : MxLd) : MFields :=
  { MFields.zero with bank := BitVec.ofFin (w := 3) x.bank, src := BitVec.ofNat 3 x.src.val, wf := BitVec.ofFin (w := 2) x.wf }

def decMxBank (f : MFields) (mk : MxBank → Instr) : Except Reject Instr :=
  if f = { MFields.zero with bank := f.bank } then .ok (mk { bank := f.bank.toFin }) else .error .commandField

def encMxBank (x : MxBank) : MFields := { MFields.zero with bank := BitVec.ofFin (w := 3) x.bank }

/-- AF and WF as a pair. -/
def MFields.pair (f : MFields) : MxPair := { af := f.af.toFin, wf := f.wf.toFin }

def decMxMul (f : MFields) (mk : MxMul → Instr) : Except Reject Instr :=
  match decSrc 7 f.src with
  | some s =>
    if f.tag = 0 ∧ f.msk = 0 ∧ f.spn = 0 ∧ f.low = 0 then
      if f.pair.legal then
        .ok (mk { acc := decBit f.acc, bank := f.bank.toFin, src := s, fmts := f.pair, rows := f.rows.toFin })
      else .error .commandFormat
    else .error .commandField
  | none => .error .commandField

def encMxMul (x : MxMul) : MFields :=
  { MFields.zero with acc := encBit x.acc, bank := BitVec.ofFin (w := 3) x.bank, src := BitVec.ofNat 3 x.src.val, af := BitVec.ofFin (w := 2) x.fmts.af,
                      wf := BitVec.ofFin (w := 2) x.fmts.wf, rows := BitVec.ofFin (w := 7) x.rows }

def decMxMult (f : MFields) (mk : MxMult → Instr) : Except Reject Instr :=
  match decSrc 6 f.src with
  | some s =>
    if f.tag = 1 ∧ f.bank = 0 ∧ f.spn = 0 ∧ f.low = 0 then
      if f.pair.legal then
        .ok (mk { acc := decBit f.acc, src := s, fmts := f.pair, rows := f.rows.toFin, miss := decBit f.msk })
      else .error .commandFormat
    else .error .commandField
  | none => .error .commandField

def encMxMult (x : MxMult) : MFields :=
  { MFields.zero with acc := encBit x.acc, tag := 1, src := BitVec.ofNat 3 x.src.val, af := BitVec.ofFin (w := 2) x.fmts.af,
                      wf := BitVec.ofFin (w := 2) x.fmts.wf, rows := BitVec.ofFin (w := 7) x.rows, msk := encBit x.miss }

/-- BANK with TAG = 0 and MSK = 0, or TAG = 1 with BANK = 0 (R233). -/
def MFields.sel (f : MFields) : Option BankSel :=
  if f.tag = 0 then (if f.msk = 0 then some (.bank f.bank.toFin) else none)
  else if f.bank = 0 then some (.tag (decBit f.msk)) else none

/-- TAG, BANK and MSK of a bank selection. -/
def encSel (f : MFields) : BankSel → MFields
  | .bank b => { f with bank := BitVec.ofFin (w := 3) b }
  | .tag m => { f with tag := 1, msk := encBit m }

def decMxMuls (f : MFields) (mk : MxMuls → Instr) : Except Reject Instr :=
  match decSrc 7 f.src, f.sel with
  | some s, some l =>
    if f.low = 0 ∧ (match l with | .bank _ => true | .tag _ => decide (s.val ≤ 5)) = true then
      if f.pair.legal then
        .ok (mk { acc := decBit f.acc, sel := l, src := s, fmts := f.pair, rows := f.rows.toFin, s8 := decBit f.spn })
      else .error .commandFormat
    else .error .commandField
  | _, _ => .error .commandField

def encMxMuls (x : MxMuls) : MFields :=
  encSel { MFields.zero with acc := encBit x.acc, src := BitVec.ofNat 3 x.src.val, af := BitVec.ofFin (w := 2) x.fmts.af,
                             wf := BitVec.ofFin (w := 2) x.fmts.wf, rows := BitVec.ofFin (w := 7) x.rows, spn := encBit x.s8 } x.sel

def decMxGrad (f : MFields) (mk : MxGrad → Instr) : Except Reject Instr :=
  match decSrc 5 f.src, f.sel with
  | some s, some l =>
    if f.acc = 0 ∧ f.af = 0 ∧ f.wf = 0 ∧ f.spn = 0 ∧ f.low = 0 then
      .ok (mk { sel := l, src := s, rows := f.rows.toFin })
    else .error .commandField
  | _, _ => .error .commandField

def encMxGrad (x : MxGrad) : MFields :=
  encSel { MFields.zero with src := BitVec.ofNat 3 x.src.val, rows := BitVec.ofFin (w := 7) x.rows } x.sel

def decMxGdrn (f : MFields) (mk : MxGdrn → Instr) : Except Reject Instr :=
  if f = { MFields.zero with acc := f.acc, bank := f.bank } then
    .ok (mk { keep := decBit f.acc, bank := f.bank.toFin })
  else .error .commandField

def encMxGdrn (x : MxGdrn) : MFields :=
  { MFields.zero with acc := encBit x.keep, bank := BitVec.ofFin (w := 3) x.bank }

def decMxDrn (f : MFields) (mk : MxDrn → Instr) : Except Reject Instr :=
  match decSrc 7 f.src with
  | some s =>
    if f = { MFields.zero with acc := f.acc, src := f.src, wf := f.wf, rows := f.rows } ∧ (f.wf = 0 ∨ f.wf = 2) then
      .ok (mk { keep := decBit f.acc, src := s, int := decide (f.wf = 2), rows := f.rows.toFin })
    else .error .commandField
  | none => .error .commandField

def encMxDrn (x : MxDrn) : MFields :=
  { MFields.zero with acc := encBit x.keep, src := BitVec.ofNat 3 x.src.val, wf := if x.int then 2 else 0,
                      rows := BitVec.ofFin (w := 7) x.rows }

def decMxZero (f : MFields) (mk : MxZero → Instr) : Except Reject Instr :=
  if f = { MFields.zero with acc := f.acc, rows := f.rows } then
    .ok (mk { grads := decBit f.acc, rows := f.rows.toFin })
  else .error .commandField

def encMxZero (x : MxZero) : MFields :=
  { MFields.zero with acc := encBit x.grads, rows := BitVec.ofFin (w := 7) x.rows }

/-- The instruction of a matrix command word (R92, R233, R234). -/
def decodeMat (w : Word) : Except Reject Instr :=
  match cmdOp w with
  | 0x01 => decMxLd (mFieldsOf w) .mxld
  | 0x02 => decMxLd (mFieldsOf w) .mxldt
  | 0x03 => decMxBank (mFieldsOf w) .mxevict
  | 0x04 => decMxBank (mFieldsOf w) .mxres
  | 0x10 => decMxMul (mFieldsOf w) .mxmul
  | 0x11 => decMxMult (mFieldsOf w) .mxmult
  | 0x12 => decMxMuls (mFieldsOf w) .mxmuls
  | 0x20 => decMxGrad (mFieldsOf w) .mxgrad
  | 0x21 => decMxGdrn (mFieldsOf w) .mxgdrn
  | 0x30 => decMxDrn (mFieldsOf w) .mxdrn
  | 0x31 => decMxZero (mFieldsOf w) .mxzero
  | _ => .error .unassigned

/-- The fields of a W-word below its opcode (R93). -/
structure WFields where
  nest : BitVec 3
  out : BitVec 3
  level : BitVec 3
  btok : BitVec 1
  low : BitVec 14
  deriving DecidableEq, Repr

def WFields.word (op : BitVec 8) (f : WFields) : Word :=
  op ++ f.nest ++ f.out ++ f.level ++ f.btok ++ f.low

def wFieldsOf (w : Word) : WFields :=
  { nest := w.extractLsb' 21 3, out := w.extractLsb' 18 3, level := w.extractLsb' 15 3, btok := w.extractLsb' 14 1,
    low := w.extractLsb' 0 14 }

/-- The instruction of a stream command word (R93, R260). -/
def decodeStream (w : Word) : Except Reject Instr :=
  let f := wFieldsOf w
  match cmdOp w with
  | 0x01 =>
    if f.level = 0 ∧ f.btok = 0 ∧ f.low = 0 then .ok (.swalk { nest := f.nest.toFin, out := f.out.toFin })
    else .error .commandField
  | 0x02 =>
    match decEng f.level with
    | some l =>
      if f.out = 0 ∧ f.low = 0 then .ok (.sbnd { nest := f.nest.toFin, level := l, tok := decBit f.btok })
      else .error .commandField
    | none => .error .commandField
  | 0x03 =>
    if f.out = 0 ∧ f.level = 0 ∧ f.btok = 0 ∧ f.low = 0 then .ok (.sstop { nest := f.nest.toFin })
    else .error .commandField
  | _ => .error .unassigned

/-- The fields of a Y-word below its opcode (R94). -/
structure YFields where
  nest : BitVec 3
  inp : BitVec 3
  out : BitVec 3
  semen : BitVec 1
  sem : BitVec 6
  zf : BitVec 1
  low : BitVec 7
  deriving DecidableEq, Repr

def YFields.word (op : BitVec 8) (f : YFields) : Word :=
  op ++ f.nest ++ f.inp ++ f.out ++ f.semen ++ f.sem ++ f.zf ++ f.low

def yFieldsOf (w : Word) : YFields :=
  { nest := w.extractLsb' 21 3, inp := w.extractLsb' 18 3, out := w.extractLsb' 15 3, semen := w.extractLsb' 14 1,
    sem := w.extractLsb' 8 6, zf := w.extractLsb' 7 1, low := w.extractLsb' 0 7 }

/-- SEMEN and SEM. -/
def YFields.cpySem (f : YFields) : CpySem := { en := decBit f.semen, m := f.sem.toFin }

/-- The instruction of a copy command word (R94, R265). -/
def decodeCopy (w : Word) : Except Reject Instr :=
  let f := yFieldsOf w
  let nest : Fin 8 := f.nest.toFin
  let zf := decBit f.zf
  match cmdOp w with
  | 0x01 =>
    if f.low = 0 then
      .ok (.cpy { nest := nest, inp := f.inp.toFin, out := f.out.toFin, sem := f.cpySem, zf := zf })
    else .error .commandField
  | 0x02 =>
    if f.low = 0 then
      .ok (.cpyg { nest := nest, inp := f.inp.toFin, out := f.out.toFin, sem := f.cpySem, zf := zf })
    else .error .commandField
  | 0x03 =>
    if f.low = 0 ∧ f.out = 0 then .ok (.cpys { nest := nest, inp := f.inp.toFin, sem := f.cpySem, zf := zf })
    else .error .commandField
  | 0x04 =>
    if f.low = 0 ∧ f.inp = 0 then .ok (.cpyw { nest := nest, out := f.out.toFin, sem := f.cpySem, zf := zf })
    else .error .commandField
  | 0x05 =>
    if f.low = 0 ∧ f.inp = 0 ∧ f.out = 0 then .ok (.cpyf { nest := nest, sem := f.cpySem, zf := zf })
    else .error .commandField
  | 0x06 =>
    if f.low = 0 ∧ f.nest = 0 ∧ f.inp = 0 ∧ f.out = 0 ∧ f.zf = 0 then .ok (.cpyb { sem := f.cpySem })
    else .error .commandField
  | 0x07 =>
    if f.low = 0 ∧ f.inp = 0 ∧ f.out = 0 then .ok (.cpyx { nest := nest, sem := f.cpySem, zf := zf })
    else .error .commandField
  | _ => .error .unassigned

/-- A Y-word with its completion semaphore. -/
def encY (op : BitVec 8) (nest inp out : BitVec 3) (s : CpySem) (zf : Bool) : Word :=
  YFields.word op { nest := nest, inp := inp, out := out, semen := encBit s.en, sem := BitVec.ofFin (w := 6) s.m, zf := encBit zf,
                    low := 0 }

/-- The instruction of a word in one of the five spaces. -/
def decodeIn : Space → Word → Except Reject Instr
  | .rule, w => decodeRule w
  | .vector, w => decodeVec w
  | .matrix, w => decodeMat w
  | .stream, w => decodeStream w
  | .copy, w => decodeCopy w

/-- Four bytes as a little-endian word (R3). -/
def wordOfBytes : List Byte → Option (Word × List Byte)
  | a :: b :: c :: d :: rest => some (d ++ c ++ b ++ a, rest)
  | _ => none

/-- The bytes of a word as memory and images hold it (R3). -/
def bytesOfWord (w : Word) : List Byte :=
  [w.extractLsb' 0 8, w.extractLsb' 8 8, w.extractLsb' 16 8, w.extractLsb' 24 8]

/-- Decoding from bytes: the instruction of the first word, and the bytes behind it. -/
def decodeBytes (sp : Space) (bs : List Byte) : Option (Except Reject Instr × List Byte) :=
  match wordOfBytes bs with
  | some (w, rest) => some (decodeIn sp w, rest)
  | none => none

/-- The space in which a table word is read: the first that decodes it, a rule before the engines where the word names no trigger
and after them where it names one. The spaces overlap (R79, R91-R94), so a word may be read in another space than the row's
(assumption log 5). DESIGN CHOICE, log entry 5. -/
def tableSpace (w : Word) : Option Space :=
  let engines := [Space.vector, .matrix, .stream, .copy]
  (if w.toNat / 2 ^ 26 = 0 then Space.rule :: engines else engines ++ [Space.rule]).find? fun sp =>
    match decodeIn sp w with
    | .ok _ => true
    | .error _ => false

/-- The instruction of a word of the opcode table: 32 bits, laid out as four bytes and given to the decoder. DESIGN CHOICE, log
entry 5. -/
def decodeTableWord (nbits w : Nat) : Option Instr :=
  if nbits ≤ 32 then
    let word : Word := BitVec.ofNat 32 (w % 2 ^ nbits)
    match tableSpace word with
    | none => none
    | some sp =>
      match decodeBytes sp (bytesOfWord word) with
      | some (.ok i, _) => some i
      | _ => none
  else none

/-! ### The encoder -/

/-- The fields of the rule word of an instruction; none for commands and events. -/
def ruleFields : Instr → Option RuleFields
  | .add x => some (encEa2 0x00 x)
  | .sub x => some (encEa2 0x01 x)
  | .addi x => some (encEi 0x02 x)
  | .mul x => some (encEa2 0x03 x)
  | .mulh x => some (encEa2 0x04 x)
  | .mulhu x => some (encEa2 0x05 x)
  | .min x => some (encEa2 0x06 x)
  | .max x => some (encEa2 0x07 x)
  | .minu x => some (encEa2 0x08 x)
  | .maxu x => some (encEa2 0x09 x)
  | .addsh x => some (encEa2 0x0A x)
  | .absd x => some (encEa2 0x0B x)
  | .adds x => some (encEa2 0x0C x)
  | .subs x => some (encEa2 0x0D x)
  | .neg x => some (encEa1 0x0E x)
  | .abs x => some (encEa1 0x0F x)
  | .and x => some (encEa2 0x10 x)
  | .or x => some (encEa2 0x11 x)
  | .xor x => some (encEa2 0x12 x)
  | .andn x => some (encEa2 0x13 x)
  | .andi x => some (encEi 0x14 x)
  | .ori x => some (encEi 0x15 x)
  | .xori x => some (encEi 0x16 x)
  | .shl x => some (encEa2 0x17 x)
  | .shr x => some (encEa2 0x18 x)
  | .sar x => some (encEa2 0x19 x)
  | .shli x => some (encEiShift 0x1A x)
  | .shri x => some (encEiShift 0x1B x)
  | .sari x => some (encEiShift 0x1C x)
  | .clz x => some (encEa1 0x1D x)
  | .popc x => some (encEa1 0x1E x)
  | .bfx x => some (encEiBfx 0x1F x)
  | .ceq x => some (encEa2 0x20 x)
  | .cne x => some (encEa2 0x21 x)
  | .clt x => some (encEa2 0x22 x)
  | .cle x => some (encEa2 0x23 x)
  | .cltu x => some (encEa2 0x24 x)
  | .cleu x => some (encEa2 0x25 x)
  | .ceqi x => some (encEiCmp 0x26 x)
  | .clti x => some (encEiCmp 0x27 x)
  | .cgti x => some (encEiCmp 0x28 x)
  | .pand x => some (encPr2 0x29 x)
  | .por x => some (encPr2 0x2A x)
  | .pxor x => some (encPr2 0x2B x)
  | .pnot x => some (encPr1 0x2C x)
  | .pset x => some (encPr0 0x2D x)
  | .pclr x => some (encPr0 0x2E x)
  | .pmov x => some (encPr1 0x2F x)
  | .mov x => some (encEa1 0x30 x)
  | .movi x => some (encEiMov 0x31 x)
  | .movhi x => some (encEiMov 0x32 x)
  | .movk x => some (encEaMovk 0x33 x)
  | .steer x => some (encEa2 0x34 x)
  | .merge x => some (encEa2 0x35 x)
  | .carry x => some (encEa2 0x36 x)
  | .drop x => some (encEaChan 0x37 x)
  | .endt x => some (encEiEndt 0x38 x)
  | .tagw x => some (encEa2 0x39 x)
  | .tagr x => some (encEa1 0x3A x)
  | .dimr x => some (encEa1 0x3B x)
  | .req x => some (encEaChan 0x3C x)
  | .cntup x => some (encEa2 0x3D x)
  | .sel x => some (encEaSel 0x3E x)
  | .gets x => some (encEiGets 0x3F x)
  | .fadd x => some (encEa2 0x40 x)
  | .fsub x => some (encEa2 0x41 x)
  | .fmul x => some (encEa2 0x42 x)
  | .fma x => some (encEaFma 0x43 x)
  | .fmax x => some (encEa2 0x44 x)
  | .fmin x => some (encEa2 0x45 x)
  | .fclt x => some (encEa2 0x46 x)
  | .fcvt x => some (encEiFcvt 0x47 x)
  | .ldp x => some (encEmLdp 0x48 x)
  | .stp x => some (encEmStp 0x49 x)
  | .ldt x => some (encEmLd 0x4A x)
  | .stt x => some (encEmSt 0x4B x)
  | .ldlink x => some (encEmSt 0x4C x)
  | .ldfe x => some (encEmLd 0x4D x)
  | .ldfec x => some (encEmLd 0x4E x)
  | .stfe x => some (encEmSt 0x4F x)
  | .disc x => some (encEmDisc 0x50 x)
  | .fence x => some (encEmFence 0x51 x)
  | .pref x => some (encEmPref 0x52 x)
  | .aadd x => some (encEmSt 0x58 x)
  | .amax x => some (encEmSt 0x59 x)
  | .afmax x => some (encEmSt 0x5A x)
  | .amin x => some (encEmSt 0x5B x)
  | .axchg x => some (encEmSt 0x5C x)
  | .acas x => some (encEmCas 0x5D x)
  | .aor x => some (encEmSt 0x5E x)
  | .ardrs x => some (encEmSt 0x5F x)
  | .semadd x => some (encEiSem 0x60 x)
  | .semwait x => some (encEiSemw 0x61 x)
  | .semset x => some (encEiSem 0x62 x)
  | .semrd x => some (encEiSemr 0x63 x)
  | .barriv x => some (encEiBar 0x64 x)
  | .barwt x => some (encEiBarw 0x65 x)
  | .baraw x => some (encEiBarw 0x66 x)
  | .spawn x => some (encEaDa 0x68 x)
  | .fres x => some (encEaAb 0x69 x)
  | .fjoin x => some (encEaA 0x6A x)
  | .fpoll x => some (encEaDap 0x6B x)
  | .trigger x => some (encEaT 0x6C x)
  | .seal x => some (encEaDp 0x6D x)
  | .fill x => some (encEaDap 0x6E x)
  | .pkrd x => some (encEaDp 0x6F x)
  | .openName x => some (encEaDap 0x70 x)
  | .close x => some (encEaA 0x71 x)
  | .bind x => some (encEaAb 0x72 x)
  | .unbind x => some (encEaA 0x73 x)
  | .rebind x => some (encEaAb 0x74 x)
  | .query x => some (encEaQuery 0x75 x)
  | .mkobj x => some (encEaDap 0x76 x)
  | .issue x => some (encIssue 0x78 x)
  | .issuev x => some (encIssuev 0x79 x)
  | .sets x => some (encSets 0x7A x)
  | .trap x => some (encEiTrap 0x7B x)
  | .tret x => some (encEaT 0x7C x)
  | .done x => some (encEaT 0x7D x)
  | .evcnt x => some (encEiEvcnt 0x7E x)
  | .vadd _ => none
  | .vsub _ => none
  | .vmul _ => none
  | .vfma _ => none
  | .vmin _ => none
  | .vmax _ => none
  | .vabs _ => none
  | .vneg _ => none
  | .vscl _ => none
  | .vadds _ => none
  | .vexp2 _ => none
  | .vlog2 _ => none
  | .vrcp _ => none
  | .vrsq _ => none
  | .vtanh _ => none
  | .vsigm _ => none
  | .vcvt _ => none
  | .vqdp8 _ => none
  | .vspc _ => none
  | .vspx _ => none
  | .vrsum _ => none
  | .vrmax _ => none
  | .vramax _ => none
  | .vrdrn _ => none
  | .vcmp _ => none
  | .vsel _ => none
  | .vperm _ => none
  | .vbcast _ => none
  | .vzip _ => none
  | .vuzp _ => none
  | .vtop2 _ => none
  | .vtags _ => none
  | .vheap _ => none
  | .vhdrn _ => none
  | .vcnt _ => none
  | .vscan _ => none
  | .mxld _ => none
  | .mxldt _ => none
  | .mxevict _ => none
  | .mxres _ => none
  | .mxmul _ => none
  | .mxmult _ => none
  | .mxmuls _ => none
  | .mxgrad _ => none
  | .mxgdrn _ => none
  | .mxdrn _ => none
  | .mxzero _ => none
  | .swalk _ => none
  | .sbnd _ => none
  | .sstop _ => none
  | .cpy _ => none
  | .cpyg _ => none
  | .cpys _ => none
  | .cpyw _ => none
  | .cpyf _ => none
  | .cpyb _ => none
  | .cpyx _ => none
  | .tokenArrival _ _ => none
  | .pullRequestArrival _ _ _ => none
  | .loadReply _ => none
  | .atomicReply _ => none
  | .storeCompletion _ => none
  | .directoryReply _ => none
  | .fillGrant _ => none
  | .pkrdReply _ => none
  | .fpollReply _ => none
  | .semwaitAnswer _ => none
  | .barrierAnswer _ => none
  | .implicitSeal _ => none
  | .commandBegin _ _ => none
  | .vectorTokenStep _ => none
  | .matrixRowStep _ => none
  | .matrixLoadToken _ => none
  | .streamToken _ _ => none
  | .copyUnit _ => none
  | .copyCompletion _ => none
  | .boxComplete _ => none
  | .ridgelineTransfer _ _ => none
  | .translationFill _ _ => none
  | .pageWalk _ _ => none
  | .pageFault _ => none
  | .vaultPortServe _ => none
  | .pageMoveDone _ _ => none
  | .atomicEngineServe _ _ => none
  | .hotLineFetch _ _ => none
  | .syncUnitServe _ _ => none
  | .directoryServe _ => none
  | .objectFreed _ => none
  | .dispatchDecision => none
  | .imageFetchDone _ _ => none
  | .tileArm _ => none
  | .start _ _ => none
  | .flush _ _ => none
  | .crst _ _ => none
  | .ctxsw _ _ => none
  | .recfg _ _ => none
  | .haltc _ _ => none
  | .drain _ => none
  | .kset _ _ _ => none
  | .cairnSeed _ => none
  | .cairnPassage _ _ => none
  | .cutComplete _ => none
  | .commit _ => none
  | .shortfall _ => none
  | .groupFault _ => none
  | .groupHalt _ => none
  | .drainComplete _ => none
  | .fold _ _ => none
  | .foldSwap _ _ => none
  | .unfold _ => none
  | .watchdogExpiry _ _ => none
  | .remoteRetrainExpiry _ => none
  | .storeBuild _ => none
  | .storeUnderrun _ => none
  | .arbitrationPeriod _ => none
  | .powerAlarm _ => none
  | .emergencyExit => none
  | .railRemoved => none
  | .powerOn => none
  | .partReset => none
  | .shockEvent _ => none
  | .launch _ _ => none
  | .qdescWrite _ _ _ => none
  | .accadd _ _ => none
  | .hostSemWrite _ _ _ => none
  | .fqidxWrite _ _ => none
  | .resume _ _ => none
  | .requeue _ _ => none
  | .abort _ _ => none
  | .halt _ _ => none
  | .preempt _ _ => none
  | .pgin _ _ => none
  | .pgout _ _ => none
  | .pgunpin _ _ => none
  | .pgread _ _ => none
  | .hostOpen _ _ => none
  | .hostClose _ _ => none
  | .hostBind _ _ => none
  | .hostUnbind _ _ => none
  | .hostRebind _ _ => none
  | .hostQuery _ _ => none
  | .hostMkobj _ _ => none
  | .direntRead _ => none
  | .kernelRegister _ _ => none
  | .kernelUnload _ _ => none
  | .apertureRead _ _ => none
  | .apertureWrite _ _ _ => none
  | .defineContext _ _ => none
  | .undefineContext _ => none
  | .resetFunction _ => none
  | .initiateFunctionLevelReset _ => none
  | .springCheck => none
  | .springCheckDone _ _ => none
  | .attest => none
  | .keyload _ => none
  | .keydrop _ => none
  | .span => none
  | .recover => none
  | .bootst => none
  | .linkRetrain _ => none
  | .linkReset _ => none
  | .park _ => none
  | .unpark _ => none
  | .pwcauseClear _ => none
  | .registerWrite _ _ _ => none
  | .linkTrainingDone _ _ => none
  | .laneLost _ => none
  | .linkRetrainTimeout _ => none
  | .flitReceive _ _ => none
  | .flitApply _ => none
  | .clockProbe _ => none
  | .probeAnswer _ => none
  | .writeApplied _ => none
  | .functionLevelResetComplete _ => none

/-- A word together with its space. -/
structure Coded where
  space : Space
  word : Word
  deriving DecidableEq, Repr

/-- The command word of an instruction; none for rule instructions and events. -/
def commandWord : Instr → Option Coded
  | .add _ => none
  | .sub _ => none
  | .addi _ => none
  | .mul _ => none
  | .mulh _ => none
  | .mulhu _ => none
  | .min _ => none
  | .max _ => none
  | .minu _ => none
  | .maxu _ => none
  | .addsh _ => none
  | .absd _ => none
  | .adds _ => none
  | .subs _ => none
  | .neg _ => none
  | .abs _ => none
  | .and _ => none
  | .or _ => none
  | .xor _ => none
  | .andn _ => none
  | .andi _ => none
  | .ori _ => none
  | .xori _ => none
  | .shl _ => none
  | .shr _ => none
  | .sar _ => none
  | .shli _ => none
  | .shri _ => none
  | .sari _ => none
  | .clz _ => none
  | .popc _ => none
  | .bfx _ => none
  | .ceq _ => none
  | .cne _ => none
  | .clt _ => none
  | .cle _ => none
  | .cltu _ => none
  | .cleu _ => none
  | .ceqi _ => none
  | .clti _ => none
  | .cgti _ => none
  | .pand _ => none
  | .por _ => none
  | .pxor _ => none
  | .pnot _ => none
  | .pset _ => none
  | .pclr _ => none
  | .pmov _ => none
  | .mov _ => none
  | .movi _ => none
  | .movhi _ => none
  | .movk _ => none
  | .steer _ => none
  | .merge _ => none
  | .carry _ => none
  | .drop _ => none
  | .endt _ => none
  | .tagw _ => none
  | .tagr _ => none
  | .dimr _ => none
  | .req _ => none
  | .cntup _ => none
  | .sel _ => none
  | .gets _ => none
  | .fadd _ => none
  | .fsub _ => none
  | .fmul _ => none
  | .fma _ => none
  | .fmax _ => none
  | .fmin _ => none
  | .fclt _ => none
  | .fcvt _ => none
  | .ldp _ => none
  | .stp _ => none
  | .ldt _ => none
  | .stt _ => none
  | .ldlink _ => none
  | .ldfe _ => none
  | .ldfec _ => none
  | .stfe _ => none
  | .disc _ => none
  | .fence _ => none
  | .pref _ => none
  | .aadd _ => none
  | .amax _ => none
  | .afmax _ => none
  | .amin _ => none
  | .axchg _ => none
  | .acas _ => none
  | .aor _ => none
  | .ardrs _ => none
  | .semadd _ => none
  | .semwait _ => none
  | .semset _ => none
  | .semrd _ => none
  | .barriv _ => none
  | .barwt _ => none
  | .baraw _ => none
  | .spawn _ => none
  | .fres _ => none
  | .fjoin _ => none
  | .fpoll _ => none
  | .trigger _ => none
  | .seal _ => none
  | .fill _ => none
  | .pkrd _ => none
  | .openName _ => none
  | .close _ => none
  | .bind _ => none
  | .unbind _ => none
  | .rebind _ => none
  | .query _ => none
  | .mkobj _ => none
  | .issue _ => none
  | .issuev _ => none
  | .sets _ => none
  | .trap _ => none
  | .tret _ => none
  | .done _ => none
  | .evcnt _ => none
  | .vadd x => some ⟨.vector, encV 0x01 x⟩
  | .vsub x => some ⟨.vector, encV 0x02 x⟩
  | .vmul x => some ⟨.vector, encV 0x03 x⟩
  | .vfma x => some ⟨.vector, encV 0x04 x⟩
  | .vmin x => some ⟨.vector, encV 0x05 x⟩
  | .vmax x => some ⟨.vector, encV 0x06 x⟩
  | .vabs x => some ⟨.vector, encV 0x07 x⟩
  | .vneg x => some ⟨.vector, encV 0x08 x⟩
  | .vscl x => some ⟨.vector, encV 0x09 x⟩
  | .vadds x => some ⟨.vector, encV 0x0A x⟩
  | .vexp2 x => some ⟨.vector, encV 0x10 x⟩
  | .vlog2 x => some ⟨.vector, encV 0x11 x⟩
  | .vrcp x => some ⟨.vector, encV 0x12 x⟩
  | .vrsq x => some ⟨.vector, encV 0x13 x⟩
  | .vtanh x => some ⟨.vector, encV 0x14 x⟩
  | .vsigm x => some ⟨.vector, encV 0x15 x⟩
  | .vcvt x => some ⟨.vector, encV 0x20 x⟩
  | .vqdp8 x => some ⟨.vector, encV 0x21 x⟩
  | .vspc x => some ⟨.vector, encV 0x22 x⟩
  | .vspx x => some ⟨.vector, encV 0x23 x⟩
  | .vrsum x => some ⟨.vector, encV 0x30 x⟩
  | .vrmax x => some ⟨.vector, encV 0x31 x⟩
  | .vramax x => some ⟨.vector, encV 0x32 x⟩
  | .vrdrn x => some ⟨.vector, encV 0x33 x⟩
  | .vcmp x => some ⟨.vector, encV 0x40 x⟩
  | .vsel x => some ⟨.vector, encV 0x41 x⟩
  | .vperm x => some ⟨.vector, encV 0x42 x⟩
  | .vbcast x => some ⟨.vector, encV 0x43 x⟩
  | .vzip x => some ⟨.vector, encV 0x44 x⟩
  | .vuzp x => some ⟨.vector, encV 0x45 x⟩
  | .vtop2 x => some ⟨.vector, encV 0x50 x⟩
  | .vtags x => some ⟨.vector, encV 0x51 x⟩
  | .vheap x => some ⟨.vector, encV 0x52 x⟩
  | .vhdrn x => some ⟨.vector, encV 0x53 x⟩
  | .vcnt x => some ⟨.vector, encV 0x60 x⟩
  | .vscan x => some ⟨.vector, encV 0x61 x⟩
  | .mxld x => some ⟨.matrix, MFields.word 0x01 (encMxLd x)⟩
  | .mxldt x => some ⟨.matrix, MFields.word 0x02 (encMxLd x)⟩
  | .mxevict x => some ⟨.matrix, MFields.word 0x03 (encMxBank x)⟩
  | .mxres x => some ⟨.matrix, MFields.word 0x04 (encMxBank x)⟩
  | .mxmul x => some ⟨.matrix, MFields.word 0x10 (encMxMul x)⟩
  | .mxmult x => some ⟨.matrix, MFields.word 0x11 (encMxMult x)⟩
  | .mxmuls x => some ⟨.matrix, MFields.word 0x12 (encMxMuls x)⟩
  | .mxgrad x => some ⟨.matrix, MFields.word 0x20 (encMxGrad x)⟩
  | .mxgdrn x => some ⟨.matrix, MFields.word 0x21 (encMxGdrn x)⟩
  | .mxdrn x => some ⟨.matrix, MFields.word 0x30 (encMxDrn x)⟩
  | .mxzero x => some ⟨.matrix, MFields.word 0x31 (encMxZero x)⟩
  | .swalk x => some ⟨.stream, WFields.word 0x01 { nest := BitVec.ofFin (w := 3) x.nest, out := BitVec.ofFin (w := 3) x.out, level := 0, btok := 0, low := 0 }⟩
  | .sbnd x => some ⟨.stream, WFields.word 0x02 { nest := BitVec.ofFin (w := 3) x.nest, out := 0, level := BitVec.ofNat 3 x.level.val, btok := encBit x.tok, low := 0 }⟩
  | .sstop x => some ⟨.stream, WFields.word 0x03 { nest := BitVec.ofFin (w := 3) x.nest, out := 0, level := 0, btok := 0, low := 0 }⟩
  | .cpy x => some ⟨.copy, encY 0x01 (BitVec.ofFin (w := 3) x.nest) (BitVec.ofFin (w := 3) x.inp) (BitVec.ofFin (w := 3) x.out) x.sem x.zf⟩
  | .cpyg x => some ⟨.copy, encY 0x02 (BitVec.ofFin (w := 3) x.nest) (BitVec.ofFin (w := 3) x.inp) (BitVec.ofFin (w := 3) x.out) x.sem x.zf⟩
  | .cpys x => some ⟨.copy, encY 0x03 (BitVec.ofFin (w := 3) x.nest) (BitVec.ofFin (w := 3) x.inp) 0 x.sem x.zf⟩
  | .cpyw x => some ⟨.copy, encY 0x04 (BitVec.ofFin (w := 3) x.nest) 0 (BitVec.ofFin (w := 3) x.out) x.sem x.zf⟩
  | .cpyf x => some ⟨.copy, encY 0x05 (BitVec.ofFin (w := 3) x.nest) 0 0 x.sem x.zf⟩
  | .cpyb x => some ⟨.copy, encY 0x06 0 0 0 x.sem false⟩
  | .cpyx x => some ⟨.copy, encY 0x07 (BitVec.ofFin (w := 3) x.nest) 0 0 x.sem x.zf⟩
  | .tokenArrival _ _ => none
  | .pullRequestArrival _ _ _ => none
  | .loadReply _ => none
  | .atomicReply _ => none
  | .storeCompletion _ => none
  | .directoryReply _ => none
  | .fillGrant _ => none
  | .pkrdReply _ => none
  | .fpollReply _ => none
  | .semwaitAnswer _ => none
  | .barrierAnswer _ => none
  | .implicitSeal _ => none
  | .commandBegin _ _ => none
  | .vectorTokenStep _ => none
  | .matrixRowStep _ => none
  | .matrixLoadToken _ => none
  | .streamToken _ _ => none
  | .copyUnit _ => none
  | .copyCompletion _ => none
  | .boxComplete _ => none
  | .ridgelineTransfer _ _ => none
  | .translationFill _ _ => none
  | .pageWalk _ _ => none
  | .pageFault _ => none
  | .vaultPortServe _ => none
  | .pageMoveDone _ _ => none
  | .atomicEngineServe _ _ => none
  | .hotLineFetch _ _ => none
  | .syncUnitServe _ _ => none
  | .directoryServe _ => none
  | .objectFreed _ => none
  | .dispatchDecision => none
  | .imageFetchDone _ _ => none
  | .tileArm _ => none
  | .start _ _ => none
  | .flush _ _ => none
  | .crst _ _ => none
  | .ctxsw _ _ => none
  | .recfg _ _ => none
  | .haltc _ _ => none
  | .drain _ => none
  | .kset _ _ _ => none
  | .cairnSeed _ => none
  | .cairnPassage _ _ => none
  | .cutComplete _ => none
  | .commit _ => none
  | .shortfall _ => none
  | .groupFault _ => none
  | .groupHalt _ => none
  | .drainComplete _ => none
  | .fold _ _ => none
  | .foldSwap _ _ => none
  | .unfold _ => none
  | .watchdogExpiry _ _ => none
  | .remoteRetrainExpiry _ => none
  | .storeBuild _ => none
  | .storeUnderrun _ => none
  | .arbitrationPeriod _ => none
  | .powerAlarm _ => none
  | .emergencyExit => none
  | .railRemoved => none
  | .powerOn => none
  | .partReset => none
  | .shockEvent _ => none
  | .launch _ _ => none
  | .qdescWrite _ _ _ => none
  | .accadd _ _ => none
  | .hostSemWrite _ _ _ => none
  | .fqidxWrite _ _ => none
  | .resume _ _ => none
  | .requeue _ _ => none
  | .abort _ _ => none
  | .halt _ _ => none
  | .preempt _ _ => none
  | .pgin _ _ => none
  | .pgout _ _ => none
  | .pgunpin _ _ => none
  | .pgread _ _ => none
  | .hostOpen _ _ => none
  | .hostClose _ _ => none
  | .hostBind _ _ => none
  | .hostUnbind _ _ => none
  | .hostRebind _ _ => none
  | .hostQuery _ _ => none
  | .hostMkobj _ _ => none
  | .direntRead _ => none
  | .kernelRegister _ _ => none
  | .kernelUnload _ _ => none
  | .apertureRead _ _ => none
  | .apertureWrite _ _ _ => none
  | .defineContext _ _ => none
  | .undefineContext _ => none
  | .resetFunction _ => none
  | .initiateFunctionLevelReset _ => none
  | .springCheck => none
  | .springCheckDone _ _ => none
  | .attest => none
  | .keyload _ => none
  | .keydrop _ => none
  | .span => none
  | .recover => none
  | .bootst => none
  | .linkRetrain _ => none
  | .linkReset _ => none
  | .park _ => none
  | .unpark _ => none
  | .pwcauseClear _ => none
  | .registerWrite _ _ _ => none
  | .linkTrainingDone _ _ => none
  | .laneLost _ => none
  | .linkRetrainTimeout _ => none
  | .flitReceive _ _ => none
  | .flitApply _ => none
  | .clockProbe _ => none
  | .probeAnswer _ => none
  | .writeApplied _ => none
  | .functionLevelResetComplete _ => none

/-- The word of an instruction, written from R39-R42, R79-R94 and R233; none for an event, which has no encoding. -/
def encode (i : Instr) : Option Coded :=
  match ruleFields i with
  | some f => some { space := .rule, word := f.word }
  | none => commandWord i

end Sys2Proof
end

