-- ==== Sys2Proof/Machine/System.lean ====
section
/-! DEFINITION. SETS, TRAP, TRET (spec/18_contexts.md R460-R463) and EVCNT (spec/20_power.md R506). -/

namespace Sys2Proof.Machine

/-- SETS (R463): TS is kept; reserved bits are written as given. -/
def execSets (x : EaA) (s : State) : Out :=
  match s.here with
  | none => .next s
  | some h =>
    if s.gate h x.trig && h.el.okA x.sa then
      .next <| s.charge h 0x7A 1 fun s =>
        let a := h.el.readA x.sa
        let el := h.el.dequeue (s.pullHere h) (SrcA.takes x.sa)
        s.putHere h { el with esw := (a.val &&& 0xFFFFFFFE) ||| (h.el.esw &&& 1) }
    else .next s

/-- TRAP (R461, R463). -/
def execTrap (x : EiTrap) (s : State) : Out :=
  match s.here with
  | none => .next s
  | some h =>
    if s.gate h x.trig then
      .next <| s.charge h 0x7B 1 fun s => s.trapOrFault s.cur.task s.cur.vt h.e x.cause.toNat 0x7B s.cur.slot.val
    else .next s

/-- TRET (R463): fault 0x03 where TS is 0 or a reserved bit is 1. -/
def execTret (x : EaT) (s : State) : Out :=
  match s.here with
  | none => .next s
  | some h =>
    if s.gate h x.trig then
      if !h.el.inTrap || h.el.esw &&& 0x000700FE != 0 then
        .next (s.raise s.cur.task (.fault 0x03 s.cur.vt (.elem h.e) 0x7C s.cur.slot.val))
      else .next <| s.charge h 0x7C 1 fun s => s.putHere h h.el.trapOut
    else .next s

/-- EVCNT (R506). -/
def execEvcnt (x : EiEvcnt) (s : State) : Out :=
  match s.here with
  | none => .next s
  | some h =>
    if s.gate h x.trig && h.el.okA x.sa then
      .next <| s.charge h 0x7E 1 fun s =>
        let a := h.el.readA x.sa
        let el := h.el.dequeue (s.pullHere h) (SrcA.takes x.sa)
        (s.putHere h el).countAt s.cur.task s.cur.vt (0x24 + x.n.val) a.val.toNat
    else .next s

end Sys2Proof.Machine
end

