-- ==== Sys2Proof/Machine/Engine.lean ====
section
/-! DEFINITION. What the engines of a tile share: mapped buffers, debits, lanes of 64-byte tokens
(spec/02_notation.md R51-R52, spec/07_vector.md R194-R196, spec/14_groups.md R386). -/

namespace Sys2Proof.Machine

/-! ### The engine at the locus -/

/-- Group and copy of the engine that the locus names. -/
structure At2 where
  task : Nat
  vt : Fin 16
  g : Group
  x : Inst
  deriving DecidableEq, Repr

/-- The engine at the locus may act (R303, R373-R376, R392); one that a CAIRN has reached passes first (R385, R386). DEDUCED,
log entry 80. -/
def State.engine (s : State) (n : Node) : Option At2 :=
  match s.group? s.cur.task, s.inst? s.cur.task s.cur.vt with
  | some g, some x =>
    if s.cur.node == n && g.live && g.isResident s.cur.vt x && x.nodeLive n && !g.due (s.cur.vt, n) then
      some ⟨s.cur.task, s.cur.vt, g, x⟩
    else none
  | _, _ => none

/-- First place of an engine in the port table. -/
def Node.ports (n : Node) : Nat :=
  match n with
  | .matrix => 0
  | .vector => 8
  | .streamA => 16
  | .streamB => 24
  | _ => 32

/-- Descriptor number that a slot of an engine maps to (R355). -/
def Inst.slot (x : Inst) (n : Node) (k : Nat) : Option Nat := x.cfg.ports.getD (Node.ports n + k) none

/-- A mapped buffer has a width and a format code that a test allows (R192). -/
def Inst.slotIs (x : Inst) (n : Node) (k : Nat) (wide : Bool) (f : Nat → Bool) : Bool :=
  match x.slot n k with
  | some b =>
    match x.cfg.bufs.getD b none with
    | some d => d.wide == wide && f d.fmt
    | none => false
  | none => false

/-- Tokens of a mapped buffer. -/
def Inst.slotToks (x : Inst) (n : Node) (k : Nat) : List Wtok :=
  match x.slot n k with
  | some b => x.buf b
  | none => []

/-- Room for m tokens in a mapped buffer. -/
def Inst.slotRoom (x : Inst) (n : Node) (k m : Nat) : Bool :=
  match x.slot n k with
  | some b => roomCount (x.buf b) + m ≤ (x.desc b).tokens
  | none => false

/-- m tokens leave a mapped buffer. -/
def Inst.slotTake (x : Inst) (n : Node) (k m : Nat) : Inst :=
  match x.slot n k with
  | some b => { x with bufs := x.bufs.put b ((x.buf b).drop m) }
  | none => x

/-- Tokens leave the buffers that the slots map, as a step takes them: of a buffer that two slots map, the larger number. `done`: taken
already, by buffer. DEDUCED, log entry 25. -/
def Inst.takeAll (x : Inst) (n : Node) (done : Assoc Nat) : List (Nat × Nat) → Inst
  | [] => x
  | (k, m) :: l =>
    match x.slot n k with
    | some b => (x.slotTake n k (m - done.getD b 0)).takeAll n (done.put b (max m (done.getD b 0))) l
    | none => x.takeAll n done l

/-- A token that an engine writes after its consumer's passage and before its own is recorded with the cut; one that it
writes after its own and before its consumer's is counted, to be left out (R386). -/
def State.recordBuf (s : State) (task : Nat) (g : Group) (vt : Fin 16) (n : Node) (b : Nat) (t : Wtok) : State :=
  match g.cut, g.img.consumer (s.inst task vt) (.buf vt ⟨b % 32, Nat.mod_lt _ (by decide)⟩) with
  | some c, some nd =>
    if c.hasPassed nd && !c.hasPassed (vt, n) then
      s.updGroup task fun g => { g with cut := some (c.updRec vt fun r =>
        { r with bufs := r.bufs.put b (r.bufs.getD b [] ++ [t]) }) }
    else if c.hasPassed (vt, n) && !c.hasPassed nd then s.updGroup task fun g => { g with cut := some (c.addBehind (bufKey vt b)) }
    else s
  | _, _ => s

/-- A token written by an engine to a mapped buffer. -/
def State.engPut (s : State) (task : Nat) (vt : Fin 16) (n : Node) (k : Nat) (t : Wtok) : State :=
  match (s.inst task vt).slot n k with
  | some b =>
    let s := s.updInst task vt fun x => { x with bufBy := x.bufBy.put b n }
    let g := s.group task
    (s.recordBuf task g vt n b t).pushBuf task g vt b t
  | none => s

/-- A fault of an engine, with its opcode and command-table index (R468). -/
def State.engFault (s : State) (task : Nat) (vt : Fin 16) (n : Node) (code : Nat) (c : Cmd) : State :=
  s.raise task (.fault code vt n (c.word.toNat / 16777216) c.idx)

/-- A debit of an engine (R282, R283); nothing happens while the tile waits at handover. -/
def State.engDebit (s : State) (task : Nat) (vt : Fin 16) (n : Node) (c : Cmd) (d : Nat) (k : State → State) : State :=
  s.debit task vt n (c.word.toNat / 16777216) d s k

/-! ### Lanes -/

/-- Lanes of w bits of a 64-byte token, lane 0 first (R51). -/
def lanesW (w : Nat) (l : Line) : List Nat := (List.range (512 / w)).map fun i => l.toNat / 2 ^ (w * i) % 2 ^ w

def packNat (w : Nat) : List Nat → Nat
  | [] => 0
  | a :: r => a % 2 ^ w + 2 ^ w * packNat w r

def packLine (w : Nat) (l : List Nat) : Line := BitVec.ofNat 512 (packNat w l)

/-- The format of a code of a buffer or a field, FP32 where there is none. -/
def fmtOf (c : Nat) : Fmt := (Fmt.ofCode c).getD .fp32

/-! ### Control tokens at engines (R196, R377, R380) -/

/-- A control token that no node may find at a head: port-only and reserved opcodes, reserved selectors of a KSET. -/
def strayCtl (x : Side) : Bool :=
  let op := Side.op x
  !(op == 5 || op == 10 || (op == 6 && ksetOk (Side.sel x)))

/-- A control token at an engine's input other than those it forwards: discarded, with fault 0x50 when it is stray. -/
def State.dropCtl (s : State) (task : Nat) (vt : Fin 16) (n : Node) (k : Nat) (c : Cmd) (side : Side) : State :=
  let s := s.updInst task vt fun x => x.slotTake n k 1
  if strayCtl side then s.engFault task vt n 0x50 c else s

end Sys2Proof.Machine
end

