-- ==== Sys2Proof/Machine/Vector.lean ====
section
/-! DEFINITION. The vector node (spec/07_vector.md R192-R221; reductions and rounding of spec/03_formats.md). -/

namespace Sys2Proof.Machine

/-! ### Acceptance (R192, R193) -/

/-- Tokens or rows of a command (R194). -/
def vcount (c : VCmd) (a : Word) : Nat := if c.cnt = 0 then a.toNat else c.cnt.toNat

/-- Formats that a command allows (R192). -/
def vecFmts (op : Nat) : List Nat :=
  if op ≤ 0x0A then [0, 1, 2, 3, 4, 5, 6, 7]
  else if op ≤ 0x15 then [0, 1, 2, 3, 4]
  else if op = 0x21 then [0, 1, 2]
  else if op = 0x61 then [0, 6]
  else if op = 0x50 then [0, 1, 2, 3, 4]
  else if op = 0x52 then [0]
  else if op = 0x60 then [6]
  else [0, 1, 2, 3, 4, 5, 6, 7]

/-- The buffers of a command have the formats and widths of R192. -/
def Inst.vecBufs (x : Inst) (op : Nat) (c : VCmd) : Bool :=
  let f := c.fmt.val
  let ba := x.slotIs .vector c.ba.val true (· == f)
  let bb (wide : Bool) (g : Nat → Bool) : Bool := x.slotIs .vector c.bb.val wide g
  let bo (wide : Bool) (g : Nat → Bool) : Bool := x.slotIs .vector c.bo.val wide g
  match op with
  | 0x01 | 0x02 | 0x03 | 0x04 | 0x05 | 0x06 | 0x40 | 0x41 | 0x44 => ba && bb true (· == f) && bo true (· == f)
  | 0x07 | 0x08 | 0x09 | 0x0A | 0x43 | 0x45 => ba && bo true (· == f)
  | 0x10 | 0x11 | 0x12 | 0x13 | 0x14 | 0x15 => ba && bo true (· == f)
  | 0x20 => ba && bo true fun g => g ≤ 7 && g != f
  | 0x21 => ba && bb true (· == 9) && bo true fun g => g == 8 || g == 3 || g == 4
  | 0x22 | 0x23 => ba && bb false (· == 10) && bo true (· == f)
  | 0x42 => ba && bb true (· == 7) && bo true (· == f)
  | 0x30 | 0x31 | 0x32 => ba && bo false (· ≤ 7)
  | 0x33 => if c.bb.val / 4 = 1 then bo true fun g => g == 0 || g == 6 else bo false (· ≤ 7)
  | 0x61 => ba && bo true (· == f)
  | 0x50 => ba && bb false (· == 0) && bo false (· == 6)
  | 0x51 => ba && bb false (· == 6) && bo true (· == f)
  | 0x52 => ba && bb true (· == 6) && bo false (· == 6)
  | 0x53 => bo true (· == 0)
  | 0x60 => ba && bo true (· == 6)
  | _ => false

/-- The parameters of a command lie in the ranges that its description states (R206, R207, R212-R215, R218, R221). -/
def vecParams (op : Nat) (c : VCmd) (a b : Word) : Bool :=
  let n := vcount c a
  match op with
  | 0x22 => (b == 16 || b == 8) && n * (fmtOf c.fmt.val).lanes % 32 == 0
  | 0x23 => b == 16 || b == 8
  | 0x43 => decide (b.toNat < 64)
  | 0x45 => n % 2 == 0
  | 0x50 => decide (b.toNat < 2)
  | 0x51 => decide (b.toNat < 32)
  | 0x52 | 0x53 => b.toNat % 8 == 0 && b.toNat / 268435456 % 2 == 0
  | 0x60 => decide (1 ≤ b.toNat % 128) && decide (b.toNat % 128 ≤ 64) && b.toNat % 2147483648 / 128 == 0
  | _ => true

/-- A command that the port accepts whole (R95, R193). -/
def Inst.vecOk (x : Inst) (op : Nat) (c : VCmd) (a b : Word) : Bool :=
  (op == 0x33 || op == 0x53 || op == 0x52 || (vecFmts op).contains c.fmt.val || false)
    && (op != 0x52 || c.fmt.val == 0)
    && (op == 0x33 || op == 0x53 || c.cnt != 0 || (1 ≤ a.toNat && a.toNat ≤ 65535))
    && x.vecBufs op c && vecParams op c a b

/-- The fields of a V-word (R91). -/
def vcmdOf (w : Word) : VCmd :=
  match decV 0 w .vadd with
  | .ok (.vadd c) => c
  | _ => ⟨0, 0, 0, 0, 0, false, 0⟩

/-- The word is a V-word that the node can take. -/
def Inst.vecTakes (x : Inst) (c : Cmd) : Bool :=
  match decodeVec c.word with
  | .ok _ => x.vecOk (cmdOp c.word) (vcmdOf c.word) c.a c.b
  | .error _ => false

/-! ### Accumulators (R200, R208) -/

/-- The identity of a kind and class (R208). -/
def vIdentity (k : VKind) (isFloat : Bool) : Word :=
  match k with
  | .max => if isFloat then 0xFF800000 else 0x80000000
  | _ => 0

def Vec.acc (v : Vec) (i : Nat) : Vacc := v.va[i % 4]'(Nat.mod_lt _ (by decide))

def Vec.setAcc (v : Vec) (i : Nat) (a : Vacc) : Vec :=
  { v with va := v.va.set (i % 4) a (Nat.mod_lt _ (by decide)) }

def Vacc.lane0 (a : Vacc) : Word := vget a.lanes 0
def Vacc.setLane0 (a : Vacc) (w : Word) : Vacc := { a with lanes := vset a.lanes 0 w }

/-! ### Beginning a command -/

/-- Header of a heap: count and capacity (R217). -/
def heapCount (w : Nat) : Nat := w % 512
def heapCap (w : Nat) : Nat := w / 65536 % 512

/-- Bytes of the copy's own pad as a number. -/
def State.padNat (s : State) (task : Nat) (g : Group) (vt : Fin 16) (off n : Nat) : Nat := leNat (s.padRead task g vt off n)

/-- The run of a command as it begins: what is left, a cleared accumulator, a held heap (R192, R208, R220, R221). A clear loads
lane 0 and keeps the other lanes. DEDUCED, log entry 94. -/
def State.vecBegin (s : State) (task : Nat) (vt : Fin 16) (c : Cmd) : State :=
  let g := s.group task
  let v := vcmdOf c.word
  let op := cmdOp c.word
  let h := c.b.toNat % 262144
  let hdr := s.padNat task g vt h 4
  let left :=
    match op with
    | 0x33 => if v.bb.val / 4 = 1 then 4 else 1
    | 0x53 => (heapCount hdr + 7) / 8
    | _ => vcount v c.a
  let isF := (fmtOf v.fmt.val).isFloat
  let kind : Option VKind :=
    match op with
    | 0x30 | 0x61 => some .sum
    | 0x31 => some .max
    | 0x32 => some .amax
    | _ => none
  s.updInst task vt fun x =>
    let vec := match kind with
      | some k =>
        let a := x.vec.acc v.bb.val
        let a : Vacc := { a with kind := k, isFloat := isF }
        x.vec.setAcc v.bb.val (if v.bb.val / 4 = 1 then a.setLane0 (vIdentity k isF) else a)
      | none => x.vec
    let vec := if op = 0x60 then
        { vec with va := vec.va.map fun a =>
            { lanes := if c.b.msb then Vector.replicate 16 0 else a.lanes, kind := .sum, isFloat := false } }
      else vec
    { x with
      vec := { vec with run := some { cmd := c, left := left, deps := c.deps } }
      heap := if op = 0x52 || op = 0x53 then x.heap ++ [(h, 8 + 8 * heapCap hdr)] else x.heap }

/-- The node ends its command and begins the one that waits (R194); a heap is held to the end of the step (R220). -/
def State.vecEnd (s : State) (task : Nat) (vt : Fin 16) : State :=
  let s := s.updInst task vt fun x => { x with vec := { x.vec with run := none } }
  match (s.inst task vt).vec.wait with
  | none => s
  | some c => (s.updInst task vt fun x => { x with vec := { x.vec with wait := none } }).vecBegin task vt c

/-! ### Lane arithmetic (R202, R203, R210, R211) -/

/-- An integer lane written: INT32 wraps, the others saturate (R197). -/
def intLane (f : Fmt) (x : Int) : Nat × Ar :=
  match f with
  | .int32 => wrapInt x
  | _ => satInt f x

/-- Lane arithmetic of one opcode: scalar word s, lanes a and b, stochastic word st. -/
def laneOp (op : Nat) (f : Fmt) (mode : Mode) (st : Nat) (sc : Word) (a b : Nat) : Nat × Ar :=
  let down := mode == .rdn
  match f.float? with
  | some g =>
    let x := g.decode a
    let y := g.decode b
    let k := fv32 sc
    (match op with
     | 0x01 => g.result mode st (x.add down y) [x, y]
     | 0x02 => g.result mode st (x.add down y.negate) [x, y]
     | 0x03 => g.result mode st (x.mul y) [x, y]
     | 0x04 => g.result mode st ((k.mul x).add down y) [k, x, y]
     | 0x05 => g.result mode st (x.min y) [x, y]
     | 0x06 => g.result mode st (x.max y) [x, y]
     | 0x07 => g.result mode st x.abs [x]
     | 0x08 => g.result mode st x.negate [x]
     | 0x09 => g.result mode st (k.mul x) [k, x]
     | 0x0A => g.result mode st (x.add down k) [x, k]
     | 0x10 => g.ofFx mode st x (fxExp2 x)
     | 0x11 => g.ofFx mode st x (fxLog2 x)
     | 0x12 => g.ofFx mode st x (fxRcp x)
     | 0x13 => g.ofFx mode st x (fxRsq x)
     | 0x14 => g.ofFx mode st x (fxTanh x)
     | 0x15 => g.ofFx mode st x (fxSigm x)
     | _ => (a, {}))
  | none =>
    let x := intOf f a
    let y := intOf f b
    let k := sc.toInt
    (match op with
     | 0x01 => intLane f (x + y)
     | 0x02 => intLane f (x - y)
     | 0x03 => intLane f (x * y)
     | 0x04 => intLane f (k * x + y)
     | 0x05 => intLane f (min x y)
     | 0x06 => intLane f (max x y)
     | 0x07 => intLane f (x.natAbs : Int)
     | 0x08 => intLane f (-x)
     | 0x09 => intLane f (k * x)
     | 0x0A => intLane f (x + k)
     | _ => (a, {}))

/-- The condition of VCMP on two lanes (R210). -/
def laneCmp (cond : Nat) (f : Fmt) (a b : Nat) : Bool :=
  let x := fvOf f a
  let y := fvOf f b
  match cond with
  | 0 => x.eq y
  | 1 => x.lt y
  | 2 => x.lt y || x.eq y
  | _ => !x.eq y

/-- 1 in a format. -/
def unitIn (f : Fmt) : Nat := (fmtOfFv f .rz 0 (.fin ⟨false, 1, 0⟩)).1

/-- A lane counts as zero (R211). -/
def laneZero (f : Fmt) (a : Nat) : Bool :=
  match fvOf f a with
  | .fin x => x.isZero
  | _ => false

/-- The scalar parameter in a format (R202, R211). -/
def scalarIn (f : Fmt) (mode : Mode) (st : Nat) (sc : Word) : Nat :=
  if f.isFloat then (convert .fp32 f mode st sc.toNat).1 else (convert .int32 f mode st sc.toNat).1

/-! ### Stochastic registers (R64-R66, R197) -/

/-- The registers of the lanes of w bits advance once. -/
def Vec.advance (v : Vec) (w lanes : Nat) : Vec :=
  { v with lfsr := Vector.ofFn fun (j : Fin 64) =>
      if j.val * 8 % w = 0 && j.val * 8 / w < lanes then lfsrNext (vget v.lfsr j) else vget v.lfsr j }

/-- The word that a lane of w bits compares with, after its register's advance. -/
def Vec.stoch (v : Vec) (w lane : Nat) : Nat :=
  (lfsrNext (v.lfsr[lane * w / 8 % 64]'(Nat.mod_lt _ (by decide)))).toNat

/-- The rounding mode of a command: VCMP keeps a condition in its field (R210). DEDUCED, log entry 31. -/
def vecMode (op : Nat) (c : VCmd) : Mode := if op = 0x40 then .rne else modeOf c.rnd.val

/-! ### One token step -/

/-- What a token step does when it proceeds: tokens consumed and written by slot, drops, the node after it, ARSTAT, bytes
written to the pad, tokens counted to a bank's readers. -/
structure VGo where
  takes : List (Nat × Nat) := []
  drops : Nat := 0
  outs : List (Nat × Wtok) := []
  vec : Vec := {}
  ar : Ar := {}
  pad : Option (Nat × List Byte) := none
  readers : Option (Nat × Nat) := none
  last : Bool := false
  deriving DecidableEq, Repr

/-- A token step waits, faults, or proceeds. -/
inductive VStep where
  | wait
  | fault (code : Nat)
  | go (x : VGo)
  deriving DecidableEq, Repr

def arAll (l : List (Nat × Ar)) : Ar := l.foldl (fun a x => a.or x.2) {}

/-- Every lane of f computed. -/
def mapLanes (l : List Nat) (f : Nat → Nat → Nat × Ar) : List (Nat × Ar) := l.zipIdx.map fun x => f x.2 x.1

/-- Sideband parts. -/
def sideOf (dims first : Side) : Side := Side.dim dims ||| Side.tagGen first

/-- The node after a step that wrote `n` output tokens of w-bit lanes: the registers advance in stochastic mode. DEDUCED, log entry
31. -/
def Vec.wrote (v : Vec) (mode : Mode) (w lanes : Nat) : Nat → Vec
  | 0 => v
  | n + 1 => if mode == .sr then (v.advance w lanes).wrote mode w lanes n else v

/-- A lane-wise step: one BA token, perhaps one BB token, one BO token (R202, R203, R210, R211, R195). DEDUCED, log entry 25.
VSEL passes a NaN lane of BB as it is, as the commands that only move lanes do. DEDUCED, log entry 91. -/
def vecLanes (v : Vec) (r : VRun) (op : Nat) (c : VCmd) (drops : Nat) (a : Wtok) (b : Option Wtok) : VGo :=
  let f := fmtOf c.fmt.val
  let mode := vecMode op c
  let bl := match b with
    | some t => lanesW f.bits t.val
    | none => []
  let out := mapLanes (lanesW f.bits a.val) fun i x =>
    let st := v.stoch f.bits i
    let y := bl.getD i 0
    match op with
    | 0x40 => (if laneCmp c.rnd.val f x y then unitIn f else 0, {})
    | 0x41 => (if laneZero f x then scalarIn f mode st r.cmd.b else y, {})
    | _ => laneOp op f mode st r.cmd.b x y
  { takes := if b.isSome && c.bb != c.ba then [(c.ba.val, 1), (c.bb.val, 1)] else [(c.ba.val, 1)]
    drops := drops
    outs := [(c.bo.val, ⟨sideOf a.side a.side, packLine f.bits (out.map (·.1)), a.deps ++ (b.map (·.deps)).getD []⟩)]
    vec := v.wrote mode f.bits f.lanes 1
    ar := arAll out }

/-- Full tokens cut from gathered lanes: the tokens' lanes and the rest. -/
def cutTokens (n : Nat) : Nat → List Nat → List (List Nat) × List Nat
  | 0, l => ([], l)
  | fuel + 1, l => if l.length < n then ([], l) else let (a, b) := cutTokens n fuel (l.drop n); (l.take n :: a, b)

/-- VCVT and VQDP8 (R204, R205): `f x st j` converts a lane to output lane j. -/
def vecConvert (v : Vec) (r : VRun) (c : VCmd) (out : Fmt) (takes : List (Nat × Nat)) (held : Option Line) (a : Wtok)
    (f : Nat → Nat → Nat → Nat × Ar) : VGo :=
  let src := fmtOf c.fmt.val
  let mode := modeOf c.rnd.val
  let lanes := lanesW src.bits a.val
  let n := out.lanes
  if src.bits < out.bits then
    let k := out.bits / src.bits
    -- k output tokens; the registers advance before each
    let step (acc : Vec × List (Nat × Ar)) (part : List Nat) : Vec × List (Nat × Ar) :=
      (acc.1.wrote mode out.bits n 1, acc.2 ++ mapLanes part fun j x => f x (acc.1.stoch out.bits j) j)
    let (v', all) := (cutTokens n (k + 1) lanes).1.foldl step (v, [])
    let toks := (cutTokens n (k + 1) (all.map (·.1))).1
    { takes := takes, drops := 12, ar := arAll all
      outs := toks.zipIdx.map fun x =>
        (c.bo.val, ⟨(if x.2 + 1 = k then Side.dim a.side else 0) ||| Side.tagGen a.side, packLine out.bits x.1, a.deps⟩)
      vec := { v' with run := some { r with left := r.left - 1, held := held } } }
  else
    let base := r.lanesOut.length
    let all := mapLanes lanes fun i x => f x (v.stoch out.bits (base + i)) (base + i)
    let side0 := r.side0.getD a.side
    let dims := r.dims ||| Side.dim a.side
    let got := r.lanesOut ++ all.map (·.1)
    let deps := r.deps ++ a.deps
    if n ≤ got.length || r.left ≤ 1 then
      { takes := takes, drops := 12, ar := arAll all
        outs := [(c.bo.val, ⟨sideOf dims side0, packLine out.bits got, deps⟩)]
        vec := { v.wrote mode out.bits n 1 with
          run := some { r with left := r.left - 1, held := held, lanesOut := [], side0 := none, dims := 0, deps := r.cmd.deps } } }
    else
      { takes := takes, drops := 12, ar := arAll all
        vec := { v with
          run := some { r with left := r.left - 1, held := held, lanesOut := got, side0 := some side0, dims := dims, deps := deps } } }

/-- Magnitude order of VSPC: a NaN is the greatest (R206). -/
def magKey (f : Fmt) (b : Nat) : Fv := (fvOf f b).abs

def magGreater (f : Fmt) (a b : Nat) : Bool :=
  let x := magKey f a
  let y := magKey f b
  if x.isNan then !y.isNan else !y.isNan && y.lt x

/-- Positions kept of a group: those that fewer than n others beat (R206). -/
def keepOf (f : Fmt) (n : Nat) (l : List Nat) : List Nat :=
  let ix := l.zipIdx
  (ix.filter fun x => (ix.filter fun y => magGreater f y.1 x.1 || (!magGreater f x.1 y.1 && y.2 < x.2)).length < n).map (·.2)

/-- One group of VSPC: kept values and mask word. -/
def spcGroup (f : Fmt) (n : Nat) (l : List Nat) : List Nat × Nat :=
  let keep := keepOf f n l
  (keep.map fun j => l.getD j 0, (keep.map fun j => 2 ^ j).sum)

/-- A BO token that VSPC gathers (R195): its values, the sideband of the first BA token behind them, their DIM bits. -/
structure SpcOut where
  vals : List Nat := []
  side0 : Side := 0
  dims : Side := 0
  deriving DecidableEq, Repr

/-- The kept values of a group of sideband `gside`, `gdims` join the BO token that is gathered; one that is full is written,
and what is left over begins the next. A group has at most 16 values, so at most one token fills. -/
def SpcOut.join (n : Nat) (gside gdims : Side) (o : SpcOut) (vals : List Nat) : List SpcOut × SpcOut :=
  let all : SpcOut := if o.vals.isEmpty then ⟨vals, gside, gdims⟩ else { o with vals := o.vals ++ vals, dims := o.dims ||| gdims }
  if all.vals.length < n then ([], all)
  else
    let left := all.vals.drop n
    ([{ all with vals := all.vals.take n }], if left.isEmpty then {} else ⟨left, gside, gdims⟩)

/-- VSPC (R206): every BA token behind the values of an output gives it its DIM bits, the first its tag and generation (R195). -/
def vecSpc (v : Vec) (r : VRun) (c : VCmd) (a : Wtok) : VGo :=
  let f := fmtOf c.fmt.val
  let mode := modeOf c.rnd.val
  let gside := r.gside.getD a.side
  let gdims := r.gdims ||| Side.dim a.side
  let (groups, rest) := cutTokens 32 3 (r.lanesIn ++ lanesW f.bits a.val)
  let done := groups.map (spcGroup f r.cmd.b.toNat)
  let (full, left) := done.foldl (fun (x : List SpcOut × SpcOut) g =>
    let y := x.2.join f.lanes gside gdims g.1
    (x.1 ++ y.1, y.2)) ([], ⟨r.lanesOut, r.side0.getD 0, r.dims⟩)
  let last := r.left ≤ 1
  let outs := if last && !left.vals.isEmpty then full ++ [left] else full
  let kept := !last && !left.vals.isEmpty
  let deps := r.deps ++ a.deps
  { takes := [(c.ba.val, 1)], drops := 12
    outs := (outs.map fun o => (c.bo.val, ⟨sideOf o.dims o.side0, packLine f.bits o.vals, deps⟩))
      ++ done.map fun x => (c.bb.val, ⟨sideOf gdims gside, BitVec.ofNat 512 x.2, deps⟩)
    vec := { (v.wrote mode f.bits f.lanes outs.length).wrote mode 32 1 done.length with
      run := some { r with
        left := r.left - 1, lanesIn := rest, lanesOut := if kept then left.vals else []
        gside := if rest.isEmpty then none else some gside, gdims := if rest.isEmpty then 0 else gdims
        side0 := if kept then some left.side0 else none
        dims := if kept then left.dims else 0
        deps := deps } } }

/-- 32 elements of one group of VSPX: the kept values at the mask's positions, zero elsewhere (R207). -/
def spxGroup (mask : Nat) : Nat → Nat → List Nat → List Nat
  | 0, _, _ => []
  | n + 1, j, l =>
    if mask / 2 ^ j % 2 = 1 then l.headD 0 :: spxGroup mask n (j + 1) l.tail else 0 :: spxGroup mask n (j + 1) l

def popCount (x : Nat) : Nat := ((List.range 32).filter fun j => x / 2 ^ j % 2 == 1).length

/-- VSPX (R207): one BA token and the masks of its groups. Each BO token carries the DIM bits of that BA token, and a malformed mask
keeps every group of the token from being written. DEDUCED, log entry 96. -/
def vecSpx (v : Vec) (r : VRun) (c : VCmd) (a : Wtok) (masks : List Wtok) : VStep :=
  let f := fmtOf c.fmt.val
  let mode := modeOf c.rnd.val
  let n := r.cmd.b.toNat
  let parts := (cutTokens n 9 (lanesW f.bits a.val)).1
  let ms := masks.map fun m => m.val.toNat % 2 ^ 32
  if ms.any fun m => popCount m != n then .fault 0x32
  else
    let all := (parts.zip ms).flatMap fun x => spxGroup x.2 32 0 x.1
    let toks := (cutTokens f.lanes 9 all).1
    .go { takes := [(c.ba.val, 1), (c.bb.val, masks.length)], drops := 12
          outs := toks.map fun l => (c.bo.val, ⟨sideOf a.side a.side, packLine f.bits l, a.deps ++ masks.flatMap (·.deps)⟩)
          vec := { v.wrote mode f.bits f.lanes toks.length with run := some { r with left := r.left - 1 } } }

/-- The pairwise tree of R76 over combined lanes. -/
def treeStep (f : Word → Word → Word × Ar) : List (Word × Ar) → List (Word × Ar)
  | a :: b :: l => (let r := f a.1 b.1; (r.1, (a.2.or b.2).or r.2)) :: treeStep f l
  | l => l

def tree (f : Word → Word → Word × Ar) : Nat → List (Word × Ar) → Word × Ar
  | 0, l => l.headD (0, {})
  | n + 1, l => if l.length ≤ 1 then l.headD (0, {}) else tree f n (treeStep f l)

/-- The combination of a reduction (R77); a tree of INT32 lanes sets WRAP at each combination that wraps. DESIGN CHOICE, log entry 111. -/
def combine (k : VKind) (isFloat : Bool) (a b : Word) : Word × Ar :=
  match k, isFloat with
  | .sum, true => fadd32 a b
  | _, true => fmax32 a b
  | .sum, false => let (n, ar) := wrapInt (a.toInt + b.toInt); (BitVec.ofNat 32 n, ar)
  | _, false => (if a.slt b then b else a, {})

/-- A lane converted exactly to FP32 or INT32, its magnitude for AMAX (R76, R208). -/
def reduceLane (k : VKind) (f : Fmt) (b : Nat) : Word × Ar :=
  if f.isFloat then
    let v := fvOf f b
    (BitVec.ofNat 32 (fp32.ofFv .rne 0 (if k = .amax then v.abs else v)).1, {})
  else
    let x := intOf f b
    let (n, ar) := wrapInt (if k = .amax then (x.natAbs : Int) else x)
    (BitVec.ofNat 32 n, ar)

/-- An accumulator value converted into a 4-byte token of a format (R208). -/
def accTok (isFloat : Bool) (out : Fmt) (mode : Mode) (st : Nat) (w : Word) : Nat × Ar :=
  let (b, ar) := convert (if isFloat then .fp32 else .int32) out mode st w.toNat
  ((extend out b).toNat, ar)

/-- VRSUM, VRMAX, VRAMAX (R208). -/
def vecReduce (v : Vec) (r : VRun) (c : VCmd) (k : VKind) (out : Fmt) (a : Wtok) : VGo :=
  let f := fmtOf c.fmt.val
  let isF := f.isFloat
  let mode := modeOf c.rnd.val
  let t := tree (combine k isF) 7 ((lanesW f.bits a.val).map (reduceLane k f))
  let acc := v.acc c.bb.val
  let sum := combine k isF acc.lane0 t.1
  let acc : Vacc := { acc.setLane0 sum.1 with kind := k, isFloat := isF }
  let ar := t.2.or sum.2
  let run := some { r with left := r.left - 1, deps := r.deps ++ a.deps }
  if a.side.getLsbD 12 then
    let (w, ar2) := accTok isF out mode (v.stoch out.bits 0) sum.1
    { takes := [(c.ba.val, 1)], drops := 16, ar := ar.or ar2
      outs := [(c.bo.val, ⟨Side.dim a.side, BitVec.ofNat 512 w, r.deps ++ a.deps⟩)]
      vec := { (v.wrote mode out.bits 1 1).setAcc c.bb.val (acc.setLane0 (vIdentity k isF)) with
               run := run.map fun r => { r with deps := r.cmd.deps } } }
  else
    { takes := [(c.ba.val, 1)], drops := 16, ar := ar, vec := { v.setAcc c.bb.val acc with run := run } }

/-- VRDRN (R208). -/
def vecDrain (v : Vec) (r : VRun) (c : VCmd) (out : Fmt) : VGo :=
  let mode := modeOf c.rnd.val
  if c.bb.val / 4 = 1 then
    let i := 4 - r.left
    let l := packLine 32 ((v.acc i).lanes.toList.map (·.toNat))
    let v' := v.wrote mode 32 16 1
    let v' := if r.left ≤ 1 then { v' with va := Vector.replicate 4 {} } else v'
    { drops := 16, outs := [(c.bo.val, ⟨if r.left ≤ 1 then 0x1000 else 0, l, r.deps⟩)]
      vec := { v' with run := some { r with left := r.left - 1 } } }
  else
    let a := v.acc c.bb.val
    let (w, ar) := accTok a.isFloat out mode (v.stoch out.bits 0) a.lane0
    { drops := 16, ar := ar, outs := [(c.bo.val, ⟨0x1000, BitVec.ofNat 512 w, r.deps⟩)]
      vec := { (v.wrote mode out.bits 1 1).setAcc c.bb.val (a.setLane0 (vIdentity a.kind a.isFloat)) with
               run := some { r with left := r.left - 1 } } }

/-- The running sums of VSCAN over lanes (R209). -/
def scanLanes (isFloat : Bool) : Word → List Nat → List Nat × Word × Ar
  | t, [] => ([], t, {})
  | t, x :: l =>
    let n := combine .sum isFloat t (BitVec.ofNat 32 x)
    let (o, z, ar) := scanLanes isFloat n.1 l
    (t.toNat :: o, z, n.2.or ar)

/-- VSCAN (R209). -/
def vecScan (v : Vec) (r : VRun) (c : VCmd) (a : Wtok) : VGo :=
  let f := fmtOf c.fmt.val
  let acc := v.acc c.bb.val
  let (out, t, ar) := scanLanes f.isFloat acc.lane0 (lanesW 32 a.val)
  let t := if a.side.getLsbD 12 then 0 else t
  { takes := [(c.ba.val, 1)], drops := 16, ar := ar
    outs := [(c.bo.val, ⟨sideOf a.side a.side, packLine 32 out, a.deps⟩)]
    vec := { (v.wrote (modeOf c.rnd.val) 32 16 1).setAcc c.bb.val { acc.setLane0 t with kind := .sum, isFloat := f.isFloat } with
             run := some { r with left := r.left - 1 } } }

/-- The bin counts of VCNT over lanes (R221): outputs and bins. -/
def countLanes (n : Nat) : List Nat → List Nat → List Nat × List Nat × Ar
  | bins, [] => ([], bins, {})
  | bins, k :: l =>
    if k < n then
      let b := bins.getD k 0
      let (w, ar) := wrapInt (intOf .int32 b + 1)
      let (o, z, ar2) := countLanes n (bins.set k w) l
      (b :: o, z, ar.or ar2)
    else
      let (o, z, ar) := countLanes n bins l
      (0xFFFFFFFF :: o, z, ar)

/-- VCNT (R221). -/
def vecCount (v : Vec) (r : VRun) (c : VCmd) (a : Wtok) : VGo :=
  let bins := v.va.toList.flatMap fun y => y.lanes.toList.map (·.toNat)
  let (out, bins, ar) := countLanes (r.cmd.b.toNat % 128) bins (lanesW 32 a.val)
  let va : Vector Vacc 4 := Vector.ofFn fun i =>
    { lanes := Vector.ofFn fun j => BitVec.ofNat 32 (bins.getD (i.val * 16 + j.val) 0), kind := .sum, isFloat := false }
  { takes := [(c.ba.val, 1)], drops := 24, ar := ar
    outs := [(c.bo.val, ⟨sideOf a.side a.side, packLine 32 out, a.deps⟩)]
    vec := { v.wrote (modeOf c.rnd.val) 32 16 1 with va := va, run := some { r with left := r.left - 1 } } }

/-! ### Expert routing (R214, R215) -/

/-- A score at an index is better than another: a number before NaN, the greater, the lower index on a tie. -/
def scoreBetter (f : Fmt) (x y : Nat × Nat) : Bool :=
  let a := fvOf f x.2
  let b := fvOf f y.2
  if a.isNan then b.isNan && x.1 < y.1
  else b.isNan || b.lt a || (!a.lt b && x.1 < y.1)

/-- The two best of a row after one more score. -/
def topTwo (f : Fmt) (l : List (Nat × Nat)) (x : Nat × Nat) : List (Nat × Nat) :=
  match l with
  | [] => [x]
  | [a] => if scoreBetter f x a then [x, a] else [a, x]
  | a :: b :: _ => if scoreBetter f x a then [x, a] else if scoreBetter f x b then [a, x] else [a, b]

/-- VTOP2 (R214). -/
def vecTop (v : Vec) (r : VRun) (c : VCmd) (a : Wtok) : VGo :=
  let f := fmtOf c.fmt.val
  let mode := modeOf c.rnd.val
  let lanes := lanesW f.bits a.val
  let best := (lanes.zipIdx).foldl (fun l x => topTwo f l (r.lane + x.2, x.1)) r.row
  let deps := r.deps ++ a.deps
  if a.side.getLsbD 12 || r.left ≤ 1 then
    let x := best.getD 0 (0, 0)
    let y := best.getD 1 (0, 0)
    let (g1, g2) := if r.cmd.b.getLsbD 0 then gateFactors (fvOf f x.2) (fvOf f y.2)
      else ((convert f .fp32 .rne 0 x.2).1, (convert f .fp32 .rne 0 y.2).1)
    let d := Side.dim a.side
    { takes := [(c.ba.val, 1)], drops := 24
      outs := [(c.bo.val, ⟨0, BitVec.ofNat 512 x.1, deps⟩), (c.bo.val, ⟨d, BitVec.ofNat 512 y.1, deps⟩),
               (c.bb.val, ⟨0, BitVec.ofNat 512 g1, deps⟩), (c.bb.val, ⟨d, BitVec.ofNat 512 g2, deps⟩)]
      vec := { v.wrote mode 32 1 4 with run := some { r with left := r.left - 1, row := [], lane := 0, deps := r.cmd.deps } } }
  else
    { takes := [(c.ba.val, 1)], drops := 24
      vec := { v with run := some { r with left := r.left - 1, row := best, lane := r.lane + lanes.length, deps := deps } } }

/-- The lowest bank RESIDENT or LOADING with an expert id (R215). -/
def bankOf (banks : Vector Bank 8) (id : Nat) : Option (Nat × Bank) :=
  (banks.toList.zipIdx.find? fun x => (x.1.st == .resident || x.1.st == .loading) && x.1.expid.toNat == id).map
    fun x => (x.2, x.1)

/-- VTAGS (R215, R216): one id and the row's T tokens; `recs`: the banks as the step before left them. -/
def vecTags (v : Vec) (recs : Vector Bank 8) (r : VRun) (c : VCmd) (id : Wtok) (row : List Wtok) : VStep :=
  let f := fmtOf c.fmt.val
  let w := id.val.toNat % 2 ^ 32
  let bank := if w < 65536 then bankOf recs w else none
  if bank.isNone && w != 0xFFFFFFFF && r.cmd.b.getLsbD 0 then .fault 0x30
  else if bank.any fun x => 2 ^ 20 ≤ x.2.readers + row.length then .fault 0x33
  else
    let (tag, gen) := match bank with
      | some (b, k) => (b, k.gen.toNat)
      | none => (15, 0)
    let mark (t : Wtok) : Wtok :=
      { t with side := (t.side &&& 0xF00F) ||| BitVec.ofNat 16 (tag * 256 + gen * 16), deps := t.deps ++ id.deps }
    .go { takes := [(c.bb.val, 1), (c.ba.val, row.length)], drops := 24
          outs := row.map fun t => (c.bo.val, mark t)
          vec := { v.wrote (modeOf c.rnd.val) f.bits f.lanes row.length with run := some { r with left := r.left - 1 } }
          readers := bank.map fun x => (x.1, row.length) }

/-! ### Heaps (R217-R219) -/

/-- Entries of a heap, worst first. -/
def State.heapEntries (s : State) (task : Nat) (g : Group) (vt : Fin 16) (h n : Nat) : List (Nat × Nat) :=
  (List.range n).map fun k => (s.padNat task g vt (h + 8 + 8 * k) 4, s.padNat task g vt (h + 12 + 8 * k) 4)

/-- A pair is better than another (R217). -/
def pairBetter (x y : Nat × Nat) : Bool :=
  let a := fvOf .fp32 x.1
  let b := fvOf .fp32 y.1
  b.lt a || (a.eq b && intOf .int32 x.2 < intOf .int32 y.2)

/-- A pair inserted in ascending order of worth. -/
def heapInsert (x : Nat × Nat) : List (Nat × Nat) → List (Nat × Nat)
  | [] => [x]
  | y :: l => if pairBetter x y then y :: heapInsert x l else x :: y :: l

/-- The lanes of VHEAP (R218): entries after them, ids written. -/
def heapLanes (cap : Nat) : List (Nat × Nat) → List (Nat × Nat) → List (Nat × Nat) × List Nat
  | es, [] => (es, [])
  | es, x :: l =>
    if x.2 = 0xFFFFFFFF then heapLanes cap es l
    else if (fvOf .fp32 x.1).isNan then let (e, o) := heapLanes cap es l; (e, x.2 :: o)
    else if es.length < cap then heapLanes cap (heapInsert x es) l
    else
      match es with
      | w :: rest =>
        if pairBetter x w then let (e, o) := heapLanes cap (heapInsert x rest) l; (e, w.2 :: o)
        else let (e, o) := heapLanes cap es l; (e, x.2 :: o)
      | [] => let (e, o) := heapLanes cap es l; (e, x.2 :: o)

/-- The bytes of a heap with its header (R217). -/
def heapBytes (cap : Nat) (es : List (Nat × Nat)) : List Byte :=
  leBytes 4 (es.length + cap * 65536) ++ leBytes 4 0 ++ es.flatMap fun x => leBytes 4 x.1 ++ leBytes 4 x.2

def heapBad (hdr : Nat) : Bool := heapCap hdr = 0 || 256 < heapCap hdr || heapCap hdr < heapCount hdr

/-- VHEAP (R218). Its tokens to BO have a zero sideband. DEDUCED, log entry 95. -/
def State.vecHeap (s : State) (y : At2) (v : Vec) (r : VRun) (c : VCmd) (a b : Wtok) : VStep :=
  let h := r.cmd.b.toNat % 262144
  let hdr := s.padNat y.task y.g y.vt h 4
  if heapBad hdr then .fault 0x32
  else
    let (es, out) := heapLanes (heapCap hdr) (s.heapEntries y.task y.g y.vt h (heapCount hdr))
      ((lanesW 32 a.val).zip (lanesW 32 b.val))
    let deps := a.deps ++ b.deps
    .go { takes := [(c.ba.val, 1), (c.bb.val, 1)], drops := 24
          outs := out.map fun i => (c.bo.val, ⟨0, BitVec.ofNat 512 i, deps⟩)
          vec := { v.wrote (modeOf c.rnd.val) 32 1 out.length with run := some { r with left := r.left - 1 } }
          pad := some (h, heapBytes (heapCap hdr) es) }

/-- VHDRN (R219). -/
def State.vecHeapDrain (s : State) (y : At2) (v : Vec) (r : VRun) (c : VCmd) : VStep :=
  let h := r.cmd.b.toNat % 262144
  let hdr := s.padNat y.task y.g y.vt h 4
  if heapBad hdr then .fault 0x32
  else
    let n := heapCount hdr
    let es := (s.heapEntries y.task y.g y.vt h n).reverse
    let total := (n + 7) / 8
    let k := total - r.left
    let part := (es.drop (8 * k)).take 8
    let lanes : List Nat := (part ++ List.replicate (8 - part.length) (0xFF800000, 0xFFFFFFFF)).flatMap fun (x : Nat × Nat) => [x.1, x.2]
    .go { drops := 24, outs := [(c.bo.val, ⟨if r.left ≤ 1 then 0x1000 else 0, packLine 32 lanes, r.deps⟩)]
          vec := { v.wrote (modeOf c.rnd.val) 32 16 1 with run := some { r with left := r.left - 1 } }
          pad := if r.left ≤ 1 then some (h, leBytes 4 (heapCap hdr * 65536)) else none }

/-! ### The step of the node (R194) -/

/-- The data tokens at the head of an input. DEDUCED, log entry 43. -/
def headData (l : List Wtok) : List Wtok := l.takeWhile fun t => !Side.ctl t.side

/-- The token step of a command from the tokens at hand; VPERM too reads one token for both inputs where its slots name one buffer. DEDUCED, log
entry 25. DEDUCED, log entry 43. -/
def State.vecPlan (s : State) (y : At2) (r : VRun) (op : Nat) (c : VCmd) : VStep :=
  let v := y.x.vec
  let as := headData (y.x.slotToks .vector c.ba.val)
  let bs := headData (y.x.slotToks .vector c.bb.val)
  let bo := fmtOf ((y.x.slot .vector c.bo.val).elim 0 fun b => (y.x.desc b).fmt)
  let next (g : VGo) : VStep := .go { g with vec := { g.vec with run := some { r with left := r.left - 1 } } }
  match op with
  | 0x33 => .go (vecDrain v r c bo)
  | 0x53 => s.vecHeapDrain y v r c
  | 0x51 =>
    let t := r.cmd.b.toNat / 2 % 16 + 1
    (match bs with
     | id :: _ => if as.length < t then .wait else vecTags v y.x.recs r c id (as.take t)
     | [] => .wait)
  | 0x45 =>
    (match as with
     | p :: q :: _ =>
       let f := fmtOf c.fmt.val
       let l := lanesW f.bits p.val ++ lanesW f.bits q.val
       let pick (k : Nat) : List Nat := (l.zipIdx.filter fun (x : Nat × Nat) => x.2 % 2 == k).map (·.1)
       let side := sideOf (p.side ||| q.side) p.side
       let deps := p.deps ++ q.deps
       .go { takes := [(c.ba.val, 2)], drops := 24
             outs := [(c.bo.val, ⟨side, packLine f.bits (pick 0), deps⟩), (c.bo.val, ⟨side, packLine f.bits (pick 1), deps⟩)]
             vec := { v.wrote (modeOf c.rnd.val) f.bits f.lanes 2 with run := some { r with left := r.left - 2 } } }
     | _ => .wait)
  | _ =>
    match as with
    | [] => .wait
    | a :: _ =>
      let f := fmtOf c.fmt.val
      let two (k : Wtok → VStep) : VStep :=
        match bs with
        | b :: _ => k b
        | [] => .wait
      match op with
      | 0x01 | 0x02 | 0x03 | 0x04 | 0x05 | 0x06 | 0x40 | 0x41 => two fun b => next (vecLanes v r op c 20 a (some b))
      | 0x07 | 0x08 | 0x09 | 0x0A => next (vecLanes v r op c 20 a none)
      | 0x10 | 0x11 | 0x12 | 0x13 | 0x14 | 0x15 => next (vecLanes v r op c 40 a none)
      | 0x20 => .go (vecConvert v r c bo [(c.ba.val, 1)] none a fun x st _ => convert f bo (modeOf c.rnd.val) st x)
      | 0x21 =>
        let go (h : Line) (takes : List (Nat × Nat)) : VStep :=
          .go (vecConvert v r c bo takes (some h) a fun x st j =>
            let e := h.toNat / 2 ^ (8 * j) % 256
            match bo.float? with
            | some g =>
              if e = 255 then (g.nan, { inv := true })
              else
                (match fvOf f x with
                 | .fin d => g.ofFv (modeOf c.rnd.val) st (.fin { d with e := d.e - ((e : Int) - 127) })
                 | z => g.ofFv (modeOf c.rnd.val) st z)
            | none => dpOfFv e (fvOf f x))
        (match r.held with
         | some h => go h [(c.ba.val, 1)]
         | none => two fun b => go b.val [(c.ba.val, 1), (c.bb.val, 1)])
      | 0x22 => .go (vecSpc v r c a)
      | 0x23 =>
        let n := f.lanes / max 1 r.cmd.b.toNat
        if bs.length < n then .wait else vecSpx v r c a (bs.take n)
      | 0x30 => .go (vecReduce v r c .sum bo a)
      | 0x31 => .go (vecReduce v r c .max bo a)
      | 0x32 => .go (vecReduce v r c .amax bo a)
      | 0x61 => .go (vecScan v r c a)
      | 0x60 => .go (vecCount v r c a)
      | 0x50 => .go (vecTop v r c a)
      | 0x52 => two fun b => s.vecHeap y v r c a b
      | 0x42 =>
        let go (h : Line) (takes : List (Nat × Nat)) : VStep :=
          let l := lanesW f.bits a.val
          let o := (List.range f.lanes).map fun j => l.getD (h.toNat / 2 ^ (8 * j) % 256 % f.lanes) 0
          .go { takes := takes, drops := 12
                outs := [(c.bo.val, ⟨sideOf a.side a.side, packLine f.bits o, a.deps⟩)]
                vec := { v.wrote (modeOf c.rnd.val) f.bits f.lanes 1 with run := some { r with left := r.left - 1, held := some h } } }
        (match r.held with
         | some h => go h [(c.ba.val, 1)]
         | none => two fun b => go b.val [(c.ba.val, 1), (c.bb.val, 1)])
      | 0x43 =>
        let l := lanesW f.bits a.val
        let x := l.getD (r.cmd.b.toNat % 64 % f.lanes) 0
        next { takes := [(c.ba.val, 1)], drops := 12
               outs := [(c.bo.val, ⟨sideOf a.side a.side, packLine f.bits (List.replicate f.lanes x), a.deps⟩)]
               vec := v.wrote (modeOf c.rnd.val) f.bits f.lanes 1 }
      | 0x44 => two fun b =>
        let l := ((lanesW f.bits a.val).zip (lanesW f.bits b.val)).flatMap fun x => [x.1, x.2]
        let deps := a.deps ++ b.deps
        next { takes := if c.bb = c.ba then [(c.ba.val, 1)] else [(c.ba.val, 1), (c.bb.val, 1)], drops := 12
               outs := [(c.bo.val, ⟨Side.tagGen a.side, packLine f.bits (l.take f.lanes), deps⟩),
                        (c.bo.val, ⟨sideOf a.side a.side, packLine f.bits (l.drop f.lanes), deps⟩)]
               vec := v.wrote (modeOf c.rnd.val) f.bits f.lanes 2 }
      | _ => .wait

/-- Tokens that a step writes to a slot. -/
def outsTo (l : List (Nat × Wtok)) (k : Nat) : Nat := (l.filter fun x => x.1 == k).length

/-- Bytes written to the own pad. -/
def State.padWrite (s : State) (task : Nat) (vt : Fin 16) (off : Nat) (l : List Byte) : State :=
  { s with mem := s.mem.writesBy (s.padAddr (s.group task) (s.inst task vt) vt) off l }

/-- A command runs at half width: by its WID, or as the arbiter has set its tile (R198, R498). -/
def State.halfWidth (s : State) (g : Group) (c : Cmd) : Bool := (vcmdOf c.word).half || (s.region (s.physRegion g.region)).half

/-- The run as a token step ends. -/
def VRun.unpaid (r : VRun) : VRun := { r with paid := false }

/-- What the step does once it is paid for. -/
def State.vecDone (s : State) (y : At2) (r : VRun) (go : VGo) : State :=
  let s := s.updInst y.task y.vt fun x =>
    let x := x.takeAll .vector [] go.takes
    let x := { x with vec := { go.vec with run := go.vec.run.map VRun.unpaid } }
    let x := match go.readers with
      | some (b, n) =>
        let i : Fin 8 := ⟨b % 8, Nat.mod_lt _ (by decide)⟩
        { x with mat := { x.mat with banks := vset x.mat.banks i { vget x.mat.banks i with readers := (vget x.mat.banks i).readers + n } } }
      | none => x
    x.setAr go.ar
  let s := match go.pad with
    | some (off, bs) => s.padWrite y.task y.vt off bs
    | none => s
  let s := go.outs.foldl (fun s o => s.engPut y.task y.vt .vector o.1 { o.2 with deps := s.live o.2.deps.eraseDups }) s
  let s := s.countAt y.task y.vt 0x11 1
  let s := if r.paid then s.countAt y.task y.vt 0x12 1 else s
  match go.vec.run with
  | some r => if r.left = 0 then s.vecEnd y.task y.vt else s
  | none => s

/-- The step taken: at full width at once; at half width in two steps, of which the first takes the debit (R198). -/
def State.vecGo (s : State) (y : At2) (r : VRun) (go : VGo) : State :=
  if r.paid then s.vecDone y r go
  else
    s.engDebit y.task y.vt .vector r.cmd go.drops fun s =>
      if s.halfWidth y.g r.cmd then s.updInst y.task y.vt fun x => { x with vec := { x.vec with run := some { r with paid := true } } }
      else s.vecDone y r go

/-- A token step when its inputs, room and pad allow (R194, R388). -/
def State.vecTry (s : State) (y : At2) (r : VRun) (op : Nat) (c : VCmd) : State :=
  match s.vecPlan y r op c with
  | .wait => s
  | .fault code => s.engFault y.task y.vt .vector code r.cmd
  | .go g =>
    let room := [c.bo.val, c.bb.val].all fun k => outsTo g.outs k = 0 || y.x.slotRoom .vector k (outsTo g.outs k)
    if room && !(g.pad.isSome && s.padHeld y.task y.vt .vector) then s.vecGo y r g else s

/-- One advance of the running command: a control token passed on or discarded, or a token step (R194, R196); a control token that
no node may find raises 0x50 at BA too (R100, R377, R380), and an empty heap is drained only after its header was checked (R219). -/
def State.vecRun (s : State) (y : At2) (r : VRun) (op : Nat) (c : VCmd) : State :=
  let readsA := op != 0x33 && op != 0x53
  let readsB := [0x01, 0x02, 0x03, 0x04, 0x05, 0x06, 0x21, 0x23, 0x40, 0x41, 0x42, 0x44, 0x51, 0x52].contains op
  if r.left = 0 then
    if op == 0x53 && heapBad (s.padNat y.task y.g y.vt (r.cmd.b.toNat % 262144) 4) then s.engFault y.task y.vt .vector 0x32 r.cmd
    else s.vecEnd y.task y.vt
  else
    match (if readsA then (y.x.slotToks .vector c.ba.val).head? else none),
          (if readsB then (y.x.slotToks .vector c.bb.val).head? else none) with
    | some a, b =>
      if Side.ctl a.side then
        if strayCtl a.side then s.dropCtl y.task y.vt .vector c.ba.val r.cmd a.side
        else if y.x.slotRoom .vector c.bo.val 1 then
          ((s.updInst y.task y.vt fun x => x.slotTake .vector c.ba.val 1).engPut y.task y.vt .vector c.bo.val a).progress y.task
        else s
      else
        match b with
        | some b => if Side.ctl b.side then s.dropCtl y.task y.vt .vector c.bb.val r.cmd b.side else s.vecTry y r op c
        | none => s.vecTry y r op c
    | none, some b => if Side.ctl b.side then s.dropCtl y.task y.vt .vector c.bb.val r.cmd b.side else s.vecTry y r op c
    | none, none => s.vecTry y r op c
/-- The turn of a vector command: the running one advances; a waiting one begins at an idle node (R148, R194). -/
def State.vecTurn (s : State) (op : BitVec 8) (c : VCmd) : State :=
  match s.engine .vector with
  | none => s
  | some y =>
    match y.x.vec.run with
    | some r => if r.cmd.word = encV op c then s.vecRun y r op.toNat c else s
    | none =>
      match y.x.vec.wait with
      | some k => if k.word = encV op c then s.vecEnd y.task y.vt else s
      | none => s

/-- VADD (R202). -/
def execVadd (x : VCmd) (s : State) : Out := .next (s.vecTurn 0x01 x)
/-- VSUB (R202). -/
def execVsub (x : VCmd) (s : State) : Out := .next (s.vecTurn 0x02 x)
/-- VMUL (R202). -/
def execVmul (x : VCmd) (s : State) : Out := .next (s.vecTurn 0x03 x)
/-- VFMA (R202). -/
def execVfma (x : VCmd) (s : State) : Out := .next (s.vecTurn 0x04 x)
/-- VMIN (R202). -/
def execVmin (x : VCmd) (s : State) : Out := .next (s.vecTurn 0x05 x)
/-- VMAX (R202). -/
def execVmax (x : VCmd) (s : State) : Out := .next (s.vecTurn 0x06 x)
/-- VABS (R202). -/
def execVabs (x : VCmd) (s : State) : Out := .next (s.vecTurn 0x07 x)
/-- VNEG (R202). -/
def execVneg (x : VCmd) (s : State) : Out := .next (s.vecTurn 0x08 x)
/-- VSCL (R202). -/
def execVscl (x : VCmd) (s : State) : Out := .next (s.vecTurn 0x09 x)
/-- VADDS (R202). -/
def execVadds (x : VCmd) (s : State) : Out := .next (s.vecTurn 0x0A x)
/-- VEXP2 (R203). -/
def execVexp2 (x : VCmd) (s : State) : Out := .next (s.vecTurn 0x10 x)
/-- VLOG2 (R203). -/
def execVlog2 (x : VCmd) (s : State) : Out := .next (s.vecTurn 0x11 x)
/-- VRCP (R203). -/
def execVrcp (x : VCmd) (s : State) : Out := .next (s.vecTurn 0x12 x)
/-- VRSQ (R203). -/
def execVrsq (x : VCmd) (s : State) : Out := .next (s.vecTurn 0x13 x)
/-- VTANH (R203). -/
def execVtanh (x : VCmd) (s : State) : Out := .next (s.vecTurn 0x14 x)
/-- VSIGM (R203). -/
def execVsigm (x : VCmd) (s : State) : Out := .next (s.vecTurn 0x15 x)
/-- VCVT (R204). -/
def execVcvt (x : VCmd) (s : State) : Out := .next (s.vecTurn 0x20 x)
/-- VQDP8 (R205). -/
def execVqdp8 (x : VCmd) (s : State) : Out := .next (s.vecTurn 0x21 x)
/-- VSPC (R206). -/
def execVspc (x : VCmd) (s : State) : Out := .next (s.vecTurn 0x22 x)
/-- VSPX (R207). -/
def execVspx (x : VCmd) (s : State) : Out := .next (s.vecTurn 0x23 x)
/-- VRSUM (R208). -/
def execVrsum (x : VCmd) (s : State) : Out := .next (s.vecTurn 0x30 x)
/-- VRMAX (R208). -/
def execVrmax (x : VCmd) (s : State) : Out := .next (s.vecTurn 0x31 x)
/-- VRAMAX (R208). -/
def execVramax (x : VCmd) (s : State) : Out := .next (s.vecTurn 0x32 x)
/-- VRDRN (R208). -/
def execVrdrn (x : VCmd) (s : State) : Out := .next (s.vecTurn 0x33 x)
/-- VCMP (R210). -/
def execVcmp (x : VCmd) (s : State) : Out := .next (s.vecTurn 0x40 x)
/-- VSEL (R211). -/
def execVsel (x : VCmd) (s : State) : Out := .next (s.vecTurn 0x41 x)
/-- VPERM (R212). -/
def execVperm (x : VCmd) (s : State) : Out := .next (s.vecTurn 0x42 x)
/-- VBCAST (R212). -/
def execVbcast (x : VCmd) (s : State) : Out := .next (s.vecTurn 0x43 x)
/-- VZIP (R213). -/
def execVzip (x : VCmd) (s : State) : Out := .next (s.vecTurn 0x44 x)
/-- VUZP (R213). -/
def execVuzp (x : VCmd) (s : State) : Out := .next (s.vecTurn 0x45 x)
/-- VTOP2 (R214). -/
def execVtop2 (x : VCmd) (s : State) : Out := .next (s.vecTurn 0x50 x)
/-- VTAGS (R215). -/
def execVtags (x : VCmd) (s : State) : Out := .next (s.vecTurn 0x51 x)
/-- VHEAP (R218). -/
def execVheap (x : VCmd) (s : State) : Out := .next (s.vecTurn 0x52 x)
/-- VHDRN (R219). -/
def execVhdrn (x : VCmd) (s : State) : Out := .next (s.vecTurn 0x53 x)
/-- VCNT (R221). -/
def execVcnt (x : VCmd) (s : State) : Out := .next (s.vecTurn 0x60 x)
/-- VSCAN (R209). -/
def execVscan (x : VCmd) (s : State) : Out := .next (s.vecTurn 0x61 x)

/-- VECTOR_TOKEN_STEP (R194): the node advances whatever command it holds. -/
def execVectorTokenStep (l : At) (s : State) : Out :=
  let s : State := s.updInst l.task l.vt fun x => { x with recs := x.mat.banks }
  let s := { s with cur := { task := l.task, vt := l.vt, node := .vector, slot := 0 } }
  .next <|
    match s.engine .vector with
    | none => s
    | some y =>
      match y.x.vec.run with
      | some r => s.vecRun y r (cmdOp r.cmd.word) (vcmdOf r.cmd.word)
      | none => s.vecEnd y.task y.vt

end Sys2Proof.Machine
end

