-- ==== Sys2Proof/Machine/Matrix.lean ====
section
/-! DEFINITION. The matrix node: its command check, its two lanes, routed rows, drains and status
(spec/08_matrix.md R222-R255, spec/03_formats.md R70-R75). -/

namespace Sys2Proof.Machine

/-! ### Packing (R225, R226) -/

/-- Weights per cell of a WF code. -/
def mxPk (wf : Nat) : Nat := if wf = 0 then 1 else if wf = 3 then 4 else 2

/-- WF of a WFMT code. -/
def mxWf (wfmt : Nat) : Nat := if wfmt ≤ 1 then wfmt else wfmt - 1

/-- Divisor of the row debit of a WF code. -/
def mxDiv (wf : Nat) : Nat := if wf = 0 then 8 else if wf = 3 then 32 else 16

/-- Format of the weights of a WFMT code. -/
def mxFmt (wfmt : Nat) : Fmt :=
  match wfmt with
  | 0 => .bf16
  | 1 => .e4m3
  | 2 => .e5m2
  | 3 => .int8
  | _ => .dp8

/-- Format of an AF code. -/
def mxAf (af : Nat) : Fmt :=
  match af with
  | 0 => .bf16
  | 1 => .e4m3
  | 2 => .e5m2
  | _ => .int8

/-- WFMT of a WF code and the source's format code (R239). -/
def mxWfmt (wf srcFmt : Nat) : Nat := if wf = 1 then (if srcFmt = 4 then 2 else 1) else if wf = 0 then 0 else wf + 1

def Bank.kl (b : Bank) : Nat := b.km1 + 1
def Bank.n (b : Bank) : Nat := b.nm1 + 1
def Bank.pk (b : Bank) : Nat := mxPk (mxWf b.wfmt)
def Bank.wb (b : Bank) : Nat := if b.wfmt = 0 then 2 else 1
def Bank.kv (b : Bank) : Nat := if b.sp = 0 then b.kl else if b.sp = 1 then b.kl / 2 else b.kl / 4
def Bank.kr (b : Bank) : Nat := (b.kv + b.pk - 1) / b.pk
def Bank.rowLen (b : Bank) (ab : Nat) : Nat := (b.kl * ab + 63) / 64
def Bank.keep (b : Bank) : Nat := if b.sp = 1 then 16 else 8

/-- Drops of a hit row (R246). -/
def Bank.rowDrops (b : Bank) : Nat :=
  let d := mxDiv (mxWf b.wfmt)
  4 + (b.kr * b.n + d - 1) / d

/-- Kept value v of column n (R226). -/
def Bank.weight (b : Bank) (v n : Nat) : Nat :=
  (b.w.getD (v / b.pk * 64 + n) 0).toNat / 2 ^ (8 * b.wb * (v % b.pk)) % 2 ^ (8 * b.wb)

/-- Kept value v of column n stored. -/
def Bank.setWeight (b : Bank) (v n x : Nat) : Bank :=
  let k := v / b.pk * 64 + n
  let sh := 2 ^ (8 * b.wb * (v % b.pk))
  let old := (b.w.getD k 0).toNat
  { b with w := b.w.put k (BitVec.ofNat 32 (old - old / sh % 2 ^ (8 * b.wb) * sh + x % 2 ^ (8 * b.wb) * sh)) }

/-- Positions of the one bits of a mask word, rising (R244). -/
def maskBits (m : Nat) : List Nat := (List.range 32).filter fun j => m.testBit j

/-- Logical position of kept value v of column n (R226, R244). -/
def Bank.position (b : Bank) (v n : Nat) : Nat :=
  if b.sp = 0 then v
  else
    let g := v / b.keep
    32 * g + (maskBits (b.mask.getD (g * 64 + n) 0).toNat).getD (v % b.keep) 0

/-- Four scale bytes of a KSET, those of columns 4n to 4n + 3 (R98). -/
def Bank.setScales (b : Bank) (n : Nat) (v : Line) : Bank :=
  { b with scale := [0, 1, 2, 3].foldl (fun m j => Assoc.put m (4 * n + j) (v.extractLsb' (8 * j) 8)) b.scale }

/-- Scale byte of a column (R222, R223). -/
def Bank.scaleOf (b : Bank) (n : Nat) : Byte := b.scale.getD n 0x7F

/-! ### Sums (R74, R75) -/

/-- The exact sum of products in the extended reals; it starts at +0, so a sum of zeros is +0. DEDUCED, log entry 92. -/
def sumProducts (l : List (Fv × Fv)) : Fv := l.foldl (fun s p => s.add false (p.1.mul p.2)) (.fin ⟨false, 0, 0⟩)

/-- Scaled by a power of two. -/
def Fv.scaleBy (v : Fv) (e : Int) : Fv :=
  match v with
  | .fin x => .fin { x with e := x.e + e }
  | v => v

/-- t(n) of a row: the products' sum, scaled, rounded once (R71, R74). -/
def columnSum (b : Bank) (af : Nat) (acts : List Nat) (n : Nat) : Word × Ar :=
  let a := mxAf af
  let w := mxFmt b.wfmt
  let ps := (List.range b.kv).map fun v => (fvOf a (acts.getD (b.position v n) 0), fvOf w (b.weight v n))
  let nan := ps.any fun p => p.1.isNan || p.2.isNan
  let sum := sumProducts ps
  let scaled := b.wfmt = 1 ∨ b.wfmt = 2 ∨ b.wfmt = 4
  let e := (b.scaleOf n).toNat
  if scaled ∧ e = 255 then (0x7FC00000, { inv := true })
  else
    let (x, ar) := fp32.ofFv .rne 0 (if scaled then sum.scaleBy ((e : Int) - 127) else sum)
    (BitVec.ofNat 32 x, { ar with inv := sum.isNan && !nan })

/-- The exact integer sum of a row (R75). -/
def columnInt (b : Bank) (acts : List Nat) (n : Nat) : Int :=
  ((List.range b.kv).map fun v => intOf .int8 (acts.getD (b.position v n) 0) * intOf .int8 (b.weight v n)).sum

/-- acc[m][n] after a row. -/
def accumulate (b : Bank) (af : Nat) (add : Bool) (acts : List Nat) (old : Word) (n : Nat) : Word × Ar :=
  if b.wfmt = 3 then
    let (x, ar) := wrapInt ((if add then old.toInt else 0) + columnInt b acts n)
    (BitVec.ofNat 32 x, ar)
  else
    let (t, ar) := columnSum b af acts n
    if add then let (x, a2) := fadd32 old t; (x, ar.or a2) else (t, ar)

/-! ### Fields and the command check (R233, R234) -/

def mOp (c : Cmd) : Nat := cmdOp c.word
def mF (c : Cmd) : MFields := mFieldsOf c.word
def mRows (c : Cmd) : Nat := (mF c).rows.toNat + 1
def mSrc (c : Cmd) : Nat := (mF c).src.toNat
def mBank (c : Cmd) : Fin 8 := (mF c).bank.toFin

/-- A load's shape (R239). -/
def shapeOk (x : Inst) (c : Cmd) : Bool :=
  let b := c.b.toNat
  let kl := b % 256 + 1
  let sp := b / 16384
  let wf := (mF c).wf.toNat
  let k := mSrc c
  c.a.toNat < 65536 && b < 65536 && sp < 3 && (mOp c == 1 || sp == 0)
    && decide (kl ≤ 32 * mxPk wf * (if sp = 0 then 1 else if sp = 1 then 2 else 4))
    && (sp == 0 || (kl % 32 == 0 && k ≤ 4 && x.slotIs .matrix (k + 1) true (· == 10)))
    && x.slotIs .matrix k true fun f => if wf = 0 then f == 1 else if wf = 1 then f == 3 || f == 4 else if wf = 2 then f == 5 else f == 8

/-- The parameters and slots of a command whose fields decode (R233, R234). -/
def Inst.matOk (x : Inst) (c : Cmd) : Bool :=
  let f := mF c
  let k := mSrc c
  let rows := x.slotIs .matrix k true (· == (mxAf f.af.toNat).code)
  let t := decide (1 ≤ c.a.toNat) && decide (c.a.toNat ≤ 4)
  let first := decide (c.a.toNat < 128) && decide (c.a.toNat + mRows c ≤ 128)
  let pad := c.a.toNat < 2 ^ 23
  match mOp c with
  | 0x01 | 0x02 => shapeOk x c
  | 0x03 => true
  | 0x04 => decide (c.a.toNat < 65536)
  | 0x10 => if k = 6 then pad else rows
  | 0x11 => rows && t
  | 0x12 => if f.tag = 1 then rows && t else if k = 6 then pad else rows
  | 0x20 => x.slotIs .matrix k true (· == 1) && x.slotIs .matrix (k + 1) true (· == 1)
  | 0x21 => decide (c.b.toNat < 8) && x.slotIs .matrix c.b.toNat true fun g => g ≤ 1
  | 0x30 => first && (if k = 6 then decide (c.b.toNat < 8) else x.slotIs .matrix k false (· == 6))
  | 0x31 => first
  | _ => false

/-- The word is an M-word that the node can take. -/
def Inst.matTakes (x : Inst) (c : Cmd) : Bool :=
  match decodeMat c.word with
  | .ok _ => x.matOk c
  | .error _ => false

/-! ### Status (R251) -/

/-- The status route has room. -/
def State.statusRoom (s : State) (task : Nat) (vt : Fin 16) : Bool :=
  s.hasRoom task (s.group task) (.mst vt) 0 1

def statusWord (op bank skip rows : Nat) : Word :=
  BitVec.ofNat 32 (op * 16777216 + bank % 8 * 1048576 + skip % 4096 * 256 + rows % 256)

/-- The node after the first of the tokens that wait is written: the lane that waited for it is idle with its last (R251). -/
def Mat.written (m : Mat) (t : Told) (rest : List Told) : Mat :=
  let m := { m with status := rest }
  if rest.any fun u => u.who == t.who then m
  else
    match t.who with
    | .load => { m with load := none }
    | .comp => { m with comp := none }
    | .late => m

/-- Tokens that wait for the status route are written in order as room allows (R251, R524). -/
def State.drainStatus (s : State) (task : Nat) (vt : Fin 16) : List Told → State
  | [] => s
  | t :: r =>
    if s.statusRoom task vt then
      State.drainStatus ((s.updInst task vt fun x => { x with mat := x.mat.written t r }).send task (.mst vt) t.tok.wide) task vt r
    else s

/-- The node applies a KSET of scales that stands at an input which no running command reads (R245). DEDUCED, log entry 97. -/
def State.idleScales (s : State) (task : Nat) (vt : Fin 16) : State :=
  let x := s.inst task vt
  let reads (k : Nat) : Bool := match x.mat.load with
    | some l => k = mSrc l.cmd || k = mSrc l.cmd + 1
    | none => false
  if x.mat.comp.isSome then s
  else
    (List.range 8).foldl (fun s k =>
      let x := s.inst task vt
      match x.slot .matrix k, x.slotToks .matrix k with
      | some b, t :: _ =>
        if !reads k && Side.ctl t.side && Side.op t.side = 6 && 0x80 ≤ Side.sel t.side && Side.sel t.side ≤ 0x8F
            && (s.group task).img.consumer x (.buf vt ⟨b % 32, Nat.mod_lt _ (by decide)⟩) == some (vt, .matrix) then
          s.updInst task vt fun x =>
            let x := x.slotTake .matrix k 1
            { x with mat := { x.mat with banks := vset x.mat.banks x.mat.sbank ((vget x.mat.banks x.mat.sbank).setScales (Side.sel t.side - 0x80) t.val) } }
        else s
      | _, _ => s) s

/-- What the node does beside its lanes: the status tokens of earlier steps are written, a KSET of scales applied. -/
def State.matIdle (s : State) (task : Nat) (vt : Fin 16) : State :=
  (s.drainStatus task vt (s.inst task vt).mat.status).idleScales task vt

/-- Place of an event among those of its step: the load lane's, the compute lane's, an immediate command's (R524). -/
def Teller.rank (w : Teller) : Nat :=
  match w with
  | .load => 0
  | .comp => 1
  | .late => 2

/-- Tokens of an event join those that wait, in the order of events (R524); they are written from the next step on. -/
def State.tell (s : State) (task : Nat) (vt : Fin 16) (who : Teller) (l : List Tok) : State :=
  s.updInst task vt fun x =>
    let key := 3 * x.stepNo + who.rank
    let before (u : Told) : Bool := u.key ≤ key
    let q := x.mat.status
    { x with mat := { x.mat with status := q.takeWhile before ++ l.map (fun t => ⟨key, who, t⟩) ++ q.dropWhile before } }

/-- A status token of an immediate command, or of an eviction that ends. -/
def State.tellLate (s : State) (task : Nat) (vt : Fin 16) (w : Word) : State := s.tell task vt .late [⟨0, w, []⟩]

/-! ### Banks (R227-R229) -/

def Mat.bank (m : Mat) (b : Fin 8) : Bank := vget m.banks b
def Mat.setBank (m : Mat) (b : Fin 8) (x : Bank) : Mat := { m with banks := vset m.banks b x }

def State.updMat (s : State) (task : Nat) (vt : Fin 16) (f : Mat → Mat) : State :=
  s.updInst task vt fun x => { x with mat := f x.mat }

def State.updBank (s : State) (task : Nat) (vt : Fin 16) (b : Fin 8) (f : Bank → Bank) : State :=
  s.updMat task vt fun m => m.setBank b (f (m.bank b))

/-- A bank LEAVING with nothing left empties, with the token of its eviction (R228). DEDUCED, log entry 27. -/
def State.settleBank (s : State) (task : Nat) (vt : Fin 16) (b : Fin 8) : State :=
  let k := (s.inst task vt).mat.bank b
  if k.st == .leaving && k.readers == 0 && !k.hold then
    let s := s.updBank task vt b fun k => { k with st := .empty, owedEvict := false }
    if k.owedEvict then s.tellLate task vt (statusWord 0x03 b.val 0 0) else s
  else s

/-- Every bank settled (R230). -/
def State.settleBanks (s : State) (task : Nat) (vt : Fin 16) : State :=
  [0, 1, 2, 3, 4, 5, 6, 7].foldl (fun s b => s.settleBank task vt b) s

/-- An unrouted command that begins on its bank: it sets HOLD for its whole run (R224, R229). DEDUCED, log entry 27. -/
def usesHold (c : Cmd) : Bool := (mOp c == 0x10 || mOp c == 0x12 || mOp c == 0x20 || mOp c == 0x21) && (mF c).tag == 0

/-- One that reads the bank's state, so that R229 checks it: MXGDRN reads none (R248). -/
def readsBank (c : Cmd) : Bool := usesHold c && mOp c != 0x21

def State.dropHold (s : State) (task : Nat) (vt : Fin 16) (c : Cmd) : State :=
  if usesHold c then s.updBank task vt (mBank c) fun k => { k with hold := false } else s

/-- A command that waited on a LOADING bank faults when the bank leaves it otherwise (R229). -/
def State.breakWait (s : State) (task : Nat) (vt : Fin 16) (b : Fin 8) : State :=
  match (s.inst task vt).mat.comp with
  | some p =>
    if readsBank p.cmd && mBank p.cmd == b && !p.begun then
      State.engFault (s.dropHold task vt p.cmd) task vt .matrix 0x33 p.cmd
    else s
  | none => s

/-- MXEVICT at its acceptance (R228, R242). -/
def State.evict (s : State) (task : Nat) (vt : Fin 16) (b : Fin 8) : State :=
  let k := (s.inst task vt).mat.bank b
  let tok := statusWord 0x03 b.val 0 0
  let toEmpty (s : State) : State := (s.updBank task vt b fun k => { k with st := .empty, rsv := false }).tellLate task vt tok
  let toLeaving (s : State) : State := s.updBank task vt b fun k => { k with st := .leaving, rsv := false, owedEvict := true }
  match k.st with
  | .empty => s.tellLate task vt tok
  | .loading => State.breakWait (if k.readers = 0 then toEmpty s else toLeaving s) task vt b
  | .resident => if k.readers = 0 && !k.hold then toEmpty s else toLeaving s
  | .leaving => toLeaving s

/-- An immediate command takes effect, or faults (R228, R241, R246). -/
def State.matNow (s : State) (task : Nat) (vt : Fin 16) (c : Cmd) : State :=
  let b := mBank c
  let k := (s.inst task vt).mat.bank b
  let clear (s : State) : State := s.updMat task vt fun m => { m with wait := none, paid := false }
  let id := BitVec.ofNat 16 c.a.toNat
  if mOp c = 0x03 then
    if k.st == .loading && !k.rsv then State.engFault (clear s) task vt .matrix 0x33 c
    else if (s.inst task vt).mat.paid then (clear s).evict task vt b
    else s.engDebit task vt .matrix c 4 fun s => (clear s).evict task vt b
  else if k.st == .empty || (k.st == .loading && k.rsv && k.expid == id) then
    s.engDebit task vt .matrix c 4 fun s =>
      let s := (clear s).updMat task vt fun m => { m with sbank := b }
      let s := s.updBank task vt b fun k =>
        if k.st == .empty then { k with st := .loading, expid := id, gen := k.gen + 1, rsv := true } else k
      s.tellLate task vt (statusWord 0x04 b.val 0 0)
  else State.engFault (clear s) task vt .matrix 0x33 c

/-- The debit of an MXEVICT that waits, taken in the matrix node's place before its effect, which follows the rows that VTAGS tags in the
step (R216, R230, R283). DEDUCED, log entry 98. -/
def State.prepay (s : State) (task : Nat) (vt : Fin 16) (c : Cmd) : State :=
  let m := (s.inst task vt).mat
  let k := m.bank (mBank c)
  if mOp c = 0x03 && !m.paid && !(k.st == .loading && !k.rsv) then
    s.engDebit task vt .matrix c 4 fun s => s.updMat task vt fun m => { m with paid := true }
  else s

/-! ### Beginning (R228, R229, R235-R237) -/

/-- Pieces of a row of an unrouted command's bank, or of parameter a. -/
def Mat.pieces (m : Mat) (c : Cmd) : Nat :=
  if mOp c = 0x20 then 1
  else if (mF c).tag = 1 then c.a.toNat
  else (m.bank (mBank c)).rowLen (mxAf (mF c).af.toNat).bytes

/-- The source bounds of a compute command (R236, R237). DEDUCED, log entry 45. -/
def State.boundsOk (s : State) (task : Nat) (vt : Fin 16) (c : Cmd) : Bool :=
  let x := s.inst task vt
  let t := x.mat.pieces c
  if mOp c = 0x10 || mOp c = 0x11 || mOp c = 0x12 || mOp c = 0x20 then
    if mSrc c = 6 then
      (mRows c - 1) * (c.b.toNat / 65536) + (t - 1) * (c.b.toNat % 65536) + 2 ≤ padWindow (s.group task).img.pad / 32
    else
      match x.slot .matrix (mSrc c) with
      | some b => mRows c * t ≤ (x.desc b).tokens
      | none => false
  else true

/-- The check of R229 on a command in the lane: the bank has become RESIDENT, or the command names none. DEDUCED, log entry 45. -/
def State.compCheck (s : State) (task : Nat) (vt : Fin 16) (p : MComp) : State :=
  let start (s : State) : State :=
    if s.boundsOk task vt p.cmd then s.updMat task vt fun m => { m with comp := some { p with begun := true } }
    else State.engFault (s.dropHold task vt p.cmd) task vt .matrix 0x32 p.cmd
  if readsBank p.cmd then
    match ((s.inst task vt).mat.bank (mBank p.cmd)).st with
    | .resident => start s
    | .loading => s
    | _ => State.engFault (s.dropHold task vt p.cmd) task vt .matrix 0x33 p.cmd
  else start s

/-- A load enters LOADING, or waits, or faults (R228). -/
def State.loadEnter (s : State) (task : Nat) (vt : Fin 16) (l : MLoad) : State :=
  let c := l.cmd
  let b := mBank c
  let k := (s.inst task vt).mat.bank b
  let id := BitVec.ofNat 16 c.a.toNat
  let x := s.inst task vt
  let f := ((x.slot .matrix (mSrc c)).elim 0 fun i => (x.desc i).fmt)
  let enter (s : State) : State :=
    (s.updBank task vt b fun k =>
      { k with st := .loading, rsv := false, expid := id, gen := if k.st == .loading then k.gen else k.gen + 1
               km1 := c.b.toNat % 256, nm1 := c.b.toNat / 256 % 64, sp := c.b.toNat / 16384 % 4
               wfmt := mxWfmt (mF c).wf.toNat f, w := [], mask := [], scale := [] }).updMat task vt fun m =>
      { m with load := some { l with entered := true } }
  match k.st with
  | .empty => enter s
  | .loading => if k.rsv && k.expid == id then enter s else s.engFault task vt .matrix 0x33 c
  | .leaving => s
  | .resident =>
    if k.readers = 0 && !k.hold then enter s
    else s.updBank task vt b fun k => { k with st := .leaving, owedEvict := false }

/-- The waiting command begins when its lane is idle; an immediate command at once (R233, R235). -/
def State.matBegin (s : State) (task : Nat) (vt : Fin 16) : State :=
  let m := (s.inst task vt).mat
  match m.wait with
  | none => s
  | some c =>
    let op := mOp c
    if op = 0x03 || op = 0x04 then s.matNow task vt c
    else if op ≤ 2 then
      if m.load.isNone then
        (s.updMat task vt fun m => { m with wait := none, load := some { cmd := c }, sbank := mBank c }).loadEnter task vt { cmd := c }
      else s
    else if m.comp.isNone then
      let p : MComp := { cmd := c }
      let s := s.updMat task vt fun m =>
        { m with wait := none, comp := some p
                 sbank := if (mF c).tag = 0 then mBank c else m.sbank }
      let s := if usesHold c then s.updBank task vt (mBank c) fun k => { k with hold := true } else s
      s.compCheck task vt p
    else s

/-! ### The load lane (R239, R240) -/

/-- A bank whose weights, masks and scales hold free values, the first of them free value n. -/
def Bank.unspecified (b : Bank) (n : Nat) : Bank :=
  { b with w := (List.range 2048).map fun i => (i, Config.freeWord (n + i))
           mask := (List.range 512).map fun i => (i, Config.freeWord (n + 2048 + i))
           scale := (List.range 64).map fun i => (i, (Config.freeWord (n + 2560 + i)).setWidth 8) }

/-- The bank of a load that faults goes EMPTY with its advanced GEN, and holds unspecified bits (R250; DESIGN CHOICE, log entry 10). -/
def State.loadFault (s : State) (task : Nat) (vt : Fin 16) (c : Cmd) (code : Nat) : State :=
  let n := s.freeNo
  let s := { s with freeNo := n + 2624 }.updBank task vt (mBank c) fun k => { k.unspecified n with st := .empty }
  s.engFault task vt .matrix code c

/-- Values of one part of a load placed: a column of MXLD, a row of MXLDT. -/
def Bank.place (b : Bank) (byRow : Bool) (i : Nat) (l : List Nat) : Bank :=
  l.zipIdx.foldl (fun b x => if byRow then b.setWeight i x.2 x.1 else b.setWeight x.2 i x.1) b

/-- The load is done: the bank is RESIDENT, and the lane waits until its status token is written (R228, R251). -/
def State.loadEnd (s : State) (task : Nat) (vt : Fin 16) (l : MLoad) : State :=
  let b := mBank l.cmd
  let s := s.updBank task vt b fun k => { k with st := .resident }
  (s.updMat task vt fun m => { m with load := some { l with finished := true } }).tell task vt .load
    [⟨0, statusWord (mOp l.cmd) b.val 0 0, []⟩]

/-- One token of a load (R239, R240). -/
def State.matLoad (s : State) (task : Nat) (vt : Fin 16) (l : MLoad) : State :=
  let c := l.cmd
  let x := s.inst task vt
  let b := mBank c
  let k := x.mat.bank b
  let byRow := mOp c = 2
  let parts := if byRow then k.kl else k.n
  let need := if byRow then k.n else k.kv
  let maskN := if k.sp = 0 then 0 else k.n * (k.kl / 32)
  let scaled := k.wfmt = 1 ∨ k.wfmt = 2 ∨ k.wfmt = 4
  if l.finished then s
  else if !l.entered then s.loadEnter task vt l
  else
    let masks := l.col ≥ parts && l.masks.length < maskN
    let slot := if masks then mSrc c + 1 else mSrc c
    let done (s : State) (l : MLoad) : State :=
      if parts ≤ l.col && maskN ≤ l.masks.length && (!scaled || 16 ≤ l.scales) then s.loadEnd task vt l
      else s.updMat task vt fun m => { m with load := some l }
    match x.slotToks .matrix slot with
    | [] => s
    | t :: _ =>
      let take (s : State) : State := s.updInst task vt fun x => x.slotTake .matrix slot 1
      if Side.ctl t.side then
        if strayCtl t.side then State.loadFault (take s) task vt c 0x50
        else if Side.op t.side = 10 then s.loadFault task vt c 0x32
        else if parts ≤ l.col && !masks && Side.sel t.side = 0x80 + l.scales then
          let s := (take s).updBank task vt b fun k => k.setScales l.scales t.val
          done s { l with scales := l.scales + 1 }
        else s.loadFault task vt c 0x32
      else if masks then
        let ws := (lanesW 32 t.val).take (maskN - l.masks.length)
        if ws.any fun w => (maskBits w).length != k.keep then s.loadFault task vt c 0x32
        else
          s.engDebit task vt .matrix c 8 fun s =>
            let g := k.kl / 32
            let s := (take s).updBank task vt b fun k =>
              { k with mask := ws.zipIdx.foldl (fun m y =>
                  let i := l.masks.length + y.2
                  Assoc.put m (i % g * 64 + i / g) (BitVec.ofNat 32 y.1)) k.mask }
            done s { l with masks := l.masks ++ ws }
      else if l.col < parts then
        s.engDebit task vt .matrix c 8 fun s =>
          let got := l.got ++ lanesW (8 * k.wb) t.val
          if need ≤ got.length then
            done ((take s).updBank task vt b fun k => k.place byRow l.col (got.take need)) { l with got := [], col := l.col + 1 }
          else done (take s) { l with got := got }
      else s.loadFault task vt c 0x32

/-! ### Rows (R231, R232, R236-R238, R243) -/

/-- Fate of a routed row (R231). -/
inductive Fate where
  | null
  | fault (code : Nat)
  | hit (b : Fin 8)
  | wait
  | skip
  deriving DecidableEq, Repr

def Mat.fate (m : Mat) (miss : Bool) (x : Side) : Fate :=
  let t := Side.tag x
  if t = 15 then .null
  else if 8 ≤ t then .fault 0x31
  else
    let b : Fin 8 := ⟨t % 8, Nat.mod_lt _ (by decide)⟩
    let k := m.bank b
    let same := k.gen.toNat == Side.gen x
    match k.st with
    | .resident | .leaving => if same then .hit b else if miss then .skip else .fault 0x30
    | .loading => if same then .wait else if miss then .skip else .fault 0x30
    | .empty => if miss then .skip else .fault 0x30

/-- The bank that counts a row's token (R232). -/
def Mat.countedBy (m : Mat) (x : Side) : Option (Fin 8) :=
  match m.fate true x with
  | .hit b => some b
  | _ => none

/-- READERS lowered by a consumed row (R232). DEDUCED, log entry 83. -/
def State.lowerReaders (s : State) (task : Nat) (vt : Fin 16) (x : Side) (n : Nat) : State :=
  match (s.inst task vt).mat.countedBy x with
  | some b => s.updBank task vt b fun k => { k with readers := k.readers - n }
  | none => s

/-- Bytes of piece j of row m of a pad operand (R237). -/
def State.padPiece (s : State) (task : Nat) (vt : Fin 16) (c : Cmd) (m j : Nat) : List Byte :=
  let a := c.a.toNat
  let base := a % 1048576
  let rot := a / 1048576 % 8
  let rp := c.b.toNat / 65536
  let tp := c.b.toNat % 65536
  [0, 1].flatMap fun h =>
    let u := base + m * rp + j * tp + h
    let u := u - u % 32 + (u + m * rot) % 32
    s.padRead task (s.group task) vt (32 * u) 32

/-- The bytes of a 64-byte value. -/
def lineBytes (l : Line) : List Byte := leBytes 64 l.toNat

/-- Activations of a row from its bytes (R226). -/
def activations (f : Fmt) (n : Nat) (bs : List Byte) : List Nat :=
  (List.range n).map fun k => leNat ((bs.drop (k * f.bytes)).take f.bytes)

/-- The command ends: what it kept back goes out, then its status token and its END are told, and the lane waits until they are written
(R238, R249, R251). -/
def State.compEnd (s : State) (task : Nat) (vt : Fin 16) : State :=
  match (s.inst task vt).mat.comp with
  | none => s
  | some p =>
    if !p.finished then s
    else
      let x := s.inst task vt
      match p.kept with
      | some (k, t) =>
        if x.slotRoom .matrix k 1 then
          (s.updMat task vt fun m => { m with comp := some { p with kept := none } }).engPut task vt .matrix k { t with side := t.side ||| 0x2000 }
        else s
      | none =>
        if p.told then s
        else
          let bank := if usesHold p.cmd then (mBank p.cmd).val else 0
          (s.updMat task vt fun m => { m with comp := some { p with told := true } }).tell task vt .comp
            (⟨0, statusWord (mOp p.cmd) bank p.skip p.row, []⟩ :: p.endTok.toList)

/-- The last row is done, or END was found: HOLD clears and the end is told as room allows. -/
def State.compFinish (s : State) (task : Nat) (vt : Fin 16) (p : MComp) : State :=
  let s := (s.dropHold task vt p.cmd).updMat task vt fun m => { m with comp := some { p with finished := true } }
  State.compEnd (State.compEnd (s.settleBanks task vt) task vt) task vt

/-- One row more is done. -/
def State.rowDone (s : State) (task : Nat) (vt : Fin 16) (p : MComp) (skipped : Bool) : State :=
  let p := { p with row := p.row + 1, skip := if skipped then p.skip + 1 else p.skip, tok := 0, steer := none }
  if mRows p.cmd ≤ p.row then s.compFinish task vt p
  else (s.updMat task vt fun m => { m with comp := some p }).settleBanks task vt

/-- A control token where a row begins (R238, R245). -/
def State.rowCtl (s : State) (task : Nat) (vt : Fin 16) (p : MComp) (slot : Nat) (t : Wtok) : State :=
  let take (s : State) : State := s.updInst task vt fun x => x.slotTake .matrix slot 1
  if Side.op t.side = 10 then State.compFinish (take s) task vt { p with endTok := some t.narrow }
  else if Side.op t.side = 6 && 0x80 ≤ Side.sel t.side && Side.sel t.side ≤ 0x8F then
    (take s).updBank task vt ((s.inst task vt).mat.sbank) fun k => k.setScales (Side.sel t.side - 0x80) t.val
  else s.dropCtl task vt .matrix slot p.cmd t.side

/-- The first n tokens of a buffer as a row: not all there, a control token inside, or the row. -/
inductive RowIn where
  | wait
  | bad
  | row (l : List Wtok)
  deriving DecidableEq, Repr

def rowOf (n : Nat) (l : List Wtok) : RowIn :=
  let l := l.take n
  if l.any fun t => Side.ctl t.side then .bad else if l.length < n then .wait else .row l

/-- The checks of a hit row on a bank (R236, R243): the fault code, if any; 0x33 before 0x32. DESIGN CHOICE, log entry 114. -/
def hitFault (c : Cmd) (k : Bank) (pieces : Nat) : Option Nat :=
  let f := mF c
  if mOp c = 0x12 && (k.sp = 0 || (f.spn = 0) != (k.sp = 1)) then some 0x33
  else if mOp c != 0x12 && k.sp != 0 then some 0x33
  else if mxWf k.wfmt != f.wf.toNat then some 0x33
  else if f.tag = 1 && k.rowLen (mxAf f.af.toNat).bytes != pieces then some 0x32
  else none

/-- A hit row multiplied by a bank into accumulator row m (R243, R244). -/
def State.multiply (s : State) (task : Nat) (vt : Fin 16) (c : Cmd) (b : Fin 8) (m : Nat) (bytes : List Byte) : State :=
  let f := mF c
  s.updInst task vt fun x =>
    let k := x.mat.bank b
    let acts := activations (mxAf f.af.toNat) k.kl bytes
    let cols := (List.range k.n).map fun n =>
      let i := m * 64 + n
      (i, accumulate k f.af.toNat (f.acc = 1) acts (x.mat.acc.getD i 0) n)
    let x := { x with mat := { x.mat with acc := cols.foldl (fun a (y : Nat × Word × Ar) => Assoc.put a y.1 y.2.1) x.mat.acc } }
    x.setAr (cols.foldl (fun a (y : Nat × Word × Ar) => a.or y.2.2) {})

/-- The row step of a multiply (R243). -/
def State.mulRow (s : State) (task : Nat) (vt : Fin 16) (p : MComp) : State :=
  let c := p.cmd
  let f := mF c
  let x := s.inst task vt
  let n := x.mat.pieces c
  let slot := mSrc c
  let hit (s : State) (b : Fin 8) (bytes : List Byte) (first : Option Side) : State :=
    let k := x.mat.bank b
    match hitFault c k n with
    | some code => s.engFault task vt .matrix code c
    | none =>
      s.engDebit task vt .matrix c k.rowDrops fun s =>
        let s := match first with
          | some y => State.lowerReaders (s.updInst task vt fun x => x.slotTake .matrix slot n) task vt y n
          | none => s
        ((s.multiply task vt c b p.row bytes).countAt task vt 0x0E 1).rowDone task vt p false
  let idle (s : State) (src : Nat) (skipped : Bool) : State :=
    s.engDebit task vt .matrix c 4 fun s =>
      ((s.updInst task vt fun x => x.slotTake .matrix slot n).countAt task vt src 1).rowDone task vt p skipped
  if slot = 6 then hit s (mBank c) ((List.range n).flatMap fun j => s.padPiece task vt c p.row j) none
  else
    match x.slotToks .matrix slot with
    | [] => s
    | t :: _ =>
      if Side.ctl t.side then s.rowCtl task vt p slot t
      else
        match rowOf n (x.slotToks .matrix slot) with
        | .wait => s
        | .bad => s.engFault task vt .matrix 0x32 c
        | .row l =>
          let bytes := l.flatMap fun t => lineBytes t.val
          if f.tag = 0 then hit s (mBank c) bytes (some t.side)
          else
            match x.mat.fate (f.msk = 1) t.side with
            | .null => idle s 0x0F false
            | .fault code => State.engFault (if code = 0x30 then s.countAt task vt 0x10 1 else s) task vt .matrix code c
            | .hit b => hit s b bytes (some t.side)
            | .wait => s
            | .skip => idle s 0x10 true

/-! ### Gradients (R247, R248) -/

/-- G of a bank after one pair of rows. -/
def gradRow (k : Bank) (x dy : List Nat) : Bank × Ar :=
  let cells := (List.range k.kl).flatMap fun i => (List.range k.n).map fun n =>
    let j := i * 64 + n
    (j, fop32 ((fvOf .bf16 (x.getD i 0)).mul (fvOf .bf16 (dy.getD n 0)) |>.add false (fv32 (k.grad.getD j 0)))
      [fvOf .bf16 (x.getD i 0), fvOf .bf16 (dy.getD n 0), fv32 (k.grad.getD j 0)])
  ({ k with grad := cells.foldl (fun a y => Assoc.put a y.1 y.2.1) k.grad }, cells.foldl (fun a y => a.or y.2.2) {})

/-- The row step of MXGRAD (R247). -/
def State.gradStep (s : State) (task : Nat) (vt : Fin 16) (p : MComp) : State :=
  let c := p.cmd
  let f := mF c
  let x := s.inst task vt
  let ka := mSrc c
  let kb := ka + 1
  match x.slotToks .matrix ka, x.slotToks .matrix kb with
  | t :: _, u :: _ =>
    if Side.ctl t.side then s.rowCtl task vt p ka t
    else if Side.ctl u.side then s.rowCtl task vt p kb u
    else
      match rowOf 2 (x.slotToks .matrix kb) with
      | .wait => s
      | .bad => s.engFault task vt .matrix 0x32 c
      | .row dy =>
        let take (s : State) : State := s.updInst task vt fun x => (x.slotTake .matrix ka 1).slotTake .matrix kb 2
        let hit (s : State) (b : Fin 8) : State :=
          let k := x.mat.bank b
          if k.sp != 0 || k.wfmt != 0 then s.engFault task vt .matrix 0x33 c
          else
            s.engDebit task vt .matrix c k.rowDrops fun s =>
              let s := (take s).lowerReaders task vt t.side 1
              let s := s.updInst task vt fun x =>
                let (k', ar) := gradRow (x.mat.bank b) (lanesW 16 t.val) (dy.flatMap fun d => lanesW 16 d.val)
                Inst.setAr { x with mat := x.mat.setBank b k' } ar
              (s.countAt task vt 0x0E 1).rowDone task vt p false
        let idle (s : State) (src : Nat) (skipped : Bool) : State :=
          s.engDebit task vt .matrix c 4 fun s => ((take s).countAt task vt src 1).rowDone task vt p skipped
        if f.tag = 0 then hit s (mBank c)
        else
          match x.mat.fate (f.msk = 1) t.side with
          | .null => idle s 0x0F false
          | .fault code => State.engFault (if code = 0x30 then s.countAt task vt 0x10 1 else s) task vt .matrix code c
          | .hit b => hit s b
          | .wait => s
          | .skip => idle s 0x10 true
  | t :: _, [] => if Side.ctl t.side then s.rowCtl task vt p ka t else s
  | [], _ => s

/-- A token of row r converted to a slot's format: lanes from `from` on (R78). -/
def rowToken (src dst : Fmt) (cells : Nat → Word) (part : Nat) : Line × Ar :=
  let ls := (List.range dst.lanes).map fun i => convert src dst .rne 0 (cells (part * dst.lanes + i)).toNat
  (packLine dst.bits (ls.map (·.1)), ls.foldl (fun a y => a.or y.2) {})

/-- One token of MXGDRN (R248); its status token gives ROWS 32. DESIGN CHOICE, log entry 113. -/
def State.gradDrain (s : State) (task : Nat) (vt : Fin 16) (p : MComp) : State :=
  let c := p.cmd
  let x := s.inst task vt
  let slot := c.b.toNat % 8
  let dst := fmtOf ((x.slot .matrix slot).elim 0 fun b => (x.desc b).fmt)
  let b := mBank c
  if x.slotRoom .matrix slot 1 then
    s.engDebit task vt .matrix c 8 fun s =>
      let (line, ar) := rowToken .fp32 dst (fun i => (x.mat.bank b).grad.getD (p.row * 64 + i) 0) p.tok
      let lastOfRow := p.tok + 1 = dst.bytes
      let lastOfAll := lastOfRow ∧ p.row = 31
      let side : Side := (if lastOfRow then 0x1000 else 0) ||| (if lastOfAll then 0x2000 else 0)
      let s := (s.updInst task vt fun x => x.setAr ar).engPut task vt .matrix slot ⟨side, line, c.deps⟩
      if lastOfAll then
        let s := if (mF c).acc = 0 then s.updBank task vt b fun k => { k with grad := [] } else s
        s.compFinish task vt { p with row := 32 }
      else if lastOfRow then s.updMat task vt fun m => { m with comp := some { p with row := p.row + 1, tok := 0 } }
      else s.updMat task vt fun m => { m with comp := some { p with tok := p.tok + 1 } }
  else s

/-! ### Drains (R249, R250) -/

/-- A row of the accumulators set to 0. -/
def Mat.clearRow (m : Mat) (r : Nat) : Mat := { m with acc := m.acc.filter fun x => x.1 / 64 != r }

/-- One token of MXDRN, or one discarded row (R249). -/
def State.drainStep (s : State) (task : Nat) (vt : Fin 16) (p : MComp) : State :=
  let c := p.cmd
  let x := s.inst task vt
  let r := c.a.toNat + p.row
  let keep := (mF c).acc = 1
  let rowEnd (s : State) (p : MComp) : State :=
    (if keep then s else s.updMat task vt fun m => m.clearRow r).rowDone task vt p false
  let put (s : State) (k : Nat) (steered : Bool) : State :=
    if !x.slotIs .matrix k true (· ≤ 7) then s.engFault task vt .matrix 0x32 c
    else
      let room := match p.kept with
        | some (j, _) => x.slotRoom .matrix j 1
        | none => true
      if !room then s
      else
        s.engDebit task vt .matrix c 8 fun s =>
          let dst := fmtOf ((x.slot .matrix k).elim 0 fun b => (x.desc b).fmt)
          let src : Fmt := if (mF c).wf = 2 then .int32 else .fp32
          let (line, ar) := rowToken src dst (fun i => x.mat.acc.getD (r * 64 + i) 0) p.tok
          let last := p.tok + 1 = dst.bytes
          let s := s.updInst task vt fun y => Inst.setAr (if steered then y.slotTake .matrix (mSrc c) 1 else y) ar
          let s := match p.kept with
            | some (j, t) => s.engPut task vt .matrix j t
            | none => s
          let p : MComp := { p with kept := some (k, ⟨if last then 0x1000 else 0, line, c.deps⟩) }
          if last then rowEnd s p
          else s.updMat task vt fun m => { m with comp := some { p with tok := p.tok + 1, steer := some k } }
  match p.steer with
  | some k => put s k false
  | none =>
    if mSrc c = 6 then put s (c.b.toNat % 8) false
    else
      match x.slotToks .matrix (mSrc c) with
      | [] => s
      | t :: _ =>
        if Side.ctl t.side then s.rowCtl task vt p (mSrc c) t
        else
          let v := t.val.toNat % 2 ^ 32
          if 16 ≤ v then s.engFault task vt .matrix 0x32 c
          else if 8 ≤ v then rowEnd (s.updInst task vt fun y => y.slotTake .matrix (mSrc c) 1) p
          else put s v true

/-- MXZERO (R250). -/
def State.zeroRows (s : State) (task : Nat) (vt : Fin 16) (p : MComp) : State :=
  let c := p.cmd
  s.engDebit task vt .matrix c 4 fun s =>
    let s := s.updMat task vt fun m =>
      let m := (List.range (mRows c)).foldl (fun m i => m.clearRow (c.a.toNat + i)) m
      if (mF c).acc = 1 then { m with banks := m.banks.map fun k => { k with grad := [] } } else m
    s.compFinish task vt { p with row := mRows c }

/-- One advance of the compute lane. -/
def State.matComp (s : State) (task : Nat) (vt : Fin 16) (p : MComp) : State :=
  if p.finished then s.compEnd task vt
  else if !p.begun then s.compCheck task vt p
  else
    match mOp p.cmd with
    | 0x20 => s.gradStep task vt p
    | 0x21 => s.gradDrain task vt p
    | 0x30 => s.drainStep task vt p
    | 0x31 => s.zeroRows task vt p
    | _ => s.mulRow task vt p

/-- The turn of a matrix command: the lane that runs it advances; a waiting one begins (R235), or takes its debit alone in the place that
the plan gives to that (lane 3). -/
def State.matTurn (s : State) (w : Word) : State :=
  match s.engine .matrix with
  | none => s
  | some y =>
    let m := y.x.mat
    if s.cur.slot = 3 then
      (match m.wait with
       | some c => if c.word = w then s.prepay y.task y.vt c else s
       | none => s)
    else
    match m.comp, m.load, m.wait with
    | some p, _, _ =>
      if p.cmd.word = w then s.matComp y.task y.vt p
      else
        match m.load, m.wait with
        | some l, k =>
          if l.cmd.word = w then s.matLoad y.task y.vt l
          else if (k.any fun c => c.word == w) then s.matBegin y.task y.vt else s
        | none, some k => if k.word = w then s.matBegin y.task y.vt else s
        | none, none => s
    | none, some l, k =>
      if l.cmd.word = w then s.matLoad y.task y.vt l
      else if (k.any fun c => c.word == w) then s.matBegin y.task y.vt else s
    | none, none, some k => if k.word = w then s.matBegin y.task y.vt else s
    | none, none, none => s

/-- MXLD (R239). -/
def execMxld (x : MxLd) (s : State) : Out := .next (s.matTurn ((encMxLd x).word 0x01))
/-- MXLDT (R240). -/
def execMxldt (x : MxLd) (s : State) : Out := .next (s.matTurn ((encMxLd x).word 0x02))
/-- MXEVICT (R242). -/
def execMxevict (x : MxBank) (s : State) : Out := .next (s.matTurn ((encMxBank x).word 0x03))
/-- MXRES (R241). -/
def execMxres (x : MxBank) (s : State) : Out := .next (s.matTurn ((encMxBank x).word 0x04))
/-- MXMUL (R243). -/
def execMxmul (x : MxMul) (s : State) : Out := .next (s.matTurn ((encMxMul x).word 0x10))
/-- MXMULT (R243). -/
def execMxmult (x : MxMult) (s : State) : Out := .next (s.matTurn ((encMxMult x).word 0x11))
/-- MXMULS (R243, R244). -/
def execMxmuls (x : MxMuls) (s : State) : Out := .next (s.matTurn ((encMxMuls x).word 0x12))
/-- MXGRAD (R247). -/
def execMxgrad (x : MxGrad) (s : State) : Out := .next (s.matTurn ((encMxGrad x).word 0x20))
/-- MXGDRN (R248). -/
def execMxgdrn (x : MxGdrn) (s : State) : Out := .next (s.matTurn ((encMxGdrn x).word 0x21))
/-- MXDRN (R249). -/
def execMxdrn (x : MxDrn) (s : State) : Out := .next (s.matTurn ((encMxDrn x).word 0x30))
/-- MXZERO (R250). -/
def execMxzero (x : MxZero) (s : State) : Out := .next (s.matTurn ((encMxZero x).word 0x31))

/-- MATRIX_ROW_STEP (R243): the compute lane advances. -/
def execMatrixRowStep (l : At) (s : State) : Out :=
  let s := { s with cur := { task := l.task, vt := l.vt, node := .matrix, slot := 0 } }
  .next <|
    match s.engine .matrix with
    | none => s
    | some y =>
      let s := s.matIdle y.task y.vt
      match (s.inst y.task y.vt).mat.comp with
      | some p => s.matComp y.task y.vt p
      | none => s.matBegin y.task y.vt

/-- MATRIX_LOAD_TOKEN (R239): the load lane advances. -/
def execMatrixLoadToken (l : At) (s : State) : Out :=
  let s := { s with cur := { task := l.task, vt := l.vt, node := .matrix, slot := 0 } }
  .next <|
    match s.engine .matrix with
    | none => s
    | some y =>
      let s := s.drainStatus y.task y.vt y.x.mat.status
      match (s.inst y.task y.vt).mat.load with
      | some p => s.matLoad y.task y.vt p
      | none => s.matBegin y.task y.vt

end Sys2Proof.Machine
end

