-- ==== Sys2Proof/Machine/Atomic.lean ====
section
/-! DEFINITION. The element atomics (spec/06_memory.md R185-R187). -/

namespace Sys2Proof.Machine

/-- How an atomic takes effect (R187). -/
def howAtomic (returns : Bool) (fresh : Bool) : How := if fresh then .direct else if returns then .closes else .staged

/-- The shared mould of the atomics (R185-R187). -/
def State.fireAtomic (s : State) (x : EmSt) (opc : Nat) (op : AtOp) (order : Order) : State :=
  s.fireTensor { trig := x.trig, dst := x.dst, sa := x.sa, sb := some x.sb, scope := x.scope, order := order, opc := opc,
                 kind := 2, writes := true, atomic := true, cost := fun _ => 16
                 req := fun _ b l _ => .atom l op b.val
                 how := fun _ _ fresh => howAtomic (destOf x.dst != .none) fresh }

/-- AADD (R185). -/
def execAadd (x : EmSt) (s : State) : Out := .next (s.fireAtomic x 0x58 .add x.order)

/-- AMAX (R185). -/
def execAmax (x : EmSt) (s : State) : Out := .next (s.fireAtomic x 0x59 .max x.order)

/-- AFMAX (R185). -/
def execAfmax (x : EmSt) (s : State) : Out := .next (s.fireAtomic x 0x5A .fmax x.order)

/-- AMIN (R185). -/
def execAmin (x : EmSt) (s : State) : Out := .next (s.fireAtomic x 0x5B .min x.order)

/-- AXCHG (R185). -/
def execAxchg (x : EmSt) (s : State) : Out := .next (s.fireAtomic x 0x5C .xchg x.order)

/-- ACAS (R87, R185): the DST register is the compare value and takes the old value. -/
def execAcas (x : EmCas) (s : State) : Out :=
  let old : Word × List Nat := match s.here with
    | some h => (vget h.el.d x.d, vget h.el.dDeps x.d)
    | none => (0, [])
  .next (s.fireTensor { trig := x.trig, dst := .d x.d, sa := x.sa, sb := some x.sb, scope := x.scope, order := x.order,
                        opc := 0x5D, kind := 2, writes := true, atomic := true, cost := fun _ => 16, also := old.2
                        req := fun _ b l _ => .atom l (.cas old.1) b.val
                        how := fun _ _ fresh => howAtomic true fresh })

/-- AOR (R185). -/
def execAor (x : EmSt) (s : State) : Out := .next (s.fireAtomic x 0x5E .or x.order)

/-- ARDRS (R185): always ordered acqrel at its scope. -/
def execArdrs (x : EmSt) (s : State) : Out := .next (s.fireAtomic x 0x5F .reset .acqrel)

/-- The new word of an atomic (R185). -/
def AtOp.apply (op : AtOp) (old b : Word) : Word :=
  match op with
  | .add => old + b
  | .max => if old.slt b then b else old
  | .fmax => (fmax32 old b).1
  | .min => if old.slt b then old else b
  | .xchg => b
  | .cas c => if old = c then b else old
  | .or => old ||| b
  | .reset => b

end Sys2Proof.Machine
end

