-- ==== Sys2Proof/Machine/Memory.lean ====
section
/-! DEFINITION. What memory nodes and region atomic engines do with the requests they take: reads, writes, DISC,
full-empty requests, atomics, staged lines that a cut released (spec/01_machine.md R19; spec/06_memory.md R169-R191;
spec/19_links.md R490). -/

namespace Sys2Proof.Machine

/-! ### Full-empty words (R176-R178) -/

/-- The word of a byte is full. -/
def State.wordFull (s : State) (obj byte : Nat) : Bool :=
  match s.objs.get? obj with
  | some o => (o.page byte).full.contains (byte % 65536 / 4)
  | none => false

/-- A page entry changed. -/
def State.updPage (s : State) (obj page : Nat) (f : Page → Page) : State :=
  { s with objs := s.objs.modify obj fun o => { o with pages := o.pages.modify page f } }

/-- The word of a byte becomes empty. -/
def State.emptyWord (s : State) (obj byte : Nat) : State :=
  s.updPage obj (byte / 65536) fun p => { p with full := p.full.filter fun w => w != byte % 65536 / 4 }

/-- The 32-bit word at a byte, as its memory node holds it. -/
def State.wordAt (s : State) (obj byte : Nat) : Word :=
  match s.objs.get? obj with
  | some o => BitVec.ofNat 32 (leNat ((List.range 4).map fun i => s.objByte o (byte + i)))
  | none => 0

/-- Deferred full-empty requests of a word, in the order they were deferred. -/
def State.feWaiting (s : State) (obj byte : Nat) : List (Nat × FeOp) :=
  (s.regions.toList.flatMap (·.deferred)).filterMap fun i =>
    match s.accs.get? i with
    | some { req := .fe l op, .. } => if l.obj = obj ∧ l.byte / 4 = byte / 4 then some (i, op) else none
    | _ => none

/-- A deferred request leaves every engine's list. -/
def State.undeferAll (s : State) (id : Nat) : State :=
  { s with regions := s.regions.map fun r => { r with deferred := r.deferred.filter (· != id) } }

/-- The clocks of other dies' atomics whose values some words of an object hold (R444, R449). -/
def State.wordClocks (s : State) (obj byte n : Nat) : List (List (BitVec 16)) :=
  match s.objs.get? obj with
  | some o => (o.page byte).clocks.filterMap fun x =>
      if byte % 65536 / 4 ≤ x.1 ∧ x.1 ≤ (byte % 65536 + n - 1) / 4 then some x.2 else none
  | none => []

/-- An acquire at SPAN scope merges the clocks of the writes that it returns; one of another die has them in the clock of its reply (R444,
R449, R490). DEDUCED, log entry 76. -/
def State.acquireSpan (s : State) (a : Acc) (obj byte n : Nat) : State :=
  if a.foreign || (a.scope == .span && (a.order == .acq || a.order == .acqrel)) then (s.wordClocks obj byte n).foldl State.mergeClock s else s

/-- Deferred requests of a filled word are answered, until one empties it (R178). -/
def State.feWake (s : State) (obj byte : Nat) : State :=
  (s.feWaiting obj byte).foldl (fun s x =>
    if s.wordFull obj byte then
      let v := s.wordAt obj byte
      let s := (s.accs.get? x.1).elim s fun a => s.acquireSpan a obj byte 4
      let s := (s.undeferAll x.1).answer x.1 v .span
      match x.2 with
      | .ldfec => s.emptyWord obj byte
      | _ => s
    else s) s

/-- The word that an atomic or a full-empty request of another die has written bears the clock of its flit (R449). DEDUCED, log entry
76. -/
def State.stampWord (s : State) (clock : List (BitVec 16)) (obj byte : Nat) : State :=
  if clock.isEmpty then s
  else s.updPage obj (byte / 65536) fun p => { p with clocks := p.clocks.put (byte % 65536 / 4) clock }

/-- Bytes written to an object for a die, page by page, each word bearing the clock given; words that they fill answer what waits for them.
-/
def State.storeCells (s : State) (die obj : Nat) (l : List (Nat × Byte)) (clock : List (BitVec 16) := []) : State :=
  let words := (l.map fun x => x.1 / 4 * 4).eraseDups
  let s := ((l.map fun x => x.1 / 65536).eraseDups).foldl (fun s p => s.writeCells die obj (l.filter fun x => x.1 / 65536 == p)) s
  let s := words.foldl (fun s w => s.stampWord clock obj w) s
  match s.objs.get? obj with
  | some o => if descFe o.desc then words.foldl (fun s w => s.feWake obj w) s else s
  | none => s

def State.storeObj (s : State) (die obj byte : Nat) (bs : List Byte) (clock : List (BitVec 16) := []) : State :=
  s.storeCells die obj (cellsFrom byte bs) clock

/-! ### Where an object's byte is (R188, R336) -/

/-- The physical 64-byte line of a byte, and the region whose engine serves it. -/
def State.lineOf (s : State) (obj byte : Nat) : Nat × Nat :=
  match s.objs.get? obj with
  | some o => let p := o.page byte; (((o.addr byte).getD 0) / 64, homeRegion p.loc p.frame)
  | none => (0, 0)

/-- The line of a byte is hot (R188). -/
def State.isHot (s : State) (obj byte : Nat) : Bool :=
  let (l, r) := s.lineOf obj byte
  (s.region r).hot.contains l

/-! ### Released entries (R187, R297, R445) -/

/-- The entry writes memory: stores, an atomic, a DISC. The others, semaphore operations and what the hub applies, come after them. -/
def State.isMemEntry (s : State) (e : Staged) : Bool :=
  match e.what with
  | .line .. => true
  | .req id =>
    match s.accs.get? id with
    | some { req := .sem .., .. } => false
    | _ => true
  | _ => false

/-- Cut b is later than cut a (R295: numbers wrap); what commit releases comes last. -/
def laterCut (a b : Option Nat) : Bool :=
  match a, b with
  | some a, some b => a != b && decide ((b + 4294967296 - a) % 4294967296 < 2147483648)
  | some _, none => true
  | none, _ => false

/-- The entries of a group that a cut has released and that have not performed. -/
def State.unsent (s : State) (task : Nat) : List Staged :=
  (s.group task).vts.flatMap fun vt => (s.inst task vt).staged.filter fun e => e.released && !e.sent

/-- The requests of a group that close a completed cut and have not performed (R187, R445); one that waits at its engine as the group
stops will be withdrawn (R179) and holds nothing back. DEDUCED, log entry 50. -/
def State.closers (s : State) (task : Nat) : List Acc :=
  (s.accs.filter fun x => x.2.task == some task && x.2.closes && !x.2.staged && x.2.reply.isNone && x.2.perf == .none
    && !(x.2.deferred && (s.group task).stop.isSome)).map (·.2)

/-- No effect of the group that an earlier cut released is still to perform (R445). -/
def State.cutTurn (s : State) (task : Nat) (cut : Option Nat) : Bool :=
  (s.unsent task).all (fun e => !laterCut e.cut cut) && (s.closers task).all fun a => !laterCut a.cut cut

/-- The words, by object and from one to before another, on which a request of the commit buffer acts: an atomic's word, the pages
of a DISC. -/
def Req.words (r : Req) : Option (Nat × Nat × Nat) :=
  match r with
  | .atom l _ _ => some (l.obj, l.byte / 4, l.byte / 4 + 1)
  | .disc l n => some (l.obj, l.byte / 65536 * 16384, (l.byte / 65536 + n) * 16384)
  | _ => none

/-- By this entry an effect staged before number no has still to perform on one of the words from lo to before hi (R445). -/
def State.touches (s : State) (e : Staged) (obj lo hi no : Nat) : Bool :=
  match e.what with
  | .line o l _ => o == obj && e.held.any fun h =>
      decide (lo ≤ l * 16 + h.off / 4) && decide (l * 16 + h.off / 4 < hi) && decide (h.no < no)
  | .req id =>
    decide (e.no < no) && (match (s.accs.get? id).bind fun a => a.req.words with
      | some (o, a, b) => o == obj && decide (a < hi) && decide (lo < b)
      | none => false)
  | _ => false

/-- Every effect of the other entries of an entry's cut staged before number no has performed on the words (R445). -/
def State.wordTurn (s : State) (task : Nat) (e : Staged) (obj lo hi no : Nat) : Bool :=
  (s.unsent task).all fun x => x.no == e.no || x.cut != e.cut || !s.touches x obj lo hi no

/-- What the releases among some requests wait for has performed (R171). -/
def State.released (s : State) (ids : List Nat) : Bool :=
  ids.all fun i =>
    match s.accs.get? i with
    | some a => !((a.order == .rel || a.order == .acqrel) && s.unperformed a.deps (Scope.level a.scope))
    | none => true

/-- The bytes of a released line that may be written now: each with the stores of the line to its word that were staged before it, and
after the effects on the word that other entries hold from before it. -/
def State.lineReady (s : State) (task : Nat) (e : Staged) : List Held :=
  match e.what with
  | .line obj line bs =>
    bs.filter fun h =>
      let w := line * 16 + h.off / 4
      let nos := (bs.filter fun k => k.off / 4 == h.off / 4 && decide (k.no ≤ h.no)).map (·.no)
      s.released ((e.accs.filter fun x => nos.contains x.2).map (·.1)) && s.wordTurn task e obj w (w + 1) h.no
  | _ => []

/-- Bytes of a line as cells, the last store of a byte prevailing. -/
def heldCells (line : Nat) (l : List Held) : List (Nat × Byte) :=
  (l.foldl (fun (m : Assoc Byte) h => m.put h.off h.byte) []).map fun x => (line * 64 + x.1, x.2)

/-- A released entry may be served now, or part of it: its cut's turn has come, and the effects on its words staged before it have
performed; one that writes no memory follows every write of its cut (R297, R424, R445). -/
def State.mayPerform (s : State) (task : Nat) (e : Staged) : Bool :=
  e.released && !e.sent && s.cutTurn task e.cut &&
    (if s.isMemEntry e then
      (match e.what with
       | .line .. => e.going.isEmpty && !(s.lineReady task e).isEmpty
       | .req id =>
         s.released [id] && (match (s.accs.get? id).bind fun a => a.req.words with
           | some (o, lo, hi) => s.wordTurn task e o lo hi e.no
           | none => true)
       | _ => false)
    else (s.unsent task).all fun x => x.cut != e.cut || !s.isMemEntry x)

/-- A staged entry has performed (R170). -/
def State.entrySent (s : State) (task : Nat) (vt : Fin 16) (no : Nat) : State :=
  let accs := ((s.inst task vt).staged.find? fun e => e.no == no).elim [] (·.accs)
  State.performAll (s.updInst task vt fun x => { x with staged := x.staged.map fun e =>
    if e.no = no then { e with sent := true, accs := [] } else e }) (accs.map (·.1)) .span

/-- Bytes of a line have performed: with them the stores and reads none of whose bytes is left (R170). -/
def State.lineSent (s : State) (task : Nat) (vt : Fin 16) (no : Nat) (done : List Held) : State :=
  match (s.inst task vt).staged.find? fun e => e.no == no with
  | some { what := .line o l bs, accs := accs, going := going, .. } =>
    let bs := bs.filter fun h => !done.contains h
    let going := going.filter fun h => !done.contains h
    let left (x : Nat × Nat) : Bool := (going ++ bs).any fun h => decide (h.no ≤ x.2)
    State.performAll (s.updInst task vt fun x => { x with staged := x.staged.map fun e =>
      if e.no = no then
        { e with what := .line o l bs, going := going, accs := accs.filter left, sent := going.isEmpty && bs.isEmpty }
      else e }) ((accs.filter fun x => !left x).map (·.1)) .span
  | _ => s

/-! ### Serving one request -/

/-- The request may be sent on: its acquirers and releases are in order (R171), it is not withdrawn, not staged, and a request that
closes a cut follows the cut's entries (R187). DEDUCED, log entry 13. -/
def State.accReady (s : State) (a : Acc) : Bool :=
  !a.held && !a.deferred && a.reply.isNone && !a.staged && !a.remote
    && !((a.order == .rel || a.order == .acqrel) && s.unperformed a.deps (Scope.level a.scope))
    && (!a.closes || (match a.task with
        | some t => s.cutTurn t a.cut && (s.unsent t).all fun e => e.cut != a.cut
        | none => true))

/-- A plain read served (R169, R170): the commit buffer of its group supplies staged bytes, and then the read performs wider as the
stores that supplied it do. DEDUCED, log entry 23. DESIGN CHOICE, log entry 100. -/
def State.serveRead (s : State) (id : Nat) (a : Acc) (l : Loc) (f : Fmt) : State :=
  match s.objs.get? l.obj with
  | none => s
  | some o =>
    let (v, own) := s.readObj a.task l.obj o l.byte f.bytes
    let last := s.stageNo - 1
    let s := (s.acquireSpan a l.obj l.byte f.bytes).answer id (extend f v) (if own then .group else .span)
    match own, a.task with
    | true, some t =>
      let supplies (e : Staged) : Bool := (List.range f.bytes).any fun i => (e.byte? l.obj (l.byte + i)).isSome
      let add (e : Staged) : Staged := if supplies e then { e with accs := e.accs ++ [(id, last)] } else e
      (s.group t).vts.foldl (fun s vt => s.updInst t vt fun x => { x with staged := x.staged.map add }) s
    | _, _ => s

/-- Pages of an object marked dead in this die's entries (R182, R340): presence bits empty, hot lines dropped. -/
def State.markDead (s : State) (obj p0 count : Nat) : State :=
  match s.objs.get? obj with
  | none => s
  | some o =>
    let mine (k : Nat) : Bool := p0 ≤ k && k < p0 + count
    let frames := o.pages.filterMap fun x => if mine x.1 then (frameAddr x.2.loc x.2.frame).map (· / 65536) else none
    { s with
      objs := s.objs.modify obj fun o =>
        { o with pages := o.pages.mapAll fun k p => if mine k then { p with dead := true, full := [], clocks := [] } else p }
      regions := s.regions.map fun r => { r with hot := r.hot.filter fun h => !frames.contains (h / 1024) } }


/-- The byte of an object that a request reaches. -/
def Req.target (r : Req) : Option (Nat × Nat) :=
  match r with
  | .rd l _ | .wr l _ _ | .atom l _ _ | .fe l _ | .disc l _ | .fut l _ | .put l _ => some (l.obj, l.byte)
  | .rds (l :: _) _ => some (l.obj, l.byte)
  | _ => none

/-- An event of a request at a unit of a physical region: its context is that of its group, or of the object that it reaches (R504). -/
def State.countAcc (s : State) (r : Nat) (a : Acc) (src : Nat) : State :=
  let ctx := match a.task with
    | some t => (s.group? t).map (·.ctx)
    | none => (a.req.target.bind fun x => s.objs.get? x.1).map (·.ctx)
  s.count r ctx a.task src 1

def State.countReq (s : State) (r id src : Nat) : State :=
  match s.accs.get? id with
  | some a => s.countAcc r a src
  | none => s

/-- A full-empty request served (R177, R179): the request of a word that is not ready is deferred, or returned to its tile when the
engine holds 256. DEDUCED, log entry 23. -/
def State.serveFe (s : State) (r id : Nat) (a : Acc) (die : Nat) (l : Loc) (op : FeOp) : State :=
  let full := s.wordFull l.obj l.byte
  match op with
  | .stfe v =>
    if full then
      let s := { s with accs := s.accs.del id }
      match a.task with
      | some t => s.raise t (.fault 0x25 a.vt a.node a.opc a.rule)
      | none => if a.foreign then (s.dropForeign id).sendTo a.rule (.refused a.tokVal.toNat 0x25) else s
    else (s.storeObj die l.obj l.byte (leBytes 4 v.toNat) a.clock).answer id 0 .span
  | _ =>
    if full then
      let s := (s.acquireSpan a l.obj l.byte 4).answer id (s.wordAt l.obj l.byte) .span
      match op with
      | .ldfec => s.emptyWord l.obj l.byte
      | _ => s
    else if (s.region r).deferred.length < 256 then
      ((s.setAcc id { a with queued := false, deferred := true }).updRegion r fun x => { x with deferred := x.deferred ++ [id] }).countAcc r
        a 0x1C
    else s.setAcc id { a with queued := false }

/-- An atomic served: one serialised read, computation and write (R185). -/
def State.serveAtom (s : State) (id : Nat) (a : Acc) (die : Nat) (l : Loc) (op : AtOp) (b : Word) : State :=
  let old := s.wordAt l.obj l.byte
  let s := s.acquireSpan a l.obj l.byte 4
  (s.storeObj die l.obj l.byte (leBytes 4 (op.apply old b).toNat) a.clock).answer id old .span

/-- The die that a request comes from, whichever die has sent it on (R343). -/
def State.dieOf (s : State) (a : Acc) : Nat := if a.foreign then a.opc else s.die.toNat

/-- A request that only its home die can serve leaves over the link (R490). -/
def State.sendRemote (s : State) (id : Nat) (a : Acc) (m : Msg) (obj byte : Nat) : State :=
  (s.setAcc id { a with remote := true, sentTo := s.pageDie obj byte, queued := false }).sendTo (s.pageDie obj byte) m

/-- A line that a cut released is written, as far as its bytes may be, or sent to its home die as one flit (R490, R491). -/
def State.serveLine (s : State) (task : Nat) (vt : Fin 16) (e : Staged) (id : Nat) (obj line : Nat) : State :=
  let ready := s.lineReady task e
  let cells := heldCells line ready
  if s.isRemote obj (line * 64) then
    match s.accs.get? id with
    | some a =>
      let s := s.updInst task vt fun x => { x with staged := x.staged.map fun y =>
        if y.no = e.no then
          (match y.what with
           | .line o l bs => { y with what := .line o l (bs.filter fun h => !ready.contains h), going := ready }
           | _ => y)
        else y }
      s.sendRemote id a (.write id s.die.toNat obj cells) obj (line * 64)
    | none => s
  else (s.storeCells s.die.toNat obj cells).lineSent task vt e.no ready

/-- A released entry that has performed, with the request that served it. -/
def State.afterStaged (s : State) (a : Acc) (id : Nat) : State :=
  match a.task with
  | some t =>
    match (s.inst t a.vt).staged.find? fun e => (e.accs.any fun x => x.1 == id) && !e.sent && e.released with
    | some { no := n, what := .line .., going := g, .. } => (s.updAcc id fun a => { a with remote := false }).lineSent t a.vt n g
    | some e => s.entrySent t a.vt e.no
    | none => s
  | none => s

/-- A DISC has performed on every die. -/
def State.discDone (s : State) (id : Nat) (a : Acc) : State := if a.staged then s.afterStaged a id else s.answer id 0 .span

/-- A DISC served (R182). The other dies are told, for their copies of the entries and the pages that they hold, and it has performed when
each has applied it (R491). DEDUCED, log entry 77. -/
def State.serveDisc (s : State) (id : Nat) (a : Acc) (l : Loc) (count : Nat) : State :=
  if a.remote then s
  else
    let p0 := l.byte / 65536
    let s := s.markDead l.obj p0 count
    match s.others with
    | [] => s.discDone id a
    | l' => (s.setAcc id { a with remote := true, acks := l' }).tellAll (.dead id l.obj p0 count)

/-- A die has applied a DISC. -/
def State.discApplied (s : State) (die id : Nat) (a : Acc) : State :=
  let a := { a with acks := a.acks.filter (· != die) }
  if a.acks.isEmpty then (s.setAcc id { a with remote := false }).discDone id { a with remote := false } else s.setAcc id a

/-- The released entry that a staged request belongs to, when it may be served (R187, R445). -/
def State.entryOf (s : State) (a : Acc) (id : Nat) : Option (Nat × Staged) :=
  match a.task with
  | some t => ((s.inst t a.vt).staged.find? fun e => (e.accs.any fun x => x.1 == id) && s.mayPerform t e).map fun e => (t, e)
  | none => none

/-- The elements that a read flit asks for (R277). -/
def State.readAll (s : State) (task : Option Nat) (l : List Loc) (n : Nat) : List Nat :=
  l.map fun p => (s.objs.get? p.obj).elim 0 fun o => (s.readObj task p.obj o p.byte n).1

/-- More elements of a read flit have been read: one number for another die, data of this die's, once it has all (R277). -/
def State.readsTaken (s : State) (id : Nat) (a : Acc) (l : List Loc) (n : Nat) (vs : List Nat) : State :=
  let data := a.data ++ vs
  if data.length < l.length then
    s.setAcc id { a with req := .rds (l.drop vs.length ++ l.take vs.length) n, data := data, queued := false, remote := false, asked := 0 }
  else if a.foreign then (s.dropForeign id).sendTo a.rule (.readRep a.tokVal.toNat (leNat (data.flatMap (leBytes n))))
  else (s.setAcc id { a with req := .rds (l.drop vs.length ++ l.take vs.length) n, data := data }).answer id 0 .span

/-- The elements of a read flit that have still to be read. -/
def Acc.unread (a : Acc) (l : List Loc) : List Loc := l.take (l.length - a.data.length)

/-- A read flit served, as far as its next elements stand in lines of this die that the test accepts (R188, R277). -/
def State.serveReads (s : State) (id : Nat) (a : Acc) (l : List Loc) (n : Nat) (test : Loc → Bool) : State :=
  let now := (a.unread l).takeWhile fun p => s.pageReady p.obj p.byte && !s.isRemote p.obj p.byte && test p
  let s := now.foldl (fun s p => s.acquireSpan a p.obj p.byte n) s
  if now.isEmpty then s else s.readsTaken id a l n (s.readAll a.task now n)

/-- A read flit whose next elements another die holds: that die is asked for them. -/
def State.sendReads (s : State) (id : Nat) (a : Acc) (l : List Loc) (n obj byte : Nat) : State :=
  let now := (a.unread l).takeWhile fun p => s.pageDie p.obj p.byte == s.pageDie obj byte
  s.sendRemote id { a with asked := now.length } (.reads id (now.map fun p => (p.obj, p.byte)) n) obj byte

/-- Cells of a write flit written; those left stay with the request (R277). -/
def State.servePut (s : State) (id : Nat) (a : Acc) (l : Loc) (cells : List (Nat × Byte)) (test : Nat → Bool) : State :=
  let now (x : Nat × Byte) : Bool := s.pageReady l.obj x.1 && !s.isRemote l.obj x.1 && test x.1
  let t := s.storeCells (s.dieOf a) l.obj (cells.filter now)
  match cells.filter fun x => !now x with
  | [] => t.answer id 0 .span
  | (b, v) :: r => t.setAcc id { a with req := .put { l with byte := b } ((b, v) :: r), queued := false }

/-- The cells of a write flit that the die of the first of them holds leave for it as one flit (R277, R490). -/
def State.sendPut (s : State) (id : Nat) (a : Acc) (l : Loc) (cells : List (Nat × Byte)) : State :=
  let there (x : Nat × Byte) : Bool := s.pageDie l.obj x.1 == s.pageDie l.obj l.byte
  s.sendRemote id { a with req := .put l (cells.filter fun x => !there x) } (.write id (s.dieOf a) l.obj (cells.filter there)) l.obj l.byte

/-- A write flit has been applied where it was sent: done, or the cells left are written next. -/
def State.putApplied (s : State) (id : Nat) (a : Acc) : State :=
  match a.req with
  | .put l ((b, v) :: r) => s.setAcc id { a with req := .put { l with byte := b } ((b, v) :: r), remote := false }
  | _ => s.answer id 0 .span

/-- The bytes that an engine's plain access reaches, by object. -/
def Req.bytes (r : Req) : List (Nat × Nat) :=
  match r with
  | .rd l f => (List.range f.bytes).map fun i => (l.obj, l.byte + i)
  | .wr l n _ => (List.range n).map fun i => (l.obj, l.byte + i)
  | .put l cells => cells.map fun x => (l.obj, x.1)
  | .rds ps n => ps.flatMap fun l => (List.range n).map fun i => (l.obj, l.byte + i)
  | _ => []

/-- One request was sent before another that it must not follow: both of the hub, to one place (R189, R511), or both of one copy engine, to
one byte (R268). -/
def sentBefore (x : Nat × Acc) (id : Nat) (a : Acc) : Bool :=
  let hub (x : Acc) : Bool := x.task.isNone && x.slot == 1032
  decide (x.1 < id) && ((hub x.2 && hub a && x.2.req.target == a.req.target)
    || (a.node == .copy && x.2.node == .copy && a.task.isSome && x.2.task == a.task && x.2.vt == a.vt && !a.staged && !x.2.staged
        && x.2.req.bytes.any fun b => a.req.bytes.contains b))

/-- The request has reached its unit. -/
def Acc.reached (a : Acc) : Bool := a.queued || a.remote || a.deferred || a.reply.isSome

/-- No request that was sent before and that it must not overtake has still to reach its unit. -/
def State.hubTurn (s : State) (id : Nat) (a : Acc) : Bool := s.accs.all fun x => !sentBefore x id a || x.2.reached

/-- A memory node serves a request that it has accepted (R19). -/
def State.serveVault (s : State) (id : Nat) : State :=
  match s.accs.get? id with
  | none => s
  | some a =>
    match a.req.target with
    | none => s
    | some (obj, byte) =>
      if a.queued || !s.pageReady obj byte || !s.hubTurn id a then s
      else if a.staged then
        match s.entryOf a id with
        | none => s
        | some (t, e) =>
          (match e.what with
           | .line o l _ => if s.isHot o (l * 64) && !s.isRemote o (l * 64) then s else s.serveLine t a.vt e id o l
           | .req _ =>
             (match a.req with
              | .disc l n => s.serveDisc id a l n
              | .fut _ op => if s.isRemote obj byte && !a.remote then s.sendRemote id a (.fut id (s.dieOf a) obj byte op) obj byte else s
              | .atom _ op b => if s.isRemote obj byte && !a.remote then s.sendRemote id a (.atom id (s.dieOf a) obj byte op b) obj byte else s
              | .fe _ op => if s.isRemote obj byte && !a.remote then s.sendRemote id a (.fe id (s.dieOf a) obj byte op) obj byte else s
              | _ => s)
           | _ => s)
      else if !s.accReady a then s
      else
        match a.req with
        | .rd l f =>
          -- staged words come from the commit buffer, whatever die holds the page (R169)
          if (a.task.bind fun t => s.stagedByte t obj byte).isSome then s.serveRead id a l f
          else if s.isRemote obj byte then s.sendRemote id a (.read id obj byte f.bytes) obj byte
          else if s.isHot obj byte then s
          else s.serveRead id a l f
        | .wr l n v =>
          if s.isRemote obj byte then s.sendRemote id a (.write id (s.dieOf a) obj (cellsFrom byte (leBytes n v))) obj byte
          else if s.isHot obj byte then s
          else (s.storeObj (s.dieOf a) l.obj byte (leBytes n v)).answer id 0 .span
        | .disc l n => s.serveDisc id a l n
        | .atom _ op b => if s.isRemote obj byte then s.sendRemote id a (.atom id (s.dieOf a) obj byte op b) obj byte else s
        | .fe _ op => if s.isRemote obj byte then s.sendRemote id a (.fe id (s.dieOf a) obj byte op) obj byte else s
        | .fut _ op => if s.isRemote obj byte then s.sendRemote id a (.fut id (s.dieOf a) obj byte op) obj byte else s
        | .put l cells =>
          if s.isRemote obj byte then s.sendPut id a l cells
          else if s.isHot obj byte then s
          else s.servePut id a l cells fun b => !s.isHot obj b
        | .rds l n =>
          if s.isRemote obj byte then s.sendReads id a l n obj byte
          else if s.isHot obj byte then s
          else s.serveReads id a l n fun p => !s.isHot p.obj p.byte
        | _ => s

/-! ### The region atomic engine (R188-R190) -/

/-- The slot with which a request arrives: the tile on which its copy stands now, the link that brought it, the hub's (R189). -/
def State.slotOf (s : State) (a : Acc) : Nat :=
  match a.task with
  | none => a.slot
  | some t =>
    if a.node = .seq then a.slot
    else
      match s.group? t, s.inst? t a.vt with
      | some g, some x => s.globalTile g x % 1024
      | _, _ => a.slot % 1024

/-- Place of a request in the order of one step's arrivals (R189); what the hub sends for a tile's commit buffer comes last of its
tile's. -/
def State.arrivalKey (s : State) (a : Acc) (last : Nat) : Nat :=
  let turn := (s.slotOf a + 1033 - (last + 1) % 1033) % 1033
  turn * 64 + (if a.staged || a.task.isNone then 32 else Node.port a.node)

/-- Insertion by key, later ones after equal ones. -/
def insertKey (x : Nat × Nat) : List (Nat × Nat) → List (Nat × Nat)
  | [] => [x]
  | y :: l => if x.1 < y.1 then x :: y :: l else y :: insertKey x l

/-- Arrivals of one step in the order of R189, those of one slot and port as they were sent, with the slot of the last. -/
def State.ordered (s : State) (last : Nat) (ids : List Nat) : List Nat × Nat :=
  let sent := (ids.foldl (fun l i => insertKey (i, i) l) []).map (·.2)
  let keyed := sent.foldl (fun l i =>
    match s.accs.get? i with
    | some a => insertKey (s.arrivalKey a last, i) l
    | none => l) []
  let out := keyed.map (·.2)
  (out, match out.getLast? with
    | some i => (s.accs.get? i).elim last s.slotOf
    | none => last)

/-- Arrivals without those of the hub before which the hub has sent another that could arrive too (R189), and those of a copy engine that
would overtake an earlier one (R268). -/
def State.hubInOrder (s : State) (arrives : Nat → Bool) (ids : List Nat) : List Nat :=
  let hub (a : Acc) : Bool := a.task.isNone && a.slot == 1032
  ids.filter fun i => (s.accs.get? i).any fun a =>
    (!hub a || s.accs.all fun x => !(decide (x.1 < i) && hub x.2 && arrives x.1) || ids.contains x.1)
    && s.accs.all fun x => !sentBefore x i a || x.2.reached || ids.contains x.1

/-- The request may join the queue of a region's atomic engine. -/
def State.joins (s : State) (r id : Nat) : Bool :=
  match s.accs.get? id with
  | none => false
  | some a =>
    match a.req.target with
    | none => false
    | some (obj, byte) =>
      let home := (s.lineOf obj byte).2 == r && s.pageReady obj byte && !s.isRemote obj byte && !a.queued
      let kind := match a.req with
        | .atom .. | .fe .. | .fut .. => true
        | .rd .. | .wr .. | .put .. | .rds .. => s.isHot obj byte
        | _ => false
      home && kind && (if a.staged then (s.entryOf a id).isSome && !a.held else s.accReady a)

/-- The line of a queued request. -/
def State.lineOfAcc (s : State) (id : Nat) : Option Nat :=
  match s.accs.get? id with
  | some a => a.req.target.map fun x => (s.lineOf x.1 x.2).1
  | none => none

/-- The engine serves one queued request (R190). -/
def State.serveQueued (s : State) (r id : Nat) : State :=
  match s.accs.get? id with
  | none => s
  | some a =>
    let die := s.dieOf a
    match a.req with
    | .rd l f => s.serveRead id a l f
    | .wr l n v =>
      if a.staged then
        match s.entryOf a id with
        | some (t, e) => (match e.what with
          | .line o k _ => State.serveLine (s.setAcc id { a with queued := false }) t a.vt e id o k
          | _ => s)
        | none => s
      else (s.storeObj die l.obj l.byte (leBytes n v)).answer id 0 .span
    | .atom l op b => let s := s.serveAtom id a die l op b; if a.staged then s.afterStaged a id else s
    | .fe l op => s.serveFe r id a die l op
    | .fut l op =>
      let (v, s) := s.serveFut a die l op
      let s := s.answer id v .span
      if a.staged then s.afterStaged a id else s
    | .put l cells => s.servePut id { a with queued := false } l cells fun b => s.lineOf l.obj b == s.lineOf l.obj l.byte
    | .rds l n => s.serveReads id a l n fun p => a.req.target.any fun x => s.lineOf p.obj p.byte == s.lineOf x.1 x.2
    | _ => s

/-- The oldest queued request whose line is hot is served; the line becomes the most recently served. -/
def State.serveAtomic (s : State) (r : Nat) : State :=
  let x := s.region r
  match x.aq.find? fun i => match s.lineOfAcc i with
      | some l => x.hot.contains l
      | none => true with
  | none => s
  | some id =>
    let line := s.lineOfAcc id
    let s := s.updRegion r fun x =>
      { x with aq := x.aq.filter (· != id)
               hot := match line with
                 | some l => x.hot.filter (· != l) ++ [l]
                 | none => x.hot }
    s.serveQueued r id

/-- The step's arrivals join the engine's queue, then one request is served (R189, R190); the engine of a fenced region accepts none (R25). -/
def State.atomicTurn (s : State) (r : Nat) (arrivals : List Nat) : State :=
  if s.fenced.getLsbD r then s
  else
  let ok := s.hubInOrder (s.joins r) (arrivals.eraseDups.filter fun i => s.joins r i)
  let (order, last) := s.ordered (s.region r).aLast ok
  let s := s.updRegion r fun x => { x with aq := x.aq ++ order, aLast := last }
  let s := order.foldl (fun s i => (s.updAcc i fun a => { a with queued := true }).countReq r i 0x1A) s
  s.serveAtomic r

/-- HOT_LINE_FETCH (R190): a line that a queued request needs; the least recently served line without one leaves. -/
def execHotLineFetch (r line : Nat) (s : State) : Out :=
  let x := s.region r
  let want (l : Nat) : Bool := x.aq.any fun i => s.lineOfAcc i == some l
  .next <|
    if want line && !x.hot.contains line then
      let first := (x.aq.find? fun i => s.lineOfAcc i == some line).getD 0
      if x.hot.length < 64 then (s.updRegion r fun x => { x with hot := x.hot ++ [line] }).countReq r first 0x1B
      else
        match x.hot.find? fun l => !want l with
        | some old => (s.updRegion r fun x => { x with hot := x.hot.filter (· != old) ++ [line] }).countReq r first 0x1B
        | none => s
    else s

end Sys2Proof.Machine
end

