-- ==== Sys2Proof/Machine/Stream.lean ====
section
/-! DEFINITION. Walks of nests, and the stream engines (spec/09_streams.md R256-R264, R278; spec/02_notation.md R47). -/

namespace Sys2Proof.Machine

/-! ### Walks (R257) -/

/-- Level j + 1 and outwards take a step; the levels below the one that stepped begin again. -/
def Walk.carry (n : Nat) : Nat → Nat → Walk → Walk
  | 0, _, w => { w with atEnd := true }
  | fuel + 1, j, w =>
    if h : j < 5 then
      if n ≤ j then { w with atEnd := true }
      else if w.idx[j] + 1 < w.bnd[j] then { w with idx := w.idx.set j (w.idx[j] + 1), fresh := j }
      else Walk.carry n fuel (j + 1) w
    else { w with atEnd := true }

/-- The position is left (R257). -/
def Walk.leave (n : Nat) (w : Walk) : Walk := w.carry n 6 0

/-- A walk of n levels before its first pass. -/
def Walk.start (n : Nat) : Walk := { fresh := min n 5 }

/-- What happens as the next pass of a walk begins (R257, R259). -/
inductive Pass where
  | here
  | atEnd
  | wait
  | fault
  | stray (x : Side)
  | ended
  | next (w : Walk) (used : Bool)
  deriving DecidableEq, Repr

/-- The source of a level's bound, as SBND or the image gives it (R256). -/
def boundSrc (bnds : Assoc BSrc) (nest j : Nat) (l : Level) : BSrc :=
  (bnds.get? (nest * 5 + j)).getD (match l.count with
    | .num _ => .image
    | _ => .param)

/-- The count of a level under the parameters of its command (R47). -/
def Count.under (c : Count) (a b : Word) : Nat :=
  match c with
  | .num n => n
  | .pa => a.toNat
  | .pb => b.toNat

/-- A pass of level j begins with a bound: an empty one is over at once. -/
def Walk.begin (n j bound : Nat) (w : Walk) : Walk :=
  if bound = 0 then w.carry n 6 (j + 1)
  else if h : j < 5 then { w with bnd := w.bnd.set j bound, idx := w.idx.set j 0, fresh := j }
  else w

/-- The next pass of a walk. -/
def Walk.pass (levels : List Level) (bnds : Assoc BSrc) (nest : Nat) (a b : Word) (toks : List Tok) (w : Walk) : Pass :=
  let n := levels.length
  if w.atEnd then .atEnd
  else
    match w.fresh with
    | 0 => .here
    | j + 1 =>
      let l := levels.getD j {}
      match boundSrc bnds nest j l with
      | .image | .param => .next (w.begin n j (l.count.under a b)) false
      | .fixed k => .next (w.begin n j k) false
      | .token =>
        match toks with
        | [] => .wait
        | t :: _ =>
          if Side.ctl t.side then (if Side.op t.side = 10 then .ended else .stray t.side)
          else if t.val.toInt ≤ 0 then .next (w.begin n j 0) true
          else if 1048576 < t.val.toNat then .fault
          else .next (w.begin n j t.val.toNat) true

/-- The coordinates of the position on the axes of an object of n axes (R257). -/
def Walk.coords (levels : List Level) (w : Walk) (n : Nat) (base : List Int) : List Int :=
  (List.range n).map fun x =>
    base.getD x 0 + ((levels.zipIdx.map fun y =>
      match y.1.axis with
      | some ax => if ax.val = x ∧ y.2 < 5 then (w.idx.toList.getD y.2 0 : Int) * y.1.step else 0
      | none => 0).sum)

/-- The position ends a pass of level j. -/
def Walk.ends (w : Walk) (j : Nat) : Bool :=
  (List.range (j + 1)).all fun k => w.idx.toList.getD k 0 + 1 == w.bnd.toList.getD k 0

/-- Dim-end bits of the position's token (R47, R258). -/
def Walk.dim (n : Nat) (w : Walk) : Side :=
  (if 1 ≤ n ∧ w.ends 0 then 0x1000 else 0) ||| (if 2 ≤ n ∧ w.ends 1 then 0x2000 else 0)
    ||| (if 3 ≤ n ∧ w.ends 2 then 0x4000 else 0)

/-! ### Elements of an object (R160, R258) -/

/-- All coordinates lie in the extents. -/
def inExtent (d : Nat) (c : List Int) : Bool :=
  (c.zip (descExts d)).all fun x => decide (0 ≤ x.1) && decide (x.1 < x.2)

/-- Byte of the element at coordinates within the extents. -/
def byteAt (d : Nat) (c : List Int) : Nat :=
  layoutIndex d (List.replicate (4 - descAxes d) 0 ++ c.map Int.toNat) * (descFormat d).bytes

/-- The coordinates of lane i: i added on the axis of level 0; none beyond that axis's extent. -/
def laneCoords (d : Nat) (ax : Option (Fin 4)) (c : List Int) (i : Nat) : Option (List Int) :=
  match ax with
  | none => if i = 0 then some c else none
  | some x =>
    let v := c.getD x.val 0 + i
    if v < (descExt d x.val : Int) then some (c.set x.val v) else none

/-- Tests of one lane's place by an engine (R162): the handle, the page, protection, the key. -/
def State.checkLane (s : State) (task : Nat) (g : Group) (x : Inst) (h : Nat) (byte : Nat) (writes : Bool) : Chk :=
  match s.objOf g.ctx task h with
  | none => .fault 0x22
  | some (obj, o) => s.checkByte (s.globalTile g x) g.ctx h obj o byte writes

/-- What a list of tests comes to: the first fault, else a wait for translations, else the farthest class. -/
inductive Tests where
  | bad (c : Chk)
  | wait (l : List Trans)
  | pass (cls : Nat)
  deriving DecidableEq, Repr

def Tests.of : List Chk → Tests
  | [] => .pass 0
  | .ok _ _ cls _ :: r =>
    (match Tests.of r with
     | .pass k => .pass (max cls k)
     | t => t)
  | .miss t :: r =>
    (match Tests.of r with
     | .wait l => .wait (t :: l)
     | _ => .wait [t])
  | c :: _ => .bad c

/-- A test that failed stops the engine's group (R278); KIND of its page fault is 3 (R349). -/
def State.engBad (s : State) (task : Nat) (vt : Fin 16) (n : Node) (c : Cmd) (k : Chk) : State :=
  match k with
  | .fault code => s.engFault task vt n code c
  | .page obj pg => s.raise task (.page vt n (c.word.toNat / 16777216) obj pg 3)
  | _ => s

/-- Fills asked for by an engine's layout port. -/
def State.engFills (s : State) (task : Nat) (vt : Fin 16) (l : List Trans) : State :=
  let tile := s.globalTile (s.group task) (s.inst task vt)
  l.foldl (fun s t => s.startFill tile t) s

/-! ### Reading lanes (R169, R336) -/

/-- The element is reached by a request: it lies on another die, or its line is hot (R188, R336). -/
def State.byRequest (s : State) (obj byte : Nat) : Bool := s.isRemote obj byte || s.isHot obj byte

/-- The lane's element is read by a request: the commit buffer does not hold it. -/
def State.laneAsks (s : State) (task obj byte : Nat) : Bool :=
  s.byRequest obj byte && (s.stagedByte task obj byte).isNone

/-- Lanes' values, or the reads that they still need. -/
inductive Fetch where
  | wait
  | send (l : List Loc)
  | ready (l : List Nat)

/-- The request among some that reads a place. -/
def State.readOf (s : State) (reads : List Nat) (p : Loc) : Option Acc :=
  (reads.filterMap fun i => s.accs.get? i).find? fun a => match a.req with
    | .rd l _ => l.obj == p.obj && l.byte == p.byte
    | _ => false

/-- The values of a list of places: those that a request of `reads` asked for come from its answer (R279, R336). DEDUCED, log entry
28. -/
def State.fetch (s : State) (task : Nat) (f : Fmt) (l : List (Option Loc)) (reads : List Nat) : Fetch :=
  let need := l.filterMap fun x => x.bind fun p =>
    if s.laneAsks task p.obj p.byte && (s.readOf reads p).isNone then some p else none
  if !need.isEmpty then .send need
  else if (reads.filterMap fun i => s.accs.get? i).any fun a => a.reply.isNone then .wait
  else
    .ready <| l.map fun x =>
      match x with
      | none => 0
      | some p =>
        match s.readOf reads p with
        | some a => (a.reply.getD 0).toNat % 2 ^ f.bits
        | none => (s.objs.get? p.obj).elim 0 fun o => (s.readObj (some task) p.obj o p.byte f.bytes).1

/-- Requests of an engine with their numbers. DEDUCED, log entry 29. -/
def State.engReqs (s : State) (task : Nat) (vt : Fin 16) (n : Node) (c : Cmd) (l : List Req) : State × List Nat :=
  let slot := s.globalTile (s.group task) (s.inst task vt)
  l.foldl (fun (acc : State × List Nat) r =>
    let id := acc.1.nextId
    (acc.1.addAcc { task := some task, vt := vt, node := n, req := r, scope := .group, deps := acc.1.live c.deps, slot := slot,
                    opc := c.word.toNat / 16777216, answered := match r with
                      | .wr .. | .put .. => true
                      | _ => false }, acc.2 ++ [id])) (s, [])

/-- Requests that an engine has done with. -/
def State.dropAccs (s : State) (l : List Nat) : State := { s with accs := s.accs.filter fun x => !l.contains x.1 }

/-! ### The stream engines (R260-R264) -/

def Inst.stream (x : Inst) (n : Node) : Stream := if n = .streamA then x.sa else x.sb

def Inst.setStream (x : Inst) (n : Node) (y : Stream) : Inst := if n = .streamA then { x with sa := y } else { x with sb := y }

def State.updStream (s : State) (task : Nat) (vt : Fin 16) (n : Node) (f : Stream → Stream) : State :=
  s.updInst task vt fun x => x.setStream n (f (x.stream n))

/-- A nest of the image by number. -/
def Inst.nest (x : Inst) (k : Nat) : Option Nest := x.cfg.nests.getD k none

/-- The command word of an instruction. -/
def wordOf (i : Instr) : Word :=
  match encode i with
  | some e => e.word
  | none => 0

def wOp (c : Cmd) : Nat := cmdOp c.word
def wNest (c : Cmd) : Nat := (wFieldsOf c.word).nest.toNat
def wOut (c : Cmd) : Nat := (wFieldsOf c.word).out.toNat

/-- The handle number of a walk; none for a parameter above 4,095 (R261). -/
def NestHandle.number (h : NestHandle) (c : Cmd) : Option Nat :=
  let lim (n : Nat) : Option Nat := if n < 4096 then some n else none
  match h with
  | .h n => lim n
  | .pa => lim c.a.toNat
  | .pb => lim c.b.toNat

/-- The word is a W-word that the engine can take (R95, R260). -/
def Inst.strTakes (x : Inst) (n : Node) (c : Cmd) : Bool :=
  match decodeStream c.word with
  | .ok _ =>
    wOp c != 0x01 || (x.slot n (wOut c)).isSome
  | .error _ => false

/-- Level 0 of a nest walks an axis. -/
def Nest.moves0 (n : Nest) : Bool := ((n.levels.getD 0 {}).axis).isSome

/-- The checks of SWALK as it begins (R261). -/
def State.walkOk (s : State) (task : Nat) (g : Group) (x : Inst) (node : Node) (c : Cmd) : Bool :=
  match x.nest (wNest c), x.slot node (wOut c) with
  | some n, some b =>
    (match (n.handle.number c).bind fun h => s.objOf g.ctx task h with
     | some (_, o) =>
       let d := x.desc b
       n.fmt == descFmt o.desc && n.fmt == d.fmt && (!d.wide || n.moves0)
         && n.levels.zipIdx.all fun y =>
           (match y.1.axis with
            | some ax => decide (ax.val < descAxes o.desc)
            | none => true)
           && (match boundSrc (x.stream node).bnds (wNest c) y.2 y.1 with
               | .param => decide (y.1.count.under c.a c.b ≤ 1048576)
               | _ => true)
     | none => false)
  | _, _ => false

/-- SSTOP as the port accepts it (R263). -/
def Stream.halt (y : Stream) (nest : Nat) : Stream :=
  { y with run := y.run.map fun r => if wNest r.cmd = nest then { r with stopped := true } else r }

/-- The waiting command begins at an idle engine; SSTOP and SBND take effect and are done (R148, R261-R263). -/
def State.strBegin (s : State) (task : Nat) (vt : Fin 16) (n : Node) : State :=
  let x := s.inst task vt
  let y := x.stream n
  match y.wait with
  | none => s
  | some c =>
    let clear (s : State) : State := s.updStream task vt n fun y => { y with wait := none }
    if wOp c = 0x03 then (clear s).updStream task vt n fun y => y.halt (wNest c)
    else if y.run.isSome then s
    else if wOp c = 0x02 then
      let f := wFieldsOf c.word
      match x.nest (wNest c) with
      | some k =>
        if f.level.toNat < k.levels.length && (f.btok = 1 || c.a.toNat ≤ 1048576) then
          (clear s).updStream task vt n fun y =>
            { y with bnds := y.bnds.put (wNest c * 5 + f.level.toNat) (if f.btok = 1 then .token else .fixed c.a.toNat) }
        else State.engFault (clear s) task vt n 0x34 c
      | none => State.engFault (clear s) task vt n 0x34 c
    else if s.walkOk task (s.group task) x n c then
      let lv := (x.nest (wNest c)).elim 0 (·.levels.length)
      (clear s).updStream task vt n fun y => { y with run := some { cmd := c, walk := Walk.start lv } }
    else State.engFault (clear s) task vt n 0x34 c

/-- The command ends and the next begins. -/
def State.strEnd (s : State) (task : Nat) (vt : Fin 16) (n : Node) : State :=
  (s.updStream task vt n fun y => { y with run := none }).strBegin task vt n

/-- END of a walk (R47). -/
def endToken (levels : Nat) (deps : List Nat) : Wtok := ⟨BitVec.ofNat 16 (0x8A00 + (levels - 1) % 16 * 16), 0, deps⟩

/-- The walk is finished: its END, if it has one, then the command's end (R258, R261). -/
def State.strFinish (s : State) (task : Nat) (vt : Fin 16) (n : Node) (r : SRun) (k : Nest) : State :=
  if k.endTok then
    if (s.inst task vt).slotRoom n (wOut r.cmd) 1 then
      s.engDebit task vt n r.cmd 2 fun s =>
        State.strEnd ((s.engPut task vt n (wOut r.cmd) (endToken k.levels.length (s.live r.cmd.deps))).countAt task vt 0x13 1) task vt n
    else s
  else s.strEnd task vt n

/-- The token of the position the walk has reached (R258, R264, R278). -/
def State.strToken (s : State) (task : Nat) (vt : Fin 16) (n : Node) (r : SRun) (k : Nest) : State :=
  let g := s.group task
  let x := s.inst task vt
  let h := (k.handle.number r.cmd).getD 0
  match s.objOf g.ctx task h, x.slot n (wOut r.cmd) with
  | none, _ => s.engFault task vt n 0x22 r.cmd
  | _, none => s
  | some (obj, o), some b =>
    if !x.slotRoom n (wOut r.cmd) 1 then s
    else
      let d := o.desc
      let f := descFormat d
      let c := r.walk.coords k.levels (descAxes d) []
      if !inExtent d c then s.engFault task vt n 0x21 r.cmd
      else
        let wide := (x.desc b).wide
        let ax := (k.levels.getD 0 {}).axis
        let lanes : List (Option Loc) := (List.range (if wide then f.lanes else 1)).map fun i =>
          (laneCoords d ax c i).map fun c => ⟨obj, byteAt d c, h⟩
        match Tests.of (lanes.filterMap fun p => p.map fun p => s.checkLane task g x h p.byte false) with
        | .bad k => s.engBad task vt n r.cmd k
        | .wait l => s.engFills task vt l
        | .pass _ =>
          if lanes.any fun p => p.any fun p => !(if r.reads.isEmpty then s.pageOpen p.obj p.byte else s.pageReady p.obj p.byte) then s
          else
          match s.fetch task f lanes r.reads with
          | .wait => s
          | .send l =>
            let (s, ids) := s.engReqs task vt n r.cmd (l.map fun p => .rd p f)
            s.updStream task vt n fun y => { y with run := some { r with reads := r.reads ++ ids } }
          | .ready vs =>
            s.engDebit task vt n r.cmd 2 fun s =>
              let val : Line := if wide then packLine f.bits vs else (extend f (vs.getD 0 0)).setWidth 512
              let s := (s.dropAccs r.reads).engPut task vt n (wOut r.cmd)
                ⟨r.walk.dim k.levels.length, val, s.live r.cmd.deps⟩
              let s := (s.countAt task vt 0x13 1).touchAll (s.globalTile g x) g.ctx (lanes.filterMap id)
              s.updStream task vt n fun y =>
                { y with run := some { r with walk := r.walk.leave k.levels.length, reads := [] } }

/-- One advance of a walk: passes begin until a position, an end or a wait is reached; then a token (R257-R259). -/
def State.strWalk (task : Nat) (vt : Fin 16) (n : Node) (k : Nest) : Nat → State → State
  | 0, s => s
  | fuel + 1, s =>
    let y := (s.inst task vt).stream n
    match y.run with
    | none => s
    | some r =>
      if r.stopped then s.strFinish task vt n r k
      else
        let take (s : State) : State := s.updStream task vt n fun y => { y with bnd := { y.bnd with toks := y.bnd.toks.drop 1 } }
        match r.walk.pass k.levels y.bnds (wNest r.cmd) r.cmd.a r.cmd.b y.bnd.toks with
        | .here => s.strToken task vt n r k
        | .atEnd => s.strFinish task vt n r k
        | .wait => s
        | .fault => s.engFault task vt n 0x32 r.cmd
        | .stray x => let s := take s; if strayCtl x then s.engFault task vt n 0x50 r.cmd else s
        | .ended =>
          State.strWalk task vt n k fuel ((take s).updStream task vt n fun y =>
            { y with run := some { r with walk := { r.walk with atEnd := true } } })
        | .next w used =>
          State.strWalk task vt n k fuel ((if used then take s else s).updStream task vt n fun y => { y with run := some { r with walk := w } })

/-- One advance of a stream engine. -/
def State.strRun (s : State) (y : At2) (n : Node) (r : SRun) : State :=
  match y.x.nest (wNest r.cmd) with
  | some k => State.strWalk y.task y.vt n k 16 s
  | none => s.strEnd y.task y.vt n

/-- The turn of a stream command at the engine of the locus. -/
def State.strTurn (s : State) (w : Word) : State :=
  let n := s.cur.node
  if n = .streamA ∨ n = .streamB then
    match s.engine n with
    | none => s
    | some y =>
      let e := y.x.stream n
      match e.run, e.wait with
      | some r, k =>
        if r.cmd.word = w then s.strRun y n r
        else if k.any fun c => c.word == w && wOp c == 0x03 then s.strBegin y.task y.vt n else s
      | none, some c => if c.word = w then s.strBegin y.task y.vt n else s
      | none, none => s
  else s

/-- SWALK (R261). -/
def execSwalk (x : SWalk) (s : State) : Out := .next (s.strTurn (wordOf (.swalk x)))
/-- SBND (R262). -/
def execSbnd (x : SBnd) (s : State) : Out := .next (s.strTurn (wordOf (.sbnd x)))
/-- SSTOP (R263). -/
def execSstop (x : SStop) (s : State) : Out := .next (s.strTurn (wordOf (.sstop x)))

/-- STREAM_TOKEN (R257): a stream engine advances whatever it holds. -/
def execStreamToken (l : At) (n : Node) (s : State) : Out :=
  let s := { s with cur := { task := l.task, vt := l.vt, node := n, slot := 0 } }
  .next <|
    if n = .streamA ∨ n = .streamB then
      match s.engine n with
      | none => s
      | some y =>
        match (y.x.stream n).run with
        | some r => s.strRun y n r
        | none => s.strBegin y.task y.vt n
    else s

end Sys2Proof.Machine
end

