-- ==== Sys2Proof/Machine/Copy.lean ====
section
/-! DEFINITION. The copy engine (spec/09_streams.md R265-R280, R532; spec/23_convolution.md R522). -/

namespace Sys2Proof.Machine

/-! ### Fields and the command check (R94, R95, R265) -/

def yOp (c : Cmd) : Nat := cmdOp c.word
def yF (c : Cmd) : YFields := yFieldsOf c.word

/-- The buffer pointer (R266). -/
def isBufPtr (w : Word) : Bool := w == 0xFFFFFFFF

/-- The command reads its data from IN. -/
def fromBuf (c : Cmd) : Bool := yOp c == 1 && isBufPtr c.a

/-- The command writes OUT. -/
def toBuf (c : Cmd) : Bool := yOp c == 4 || ((yOp c == 1 || yOp c == 2) && isBufPtr c.b)

/-- The command takes an index list from IN (R272). -/
def indexed (c : Cmd) : Bool := yOp c == 2 || yOp c == 3

/-- The command walks a nest. -/
def walks (c : Cmd) : Bool := yOp c != 6

/-- The word is a Y-word that the engine can take (R95): the slots that it uses are mapped. -/
def Inst.cpyTakes (x : Inst) (c : Cmd) : Bool :=
  match decodeCopy c.word with
  | .ok _ =>
    (!(fromBuf c || indexed c) || (x.slot .copy (yF c).inp.toNat).isSome) && (!toBuf c || (x.slot .copy (yF c).out.toNat).isSome)
  | .error _ => false

/-- A tensor endpoint: its handle, its object, its base coordinates. -/
structure Endpoint where
  h : Nat
  obj : Nat
  desc : Nat
  base : List Int

/-- The used axes' coordinates of a pointer (R160, R266). -/
def ptrBase (d : Nat) (w : Word) : List Int :=
  ((coordsOf (exts4 d) (w.toNat % 1048576)).drop (4 - descAxes d)).map fun (k : Nat) => Int.ofNat k

def State.endpoint (s : State) (task : Nat) (g : Group) (w : Word) : Option Endpoint :=
  let h := w.toNat / 1048576
  (s.objOf g.ctx task h).map fun x => ⟨h, x.1, x.2.desc, ptrBase x.2.desc w⟩

/-- A signed 10-bit number. -/
def signed10 (n : Nat) : Int := if n < 512 then (n : Int) else (n : Int) - 1024

/-- The source of CPYW (R273): bases of the axes that the object has. DEDUCED, log entry 32. -/
def State.window (s : State) (task : Nat) (g : Group) (c : Cmd) : Option Endpoint :=
  let h := c.a.toNat / 1048576
  (s.objOf g.ctx task h).map fun x =>
    let four : List Int := [(c.b.toNat / 65536 : Nat), (c.b.toNat % 65536 : Nat), signed10 (c.a.toNat / 1024 % 1024), signed10 (c.a.toNat % 1024)]
    ⟨h, x.1, x.2.desc, four.drop (4 - descAxes x.2.desc)⟩

/-- The source endpoint of a walking command, where it has one. -/
def State.cpySrc (s : State) (task : Nat) (g : Group) (c : Cmd) : Option Endpoint :=
  if yOp c = 4 then s.window task g c else if yOp c = 5 || fromBuf c then none else s.endpoint task g c.a

def State.cpyDst (s : State) (task : Nat) (g : Group) (c : Cmd) : Option Endpoint :=
  if toBuf c then none else s.endpoint task g c.b

/-- The checks of a walking command as it begins (R266). DESIGN CHOICE, log entry 115: a 64-byte IN with a nest whose level 0 names `-`, and
an index buffer that is not of 4-byte INT32 tokens, raise 0x34. -/
def State.cpyOk (s : State) (task : Nat) (g : Group) (x : Inst) (c : Cmd) : Bool :=
  match x.nest (yF c).nest.toNat with
  | none => false
  | some n =>
    let src := s.cpySrc task g c
    let dst := s.cpyDst task g c
    let buf := if fromBuf c then x.slot .copy (yF c).inp.toNat else if toBuf c then x.slot .copy (yF c).out.toNat else none
    let place := match yOp c with
      | 1 => !(isBufPtr c.a && isBufPtr c.b)
      | 2 => !isBufPtr c.a
      | 3 | 7 => !isBufPtr c.a && !isBufPtr c.b
      | 5 => !isBufPtr c.b
      | _ => true
    let fmt (e : Option Endpoint) : Bool := match e with
      | some e => n.fmt == descFmt e.desc
      | none => true
    let axes (e : Option Endpoint) : Bool := match e with
      | some e => n.levels.all fun l => match l.axis with
        | some a => decide (a.val < descAxes e.desc)
        | none => true
      | none => true
    place && (src.isSome || yOp c == 5 || fromBuf c) && (dst.isSome || toBuf c) && fmt src && fmt dst && axes src && axes dst
      && (match src, dst with
          | some a, some b => descAxes a.desc == descAxes b.desc
          | _, _ => true)
      && (match buf with
          | some b => let d := x.desc b; d.fmt == n.fmt && (!d.wide || n.moves0)
          | none => true)
      && (!indexed c || x.slotIs .copy (yF c).inp.toNat false (· == 6))
      && n.levels.all fun l => match l.count with
          | .num _ => true
          | _ => false

/-! ### Beginning (R148, R266, R276) -/

/-- A word of the own or a sibling's pad (R155-R157). -/
def State.padWordAt (s : State) (task : Nat) (g : Group) (vt : Fin 16) (a k : Nat) : Word :=
  let (v, off) := padTarget g vt a 16
  BitVec.ofNat 32 (leNat (s.padRead task g v (off + 4 * k) 4))

/-- A byte range of an object that CPYB copies from a pointer on: object, handle, first byte; none outside its storage. -/
def State.range (s : State) (task : Nat) (g : Group) (w : Word) (len : Nat) : Option (Nat × Nat × Nat) :=
  match s.objOf g.ctx task (w.toNat / 1048576) with
  | some (obj, o) =>
    let b := byteOf o.desc (w.toNat % 1048576)
    if b + len ≤ descStorage o.desc * (descFormat o.desc).bytes then some (obj, w.toNat / 1048576, b) else none
  | none => none

/-- The waiting command begins at an idle engine, or faults (R266, R276). -/
def State.cpyBegin (s : State) (task : Nat) (vt : Fin 16) : State :=
  let x := s.inst task vt
  let g := s.group task
  match x.cpy.run, x.cpy.wait with
  | none, some c =>
    let clear (r : Option CRun) : State := s.updInst task vt fun x => { x with cpy := { x.cpy with wait := none, run := r } }
    if walks c then
      if s.cpyOk task g x c then
        clear (some { cmd := c, walk := Walk.start ((x.nest (yF c).nest.toNat).elim 0 (·.levels.length)) })
      else (clear none).engFault task vt .copy 0x34 c
    else
      let (v, off) := padTarget g vt c.a.toNat 16
      if s.heapHeld task v off 16 then s
      else
      let w (k : Nat) : Word := s.padWordAt task g vt c.a.toNat k
      let len := (w 2).toNat
      let there (p : Word) : Bool := (s.objOf g.ctx task (p.toNat / 1048576)).isSome
      if w 3 != 0 || len = 0 || 268435456 < len || !there (w 0) || !there (w 1) then (clear none).engFault task vt .copy 0x34 c
      else if (s.range task g (w 0) len).isNone || (s.range task g (w 1) len).isNone then (clear none).engFault task vt .copy 0x21 c
      else clear (some { cmd := c, rcd := (w 0, w 1, w 2) })
  | _, _ => s

/-! ### Cutting the next unit (R257, R267, R271-R275, R532) -/

/-- A unit as it is gathered: the run after it, the tokens of IN left and taken, its positions, its tests. -/
structure UnitIn where
  run : CRun
  toks : List Wtok
  taken : Nat := 0
  moves : List Move := []
  tests : List Chk := []
  full : Bool := false
  stray : Option Side := none
  deriving DecidableEq, Repr

/-- What gathering comes to. -/
inductive Gather where
  | wait
  | got (u : UnitIn)
  deriving DecidableEq, Repr

/-- A place of an endpoint tested (R162, R274): its location when it takes part, and the tests. -/
def State.place (s : State) (task : Nat) (g : Group) (x : Inst) (e : Endpoint) (zf writes : Bool) (c : List Int) :
    Option (Nat × Nat × Nat) × List Chk :=
  if inExtent e.desc c then
    let b := byteAt e.desc c
    (some (e.obj, b, e.h), [s.checkLane task g x e.h b writes])
  else if zf then (none, [])
  else (none, [if (s.objOf g.ctx task e.h).isNone then .fault 0x22 else .fault 0x21])

/-- The walk's position on an endpoint, with v added on ax0 (R272). -/
def Endpoint.coords (e : Endpoint) (n : Nest) (w : Walk) (v : Int) : List Int :=
  let c := w.coords n.levels (descAxes e.desc) e.base
  c.set 0 (c.getD 0 0 + v)

/-- The position at which the walk stands, as a move (R271-R275). `tok`: the token that it takes from IN. -/
def State.position (s : State) (task : Nat) (g : Group) (x : Inst) (n : Nest) (r : CRun) (tok : Option Wtok) :
    Move × List Chk :=
  let c := r.cmd
  let zf := (yF c).zf == 1
  let f := fmtOf n.fmt
  let v : Int := match r.ix with
    | some t => (t.val.setWidth 32 : Word).toInt
    | none => 0
  let src := (s.cpySrc task g c).map fun e => (e, e.coords n r.walk (if yOp c = 2 then v else if yOp c = 3 then r.k else 0))
  let dst := (s.cpyDst task g c).map fun e => (e, e.coords n r.walk (if yOp c = 3 then v else if yOp c = 2 then r.k else 0))
  let ax := (n.levels.getD 0 {}).axis
  let buf := if fromBuf c then x.slot .copy (yF c).inp.toNat else if toBuf c then x.slot .copy (yF c).out.toNat else none
  let wide := buf.any fun b => (x.desc b).wide
  let lanes := if wide then f.lanes else 1
  -- lane i of an endpoint: lane 0 alone is tested for range, lanes beyond the extent move nothing
  let lane (e : Endpoint × List Int) (writes : Bool) (i : Nat) : Option (Nat × Nat × Nat) × List Chk :=
    if i = 0 then s.place task g x e.1 zf writes e.2
    else if !inExtent e.1.desc e.2 then (none, [])
    else match laneCoords e.1.desc ax e.2 i with
      | some k => s.place task g x e.1 true writes k
      | none => (none, [])
  -- an endpoint whose handle has been closed since the command began
  let gone : List Chk := (if src.isNone && yOp c != 5 && !fromBuf c then [.fault 0x22] else [])
    ++ (if dst.isNone && !toBuf c then [.fault 0x22] else [])
  let parts := (List.range lanes).map fun i =>
    let (from?, t1) := match src with
      | some e => lane e false i
      | none => (none, [])
    let (dest?, t2) := match dst with
      | some e => lane e true i
      | none => (none, [])
    let val : MSrc :=
      match tok, yOp c with
      | some t, _ => .lit (if wide then (lanesW f.bits t.val).getD i 0 else t.val.toNat % 2 ^ f.bits)
      | none, 5 => .lit (c.a.toNat % 2 ^ f.bits)
      | none, _ =>
        match from? with
        | some (o, b, h) => .at o b h
        | none => .zero
    ((if dst.isSome && dest?.isNone then MSrc.skip else val, dest?), t1 ++ t2)
  let last := indexed c && (match r.walk.leave n.levels.length with
    | w => w.atEnd)
  let side : Side := r.walk.dim n.levels.length ||| (if last then (match r.ix with
    | some t => Side.dim t.side
    | none => 0) else 0)
  ({ lanes := parts.map (·.1), out := if toBuf c then some side else none
     deps := c.deps ++ (tok.elim [] (·.deps)) ++ (r.ix.elim [] (·.deps)) }, gone ++ parts.flatMap (·.2))

/-- Positions gathered until a unit is full or the command has no more (R267); one that ZF leaves unread or unwritten fills a place of its
unit. DESIGN CHOICE, log entry 116. -/
def State.gather (s : State) (task : Nat) (g : Group) (x : Inst) (n : Nest) : Nat → UnitIn → Gather
  | 0, u => .got u
  | fuel + 1, u =>
    let r := u.run
    let c := r.cmd
    let f := fmtOf n.fmt
    let lv := n.levels.length
    let wide := (if fromBuf c then x.slot .copy (yF c).inp.toNat else if toBuf c then x.slot .copy (yF c).out.toNat else none).any
      fun b => (x.desc b).wide
    let perUnit := if wide then 1 else 64 / f.bytes
    let take (u : UnitIn) : UnitIn := { u with toks := u.toks.drop 1, taken := u.taken + 1 }
    -- a control token of IN: END ends, others are discarded (R532)
    let control (t : Wtok) : Gather :=
      if Side.op t.side = 10 then .got (take { u with run := { r with atEnd := true } })
      else if strayCtl t.side then .got { take u with stray := some t.side }
      else s.gather task g x n fuel (take u)
    let add (u : UnitIn) (tok : Option Wtok) : Gather :=
      let (m, ts) := s.position task g x n r tok
      s.gather task g x n fuel { u with run := { r with walk := r.walk.leave lv }, moves := u.moves ++ [m], tests := u.tests ++ ts }
    if r.atEnd || u.stray.isSome then .got u
    else if perUnit ≤ u.moves.length then .got { u with full := true }
    else if indexed c && r.ix.isNone then
      match u.toks with
      | [] => .wait
      | t :: _ =>
        if Side.ctl t.side then control t
        else s.gather task g x n fuel
          (take { u with run := { r with ix := some t, lastIx := t.side.getLsbD 12, walk := Walk.start lv } })
    else
      match r.walk.pass n.levels [] 0 0 0 [] with
      | .atEnd =>
        if indexed c && !r.lastIx then s.gather task g x n fuel { u with run := { r with ix := none, k := r.k + 1 } }
        else .got { u with run := { r with atEnd := true } }
      | .here =>
        if fromBuf c then
          match u.toks with
          | [] => .wait
          | t :: _ => if Side.ctl t.side then control t else add (take u) (some t)
        else add u none
      | .next w _ => s.gather task g x n fuel { u with run := { r with walk := w } }
      | _ => .got u

/-! ### Taking the positions of a unit (R268) -/

/-- The run of a copy engine changed. -/
def State.updRun (s : State) (task : Nat) (vt : Fin 16) (f : CRun → CRun) : State :=
  s.updInst task vt fun x => { x with cpy := { x.cpy with run := x.cpy.run.map f } }

/-- Format of what a command moves: CPYB moves bytes. -/
def State.cpyFmt (s : State) (task : Nat) (vt : Fin 16) (c : Cmd) : Fmt :=
  if walks c then ((s.inst task vt).nest (yF c).nest.toNat).elim .uint8 fun n => fmtOf n.fmt else .uint8

/-- The request of the copy engine whose store a line of its tile holds, where one more store may merge. -/
def State.lineAcc (s : State) (task : Nat) (vt : Fin 16) (after obj line : Nat) : Option Nat :=
  ((s.inst task vt).staged.find? fun e => e.takes after obj line).bind fun e =>
    (e.accs.find? fun x => match s.accs.get? x.1 with
      | some { req := .wr .., node := .copy, .. } => true
      | _ => false).map (·.1)

/-- One more store of the copy engine merges into a line; the request that it shares waits for it too (R173). -/
def State.stageMore (s : State) (task : Nat) (vt : Fin 16) (after obj byte : Nat) (bs : List Byte) : State :=
  let no := s.stageNo
  let id := s.lineAcc task vt after obj (byte / 64)
  (s.stageLine task vt .copy obj byte bs []).updInst task vt fun x =>
    { x with staged := x.staged.map fun e =>
        if e.takes after obj (byte / 64) then { e with accs := e.accs.map fun a => if some a.1 = id then (a.1, no) else a } else e }

/-- One lane written: at once to a fresh object, through the commit buffer to a shared one (R268). The lane waits when the buffer is
full; the number of a request is given when the write performs later. DEDUCED, log entry 28. -/
def State.laneWrite (s : State) (task : Nat) (vt : Fin 16) (c : Cmd) (f : Fmt) (v : Nat) (p : Nat × Nat × Nat) :
    Option (State × List Nat) :=
  let (obj, byte, h) := p
  let bs := leBytes f.bytes v
  match s.objs.get? obj with
  | none => some (s, [])
  | some o =>
    if o.isFresh then
      if yOp c = 7 && s.isRemote obj byte then
        -- the unit's write flits leave with its last position (R277, R492)
        some (s.updRun task vt fun r => { r with cells := r.cells ++ (cellsFrom byte bs).map fun y => (obj, y.1, h, y.2) }, [])
      else if s.byRequest obj byte then some (s.engReqs task vt .copy c [.wr ⟨obj, byte, h⟩ f.bytes v])
      else some (s.storeObj s.die.toNat obj byte bs, [])
    else
      let g := s.group task
      let after := g.afterOf vt .copy
      if !s.hasLine task g vt .copy (some (obj, byte / 64)) then none
      else if yOp c != 7 && (s.lineAcc task vt after obj (byte / 64)).isSome then some (s.stageMore task vt after obj byte bs, [])
      else
        let (s, ids) := s.engReqs task vt .copy c [.wr ⟨obj, byte, h⟩ f.bytes v]
        let s := ids.foldl (fun s i => s.updAcc i fun a => { a with staged := true, perf := .group, answered := true }) s
        some (s.stageLine task vt .copy obj byte bs ids, if yOp c = 7 then ids else [])

/-- Lanes whose values are known are written in order, as far as the commit buffer allows. -/
def State.lanesWrite (task : Nat) (vt : Fin 16) (c : Cmd) (f : Fmt) :
    List (MSrc × Option (Nat × Nat × Nat)) → State → List (MSrc × Option (Nat × Nat × Nat)) × State × List Nat
  | [], s => ([], s, [])
  | (.lit v, some p) :: r, s =>
    (match s.laneWrite task vt c f v p with
     | none => ((.lit v, some p) :: r, s.sealFull task vt .copy, [])
     | some (s, ids) => let (l, s, more) := State.lanesWrite task vt c f r s; (l, s, ids ++ more))
  | _ :: r, s => State.lanesWrite task vt c f r s

/-- The places that a position reads, by lane. -/
def Move.places (m : Move) : List (Option Loc) :=
  m.lanes.map fun l => match l.1 with
    | .at o b h => some ⟨o, b, h⟩
    | _ => none

/-- A test of the places that a position reads and writes, by object and byte. -/
def Move.all (m : Move) (test : Nat → Nat → Bool) : Bool :=
  (m.places.all fun p => p.all fun p => test p.obj p.byte) && m.lanes.all fun l => l.2.all fun p => test p.1 p.2.1

/-- A request of the command for some of n bytes has still to perform, though the memory node could serve them at once (R268). -/
def State.copyOwes (s : State) (task : Nat) (vt : Fin 16) (n obj byte : Nat) : Bool :=
  !s.byRequest obj byte && s.accs.any fun x => x.2.task == some task && x.2.vt == vt && x.2.node == .copy && x.2.perf == .none && !x.2.staged
    && x.2.req.bytes.any fun b => b.1 == obj && decide (byte ≤ b.2) && decide (b.2 < byte + n)

/-- Things in groups of one key, in the order of their firsts. -/
def groupBy {α : Type} (key : α → Nat × Nat) (l : List α) : List (List α) :=
  ((l.map key).eraseDups).map fun k => l.filter fun x => key x == k

/-- The write of a CPYX unit: one flit for each die that holds some of its elements (R277, R492). -/
def State.sendCells (s : State) (task : Nat) (vt : Fin 16) (r : CRun) : State :=
  let parts := groupBy (fun (y : Nat × Nat × Nat × Byte) => (y.1, s.pageDie y.1 y.2.1)) r.cells
  let reqs := parts.filterMap fun l => l.head?.map fun y =>
    Req.put ⟨y.1, y.2.1, y.2.2.1⟩ ((l.foldl (fun (m : Assoc Byte) z => m.put z.2.1 z.2.2.2) []))
  let (s, ids) := s.engReqs task vt .copy r.cmd reqs
  s.updRun task vt fun r => { r with cells := [], writes := r.writes ++ ids }

/-- The elements that a CPYX unit reads on other dies, with the width of one. -/
def State.farReads (s : State) (task : Nat) (r : CRun) : List Loc :=
  if yOp r.cmd = 7 then
    (r.moves.flatMap fun m => m.places.filterMap id).filter fun p =>
      s.isRemote p.obj p.byte && (s.stagedByte task p.obj p.byte).isNone
  else []

/-- A position with the elements known that the unit's read flits have brought, under what earlier positions of the unit have written (R268):
cells that wait for the unit's write flit, or bytes in the commit buffer. -/
def State.fillMove (s : State) (task : Nat) (r : CRun) (n : Nat) (m : Move) : Move :=
  { m with lanes := m.lanes.map fun l => match l.1 with
      | .at o b _ => (match r.got.find? fun k => k.1.obj == o && k.1.byte == b with
        | some k =>
          if (s.stagedByte task o b).isSome then l
          else
            let byte (i : Nat) : Byte := match (r.cells.filter fun y => y.1 == o && y.2.1 == b + i).getLast? with
              | some y => y.2.2.2
              | none => BitVec.ofNat 8 (k.2 / 2 ^ (8 * i))
            (.lit (leNat ((List.range n).map byte)), l.2)
        | none => l)
      | _ => l }

/-- The reads of a CPYX unit: asked for, one flit for each die that holds some of its elements, or waited for, or their elements taken; none
where the positions can be taken (R277, R492). -/
def State.readFlits (s : State) (task : Nat) (vt : Fin 16) (r : CRun) (f : Fmt) : Option State :=
  let flits := r.reads.filterMap fun i => (s.accs.get? i).bind fun a => match a.req with
    | .rds l _ => some (a, l)
    | _ => none
  let far := s.farReads task r
  if !flits.isEmpty then
    if flits.any fun x => x.1.reply.isNone then some s
    else
      some ((s.dropAccs r.reads).updRun task vt fun r => { r with reads := [], got := flits.flatMap fun x => x.2.zip x.1.data })
  else if far.isEmpty || !r.got.isEmpty then none
  else
    let (s, ids) := s.engReqs task vt .copy r.cmd
      ((groupBy (fun (p : Loc) => (0, s.pageDie p.obj p.byte)) far).map fun l => .rds l f.bytes)
    some (s.updRun task vt fun r => { r with reads := ids })

/-- Positions of the unit taken in walk order, until one has to wait. DEDUCED, log entry 29. -/
def State.cpyMoves (task : Nat) (vt : Fin 16) : Nat → State → State
  | 0, s => s
  | fuel + 1, s =>
    match (s.inst task vt).cpy.run with
    | none => s
    | some r =>
      match r.moves with
      | [] =>
        let s := if r.got.isEmpty then s else s.updRun task vt fun r => { r with got := [] }
        if r.cells.isEmpty then s else s.sendCells task vt r
      | m0 :: rest =>
        let c := r.cmd
        let f := s.cpyFmt task vt c
        let m := s.fillMove task r f.bytes m0
        let x := s.inst task vt
        if m.out.isSome && !x.slotRoom .copy (yF c).out.toNat 1 then s
        else
          if !m.all s.pageReady || !m.all (fun o b => !s.copyOwes task vt f.bytes o b) then s
          else
          match s.fetch task f m.places r.reads with
          | .wait => s
          | .send l =>
            let (s, ids) := s.engReqs task vt .copy c (l.map fun p => .rd p f)
            s.updRun task vt fun r => { r with reads := r.reads ++ ids }
          | .ready vs =>
            let vals := (m.lanes.zip vs).map fun y => match y.1.1 with
              | .at _ _ _ => (MSrc.lit y.2, y.1.2)
              | .zero => (.lit 0, y.1.2)
              | k => (k, y.1.2)
            let s := s.dropAccs r.reads
            match m.out with
            | some side =>
              let ns := vals.map fun y => match y.1 with
                | .lit v => v
                | _ => 0
              let wide := (x.slot .copy (yF c).out.toNat).any fun b => (x.desc b).wide
              let val : Line := if wide then packLine f.bits ns else (extend f (ns.getD 0 0)).setWidth 512
              let s := s.engPut task vt .copy (yF c).out.toNat ⟨side, val, s.live m.deps⟩
              State.cpyMoves task vt fuel (s.updRun task vt fun r => { r with moves := rest, reads := [] })
            | none =>
              let (left, s, ids) := State.lanesWrite task vt c f vals s
              if left.isEmpty then
                State.cpyMoves task vt fuel (s.updRun task vt fun r => { r with moves := rest, reads := [], writes := r.writes ++ ids })
              else s.updRun task vt fun r => { r with moves := { m with lanes := left } :: rest, reads := [], writes := r.writes ++ ids }

/-! ### Units, boxes and the end of a command (R267, R270, R276) -/

/-- The room in OUT that a unit of n tokens waits for (R522): all of it, or the whole buffer where that is less (DEDUCED, log entry 122). -/
def Inst.unitTokens (x : Inst) (c : Cmd) (n : Nat) : Nat := min n ((x.slot .copy (yF c).out.toNat).elim n fun b => (x.desc b).tokens)

/-- A unit begins: its tests pass, its whole debit is taken, its positions are taken in order. -/
def State.cpyUnit (s : State) (task : Nat) (vt : Fin 16) (u : UnitIn) : State :=
  let g := s.group task
  let x := s.inst task vt
  let c := u.run.cmd
  let drop (s : State) : State := s.updInst task vt fun x =>
    let x := if 0 < u.taken then x.slotTake .copy (yF c).inp.toNat u.taken else x
    { x with cpy := { x.cpy with run := some { u.run with moves := u.moves } } }
  let stray (s : State) : State := match u.stray with
    | some _ => s.engFault task vt .copy 0x50 c
    | none => s
  if u.moves.isEmpty then stray (drop s)
  else if toBuf c && !x.slotRoom .copy (yF c).out.toNat (x.unitTokens c (u.moves.filter fun m => m.out.isSome).length) then s
  else
    match Tests.of u.tests with
    | .bad k => s.engBad task vt .copy c k
    | .wait l => s.engFills task vt l
    | .pass cls =>
      if u.moves.any fun m => !m.all s.pageOpen then s
      else
      let d := if yOp c = 7 then 128 else unitDrops cls
      s.engDebit task vt .copy c d fun s =>
        let used := u.moves.flatMap fun m => m.places.filterMap id ++ m.lanes.filterMap fun l => l.2.map fun p => ⟨p.1, p.2.1, p.2.2⟩
        let s := ((drop s).countAt task vt 0x14 1).touchAll (s.globalTile g x) g.ctx used
        let r := ((s.inst task vt).cpy.run).getD u.run
        stray ((s.readFlits task vt r (s.cpyFmt task vt c)).getD (State.cpyMoves task vt 66 s))

/-- Writes of the command that have not performed yet: as widely as R270 asks. -/
def State.cpyOwing (s : State) (r : CRun) : Bool := s.unperformed r.writes (if yOp r.cmd = 7 then 3 else 1)

/-- The bitmap bit of a box: the copy of the tile, the pad byte and the bit (R276). -/
def State.boxBit (s : State) (task : Nat) (vt : Fin 16) (r : CRun) : Fin 16 × Nat × Nat :=
  let (v, off) := padTarget (s.group task) vt (r.cmd.b.toNat + r.box / 8) 1
  (v, off, r.box % 8)

/-- A box whose writes have performed sets its bit (R276). -/
def State.boxEnd (s : State) (task : Nat) (vt : Fin 16) (r : CRun) : State :=
  let (v, off, k) := s.boxBit task vt r
  if s.cpyOwing r || s.padHeld task vt .copy || s.heapHeld task v off 1 then s
  else
    let g := s.group task
    let a := s.padAddr g (s.inst task v) v off
    State.updRun { s with mem := s.mem.write a (s.mem.read a ||| BitVec.ofNat 8 (2 ^ k)) } task vt fun r =>
      { r with box := r.box + 1, k := 0, byte := 0, writes := [] }

/-- Bytes of the box in progress that are left: none, a box not begun, or the next unit (R276). -/
def CRun.boxLen (r : CRun) : Nat := min 4096 (r.rcd.2.2.toNat - 4096 * r.box)

/-- The object that a pointer names and the byte at which its range starts (R276). -/
def State.boxBase (s : State) (task : Nat) (g : Group) (w : Word) : Nat × Nat :=
  match s.objOf g.ctx task (w.toNat / 1048576) with
  | some (obj, o) => (obj, byteOf o.desc (w.toNat % 1048576))
  | none => (0, 0)

/-- The tests of one byte of a range, k bytes from its pointer (R162, R278): handle, range, and the page, tested once for each page. -/
def State.boxTest (s : State) (task : Nat) (g : Group) (x : Inst) (w : Word) (k : Nat) (first writes : Bool) : List Chk :=
  match s.objOf g.ctx task (w.toNat / 1048576) with
  | none => [.fault 0x22]
  | some (obj, o) =>
    let c := w.toNat % 1048576
    let b := byteOf o.desc c + k
    if descCount o.desc ≤ c || descStorage o.desc * (descFormat o.desc).bytes ≤ b then [.fault 0x21]
    else if first || b % 65536 = 0 then [s.checkByte (s.globalTile g x) g.ctx (w.toNat / 1048576) obj o b writes]
    else []

/-- One advance of CPYB. -/
def State.cpyBox (s : State) (task : Nat) (vt : Fin 16) (r : CRun) : State :=
  let g := s.group task
  let x := s.inst task vt
  let len := r.rcd.2.2.toNat
  if len ≤ 4096 * r.box then s.updRun task vt fun r => { r with atEnd := true }
  else if r.k = 0 then
    let (v, off, k) := s.boxBit task vt r
    if s.heapHeld task v off 1 then s
    else if (s.mem.read (s.padAddr g (s.inst task v) v off)).getLsbD k then s.updRun task vt fun r => { r with box := r.box + 1 }
    else s.updRun task vt fun r => { r with k := 1, byte := 0 }
  else if r.boxLen ≤ r.byte then s.boxEnd task vt r
  else
    let at0 := 4096 * r.box + r.byte
    let n := min 64 (r.boxLen - r.byte)
    let (o1, b1) := s.boxBase task g r.rcd.1
    let (o2, b2) := s.boxBase task g r.rcd.2.1
    let move (i : Nat) : Move :=
      { lanes := [(.at o1 (b1 + at0 + i) (r.rcd.1.toNat / 1048576), some (o2, b2 + at0 + i, r.rcd.2.1.toNat / 1048576))], deps := r.cmd.deps }
    let tests (i : Nat) : List Chk :=
      s.boxTest task g x r.rcd.1 (at0 + i) (i = 0) false ++ s.boxTest task g x r.rcd.2.1 (at0 + i) (i = 0) true
    s.cpyUnit task vt { run := { r with byte := r.byte + n }, toks := [], moves := (List.range n).map move, tests := (List.range n).flatMap tests }

/-- The command ends: its END into OUT, its semaphore (R258, R270). DEDUCED, log entry 32. -/
def State.cpyFinish (s : State) (task : Nat) (vt : Fin 16) (r : CRun) : State :=
  let c := r.cmd
  let g := s.group task
  let x := s.inst task vt
  let done (s : State) : State :=
    State.cpyBegin (s.updInst task vt fun x => { x with cpy := { x.cpy with run := none } }) task vt
  let ends := toBuf c && ((x.nest (yF c).nest.toNat).any (·.endTok)) && r.byte = 0
  if s.cpyOwing r then s
  else if ends then
    if x.slotRoom .copy (yF c).out.toNat 1 then
      (s.engPut task vt .copy (yF c).out.toNat
        (endToken ((x.nest (yF c).nest.toNat).elim 1 (·.levels.length)) (s.live c.deps))).updRun task vt fun r => { r with byte := 1 }
    else s
  else if (yF c).semen = 1 then
    let m : Fin 64 := (yF c).sem.toFin
    let owned := g.img.ownsSem m
    if !owned && !s.hasLine task g vt .copy none then s.sealFull task vt .copy
    else
      s.engDebit task vt .copy c 4 fun s =>
        let scope : Scope := if yOp c = 7 then .span else .group
        let (s, ids) := s.engReqs task vt .copy c [.sem g.ctx m (.add 1)]
        let s := ids.foldl (fun s i => s.updAcc i fun a =>
          { a with scope := scope, order := .rel, answered := true, staged := !owned, perf := if owned then .none else .group }) s
        done (if owned then s else s.stage task vt .copy (.req (ids.headD 0)) ids)
  else done s

/-- A control token that the copy engine discards at the head of IN (R532). -/
def dropped (x : Side) : Bool := Side.ctl x && Side.op x != 10 && !strayCtl x

/-- One advance of the copy engine. -/
def State.cpyRun (s : State) (y : At2) (r : CRun) : State :=
  if !r.moves.isEmpty then (s.readFlits y.task y.vt r (s.cpyFmt y.task y.vt r.cmd)).getD (State.cpyMoves y.task y.vt 66 s)
  else if r.atEnd then s.cpyFinish y.task y.vt r
  else if !walks r.cmd then s.cpyBox y.task y.vt r
  else
    match y.x.nest (yF r.cmd).nest.toNat with
    | none => s
    | some n =>
      let k := (yF r.cmd).inp.toNat
      let toks := y.x.slotToks .copy k
      let stale := if fromBuf r.cmd || indexed r.cmd then (toks.takeWhile fun t => dropped t.side).length else 0
      let s := if stale = 0 then s else s.updInst y.task y.vt fun x => x.slotTake .copy k stale
      match s.gather y.task y.g y.x n 2048 { run := r, toks := toks.drop stale } with
      | .wait => s
      | .got u => s.cpyUnit y.task y.vt u

/-- The turn of a copy command. -/
def State.cpyTurn (s : State) (w : Word) : State :=
  match s.engine .copy with
  | none => s
  | some y =>
    match y.x.cpy.run, y.x.cpy.wait with
    | some r, _ => if r.cmd.word = w then s.cpyRun y r else s
    | none, some c => if c.word = w then s.cpyBegin y.task y.vt else s
    | none, none => s

/-- CPY (R271). -/
def execCpy (x : Cpy) (s : State) : Out := .next (s.cpyTurn (wordOf (.cpy x)))
/-- CPYG (R272). -/
def execCpyg (x : Cpy) (s : State) : Out := .next (s.cpyTurn (wordOf (.cpyg x)))
/-- CPYS (R272). -/
def execCpys (x : CpyS) (s : State) : Out := .next (s.cpyTurn (wordOf (.cpys x)))
/-- CPYW (R273). -/
def execCpyw (x : CpyW) (s : State) : Out := .next (s.cpyTurn (wordOf (.cpyw x)))
/-- CPYF (R275). -/
def execCpyf (x : CpyF) (s : State) : Out := .next (s.cpyTurn (wordOf (.cpyf x)))
/-- CPYB (R276). -/
def execCpyb (x : CpyB) (s : State) : Out := .next (s.cpyTurn (wordOf (.cpyb x)))
/-- CPYX (R277). -/
def execCpyx (x : CpyF) (s : State) : Out := .next (s.cpyTurn (wordOf (.cpyx x)))

/-- The copy engine of an event's tile, when a test of its run holds. -/
def State.cpyEvent (s : State) (l : At) (test : CRun → Bool) : State :=
  let s := { s with cur := { task := l.task, vt := l.vt, node := .copy, slot := 0 } }
  match s.engine .copy with
  | none => s
  | some y =>
    match y.x.cpy.run with
    | some r => if test r then s.cpyRun y r else s
    | none => s

/-- COPY_UNIT (R267): the next unit, or the positions of the one in progress. -/
def execCopyUnit (l : At) (s : State) : Out :=
  .next (s.cpyEvent l fun r => !r.moves.isEmpty || (!r.atEnd && (walks r.cmd || r.k = 0 || r.byte < r.boxLen)))

/-- COPY_COMPLETION (R270). -/
def execCopyCompletion (l : At) (s : State) : Out := .next (s.cpyEvent l fun r => r.moves.isEmpty && r.atEnd)

/-- BOX_COMPLETE (R276). -/
def execBoxComplete (l : At) (s : State) : Out :=
  .next (s.cpyEvent l fun r => r.moves.isEmpty && !walks r.cmd && !r.atEnd && r.k = 1 && r.boxLen ≤ r.byte)

end Sys2Proof.Machine
end

