-- ==== Sys2Proof/Machine/Issue.lean ====
section
/-! DEFINITION. ISSUE, ISSUEV and the command ports (spec/05_elements.md R146-R150, spec/04_encoding.md R95). -/

namespace Sys2Proof.Machine

/-- The engine of a number in MOD (R86). -/
def engineOf (n : Fin 5) : Node :=
  match n with
  | 0 => .matrix
  | 1 => .vector
  | 2 => .streamA
  | 3 => .streamB
  | 4 => .copy

/-- The command waiting at a port (R148). -/
def Inst.waiting (x : Inst) (n : Node) : Option Cmd :=
  match n with
  | .matrix => x.mat.wait
  | .vector => x.vec.wait
  | .streamA => x.sa.wait
  | .streamB => x.sb.wait
  | .copy => x.cpy.wait
  | _ => none

def Inst.setWaiting (x : Inst) (n : Node) (c : Option Cmd) : Inst :=
  match n with
  | .matrix => { x with mat := { x.mat with wait := c } }
  | .vector => { x with vec := { x.vec with wait := c } }
  | .streamA => { x with sa := { x.sa with wait := c } }
  | .streamB => { x with sb := { x.sb with wait := c } }
  | .copy => { x with cpy := { x.cpy with wait := c } }
  | _ => x

/-- The port takes the word: it is not malformed (R95). -/
def Inst.cmdTakes (x : Inst) (n : Node) (c : Cmd) : Bool :=
  match n with
  | .matrix => x.matTakes c
  | .vector => x.vecTakes c
  | .streamA | .streamB => x.strTakes n c
  | .copy => x.cpyTakes c
  | _ => false

/-- The port can accept a command in this step (R148, R149). -/
def Inst.portFree (x : Inst) (n : Node) : Bool := (x.waiting n).isNone && !x.cmdUse.contains n

/-- An idle engine begins the command that waits; an immediate one takes effect (R148). DESIGN CHOICE, log entry 18. -/
def State.cmdBegin (s : State) (task : Nat) (vt : Fin 16) (n : Node) : State :=
  match n with
  | .matrix => s.matBegin task vt
  | .vector => if (s.inst task vt).vec.run.isNone then s.vecEnd task vt else s
  | .streamA | .streamB => s.strBegin task vt n
  | .copy => s.cpyBegin task vt
  | _ => s

/-- The port accepts a command; a malformed one raises 0x34 and does nothing else (R95, R148). -/
def State.accept (s : State) (task : Nat) (vt : Fin 16) (n : Node) (c : Cmd) : State :=
  let s := s.updInst task vt fun x => { x with cmdUse := x.cmdUse ++ [n] }
  if (s.inst task vt).cmdTakes n c then (s.updInst task vt fun x => x.setWaiting n (some c)).cmdBegin task vt n
  else s.engFault task vt n 0x34 c

/-- ISSUE (R146). -/
def execIssue (x : ExIssue) (s : State) : Out :=
  match s.here with
  | none => .next s
  | some h =>
    let n := engineOf x.eng
    let ok := match x.args with
      | .none => true
      | .one a => h.el.okA a
      | .two a b => h.el.okA a && h.el.okB b
    if s.gate h x.trig && ok && h.x.portFree n then
      .next <| s.charge h 0x78 1 fun s =>
        let (a, b, takes) : Tok × Tok × List (Fin 4) := match x.args with
          | .none => ({}, {}, [])
          | .one a => (h.el.readA a, {}, SrcA.takes a)
          | .two a b => (h.el.readA a, h.el.readB b, takesOf (SrcA.takes a) (SrcB.takes b))
        let c : Cmd := { word := vget h.x.cfg.cmds x.idx, a := a.val, b := b.val, idx := x.idx.val
                         deps := s.fireDeps h x.trig (a.deps ++ b.deps) }
        (s.putHere h (h.el.dequeue (s.pullHere h) takes)).accept s.cur.task s.cur.vt n c
    else .next s

/-- ISSUEV (R147). -/
def execIssuev (x : ExIssuev) (s : State) : Out :=
  match s.here with
  | none => .next s
  | some h =>
    let n := engineOf x.eng
    let ok := match x.args with
      | .none => true
      | .one a => h.el.okB a
      | .two a b => h.el.okB a && !h.el.pending b
    if s.gate h x.trig && h.el.okA x.w && ok && h.x.portFree n then
      .next <| s.charge h 0x79 1 fun s =>
        let w := h.el.readA x.w
        let (a, b, takes) : Tok × Tok × List (Fin 4) := match x.args with
          | .none => ({}, {}, SrcA.takes x.w)
          | .one a => (h.el.readB a, {}, takesOf (SrcA.takes x.w) (SrcB.takes a))
          | .two a b => (h.el.readB a, ⟨0, vget h.el.d b, vget h.el.dDeps b⟩, takesOf (SrcA.takes x.w) (SrcB.takes a))
        let c : Cmd := { word := w.val, a := a.val, b := b.val, deps := s.fireDeps h x.trig (w.deps ++ a.deps ++ b.deps) }
        (s.putHere h (h.el.dequeue (s.pullHere h) takes)).accept s.cur.task s.cur.vt n c
    else .next s

/-- COMMAND_BEGIN (R148). -/
def execCommandBegin (l : At) (n : Node) (s : State) : Out :=
  let s := { s with cur := { task := l.task, vt := l.vt, node := n, slot := 0 } }
  .next <|
    match s.engine n with
    | none => s
    | some y => s.cmdBegin y.task y.vt n

end Sys2Proof.Machine
end

