-- ==== Sys2Proof/Machine/Token.lean ====
section
/-! DEFINITION. How tokens and requests travel: arrivals, pull requests, KSET at a channel's head, routes out of buffers
(spec/05_elements.md R108, R117-R119; spec/04_encoding.md R98-R103; spec/14_groups.md R377, R380, R386;
spec/24_experts.md R525). -/

namespace Sys2Proof.Machine

/-! ### Arrivals -/

/-- The tokens that a step sent to a channel stand at its tail from the next step on (R108). -/
def State.landChan (s : State) (task : Nat) (vt e : Fin 16) (c : Fin 4) : State :=
  let g := s.group task
  let ch := vget (s.elem task vt e).inq c
  let n := ((g.img.into (.inp vt e c)).map (·.2)).getD 0
  ch.incoming.foldl (fun s t => s.land task (s.group task) n (.inp vt e c) t.wide)
    (s.updElem task vt e fun el => { el with inq := vset el.inq c { vget el.inq c with incoming := [] } })

def State.landElem (s : State) (task : Nat) (vt e : Fin 16) : State :=
  [0, 1, 2, 3].foldl (fun s c => s.landChan task vt e c) s

/-- TOKEN_ARRIVAL (R108): the oldest token on an edge between tiles reaches its consumer. -/
def execTokenArrival (task edge : Nat) (s : State) : Out :=
  .next <|
    match s.group? task with
    | none => s
    | some g =>
      match g.inFlight edge, (g.img.edges.drop edge).head? with
      | t :: r, some e =>
        ((s.updGroup task fun g => { g with flight := if r.isEmpty then g.flight.del edge else g.flight.put edge r }).land task
          (s.group task) edge e.dst t).progress task
      | _, _ => s

/-! ### Pull requests (R118, R119, R386) -/

/-- The key under which a cut counts the CAIRN on the request path of an edge. -/
def reqPath (edge : Nat) : Nat := 1000000 + edge

/-- n requests become outstanding at the producer of a pull channel; a cut that it has passed records them; those
behind the CAIRN are counted, to be left out (R386). -/
def State.pullArrive (s : State) (task : Nat) (vt e : Fin 16) (c : Fin 4) (n : Nat) : State :=
  let g := s.group task
  match g.img.into (.inp vt e c) with
  | some (x, k) =>
    match x.src with
    | .out v p o =>
      let add (el : Elem) : Elem := { el with pulls := vset el.pulls o (vget el.pulls o + n) }
      let s := s.updElem task v p add
      (match g.cut with
       | some cut =>
         if cut.hasPassed (v, .elem p) then
           if cut.arrived.contains (reqPath k) then s
           else s.updGroup task fun g => { g with cut := some (cut.updRec v fun r => { r with elems := Assoc.modify r.elems p.val add }) }
         else if cut.arrived.contains (reqPath k) then
           s.updGroup task fun g => { g with cut := some ((List.range n).foldl (fun c _ => c.addBehind (reqPath k)) cut) }
         else s
       | none => s)
    | _ => s
  | none => s

/-- The requests that a channel has sent reach their producer. DEDUCED, log entry 21. -/
def State.flushReqs (s : State) (task : Nat) (vt e : Fin 16) (c : Fin 4) : State :=
  let n := (vget (s.elem task vt e).inq c).reqs
  if n = 0 then s
  else State.pullArrive (s.updElem task vt e fun el => { el with inq := vset el.inq c { vget el.inq c with reqs := 0 } }) task vt e c n

/-- The channel's producer is an element of the same tile. DEDUCED, log entry 21. -/
def Image.localPull (i : Image) (vt e : Fin 16) (c : Fin 4) : Bool :=
  match i.into (.inp vt e c) with
  | some (x, _) => x.pull && x.src.vt == vt
  | none => false

/-- PULL_REQUEST_ARRIVAL (R119): one request of a channel reaches its producer. -/
def execPullRequestArrival (l : At) (e : Fin 16) (c : Fin 4) (s : State) : Out :=
  .next <|
    if 0 < (vget (s.elem l.task l.vt e).inq c).reqs then
      (s.updElem l.task l.vt e fun el =>
        { el with inq := vset el.inq c { vget el.inq c with reqs := (vget el.inq c).reqs - 1 } }).pullArrive l.task l.vt e c 1
    else s

/-! ### KSET and stray tokens at a channel's head (R98, R100, R103, R377, R380) -/

/-- The element after a KSET: a register, or a slot with a checked word. -/
def Elem.kset (el : Elem) (sel : Nat) (v : Word) : Elem :=
  if sel ≤ 3 then { el with k := vset el.k ⟨sel % 4, Nat.mod_lt _ (by decide)⟩ v }
  else
    let i : Fin 40 := ⟨(sel - 0x20) % 40, Nat.mod_lt _ (by decide)⟩
    let bad := v != 0xFFFFFFFF && (match decodeRule v with
      | .ok _ => false
      | .error _ => true)
    { el with slots := vset el.slots i (if bad then 0xFFFFFFFF else v)
              badWord := if bad then some i.val else el.badWord }

/-- A REQ that a KSET brings must name a pull channel (R120). -/
def State.reqNamesPush (s : State) (task : Nat) (vt e : Fin 16) (v : Word) : Bool :=
  match decodeRule v with
  | .ok (.req x) => !(s.group task).img.isPull vt e x.c
  | _ => false

/-- The channel interface takes the control token at a head that no rule sees: a KSET is applied, any other raises 0x50. DEDUCED,
log entry 20. -/
def State.takeHidden (s : State) (task : Nat) (vt e : Fin 16) (c : Fin 4) : State :=
  let el := s.elem task vt e
  match (vget el.inq c).toks with
  | t :: _ =>
    if hiddenCtl t.side && !el.done then
      let g := s.group task
      let el := el.dequeue (fun c => g.img.isPull vt e c) [c]
      let el := { el with inq := vset el.inq c { vget el.inq c with stood := false } }
      let s := s.updElem task vt e fun _ => el
      if Side.op t.side = 6 && ksetOk (Side.sel t.side) then
        let s := s.updElem task vt e fun el => el.kset (Side.sel t.side) t.val
        if 0x20 ≤ Side.sel t.side && s.reqNamesPush task vt e t.val then
          s.updElem task vt e fun el =>
            let i : Fin 40 := ⟨(Side.sel t.side - 0x20) % 40, Nat.mod_lt _ (by decide)⟩
            { el with slots := vset el.slots i 0xFFFFFFFF, badWord := some i.val }
        else s
      else s.raise task (.fault 0x50 vt (.elem e) 0 0)
    else s
  | [] => s

/-- The element takes part in the step of its tile. -/
def State.elemLive (s : State) (task : Nat) (vt e : Fin 16) : Bool :=
  match s.group? task, s.inst? task vt with
  | some g, some x => g.live && g.isResident vt x && x.nodeLive (.elem e) && x.used.getLsbD e.val
  | _, _ => false

/-- KSET (R380): it is applied as the step ends in which it stood at the head. -/
def execKset (l : At) (e : Fin 16) (c : Fin 4) (s : State) : Out :=
  .next <| if s.elemLive l.task l.vt e && (vget (s.elem l.task l.vt e).inq c).stood then s.takeHidden l.task l.vt e c else s

/-! ### Routes out of buffers (R44, R525) -/

/-- A ridgeline route: between buffers of two tiles. -/
def Edge.ridge (e : Edge) : Bool :=
  match e.src, e.dst with
  | .buf _ _, .buf _ _ => true
  | _, _ => false

/-- The head of a buffer leaves on each of its routes, once every consumer has room: a data or control token, or a CAIRN that passes it. A
ridgeline hands it to the other tile's buffer. DEDUCED, log entry 106. -/
def State.giveHead (s : State) (task : Nat) (vt : Fin 16) (b : Fin 32) : State :=
  match (s.inst task vt).buf b.val with
  | [] => s
  | t :: r =>
    let g := s.group task
    if isCairn t.side || s.hasRoom task g (.buf vt b) 0 1 then
      let s := s.updInst task vt fun y => { y with bufs := y.bufs.put b.val r }
      let s := (g.img.from (.buf vt b)).foldl (fun s x =>
        if x.1.ridge then s.land task (s.group task) x.2 x.1.dst t else s.sendEdge task x t) s
      if isCairn t.side then s else s.progress task
    else s

/-- The buffers of a tile whose routes all go to channels each give a token. -/
def State.pump (s : State) (task : Nat) (vt : Fin 16) : State :=
  let i := (s.group task).img
  i.numbered.foldl (fun s x =>
    match x.1.src with
    | .buf v b =>
      let l := i.from x.1.src
      if v = vt ∧ l.head? == some x ∧ l.all fun y => !y.1.ridge then s.giveHead task vt b else s
    | _ => s) s

/-- RIDGELINE_TRANSFER (R525): one token from bdN of a tile to bdM of another, and along every other route of bdN. -/
def execRidgelineTransfer (task edge : Nat) (s : State) : Out :=
  .next <|
    match s.group? task with
    | none => s
    | some g =>
      match (g.img.edges.drop edge).head? with
      | some e =>
        if g.live && e.ridge then
          match e.src with
          | .buf vt b => s.giveHead task vt b
          | _ => s
        else s
      | none => s

end Sys2Proof.Machine
end

