-- ==== Sys2Proof/Machine/Reply.lean ====
section
/-! DEFINITION. Replies and completions, pad accesses, implicit seals that waited, translations, and the units that serve
semaphores, barriers and the directory (spec/06_memory.md R161, R166-R172; spec/12_pages.md R337-R338; spec/16_barriers.md
R421-R435; spec/11_tensors.md R312). -/

namespace Sys2Proof.Machine

/-! ### Writing a reply (R166-R168, R175) -/

/-- An acquire has performed at its scope (R171). -/
def Acc.acquired (a : Acc) : Bool :=
  !(a.order == .acq || a.order == .acqrel) || Scope.level a.scope ≤ a.perf.level

/-- The element after a reply to a register: the register, the stepped address, the predicate. -/
def Elem.takeReply (el : Elem) (a : Acc) (v : Word) (p : Bool) (deps : List Nat) : Elem :=
  let el := match a.dest with
    | .reg n => (el.setD n v deps).setPend n false
    | _ => el
  let el := match a.link with
    | some (x, off) => (el.setD x (v + off) deps).setPend x false
    | none => el
  match a.pw with
  | some n => el.setPred n p deps
  | none => el

/-- A reply or completion token reaches its element: a channel of an element that has executed DONE holds it (R153). DEDUCED, log
entry 88. -/
def State.deliver (s : State) (id : Nat) (a : Acc) (v : Word) (p : Bool) : State :=
  match a.task, a.node with
  | some t, .elem e =>
    let el := s.elem t a.vt e
    if el.done && (match a.dest with
        | .out _ => true
        | _ => false) then s
    else
      let deps := s.live ((id :: a.deps).eraseDups)
      let s := s.updElem t a.vt e fun el => el.takeReply a v p deps
      let s := match a.dest with
        | .out o => s.emitReply t a.vt e o id ⟨0, v, deps⟩ (el.portBlock.contains id)
        | _ => s
      ((s.setAcc id { a with answered := true }).progress t).reap id
  | _, _ => s

/-- The request of a number, when its group is there to take the reply. -/
def State.pendingAcc (s : State) (id : Nat) : Option Acc :=
  match s.accs.get? id with
  | some a => if a.held || (a.task.bind fun t => s.inst? t a.vt).isNone then none else some a
  | none => none

/-- The value of an answered request delivered. -/
def State.deliverReply (s : State) (id : Nat) (a : Acc) : State :=
  match a.reply with
  | some v => if !a.answered && a.acquired then s.deliver id a v (v != 0) else s
  | none => s

/-- The pad and the bank that a request reaches, by the physical tile that owns the pad (R15). -/
def State.bankOf (s : State) (a : Acc) : Option (Nat × Nat) :=
  let bank (vt : Fin 16) (off : Nat) : Option (Nat × Nat) := a.task.map fun t =>
    let p := s.padAddr (s.group t) (s.inst t vt) vt off
    (p / 262144, p / 32 % 32)
  match a.req with
  | .padRd vt off _ | .padWr vt off _ _ => bank vt off
  | _ => none

/-- An access of a lower-numbered port of the same tile, of the same step, still waits for the bank (R15). -/
def State.bankHeld (s : State) (a : Acc) : Bool :=
  s.accs.any fun x => x.2.task == a.task && x.2.vt == a.vt && x.2.step == a.step && decide (Node.port x.2.node < Node.port a.node)
    && x.2.perf == .none && (s.bankOf x.2).isSome && s.bankOf x.2 == s.bankOf a && s.accReady x.2

/-- A wait for a bank is counted (R505). DEDUCED, log entry 110. -/
def State.bankWait (s : State) (a : Acc) : State :=
  match a.task with
  | some t => s.countAt t a.vt 0x15 1
  | none => s

/-- LOAD_REPLY (R166): a pad is read as its bank is reached; other loads carry their answer. -/
def execLoadReply (id : Nat) (s : State) : Out :=
  .next <|
    match s.pendingAcc id with
    | none => s
    | some a =>
      match a.req, a.task with
      | .padRd vt off n, some t =>
        if a.answered || (a.reply.isNone && (!s.accReady a || s.heapHeld t vt off n)) then s
        else if a.reply.isNone && s.bankHeld a then s.bankWait a
        else
          let v := a.reply.getD (BitVec.ofNat 32 (leNat (s.padRead t (s.group t) vt off n)))
          let a := { a with reply := some v, perf := .span }
          (s.setAcc id a).deliver id a v (v != 0)
      | .rd _ _, _ | .fe _ .ldfe, _ | .fe _ .ldfec, _ => s.deliverReply id a
      | _, _ => s

/-- ATOMIC_REPLY (R185). -/
def execAtomicReply (id : Nat) (s : State) : Out :=
  .next <|
    match s.pendingAcc id with
    | none => s
    | some a =>
      match a.req with
      | .atom .. => s.deliverReply id a
      | _ => s

/-- The completion token of an access that has performed at its scope (R172). -/
def State.complete (s : State) (id : Nat) (a : Acc) : State :=
  if !a.answered && Scope.level a.scope ≤ a.perf.level then s.deliver id a a.tokVal true else s

/-- STORE_COMPLETION (R172, R183, R388): a pad is written as its bank is reached; a fence performs when what it waits for
has. -/
def execStoreCompletion (id : Nat) (s : State) : Out :=
  .next <|
    match s.pendingAcc id with
    | none => s
    | some a =>
      match a.req, a.task with
      | .padWr vt off n v, some t =>
        if a.perf != .none then s.complete id a
        else if !s.accReady a || s.heapHeld t vt off n || s.padHeld t a.vt a.node then s
        else if s.bankHeld a then s.bankWait a
        else
          let s := s.padWrite t vt off (leBytes n v.toNat)
          let a := { a with perf := .span, reply := some 0 }
          ((s.setAcc id a).complete id a).reap id
      | .fence, _ =>
        if a.answered || s.unperformed a.deps (Scope.level a.scope) then s
        else
          let a := { a with perf := .span, reply := some 0, answered := a.dest == .none }
          let s := s.setAcc id a
          if a.dest == .none then
            (match a.task, a.node with
             | some t, .elem e =>
               (s.updElem t a.vt e fun el => { el with portBlock := el.portBlock.filter (· != id) }).reap id
             | _, _ => s.reap id)
          else s.deliver id a 0 true
      | .wr .., _ | .disc .., _ | .fe _ (.stfe _), _ => s.complete id a
      | _, _ => s

/-- DIRECTORY_REPLY (R322). -/
def execDirectoryReply (id : Nat) (s : State) : Out :=
  .next <|
    match s.pendingAcc id with
    | none => s
    | some a =>
      match a.req with
      | .dir _ => s.deliverReply id a
      | _ => s

/-- FILL_GRANT (R301): the meter rises with the grant. -/
def execFillGrant (id : Nat) (s : State) : Out :=
  .next <|
    match s.pendingAcc id with
    | none => s
    | some a =>
      match a.req, a.task, a.reply with
      | .fill asked, some t, some v =>
        if a.answered then s
        else
          let s := s.updInst t a.vt fun x => { x with meter := x.meter + 256 * a.tokVal.toNat }
          let a := { a with tokVal := 0 }
          (s.setAcc id a).deliver id a v (v.toNat < asked)
      | _, _, _ => s

/-- PKRD_REPLY (R302): the balance as the hub's account holds it. -/
def execPkrdReply (id : Nat) (s : State) : Out :=
  .next <|
    match s.pendingAcc id with
    | none => s
    | some a =>
      match a.req, a.task with
      | .pkrd, some t =>
        if a.answered then s
        else
          let v := a.reply.getD (BitVec.ofNat 32 (min (s.ctx (s.group t).ctx).acct (2 ^ 32 - 1)))
          let a := { a with reply := some v, perf := .span }
          (s.setAcc id a).deliver id a v (v != 0)
      | _, _ => s

/-- FPOLL_REPLY (R415); a SPAWN takes the answer to its own look as it fires. -/
def execFpollReply (id : Nat) (s : State) : Out :=
  .next <|
    match s.pendingAcc id with
    | none => s
    | some a =>
      match a.req with
      | .fut _ .poll => if a.isLook then s else s.deliverReply id a
      | _ => s

/-- SEMWAIT_ANSWER (R428): the answer of SEMWAIT, and the reply of SEMRD. -/
def execSemwaitAnswer (id : Nat) (s : State) : Out :=
  .next <|
    match s.pendingAcc id with
    | none => s
    | some a =>
      match a.req with
      | .sem .. => s.deliverReply id a
      | _ => s

/-- BARRIER_ANSWER (R432). -/
def execBarrierAnswer (id : Nat) (s : State) : Out :=
  .next <|
    match s.pendingAcc id with
    | none => s
    | some a =>
      match a.req with
      | .bar .. => s.deliverReply id a
      | _ => s

/-- IMPLICIT_SEAL (R294): the first seal that waits opens when no cut is in progress. -/
def execImplicitSeal (l : At) (s : State) : Out :=
  .next <|
    match s.group? l.task with
    | none => s
    | some g =>
      match g.seals with
      | (vt, node, closer) :: r =>
        if g.live && g.cut.isNone && vt = l.vt then
          State.openSeal (s.updGroup l.task fun g => { g with seals := r }) l.task vt node closer
        else s
      | [] => s

/-! ### Translations (R161, R337-R339) -/

/-- The page of an entry is not valid. -/
def State.transBad (s : State) (obj page : Nat) : Bool :=
  match s.objs.get? obj with
  | some o => !(o.pages.getD page {}).v
  | none => true

/-- A fill of a tile ends with an entry, bad or not. -/
def State.endFill (s : State) (tile : Nat) (t : Trans) (bad : Bool) : State :=
  let x := s.tile tile
  let fills := x.fills.filter fun u => !u.same t
  if bad && t.pref then s.setTile tile { x with fills := fills }
  else s.setTile tile { x with fills := fills, cache := lruPut 64 { t with bad := bad, pref := false } x.cache }

/-- TRANSLATION_FILL (R161, R338): a tile's fill is found in its region's cache, or asks for a walk. -/
def execTranslationFill (tile i : Nat) (s : State) : Out :=
  .next <|
    match ((s.tile tile).fills.drop i).head? with
    | none => s
    | some t =>
      let r := tile / 16
      match s.slot? t.ctx t.key with
      | none => s.endFill tile t true
      | some sl =>
        let u : Trans := { t with key := sl.obj, tile := tile }
        if (s.region r).cache.any (·.same u) then
          (s.updRegion r fun x => { x with cache := regionPut { u with bad := false, pref := false } x.cache }).endFill tile t
            (s.transBad sl.obj t.page)
        else
          let fresh := !((s.region r).walks.any (·.same u) || (s.region r).waiting.any (·.same u))
          let s := if fresh then s.count r (some t.ctx) (s.tile tile).owner 0x17 1 else s
          s.updRegion r fun x => x.askWalk u

/-- PAGE_WALK (R338): a walk reads the entry from this die's page table, once the page moves no more (R335); its fill returns to every port
that waits. -/
def execPageWalk (r i : Nat) (s : State) : Out :=
  .next <|
    match ((s.region r).walks.drop i).head? with
    | none => s
    | some t =>
      if (s.objs.get? t.key).any fun o => (o.pages.getD t.page {}).moving.isSome then s
      else
      let bad := s.transBad t.key t.page
      let s := s.updRegion r fun x =>
        Region.startWalks 16 { x with walks := x.walks.filter (fun u => !u.same t)
                                      cache := if bad then x.cache else regionPut { t with bad := false, pref := false } x.cache }
      let s := s.count r (some t.ctx) (s.tile t.tile).owner 0x18 1
      (List.range 16).foldl (fun s k =>
        let tile := r % 64 * 16 + k
        (s.tile tile).fills.foldl (fun s f =>
          if f.ctx == t.ctx && f.page == t.page && (match s.slot? f.ctx f.key with
              | some sl => sl.obj == t.key
              | none => false) then s.endFill tile f bad else s) s) s

/-! ### The sync units and the directory (R312, R421, R424) -/

/-- An earlier request of the same element to the sync unit has still to be served (R421); one withdrawn has been served. -/
def State.syncBefore (s : State) (id : Nat) (a : Acc) : Bool :=
  s.accs.any fun x => decide (x.1 < id) && x.2.task == a.task && x.2.vt == a.vt && x.2.node == a.node
    && x.2.reply.isNone && !x.2.deferred && !x.2.held && !x.2.staged && !x.2.queued && (match x.2.req with
      | .sem .. | .bar .. => true
      | _ => false)

/-- The first released semaphore entry of a tile that has still to be served. -/
def State.nextSemRelease (s : State) (task : Nat) (vt : Fin 16) : Option Staged :=
  (s.inst task vt).staged.find? fun e => e.released && !e.sent && (match e.what with
    | .req _ => !s.isMemEntry e
    | _ => false)

/-- The request may join the queue of a region's sync unit. -/
def State.syncJoins (s : State) (r id : Nat) : Bool :=
  match s.accs.get? id with
  | none => false
  | some a =>
    let home := match a.req, a.task with
      | .sem c _ _, _ => s.semHome c == r
      | .bar _ _, some t => s.physRegion (s.group t).region == r
      | _, _ => false
    home && !a.queued && (if a.staged then
        (match s.entryOf a id with
         | some (t, e) => (s.nextSemRelease t a.vt).any fun f => f.no == e.no
         | none => false)
      else s.accReady a && !s.syncBefore id a)

/-- The kernel of a request's task does not name its semaphore or barrier (R365). -/
def State.undeclared (s : State) (a : Acc) : Bool :=
  match a.req, a.task with
  | .sem _ m _, some t => !(s.group t).img.sems.getLsbD m.val
  | .bar n _, some t => !(s.group t).img.bars.getLsbD n.val
  | _, _ => false

/-- The entry that a served staged request belongs to has performed. -/
def State.semSent (s : State) (a : Acc) (id : Nat) : State := if a.staged then s.afterStaged a id else s

/-- The unit serves the oldest request of its queue; one that its kernel does not declare raises 0x53 (R365). -/
def State.serveSync (s : State) (r : Nat) : State :=
  match (s.region r).sq with
  | [] => s
  | id :: rest =>
    let s := s.updRegion r fun x => { x with sq := rest }
    match s.accs.get? id with
    | none => s
    | some a =>
      let s := s.setAcc id { a with queued := false }
      if s.undeclared a then
        match a.task with
        | some t => State.semSent (State.raise { s with accs := s.accs.del id } t (.fault 0x53 a.vt a.node a.opc a.rule)) a id
        | none => s
      else
      match a.req, a.task with
      | .sem c m op, _ => ((s.count r (some c) a.task 0x1D 1).serveSem id c m op).semSent a id
      | .bar n op, some t =>
        let s := s.serveBar id t a.vt a.node n op
        if (s.accs.get? id).any (·.deferred) then s.countAt t a.vt 0x1E 1 else s
      | _, _ => s

/-- The step's arrivals join the unit's queue in the order of R189, then one request is served (R421); the unit of a fenced region accepts
none (R25). -/
def State.syncTurn (s : State) (r : Nat) (arrivals : List Nat) : State :=
  if s.fenced.getLsbD r then s
  else
  let ok := s.hubInOrder (s.syncJoins r) (arrivals.eraseDups.filter fun i => s.syncJoins r i)
  let (order, last) := s.ordered (s.region r).sLast ok
  let s := s.updRegion r fun x => { x with sq := x.sq ++ order, sLast := last }
  let s := order.foldl (fun s i => s.updAcc i fun a => { a with queued := true }) s
  s.serveSync r

end Sys2Proof.Machine
end

