-- ==== Sys2Proof/Machine/Wire.lean ====
section
/-! DEFINITION. Routes, forming and sending flits, replay buffers, and what the failure of a link does to what waits on it
(spec/19_links.md R477-R489). -/

namespace Sys2Proof.Machine

/-! ### Flits (R479, R480) -/

def Msg.type (m : Msg) : Nat :=
  match m with
  | .idle => 0
  | .read .. | .reads .. => 1
  | .readRep .. => 2
  | .write .. => 3
  | .applied _ => 4
  | .atom .. | .fe .. | .fut _ _ _ _ .poll => 5
  | .atomRep .. | .refused .. => 6
  | .probe => 7
  | .probeAns _ => 8
  | .fullClock _ => 9
  | .move .. => 10
  | .fut .. | .freed _ | .freedOk _ | .made .. | .shared _ | .entry .. | .flags .. | .unpin .. | .dead .. | .pgout .. | .still .. | .stilled .. | .cancel _ | .cancelled _ | .wake .. => 11

/-- The flit raises its source's counter (R480, R486). -/
def Msg.counted (m : Msg) : Bool := m.type == 3 || m.type == 5 || m.type == 10 || m.type == 11

/-- The number of the own request that the message carries. -/
def Msg.request (m : Msg) : Option Nat :=
  match m with
  | .read id .. | .reads id .. | .write id .. | .atom id .. | .fe id .. | .fut id .. | .dead id .. => if id = 0 then none else some id
  | _ => none

/-- The byte that a request of another die reaches. -/
def Msg.place (m : Msg) : Option (Nat × Nat) :=
  match m with
  | .read _ obj byte _ | .atom _ _ obj byte _ _ | .fe _ _ obj byte _ | .fut _ _ obj byte _ => some (obj, byte)
  | .reads _ l _ => l.head?
  | .write _ _ obj cells => some (obj, (cells.head?.map (·.1)).getD 0)
  | _ => none

/-- What the hub tells other dies of an object. -/
def Msg.tells (m : Msg) (obj : Nat) : Bool :=
  match m with
  | .made o _ | .shared o | .entry o .. | .flags o .. | .unpin o _ | .dead _ o .. | .still o .. | .stilled o .. | .move o .. => o == obj
  | _ => false

/-- A list cut or padded with zeros to a length. -/
def fit (n : Nat) (l : List Byte) : List Byte := (l ++ List.replicate n 0).take n

/-- A clock entry (R479). -/
def clockEntry (k : Nat) (v : BitVec 16) : List Byte := leBytes 4 (k * 65536 + v.toNat)

/-- Bytes 0 to 235 of a flit with the link's own fields 0 and the payload in clear (R479). DESIGN CHOICE, log entry 9. -/
def formFlit (m : Msg) (src dst : Nat) (scnt : BitVec 16) (clock : List (Nat × BitVec 16)) : List Byte :=
  let body := Config.payload m
  leBytes 4 (m.type * 2 ^ 28 + src * 2 ^ 24 + dst * 2 ^ 20 + clock.length)
    ++ leBytes 4 (scnt.toNat * 65536 + min 216 body.length)
    ++ fit 12 (clock.flatMap fun (x : Nat × BitVec 16) => clockEntry x.1 x.2) ++ fit 216 body

/-- The flit as a link sends it: SEQ, ACK and NAK set, payload and tag under the link's key, CRC (R479, R481, R482). DEDUCED, log
entry 68. UNVERIFIED, log entry 70. -/
def Lnk.frame (l : Lnk) (n : Fin 8) (plain : List Byte) : Flit :=
  let h := leNat (plain.take 4)
  let head := leBytes 4 (h / 2 ^ 20 * 2 ^ 20 + l.txSeq.toNat * 2 ^ 12 + (l.rxSeq - 1).toNat * 2 ^ 4 + (if l.nak then 8 else 0) + h % 8)
    ++ (plain.drop 4).take 16
  let nonce := l.epoch.toNat * 2 ^ 64 + l.sent.toNat
  let body := plain.drop 20
  let b := head ++ fit 216 (Config.sealPayload n.val true nonce head body) ++ fit 16 (Config.sealTag n.val true nonce head body)
  b ++ leBytes 4 (crc32 b).toNat

/-! ### Routes (R477, R478, R485) -/

/-- The route byte of a destination. -/
def State.routeByte (s : State) (k : Nat) : Nat :=
  if k < 8 then s.routeLo.toNat / 2 ^ (8 * k) % 256 else s.routeHi.toNat / 2 ^ (8 * (k % 8)) % 256

def routePri (b : Nat) : Fin 8 := ⟨b % 8, Nat.mod_lt _ (by decide)⟩
def routeAlt (b : Nat) : Fin 8 := ⟨b / 16 % 8, Nat.mod_lt _ (by decide)⟩
def routeHasAlt (b : Nat) : Bool := b / 8 % 2 == 1
def routeValid (b : Nat) : Bool := b / 128 % 2 == 1

/-- The link on which flits for a destination leave: the primary one, or the alternate since the primary failed. DEDUCED, log entry
73. -/
def State.linkTo (s : State) (k : Nat) : Fin 8 :=
  if s.onAlt.getLsbD k then routeAlt (s.routeByte k) else routePri (s.routeByte k)

/-- The link carries new flits. -/
def Lnk.open_ (l : Lnk) : Bool := l.st == .up || l.st == .degraded

/-- Messages can reach a die. -/
def State.reaches (s : State) (d : Nat) : Bool := routeValid (s.routeByte d) && (vget s.lnks (s.linkTo d)).st != .failed

/-! ### Accesses that cannot be served (R478, R485) -/

/-- A request whose flit or answer is lost fails with 0x60; a released write that is lost is never applied (R485). DEDUCED, log
entry 74. -/
def State.failAcc (s : State) (id : Nat) : State :=
  match s.accs.get? id with
  | none => s
  | some a =>
    match a.task with
    | none => { s with accs := s.accs.del id }
    | some t =>
      let s := (s.setAcc id { a with remote := false }).raise t (.fault 0x60 a.vt a.node a.opc a.rule)
      if a.staged then s.afterStaged a id else { s with accs := s.accs.del id }

/-- Requests sent to a die and not answered. -/
def State.waitingOn (s : State) (n : Fin 8) : List Nat :=
  (s.accs.filter fun x => x.2.remote && x.2.reply.isNone && x.2.perf != .span
    && (if x.2.acks.isEmpty then s.linkTo x.2.sentTo == n else x.2.acks.any fun d => s.linkTo d == n)).map (·.1)

/-! ### Sending (R481, R486-R489) -/

/-- A flit enters the replay buffer of a link and is sent. DEDUCED, log entry 68. -/
def State.push (s : State) (n : Fin 8) (dst : Nat) (m : Msg) (plain : List Byte) : State :=
  let l := vget s.lnks n
  let k : Kept := { seq := l.txSeq, dst := dst, msg := m, plain := plain, flit := l.frame n plain }
  { s.countHub 0x28 1 with
    lnks := vset s.lnks n { l with kept := l.kept ++ [k], txSeq := l.txSeq + 1, sent := l.sent + 1, nak := false, wire := k.flit } }

/-- An IDLE flit carries the acknowledgement that a link owes, its NAK and ACK; it is not kept, and takes no SEQ (R480, R481). DESIGN
CHOICE, log entry 69. -/
def State.sendIdle (s : State) (n : Fin 8) : State :=
  let l := vget s.lnks n
  let me := s.die.toNat
  let f := l.frame n (formFlit .idle me l.peer.toNat (s.clk.toList.getD me 0) [])
  if l.open_ then { s.countHub 0x28 1 with lnks := vset s.lnks n { l with sent := l.sent + 1, nak := false, wire := f } } else s

/-- Counters of other dies that have changed since the last flit to a destination (R487). -/
def State.changed (s : State) (dst : Nat) : List (Nat × BitVec 16) :=
  let old := s.sentClk.getD dst []
  (List.range 16).filterMap fun k =>
    let v := s.clk.toList.getD k 0
    if k = s.die.toNat || v = old.getD k 0 then none else some (k, v)

/-- A flit of this die's own is formed, its counter raised when it is counted, and sent; where more than three other counters have
changed a full clock goes first, formed before the counter rises (R486, R487). -/
def State.form (s : State) (n : Fin 8) (dst : Nat) (m : Msg) : State :=
  let me := s.die.toNat
  let own : Fin 16 := s.die.toFin
  let ch := s.changed dst
  let s :=
    if 3 < ch.length then
      s.push n dst (.fullClock s.clk.toList) (formFlit (.fullClock s.clk.toList) me dst (vget s.clk own) [])
    else s
  let s : State := if m.counted then { s with clk := vset s.clk own (vget s.clk own + 1) } else s
  let s := s.push n dst m (formFlit m me dst (vget s.clk own) (if 3 < ch.length then [] else ch))
  { s with sentClk := s.sentClk.put dst s.clk.toList }

/-- Dies of the span whose last report of this die's counter lags by 2^14 or more (R489). -/
def State.lagging (s : State) : List Nat :=
  (List.range (s.spm1.toNat + 1)).filter fun k =>
    k != s.die.toNat && 16384 ≤ (s.clk.toList.getD s.die.toNat 0 - s.seenBy.toList.getD k 0).toNat

/-- A message can wait while its link cannot carry it: what the hub tells other dies (R474). -/
def Msg.waits (m : Msg) : Bool := m.type == 11 && m.request.isNone

/-- A message goes before those for its destination that have not been sent, and after those that have been (R488). -/
def Tx.before (t : Tx) (l : List Tx) : List Tx :=
  (l.filter fun x => x.dst == t.dst && x.formed.isSome) ++ t :: l.filter fun x => !(x.dst == t.dst && x.formed.isSome)

/-- One message tried: none where it must wait. DEDUCED, log entry 74. -/
def State.trySend (s : State) (t : Tx) : Option State :=
  let n := s.linkTo t.dst
  let l := vget s.lnks n
  let lost : Option State :=
    if t.msg.waits && t.formed.isNone then none
    else some (match t.formed, t.msg with
      | some _, _ => s
      | none, .probe => { s with probed := s.probed &&& ~~~(BitVec.ofNat 16 (2 ^ t.dst)) }
      | none, m => m.request.elim s s.failAcc)
  if !routeValid (s.routeByte t.dst) then lost
  else if l.st == .failed then lost
  else if !l.open_ || 64 < l.kept.length + (if t.formed.isNone && 3 < (s.changed t.dst).length then 2 else 1) then none
  else
    match t.formed with
    | some plain => some (s.push n t.dst t.msg plain)
    | none => if t.msg.counted && !s.lagging.isEmpty then none else some (s.form n t.dst t.msg)

/-- What can be sent is sent; messages for one die keep their order (R477), but what waits for a die that cannot be reached keeps no access
from failing (R478). DEDUCED, log entry 72. -/
def State.sendAll : List Tx → List Nat → State → State
  | [], _, s => s
  | t :: ts, blocked, s =>
    if blocked.contains t.dst then State.sendAll ts blocked { s with tx := s.tx ++ [t] }
    else
      match s.trySend t with
      | some s => State.sendAll ts blocked s
      | none => State.sendAll ts (if s.reaches t.dst then t.dst :: blocked else blocked) { s with tx := s.tx ++ [t] }

/-- Clock probes to dies that have none outstanding; they go before what waits (R488, R489). -/
def State.askClocks (s : State) (dies : List Nat) : State :=
  (dies.filter fun k => !s.probed.getLsbD k).foldl (fun s k =>
    { s with probed := s.probed ||| BitVec.ofNat 16 (2 ^ k), tx := Tx.before { dst := k, msg := .probe } s.tx }) s

/-- The link controllers send what waits. DEDUCED, log entry 72. -/
def State.transmit (s : State) : State :=
  let s := if s.tx.any fun t => t.formed.isNone && t.msg.counted then s.askClocks s.lagging else s
  State.sendAll s.tx [] { s with tx := [] }

/-! ### Failure of a link (R485) -/

/-- Flits of other dies and own accesses that would have left over a link that has failed are lost with those that it kept; what the hub
tells other dies stays (R474, R485). -/
def State.dropUnsent (s : State) (n : Fin 8) : State :=
  { s with tx := s.tx.filter fun t => s.linkTo t.dst != n || (t.formed.isNone && t.msg.request.isNone) }

/-- A link has entered FAILED or DOWN: kept flits go to the alternate link of their destination, before what waits; where there is
none, or it has failed too, they are lost with the accesses that wait on them. A freed object is told again. DEDUCED, log entry 73. -/
def State.failover (s : State) (n : Fin 8) : State :=
  let l := vget s.lnks n
  let moves (k : Nat) : Bool :=
    let b := s.routeByte k
    routeValid b && routeHasAlt b && decide (routePri b = n) && !s.onAlt.getLsbD k && (vget s.lnks (routeAlt b)).st != .failed
  let alt := (List.range 16).foldl (fun (v : BitVec 16) k => if moves k then v ||| BitVec.ofNat 16 (2 ^ k) else v) s.onAlt
  let go := l.kept.filter fun k => moves k.dst
  let lost := l.kept.filter fun k => !moves k.dst
  let s : State := { s with
    onAlt := alt
    probed := 0
    lnks := vset s.lnks n { l with kept := [], nak := false, bad := 0 }
    tx := go.map (fun k => { dst := k.dst, msg := k.msg, formed := some k.plain }) ++ s.tx }
  let mine := lost.filter fun k => leNat ((k.plain.drop 3).take 1) % 16 == s.die.toNat
  let again := mine.filterMap fun k => match k.msg with
    | .freed obj => some { dst := k.dst, msg := .freed obj : Tx }
    | _ => none
  let s := (mine.filterMap fun k => k.msg.request).foldl State.failAcc s
  let s := ((s.waitingOn n).foldl State.failAcc s).dropUnsent n
  { s with tx := again ++ s.tx }

end Sys2Proof.Machine
end

