-- ==== Sys2Proof/Machine/Release.lean ====
section
/-! DEFINITION. What a completed cut releases besides memory: binds, declarations, joins, triggers (spec/10_charge.md
R292, R297; spec/11_tensors.md R319, R329; spec/15_queues.md R408-R413); and the turns of the units that perform the rest
of a release. -/

namespace Sys2Proof.Machine

/-- A released declaration enters DECLARED; one whose references fail is ABORTED at once (R408, R410). DEDUCED, log entry 26. -/
def State.releaseSpawn (s : State) (ctx task id w : Nat) (slots : List Nat) : State :=
  match TaskRec.parse w with
  | none => s
  | some r =>
    let first := (s.lastTask + 1).toNat
    let s := { s with spawns := s.spawns.put id first }
    let open_ := r.npred - r.futs.length
    match firstCode (s.refHub ctx) (r.ownf :: r.futs) with
    | none =>
      (s.declare ctx r slots none).updSpread first fun t =>
        { t with parent := if open_ = 0 then none else some task, openSlots := open_ }
    | some _ =>
      let s := { s with spreads := s.spreads.put first { left := slots.length, ownf := r.ownf, ctx := ctx } }
      let s := s.addTasks ctx first r none 0 0 slots
      ((s.tasks.filter fun x => x.2.first == first).map (·.1)).foldl State.abortWaiting s

/-- A released join takes the next open slot of its continuation, and its request goes to the future's engine; the entry has performed when it
is answered (R411, R491, R520). A reference that fails its checks reaches no future (R408). DEDUCED, log entry 77. -/
def State.releaseJoin (s : State) (task : Nat) (vt : Fin 16) (e : Staged) (spawn no : Nat) (ref : Word) : State :=
  let sent := s.entrySent task vt e.no
  match s.spawns.get? spawn with
  | none => sent
  | some first =>
    match s.tasks.get? first with
    | none => sent
    | some t =>
      let open_ (s : State) : State := s.updSpread first fun t => { t with openSlots := t.openSlots - 1 }
      match s.refHub (s.group task).ctx ref, e.accs.head? with
      | .ok l, some (id, _) =>
        ((open_ s).updAcc id fun a => { a with req := .fut l (.join (t.slot * 16 + no) first), deps := [] }).updInst task vt fun x =>
          { x with staged := x.staged.map fun y => if y.no = e.no then { y with what := .req id } else y }
      | _, _ => (open_ sent).failWaiter first

/-- A released TRIGGER marks its instance, once (R413). DEDUCED, log entry 44. -/
def State.releaseTrigger (s : State) (task : Nat) : State :=
  match s.tasks.get? task with
  | none => s
  | some t =>
    if t.trec.etrig && !t.triggered then (s.updTask task fun t => { t with triggered := true }).countTrigger t.first else s

/-- The entry is one that the hub itself applies. -/
def Staged.isHub (e : Staged) : Bool :=
  match e.what with
  | .binds _ | .spawn .. | .join .. | .trigger => true
  | _ => false

/-- The next entry that the hub applies of a group: the lowest staging number among those whose turn has come, none while writes of
their cut or effects of an earlier one have not performed, or an earlier semaphore operation of the same tile (R297, R329, R424,
R445). DEDUCED, log entry 82. -/
def State.nextHub (s : State) (task : Nat) : Option (Fin 16 × Staged) :=
  let all := (s.group task).vts.flatMap fun vt =>
    let l := (s.inst task vt).staged.filter fun e => e.released && !e.sent && !s.isMemEntry e
    (match l.head? with
     | some e => if e.isHub && s.mayPerform task e then [(vt, e)] else []
     | none => [])
  all.foldl (fun b x => match b with
    | none => some x
    | some y => if x.2.no < y.2.no then some x else b) none

/-- What the hub does for a released entry of a tile; but for a join, it has then performed. -/
def State.applyHub (s : State) (task : Nat) (vt : Fin 16) (e : Staged) : State :=
  let ctx := (s.group task).ctx
  let sent := s.entrySent task vt e.no
  match e.what with
  | .binds l => (sent.releaseBinds ctx l).countAt task vt 0x1F 1
  | .spawn id w slots => sent.releaseSpawn ctx task id w slots
  | .join sp no ref => s.releaseJoin task vt e sp no ref
  | .trigger => sent.releaseTrigger task
  | _ => sent

/-- A released entry of the group has still to perform. -/
def State.releasing (s : State) (task : Nat) : Bool :=
  (s.group task).vts.any fun vt => (s.inst task vt).staged.any fun e => e.released && !e.sent

/-- Entries that have performed leave the commit buffers, once every released entry of the group has (R173). -/
def State.sweep (s : State) (task : Nat) : State :=
  if s.releasing task then s
  else (s.group task).vts.foldl (fun s vt => s.updInst task vt fun x =>
    { x with staged := x.staged.filter fun e => !e.sent }) s

/-- The hub applies what a group has released, as far as it may; what has performed leaves the buffers. DEDUCED, log entry 82. -/
def State.settle : Nat → State → Nat → State
  | 0, s, _ => s
  | n + 1, s, task =>
    match s.nextHub task with
    | some (vt, e) => State.settle n (s.applyHub task vt e) task
    | none => s.sweep task

/-- Entries of a group's commit buffers. -/
def State.stagedCount (s : State) (task : Nat) : Nat :=
  ((s.group task).vts.map fun vt => (s.inst task vt).staged.length).sum

def State.settleAll (s : State) : State := s.groups.foldl (fun s g => State.settle (s.stagedCount g.1 + 1) s g.1) s

end Sys2Proof.Machine
end

