-- ==== Sys2Proof/Machine/Cut.lean ====
section
/-! DEFINITION. Cairn cuts: seeding, passage, completion, and the rollback to a cut (spec/10_charge.md R295-R300, R304;
spec/14_groups.md R383-R388; spec/11_tensors.md R320-R321; spec/16_barriers.md R430). -/

namespace Sys2Proof.Machine

/-! ### What a cut records of a node (R296, R386) -/

/-- The nodes of a group with their tiles. -/
def State.groupNodes (s : State) (task : Nat) : List (Fin 16 × Node) :=
  (s.group task).vts.flatMap fun vt => (s.inst task vt).nodes.map fun n => (vt, n)

/-- What came in at an edge's end without the last tokens, those behind the CAIRN. -/
def Cut.ahead {α : Type} (c : Cut) (k : Nat) (l : List α) : List α := l.take (l.length - c.behind.getD k 0)

/-- The place under which a buffer counts what is behind the CAIRN: the edge into it, or the buffer itself. -/
def Image.bufPlace (i : Image) (vt : Fin 16) (b : Fin 32) : Nat :=
  match i.into (.buf vt b) with
  | some (_, k) => k
  | none => bufKey vt b.val

/-- The tokens of a buffer that belong to the cut (R386). -/
def State.cutBuf (s : State) (task : Nat) (c : Cut) (vt : Fin 16) (b : Fin 32) : List Wtok :=
  c.ahead ((s.group task).img.bufPlace vt b) (((s.inst task vt).buf b.val).filter fun t => !isCairn t.side)

/-- The channels of an element as the cut records them. -/
def State.cutElem (s : State) (task : Nat) (c : Cut) (vt e : Fin 16) : Elem :=
  let i := (s.group task).img
  let el := s.elem task vt e
  { el with
    pulls := Vector.ofFn fun o : Fin 4 => vget el.pulls o -
      ((i.from (.out vt e o)).map fun x => c.behind.getD (reqPath x.2) 0).sum
    inq := Vector.ofFn fun n : Fin 4 =>
      let ch := vget el.inq n
      match i.into (.inp vt e n) with
      | some (_, k) => { ch with toks := c.ahead k ch.toks, incoming := [], reqs := 0, stood := false }
      | none => { ch with incoming := [], reqs := 0, stood := false } }

/-- A bound channel as the cut records it. -/
def State.cutBnd (s : State) (task : Nat) (c : Cut) (vt : Fin 16) (k : Fin 3) (ch : Chan) : Chan :=
  match (s.group task).img.into (.bnd vt k) with
  | some (_, n) => { ch with toks := c.ahead n ch.toks }
  | none => ch

/-- Requests of a node that a cut records: an engine's reads among them, whose replies it takes before it reads anew (R279; DEDUCED,
log entry 12). -/
def State.cutAccs (s : State) (task : Nat) (vt : Fin 16) (n : Node) : Assoc Acc :=
  s.accs.filter fun x => x.2.task == some task && x.2.vt == vt && x.2.node == n && !x.2.finished && !x.2.isLook

/-- The private state of a node written into the record of its tile: a tile has one ARSTAT, as its last node to pass finds it (R63; DESIGN
CHOICE, log entry 93). DEDUCED, log entry 12. -/
def State.recordNode (s : State) (task : Nat) (c : Cut) (vt : Fin 16) (n : Node) : Cut :=
  let x := s.inst task vt
  let i := (s.group task).img
  let c0 := c
  let c := c.updRec vt fun r =>
    let r := { r with arstat := x.arstat, accs := (s.cutAccs task vt n).foldl (fun m y => Assoc.put m y.1 y.2) r.accs }
    match n with
    | .elem e => { r with elems := r.elems.put e.val (s.cutElem task c0 vt e) }
    | .vector => { r with vec := some x.vec, heap := x.heap }
    | .matrix => { r with mat := some x.mat }
    | .streamA => { r with sa := some { x.sa with bnd := s.cutBnd task c0 vt 0 x.sa.bnd } }
    | .streamB => { r with sb := some { x.sb with bnd := s.cutBnd task c0 vt 1 x.sb.bnd } }
    | .copy => { r with cpy := some { x.cpy with bnd := s.cutBnd task c0 vt 2 x.cpy.bnd } }
    | .seq => r
  (s.group task).vts.foldl (fun c v =>
    (List.range 32).foldl (fun c b =>
      let b : Fin 32 := ⟨b % 32, Nat.mod_lt _ (by decide)⟩
      if i.consumer (s.inst task v) (.buf v b) == some (vt, n) then
        c.updRec v fun r => { r with bufs := r.bufs.put b.val (s.cutBuf task c0 v b) }
      else c) c) c

/-- The first physical byte of a copy's pad, and its bytes that are not 0, by offset. -/
def State.padCells (s : State) (g : Group) (x : Inst) (vt : Fin 16) : List Host.Cell :=
  let a := s.padAddr g x vt 0
  let w := padWindow g.img.pad
  (s.mem.filter fun c => a ≤ c.1 && c.1 < a + w).map fun c => (c.1 - a, c.2)

/-- The pads of every tile written into the record. -/
def State.recordPads (s : State) (task : Nat) (c : Cut) : Cut :=
  let g := s.group task
  g.vts.foldl (fun c vt => c.updRec vt fun r => { r with pad := s.padCells g (s.inst task vt) vt }) c

/-- The record of a group as it stands: that of cut 0 at arm. -/
def State.recordAll (s : State) (task : Nat) : CutRec :=
  (s.recordPads task ((s.groupNodes task).foldl (fun c n => s.recordNode task c n.1 n.2) {})).record

/-! ### Seeding and passage (R384-R388, R300) -/

/-- CAIRN_SEED (R384): the lowest stage that holds a node which has not passed is reached. -/
def execCairnSeed (task : Nat) (s : State) : Out :=
  .next <|
    match s.group? task with
    | none => s
    | some g =>
      match g.live, g.cut with
      | true, some c =>
        let stage (n : Fin 16 × Node) : Nat := (s.inst task n.1).cfg.stage n.2
        let todo := (s.groupNodes task).filter fun n => !c.hasPassed n
        let low := todo.foldl (fun m n => min m (stage n)) 16
        let c := (todo.filter fun n => stage n == low).foldl Cut.reach c
        s.setGroup task { g with cut := some c }
      | _, _ => s

/-- The token of a cut (R97). -/
def cairnTok (n : Nat) : Wtok := ⟨BitVec.ofNat 16 (0x8500 + n % 16), BitVec.ofNat 512 n, []⟩

/-- An engine sends CAIRN into each buffer that it fills (R386): along the route out of it, else to the engine that empties it.
DEDUCED, log entry 40. -/
def State.engineCairn (s : State) (task : Nat) (vt : Fin 16) (n : Node) (no : Nat) : State :=
  (List.range 8).foldl (fun s k =>
    let g := s.group task
    let x := s.inst task vt
    match x.slot n k with
    | none => s
    | some b =>
      let p : Ep := .buf vt ⟨b % 32, Nat.mod_lt _ (by decide)⟩
      if (g.img.into p).isSome then s
      else if !(g.img.from p).isEmpty then s.updInst task vt fun x => { x with bufs := x.bufs.put b (x.buf b ++ [cairnTok no]) }
      else
        let others := (x.cfg.ports.zipIdx.filter fun d => d.1 == some b).map fun d => portNode d.2
        let tgt := match x.bufBy.get? b with
          | some w => if w = n then others else []
          | none => others
        s.updGroup task fun g => { g with cut := g.cut.map fun c => tgt.foldl (fun c m => c.reach (vt, m)) c }) s

/-- A node sends CAIRN on its outputs (R385, R386). -/
def State.sendCairn (s : State) (task : Nat) (vt : Fin 16) (n : Node) (no : Nat) : State :=
  match n with
  | .elem e =>
    let s := [0, 1, 2, 3].foldl (fun s o => s.send task (.out vt e o) (cairnTok no)) s
    ([0, 1, 2, 3] : List (Fin 4)).foldl (fun s ch =>
      match (s.group task).img.into (.inp vt e ch) with
      | some (x, k) =>
        if x.pull then
          let tgt (c : Cut) : Cut := match x.src with
            | .out v p _ => c.reach (v, .elem p)
            | _ => c
          s.updGroup task fun g => { g with cut := g.cut.map fun c => tgt { c with arrived := c.arrived ++ [reqPath k] } }
        else s
      | none => s) s
  | .matrix => (s.engineCairn task vt n no).send task (.mst vt) (cairnTok no)
  | _ => s.engineCairn task vt n no

/-- A node passes a cut: its state and requests are recorded, its staged entries covered, CAIRN sent on; with the last node of its tile
the debit of the lines not yet paid for is due (R300), the last of the group ends the hold of pad writes (R388). DEDUCED, log entry 80. -/
def State.pass (s : State) (task : Nat) (vt : Fin 16) (n : Node) : State :=
  let s : State := match n with
    | .elem e => ([0, 1, 2, 3] : List (Fin 4)).foldl (fun s c => s.flushReqs task vt e c) (s.landElem task vt e)
    | _ => s
  match (s.group task).cut with
  | none => s
  | some c =>
    let c := s.recordNode task c vt n
    let c := { c with passed := c.passed ++ [(vt, n)] }
    let s := s.updInst task vt fun x => { x with staged := x.staged.map fun e =>
      if e.node == n && e.cut.isNone then { e with cut := some c.no } else e }
    let all := (s.groupNodes task).all c.hasPassed
    let c := if all then s.recordPads task c else c
    let s := (s.updGroup task fun g => { g with cut := some c }).sendCairn task vt n c.no
    let x := s.inst task vt
    let owed := (x.staged.filter fun e => e.cut == some c.no && !e.paid).length
    if x.nodes.all fun m => c.hasPassed (vt, m) then s.updInst task vt fun x => { x with lines := owed } else s

/-- The sequencer's debit of the lines that a passage covered, the last of its step (R283, R300); while the tile waits for its next store
it stays due. -/
def State.payLines (s : State) (l : At) : State :=
  let x := s.inst l.task l.vt
  if x.lines = 0 || !(s.group l.task).live || x.handover then s
  else s.debit l.task l.vt .seq 0x6D x.lines s fun s => s.updInst l.task l.vt fun x => { x with lines := 0 }

/-- The boundary of an engine at which a cut may capture it: no token step is half done (R198, R386), its writes have performed at GROUP
scope (R279). -/
def State.boundary (s : State) (task : Nat) (vt : Fin 16) (n : Node) : Bool :=
  match n with
  | .copy => (s.inst task vt).cpy.run.all fun r => !s.unperformed r.writes 1
  | .vector => (s.inst task vt).vec.run.all fun r => !r.paid
  | _ => true

/-- A node that a CAIRN has reached passes, at a boundary (R385). -/
def State.passDue (s : State) (l : At) (n : Node) : State :=
  match s.group? l.task, s.inst? l.task l.vt with
  | some g, some x =>
    if g.live && g.isResident l.vt x && x.nodeLive n && x.nodes.contains n && g.due (l.vt, n) && s.boundary l.task l.vt n then
      s.pass l.task l.vt n
    else s
  | _, _ => s

/-- CAIRN_PASSAGE (R385). -/
def execCairnPassage (l : At) (n : Node) (s : State) : Out := .next ((s.passDue l n).payLines l)

/-! ### Completion (R297, R387) -/

/-- An element of the group is used. -/
def State.usedElem (s : State) (task : Nat) (vt e : Fin 16) : Bool := (s.inst task vt).used.getLsbD e.val

/-- A producer of the image feeds an endpoint, looked for through routes between buffers. DEDUCED, log entry 40. -/
def State.produces (s : State) (task : Nat) : Nat → Ep → Bool
  | 0, _ => false
  | n + 1, p =>
    match p with
    | .out vt e _ => s.usedElem task vt e
    | .mst _ => true
    | .buf vt b =>
      (match (s.group task).img.into p with
       | some (x, _) => s.produces task n x.src
       | none => (s.inst task vt).cfg.ports.contains (some b.val))
    | _ => false

/-- An edge on which a cut's CAIRN has to arrive. -/
def State.edgeCounts (s : State) (task : Nat) (e : Edge) : Bool :=
  !e.isCmd && s.produces task ((s.group task).img.edges.length + 1) e.src && (match e.dst with
    | .inp vt e _ => s.usedElem task vt e
    | _ => true)

/-- Every node has passed completely (R387), and every covered OPEN, MKOBJ and QUERY has been served (R323; log 12). -/
def State.cutReady (s : State) (task : Nat) (g : Group) (c : Cut) : Bool :=
  (s.groupNodes task).all c.hasPassed && g.vts.all (fun v => (s.inst task v).lines = 0)
    && g.img.numbered.all (fun x => !s.edgeCounts task x.1 ||
        (c.arrived.contains x.2 && (!x.1.pull || c.arrived.contains (reqPath x.2))))
    && c.record.all fun r => r.2.accs.all fun a =>
        match a.2.req with
        | .dir _ => a.2.reply.isSome
        | _ => true

/-- A slot of the group after one of its cuts (R320, R321). -/
def Slot.afterCut (x : Slot) (task : Nat) (fresh : Bool) : Option Slot :=
  match x.st with
  | .priv o =>
    if o ≠ task || x.keep then some x
    else if !x.cvd then some { x with cvd := true }
    else if fresh then some { x with keep := true, cvd := false }
    else some { x with st := .opened, cvd := false }
  | .closing o prev keep cvd =>
    if o ≠ task then some x
    else if x.cvd then none
    else
      -- what a rollback restores follows the cut that covers the slot's entering rule and not its CLOSE
      let st : HSt := match prev with
        | none => x.st
        | some p =>
          if keep then x.st
          else if !cvd then .closing o (some p) false true
          else if fresh then .closing o (some p) true false
          else .closing o none false false
      some { x with st := st, cvd := true }
  | .opened => some x

def State.isFreshObj (s : State) (obj : Nat) : Bool :=
  match s.objs.get? obj with
  | some o => o.isFresh
  | none => false

/-- Every handle slot of a context changed; none frees it. -/
def State.updSlots (s : State) (ctx : Nat) (f : Slot → Option Slot) : State :=
  s.slots.foldl (fun s x =>
    if x.1 / 4096 = ctx then
      match f x.2 with
      | some y => { s with slots := s.slots.put x.1 y }
      | none => s.freeHandle x.1
    else s) s

/-- The objects that the binds of a cut name: they are shared as it completes (R292, R315). -/
def State.boundBy (s : State) (task no : Nat) : List Nat :=
  (s.group task).vts.flatMap fun vt => (s.inst task vt).staged.flatMap fun e =>
    match e.what with
    | .binds l => if e.cut = some no then l.filterMap (·.obj) else []
    | _ => []

/-- The request that a completed cut releases last (R187); a FRES whose reference now fails its checks raises their code instead
(R408). -/
def State.releaseCloser (s : State) (task id no : Nat) : State :=
  match s.accs.get? id with
  | none => s
  | some a =>
    match a.req with
    | .fut _ op =>
      (match s.refHub (s.group task).ctx a.tokVal with
       | .ok l => s.setAcc id { a with staged := false, cut := some no, req := .fut l op }
       | .error code => (s.answer id 0 .span).raise task (.fault code a.vt a.node a.opc a.rule))
    | _ => s.setAcc id { a with staged := false, cut := some no }

/-- The cut of a group completes: its entries are released, its closing request may go, its record is the one to roll
back to (R296, R297, R187). -/
def State.completeCut (s : State) (task : Nat) (g : Group) (c : Cut) : State :=
  let s := g.vts.foldl (fun s vt => s.updInst task vt fun x =>
    { x with sinceCut := x.sinceOpen
             staged := x.staged.map fun e =>
               if e.cut = some c.no then { e with released := true, after := 0 } else { e with after := 0 } }) s
  let s := s.setGroup task { g with cut := none, back := c.record, lastCut := c.no, atCut := true, why := match c.shrink with
    | some four => some (.shrink four)
    | none => g.why }
  let s := match c.closer with
    | some id => s.releaseCloser task id c.no
    | none => s
  let s := (s.boundBy task c.no).foldl State.share s
  let s := s.updSlots g.ctx fun x => x.afterCut task (s.isFreshObj x.obj)
  (s.countAt task 0 0x0B 1).settleAll

/-- CUT_COMPLETE (R297). -/
def execCutComplete (task : Nat) (s : State) : Out :=
  .next <|
    match s.group? task with
    | none => s
    | some g =>
      match g.cut with
      | some c => if g.live && s.cutReady task g c then s.completeCut task g c else s
      | none => s

/-! ### Rollback (R304, R430) -/

/-- Requests leave every queue and list of the part. -/
def State.unlist (s : State) (ids : List Nat) : State :=
  let keep (l : List Nat) : List Nat := l.filter fun i => !ids.contains i
  { s with
    regions := s.regions.map fun r => { r with aq := keep r.aq, sq := keep r.sq, deferred := keep r.deferred, sDeferred := keep r.sDeferred }
    names := s.names.mapAll fun _ e => { e with fifo := keep e.fifo } }

/-- Names that nothing refers to any more leave a context (R319). -/
def State.dropNames (s : State) (ctx : Nat) : State :=
  (s.names.filter fun x => x.1 / 2147483648 == ctx).foldl (fun s x => s.dropName ctx (x.1 % 2147483648)) s

/-- Requests of a task. -/
def State.taskAccs (s : State) (task : Nat) : Assoc Acc := s.accs.filter fun x => x.2.task == some task

/-- A request that waits nowhere, as it is sent again; pad accesses are made again after a rollback. -/
def Acc.again (a : Acc) (back : Bool) : Acc :=
  let a := { a with queued := false, deferred := false, held := false, remote := a.remote && a.reply.isSome }
  let a := match a.req, back with
    | .padRd .., true | .padWr .., true => { a with perf := .none, reply := none, answered := false }
    | _, _ => a
  if back && a.dest != .none then { a with answered := false } else a

/-- The request is on another die, its answer outstanding. -/
def Acc.outstanding (a : Acc) : Bool := a.remote && a.reply.isNone

/-- A full-empty load, which its engine may defer (R177, R179). -/
def Acc.awaitsFull (a : Acc) : Bool :=
  match a.req with
  | .fe _ .ldfe | .fe _ .ldfec => true
  | _ => false

/-- Full-empty loads of a group that other dies may hold deferred are asked back (R179). DEDUCED, log entry 105. -/
def State.askBack (s : State) (task : Nat) : State :=
  let l := (s.taskAccs task).filter fun x => x.2.outstanding && x.2.awaitsFull && !x.2.held
  if l.isEmpty then s
  else (l.foldl (fun s x => (s.setAcc x.1 { x.2 with held := true }).sendTo x.2.sentTo (.cancel x.1)) s).transmit

/-- A grant on its way to a tile reaches its meter (R301, R304). -/
def State.landGrants (s : State) (task : Nat) : State :=
  (s.taskAccs task).foldl (fun s x =>
    match x.2.req with
    | .fill _ =>
      (s.updInst task x.2.vt fun y => { y with meter := y.meter + 256 * x.2.tokVal.toNat }).setAcc x.1 { x.2 with tokVal := 0 }
    | _ => s) s

/-- The staged entries of a tile vanish (R304, R326, R410). -/
def State.voidEntries (s : State) (ctx : Nat) (l : List Staged) : State :=
  l.foldl (fun s e =>
    match e.what with
    | .binds bs => if e.sent then s else bs.foldl (fun s b => s.voidBind ctx b) s
    | .spawn _ w slots =>
      if e.sent then s
      else (match TaskRec.parse w with
        | some r => s.updQueue ctx r.queue fun q => { q with count := q.count - slots.length }
        | none => s)
    | _ => s) s

/-- A slot of a group that rolls back, or aborts (R321). -/
def Slot.rolledBack (x : Slot) (task : Nat) (abort : Bool) : Option Slot :=
  let y := match x.st with
    | .closing o prev keep cvd =>
      let was : HSt := match prev with
        | some p => .priv p
        | none => .opened
      if o = task then { x with st := was, keep := keep, cvd := cvd } else x
    | _ => x
  match y.st with
  | .priv o => if o = task && (!y.keep || abort) then none else some y
  | _ => some y

/-- The tile as its record has it. -/
def State.restoreTile (s : State) (task : Nat) (vt : Fin 16) (r : InstRec) : State :=
  let s := s.updInst task vt fun x =>
    { x with elems := r.elems.foldl (fun v y => vset v (vtOf y.1) y.2) x.elems
             bufs := r.bufs, vec := r.vec.getD x.vec, mat := r.mat.getD x.mat, sa := r.sa.getD x.sa, sb := r.sb.getD x.sb
             cpy := r.cpy.getD x.cpy, arstat := r.arstat, staged := [], cmdUse := [], portUse := 0, dirUse := false
             heap := r.heap, handover := false, lines := 0 }
  let g := s.group task
  let x := s.inst task vt
  let a := s.padAddr g x vt 0
  let mem := s.mem.clear a (padWindow g.img.pad)
  { s with mem := r.pad.foldl (fun m c => m.write (a + c.1) c.2) mem }

/-- The mirror of the arrival counters, and GEN of every barrier, from the restored counters (R430). -/
def State.remirror (s : State) (task : Nat) : State :=
  let g := s.group task
  let es : List (Fin 16) := (List.range 16).map vtOf
  let m := g.vts.flatMap fun vt => es.flatMap fun e => es.filterMap fun n =>
    let el := s.elem task vt e
    if el.takesPart n then some (mirrorKey vt e n, vget el.ac n) else none
  let s := s.setGroup task { g with mirror := m.foldl (fun a x => Assoc.put a x.1 x.2) [] }
  es.foldl (fun s n => let gen := s.genOf task n; s.updGroup task fun g => { g with gens := g.gens.put n.val gen }) s

/-- Requests that a record keeps, as they stand now; a wait that was answered after the cut is withdrawn and sent again, with the target
with which it was first served (R430, R435). -/
def State.keptAccs (s : State) (r : CutRec) : Assoc Acc :=
  (r.flatMap fun x => x.2.accs).filterMap fun y =>
    let now := (s.accs.get? y.1).getD y.2
    let a := if now.waits && y.2.reply.isNone then { now with reply := none, perf := y.2.perf, answered := y.2.answered } else now
    if a.finished && a.dest == .none then none else some (y.1, a.again true)

/-- The group rolls back to its last complete cut, or to the state at arm (R304). -/
def State.rollback (s : State) (task : Nat) (abort : Bool) : State :=
  match s.group? task with
  | none => s
  | some g =>
    let s := s.landGrants task
    let back := (s.group task).back
    let kept := s.keptAccs back
    let s := g.vts.foldl (fun s vt => s.voidEntries g.ctx (s.inst task vt).staged) s
    let mine := (s.taskAccs task).map (·.1)
    let s := (s.unlist mine).dropNames g.ctx
    let s : State := { s with accs := kept.foldl (fun (m : Assoc Acc) (y : Nat × Acc) => Assoc.put m y.1 y.2) (s.accs.filter fun (x : Nat × Acc) => x.2.task != some task) }
    let s := s.updSlots g.ctx fun x => x.rolledBack task abort
    let s := g.vts.foldl (fun s vt => s.restoreTile task vt (back.getD vt.val {})) s
    -- closers that had not opened their cut ask for it again (R187)
    let seals := kept.filterMap fun (y : Nat × Acc) => if y.2.closes && y.2.staged then some (y.2.vt, y.2.node, some y.1) else none
    let s := s.updGroup task fun g => { g with cut := none, seals := seals, flight := [] }
    (s.remirror task).countAt task 0 0x0C 1

end Sys2Proof.Machine
end

