-- ==== Sys2Proof/Machine/Group.lean ====
section
/-! DEFINITION. The end of a dispatch: shortfall, group fault, commit; the fault ring; halts, scan-out, requeue and resume
(spec/10_charge.md R284, R303-R309; spec/12_pages.md R348-R351; spec/14_groups.md R375-R379, R389-R396;
spec/18_contexts.md R464-R470). -/

namespace Sys2Proof.Machine

/-! ### The fault ring (R468) -/

def State.ringFull (s : State) (ctx : Nat) : Bool := (s.ctx ctx).prod + 1 == (s.ctx ctx).cons

/-- An entry of 32 bytes written to a context's ring: TYPE, and the record in bytes 16-31; the function's interrupt. DEDUCED, log
entry 81. -/
def State.ringPut (s : State) (ctx kind record : Nat) : State :=
  s.updCtx ctx fun c =>
    { c with ring := c.ring.put c.prod.toNat (kind + record * 2 ^ 128), prod := c.prod + 1, irq := c.irq + 1 }

/-- A group-fault record, also the layout of an event record (R468). -/
def faultRecord (task cut code ctx vf node eid vt opc slot : Nat) : Nat :=
  task % 2 ^ 32 * 2 ^ 96 + cut % 2 ^ 32 * 2 ^ 64 + code % 256 * 2 ^ 56 + ctx % 4096 * 2 ^ 44 + vf % 64 * 2 ^ 38
    + node % 16 * 2 ^ 34 + eid % 16 * 2 ^ 30 + vt % 16 * 2 ^ 26 + opc % 256 * 2 ^ 18 + slot % 64 * 2 ^ 12

/-- A page-fault record (R349). -/
def pageRecord (task page obj ctx vf node eid vt opc kind : Nat) : Nat :=
  task % 2 ^ 32 * 2 ^ 96 + page % 2 ^ 20 * 2 ^ 76 + obj % 2 ^ 16 * 2 ^ 60 + ctx % 4096 * 2 ^ 48 + vf % 64 * 2 ^ 42
    + node % 16 * 2 ^ 38 + eid % 16 * 2 ^ 34 + vt % 16 * 2 ^ 30 + opc % 256 * 2 ^ 22 + kind % 4 * 2 ^ 20

/-- The shortfall record (R305). -/
def shortRecord (debited declared failed node eid opc cut sugp p vt rtry task : Nat) : Nat :=
  min debited (2 ^ 32 - 1) * 2 ^ 224 + declared % 2 ^ 32 * 2 ^ 192 + failed % 2 ^ 16 * 2 ^ 176 + node % 16 * 2 ^ 172
    + eid % 16 * 2 ^ 168 + opc % 256 * 2 ^ 160 + cut % 2 ^ 32 * 2 ^ 128 + sugp % 2 ^ 16 * 2 ^ 112 + p % 2 ^ 16 * 2 ^ 96
    + vt % 16 * 2 ^ 92 + rtry % 4 * 2 ^ 90 + task % 2 ^ 32 * 2 ^ 32

/-- Suggested P (R306). -/
def suggested (x : Nat) : Nat := min 65535 ((1536 + 256 + 2 * x + 255) / 256)

/-- P of a retry (R307). -/
def retryP (policy p : Nat) : Nat :=
  match policy with
  | 1 => min 65535 ((p * 5 + 3) / 4)
  | 2 => min 65535 ((p * 3 + 1) / 2)
  | 3 => min 65535 (p * 2)
  | _ => p

/-! ### Leaving a rectangle -/

/-- Tiles owned by a group return to the dispatcher (R372). -/
def State.freeTiles (s : State) (task : Nat) : State :=
  { s with tiles := s.tiles.mapAll fun _ t => if t.owner = some task then { t with owner := none } else t }

/-- The pin count of an image's slot falls by one (R369). -/
def State.unpin (s : State) (region ctx kid : Nat) : State :=
  s.updRegion region fun r => { r with caches := r.caches.map fun c =>
    if c.st == .pinned && c.ctx == ctx && c.kid == kid then
      if c.pins ≤ 1 then { c with st := .ready, pins := 0 } else { c with pins := c.pins - 1 }
    else c }

/-- Frames of the save area that a group reserves (R459); they are no frames of the page table. DESIGN CHOICE, log entry 120. -/
def Image.saveFrames (i : Image) : Nat := 14 * i.gsz

/-- The group gives up its rectangle, its pin and its place at the ingress. -/
def State.leaveRect (s : State) (task : Nat) (g : Group) : State :=
  let r := s.physRegion g.region
  let s := if g.state == .placed || (g.saved && g.state == .halted) then s else s.unpin r g.ctx g.img.kid
  (s.freeTiles task).updRegion r fun x => { x with ingress := x.ingress.filter (·.task != task) }

/-- The group is no more: its copies, requests and reservation go. -/
def State.endGroup (s : State) (task : Nat) : State :=
  match s.group? task with
  | none => s
  | some g =>
    let s := s.leaveRect task g
    let s := s.unlist ((s.taskAccs task).map (·.1))
    State.updCtx { s with groups := s.groups.del task, insts := s.insts.filter fun x => x.1 / 16 != task,
                          accs := s.accs.filter fun x => x.2.task != some task } g.ctx fun c =>
      { c with saveUse := c.saveUse - g.img.saveFrames, grpstat := if g.asked.isSome then 5 else c.grpstat }

/-- Each tile debits d drops of the reserve, whole packets left are credited, the rest forfeited (R282, R284). -/
def State.settleMeters (s : State) (task d : Nat) : State :=
  match s.group? task with
  | none => s
  | some g =>
    let left (vt : Fin 16) : Nat := (s.inst task vt).meter - d
    let s' := g.vts.foldl (fun s vt =>
      let n := left vt
      (((s.updInst task vt fun x => { x with meter := 0 }).countAt task vt 0x04 d).countAt task vt 0x06 (n / 256)).countAt
        task vt 0x07 (n % 256)) s
    let sur := (g.sur.map fun x => x.2 / 256).sum
    let lost := (g.sur.map fun x => x.2 % 256).sum
    ((s'.account g.ctx fun b => b + (g.vts.map fun vt => left vt / 256).sum + sur).countAt task 0 0x06 sur).countAt task 0 0x07
      lost

/-- The OR of ARSTAT over the copies of a group (R63). DEDUCED, log entry 38. -/
def State.groupArstat (s : State) (task : Nat) : Nat :=
  ((s.group task).vts.foldl (fun a vt => a ||| (s.inst task vt).arstat) (0 : Word)).toNat % 8

/-- A dispatch ends in an abort: stop debit, credit, END and FCODE, its own future faulted; the task retires (R404, R414, R466).
DEDUCED, log entry 38. -/
def State.abortGroup (s : State) (task endc fcode : Nat) (stop : Nat := 256) : State :=
  let ar := s.groupArstat task
  let s := ((s.settleMeters task stop).endGroup task).updTask task fun t =>
    { t with state := .aborted, endc := endc, fcode := fcode, arst := ar }
  (s.faultOwn task).retire task

/-- The record of the cut rolled back to, with the requests that it keeps. -/
def State.savedRec (s : State) (task : Nat) : CutRec :=
  (s.group task).back.mapAll fun k r => { r with accs := (s.taskAccs task).filter fun a => a.2.vt.val == k }

/-- The task stands in its queue again, to resume from the cut rolled back to (R307, R309). -/
def State.backToQueue (s : State) (task : Nat) (f : Task → Task) : State :=
  let r := (if (s.group task).lastCut = 0 then 0 else (s.group task).lastCut, s.savedRec task)
  let s := s.endGroup task
  ((s.updTask task fun t => { f t with resume := some r }).makeReady task)

/-- Nothing that a completed cut released is still to perform, and no request of the group is on another die. DEDUCED, log entry 50. -/
def State.quiet (s : State) (task : Nat) : Bool :=
  !s.releasing task && !(s.taskAccs task).any fun x =>
    x.2.outstanding || (x.2.closes && !x.2.staged && x.2.reply.isNone && !x.2.deferred && !x.2.held)

/-! ### Shortfall and group fault (R303-R307, R464-R467) -/

/-- The lesser of the task's and its queue's retry policy (R398). -/
def State.policy (s : State) (t : Task) : Nat := min t.trec.rpol (s.queue t.ctx t.trec.queue).rmax

/-- SHORTFALL (R303-R307). DEDUCED, log entry 50. -/
def execShortfall (task : Nat) (s : State) : Out :=
  .next <|
    match s.group? task with
    | none => s
    | some g =>
      match g.stop with
      | some (.short vt node opc failed) =>
        if !s.quiet task then s.askBack task
        else
          let x := s.inst task vt
          let t := (s.tasks.get? task).getD {}
          let pol := s.policy t
          let retry := pol ≠ 0 ∧ t.rtry < 3
          let s := s.rollback task (decide ¬retry)
          let sugp := suggested (x.sinceCut + failed)
          let w := shortRecord x.debited (256 * (t.p + x.granted)) failed (Node.code node) (Node.eid node) opc g.lastCut sugp t.p vt.val
            t.rtry task
          let s := (s.countAt task vt 0x08 1).updTask task fun t => { t with state := .shortfall, short := w }
          if retry then
            (s.settleMeters task 256).backToQueue task fun t => { t with p := retryP pol t.p, rtry := t.rtry + 1 }
          else s.abortGroup task 1 0x10
      | _ => s

/-- INVASIVE debug may act on a context (R467, R475). -/
def State.invasive (s : State) (ctx : Nat) : Bool :=
  s.dbg == .invasive && (s.sec == .development || (s.sec == .production && (s.ctx ctx).dbgok))

/-- GROUP_FAULT (R466, R467). -/
def execGroupFault (task : Nat) (s : State) : Out :=
  .next <|
    match s.group? task with
    | none => s
    | some g =>
      match g.stop with
      | some (.fault code vt node opc slot) =>
        if !s.quiet task then s.askBack task
        else if s.ringFull g.ctx then s
        else
          let hold := (s.ctx g.ctx).fhold && s.invasive g.ctx
          let s := s.rollback task !hold
          let s := s.ringPut g.ctx 2 (faultRecord task g.lastCut code g.ctx (s.ctx g.ctx).vf (Node.code node) (Node.eid node) vt.val opc slot)
          if hold then
            (s.updGroup task fun g => { g with state := .halted, stop := none, why := some .held, asked := none }).updCtx g.ctx fun c =>
              { c with grpstat := if g.asked.isSome then 5 else c.grpstat }
          else s.abortGroup task 2 code
      | _ => s

/-! ### Commit (R154, R299, R395, R396) -/

/-- Every used element has executed DONE and every engine is idle (R154). -/
def Inst.ended (x : Inst) : Bool :=
  ((List.range 16).map vtOf).all (fun e => !x.used.getLsbD e.val || (x.elem e).done)
    && x.vec.run.isNone && x.vec.wait.isNone && x.mat.load.isNone && x.mat.comp.isNone && x.mat.wait.isNone
    && x.sa.run.isNone && x.sa.wait.isNone && x.sb.run.isNone && x.sb.wait.isNone && x.cpy.run.isNone && x.cpy.wait.isNone

/-- Packets of a grant that have still to reach their meter (R301). -/
def Acc.owesGrant (a : Acc) : Bool :=
  match a.req with
  | .fill _ => a.tokVal != 0
  | _ => false

/-- Every access of the group has performed (R153), every release too, and nothing is on its way, a grant neither (R301). -/
def State.performedAll (s : State) (task : Nat) : Bool :=
  !s.releasing task && (s.taskAccs task).all (fun x => x.2.perf == .span && !x.2.owesGrant) && (s.group task).flight.isEmpty

/-- Data tokens among tokens (R378). -/
def dataToks (l : List Side) : Nat := (l.filter fun x => !Side.ctl x).length

/-- Tokens in the inputs of a node of a copy, and the copy without them (R376). -/
def State.flushNode (s : State) (task : Nat) (vt : Fin 16) (n : Node) : Nat × State :=
  let x := s.inst task vt
  let i := (s.group task).img
  let bs := (List.range 32).filter fun b => i.consumer x (.buf vt ⟨b % 32, Nat.mod_lt _ (by decide)⟩) == some (vt, n)
  let inBufs := (bs.map fun b => dataToks ((x.buf b).map (·.side))).sum
  let x := { x with bufs := x.bufs.filter fun y => !bs.contains y.1 }
  let drop (ch : Chan) : Chan := { ch with toks := [], incoming := [] }
  let count (ch : Chan) : Nat := dataToks ((ch.toks ++ ch.incoming).map (·.side))
  let (k, x) : Nat × Inst := match n with
    | .elem e =>
      let el := x.elem e
      ((el.inq.toList.map count).sum, x.setElem e { el with inq := el.inq.map drop })
    | .streamA => (count x.sa.bnd, { x with sa := { x.sa with bnd := {} } })
    | .streamB => (count x.sb.bnd, { x with sb := { x.sb with bnd := {} } })
    | .copy => (count x.cpy.bnd, { x with cpy := { x.cpy with bnd := {} } })
    | _ => (0, x)
  (inBufs + k, s.setInst task vt x)

/-- FLUSH (R376, R378): a node of a committing group discards and counts its tokens. -/
def execFlush (l : At) (n : Node) (s : State) : Out :=
  .next <|
    match s.group? l.task, s.inst? l.task l.vt with
    | some g, some _ =>
      if g.state == .committing && s.performedAll l.task then
        let (k, s) := s.flushNode l.task l.vt n
        s.updInst l.task l.vt fun x => { x with discards := x.discards.put (Node.key n) (x.discards.getD (Node.key n) 0 + k) }
      else s
    | _, _ => s

/-- Every node flushed, and the buffers that no node empties. -/
def State.flushAll (s : State) (task : Nat) : State :=
  let f (s : State) (vt : Fin 16) : State :=
    let s := (engineNodes ++ ((List.range 16).map fun e => Node.elem (vtOf e))).foldl (fun s n =>
      let (k, s) := s.flushNode task vt n
      s.updInst task vt fun x => { x with discards := x.discards.put (Node.key n) (x.discards.getD (Node.key n) 0 + k) }) s
    let rest := ((s.inst task vt).bufs.map fun b => dataToks (b.2.map (·.side))).sum
    s.updInst task vt fun x => { x with bufs := [], discards := x.discards.put 200 rest }
  (s.group task).vts.foldl f s

/-- A slot of a group that commits (R321). -/
def Slot.committed (x : Slot) (task : Nat) : Option Slot :=
  match x.st with
  | .priv o => if o = task then some { x with st := .opened, keep := false, cvd := false } else some x
  | .closing o _ _ _ => if o = task then none else some x
  | .opened => some x

/-- The objects that a task made are shared with its commit (R315). -/
def State.shareAll (s : State) (task : Nat) : State :=
  (s.objs.filter fun x => x.2.st == .fresh task).foldl (fun s x => s.share x.1) s

/-- The commit debit of every tile lies in stores that are built; the tiles whose does not wait for their next store (R287, R495, R502). -/
def State.commitWaits (s : State) (task : Nat) (g : Group) : List (Fin 16) :=
  g.vts.filter fun vt => let x := s.inst task vt; decide (x.built < x.debited + 256)

/-- COMMIT (R395): first what is staged is released; when all of it has performed and the debit's stores are built, the group is flushed,
debited and credited, and its task retires. -/
def execCommit (task : Nat) (s : State) : Out :=
  .next <|
    match s.group? task with
    | none => s
    | some g =>
      if g.live && g.cut.isNone && g.seals.isEmpty && s.quiet task && g.vts.all fun vt => (s.inst task vt).ended then
        let s := g.vts.foldl (fun s vt => s.updInst task vt fun x => { x with staged := x.staged.map fun e => { e with released := true } }) s
        (((s.setGroup task { g with state := .committing }).updTask task fun t => { t with state := .committed }).settleAll)
      else if g.state == .committing && g.stop.isNone && s.performedAll task then
        if !(s.commitWaits task g).isEmpty then (s.commitWaits task g).foldl (fun s vt => s.waitStore task vt) s
        else
        let s := s.flushAll task
        let n := (g.vts.map fun vt => ((s.inst task vt).discards.map (·.2)).sum).sum
        let ar := s.groupArstat task
        let s := (s.settleMeters task 256).countAt task 0 0x0D 1
        let s := (s.shareAll task).updSlots g.ctx fun x => x.committed task
        (((s.endGroup task).updTask task fun t => { t with endc := 0, fcode := 0, arst := ar, disc := n }).retire task)
      else s

/-! ### Freezing, draining, scan-out (R348, R389) -/

/-- Requests of the group that its units hold are withdrawn until START (R179, R323, R435). -/
def State.withdraw (s : State) (task : Nat) : State :=
  let ids := ((s.taskAccs task).filter fun x => x.2.deferred).map (·.1)
  let s := (s.unlist ids).dropNames (s.group task).ctx
  ids.foldl (fun s i =>
    match s.accs.get? i with
    | some a => s.setAcc i { a with deferred := false, held := true }
    | none => s) s

/-- A request counts in the drain counter: accepted and not yet performed, one that waits for a page that moves among them, or its reply
not yet written. DESIGN CHOICE, log entry 36. -/
def State.drains (s : State) (a : Acc) : Bool :=
  let here := match a.req.target with
    | some (obj, byte) => (s.objs.get? obj).any fun o => (o.page byte).v
    | none => true
  let stuck := match a.task, a.node, a.dest with
    | some t, .elem e, .out _ => (s.elem t a.vt e).done
    | _, _, _ => false
  if a.reply.isNone then
    a.remote || (s.accReady a && here && (match a.req with
      | .fence => !s.unperformed a.deps (Scope.level a.scope)
      | _ => true))
  else !a.held && !a.staged && !a.isLook && (match a.node with
    | .elem _ => !a.answered && a.acquired && !stuck
    | _ => false)

/-- The drain counter of a tile (R389): tokens on their way to it, and its accesses not yet performed. DESIGN CHOICE, log entry 36.
-/
def State.drainOf (s : State) (task : Nat) (vt : Fin 16) : Nat :=
  let fly := ((s.group task).flight.map fun x =>
    match ((s.group task).img.edges.drop x.1).head? with
    | some e => if e.dst.vt = vt then x.2.length else 0
    | none => 0).sum
  fly + ((s.taskAccs task).filter fun x => x.2.vt == vt && s.drains x.2).length

def State.drained (s : State) (task : Nat) : Bool := (s.group task).vts.all fun vt => s.drainOf task vt == 0

/-- Every engine of a copy is idle and its waiting place empty. -/
def Inst.enginesIdle (x : Inst) : Bool :=
  x.vec.run.isNone && x.vec.wait.isNone && x.mat.load.isNone && x.mat.comp.isNone && x.mat.wait.isNone && x.sa.run.isNone
    && x.sa.wait.isNone && x.sb.run.isNone && x.sb.wait.isNone && x.cpy.run.isNone && x.cpy.wait.isNone

/-- The group may freeze for a reason now: for a fold once its engines are idle, as RECFG asks, since a frozen engine stays busy (R382,
R391). DEDUCED, log entry 35. -/
def State.mayFreeze (s : State) (task : Nat) (g : Group) (w : Why) : Bool :=
  match w with
  | .shrink _ => g.vts.all fun vt => (s.inst task vt).enginesIdle
  | _ => true

/-- The group freezes: HALTC to every node, deferred waits withdrawn, the drain counter set (R389). -/
def State.freeze (s : State) (task : Nat) (why : Why) : State :=
  let s := (s.withdraw task).askBack task
  let s := s.updGroup task fun g => { g with draining := true, why := some why }
  (s.group task).vts.foldl (fun s vt => let n := s.drainOf task vt; s.updInst task vt fun x => { x with halted := x.nodes, drain := n }) s

/-- The scan-out (R348): the stores return to the rail, the meters are kept; waits deferred meanwhile are withdrawn. -/
def State.scanOut (s : State) (task : Nat) : State :=
  let s := s.withdraw task
  let s := s.updGroup task fun g => { g with state := .halted, draining := false }
  (s.group task).vts.foldl (fun s vt => s.updInst task vt fun x =>
    { x with spent := x.debited, stores := [], started := [], drain := 0 }) s

/-- The pads of a group by virtual tile. -/
def State.padsOf (s : State) (task : Nat) : Assoc (List Host.Cell) :=
  let g := s.group task
  g.vts.map fun vt => (vt.val, s.padCells g (s.inst task vt) vt)

/-- Pads written back into the tiles of a group. -/
def State.putPads (s : State) (task : Nat) (pads : Assoc (List Host.Cell)) : State :=
  let g := s.group task
  g.vts.foldl (fun s vt =>
    let a := s.padAddr g (s.inst task vt) vt 0
    { s with mem := (pads.getD vt.val []).foldl (fun m c => m.write (a + c.1) c.2) (s.mem.clear a (padWindow g.img.pad)) }) s

/-- A halted group leaves its rectangle whole and stays PLACED in its save area (R351). -/
def State.requeue (s : State) (task : Nat) : State :=
  match s.group? task with
  | none => s
  | some g =>
    let pads := s.padsOf task
    let s := s.leaveRect task g
    let s := s.updGroup task fun g => { g with state := .halted, saved := true, why := none, pads := pads }
    let s := g.vts.foldl (fun s vt => s.updInst task vt fun x => { x with ready := false, armed := false, started := [] }) s
    s.updTask task fun t => { t with state := .placed }

/-- A group acts again where it stands: START goes to its nodes (R351, R374). -/
def State.restart (s : State) (task : Nat) : State :=
  let s := s.updGroup task fun g =>
    { g with state := if g.fold = 1 then .running else .folded, why := none, draining := false, stop := none }
  let s := (s.group task).vts.foldl (fun s vt => s.updInst task vt fun x => { x with started := [], halted := [] }) s
  (s.remirror task).updTask task fun t => { t with state := .running }

/-- The host's operation in progress on a group ends once the group is scanned out: a pre-empted one leaves its rectangle (R469). -/
def State.endAsked (s : State) (task : Nat) : State :=
  match s.group? task with
  | none => s
  | some g =>
    match g.asked with
    | none => s
    | some w =>
      let s := (s.updGroup task fun g => { g with asked := none }).updCtx g.ctx fun c => { c with grpstat := 0 }
      if w == .preempt then s.requeue task else s

/-- A page fault's scan-out and record, when the group has drained and the ring has room (R348, R350). DEDUCED, log entry 81. -/
def State.pageHalt (s : State) (task : Nat) : State :=
  match s.group? task with
  | none => s
  | some g =>
    match g.stop with
    | some (.page vt node opc obj page kind) =>
      if s.drained task && !s.ringFull g.ctx then
        let s := (s.scanOut task).updGroup task fun g => { g with stop := none, why := some .page }
        (s.ringPut g.ctx 1 (pageRecord task page obj g.ctx (s.ctx g.ctx).vf (Node.code node) (Node.eid node) vt.val opc kind)).endAsked task
      else s
    | _ => s

/-- PAGE_FAULT (R348-R350). -/
def execPageFault (task : Nat) (s : State) : Out :=
  .next <|
    match s.group? task with
    | none => s
    | some g =>
      match g.stop with
      | some (.page vt _ _ _ _ _) =>
        if g.draining then s.pageHalt task else ((s.freeze task .page).countAt task vt 0x19 1).pageHalt task
      | _ => s

/-- The host's ABORT of a halted group (R469), once nothing that a cut released is still to perform. DEDUCED, log entry 60. -/
def State.abortHalted (s : State) (task : Nat) : State :=
  match s.group? task with
  | none => s
  | some g =>
    if s.quiet task then
      let s := (s.updGroup task fun g => { g with asked := none }).rollback task true
      (s.abortGroup task 2 0).updCtx g.ctx fun c => { c with grpstat := 0 }
    else s

/-- GROUP_HALT (R389): a group that is to be halted freezes; a halted group whose abort is in progress is aborted as soon as it may. -/
def execGroupHalt (task : Nat) (s : State) : Out :=
  .next <|
    match s.group? task with
    | none => s
    | some g =>
      match g.asked, g.why with
      | some .abort, _ => s.abortHalted task
      | _, some w => if g.live && s.mayFreeze task g w then s.freeze task w else s
      | _, none => s

/-- A scan-out has ended: the host's operation ends with it (R469), and a group that PARK froze acts again where the part has left PARKED
meanwhile (R475). -/
def State.scanned (s : State) (task : Nat) : State :=
  if (s.group task).why == some .park && !s.parkedNow then s.restart task else s.endAsked task

/-- DRAIN_COMPLETE (R389): the counter is 0 and the halt proceeds; a pre-empted group leaves its rectangle. -/
def execDrainComplete (task : Nat) (s : State) : Out :=
  .next <|
    match s.group? task with
    | none => s
    | some g =>
      if !(g.draining && s.drained task) then s
      else
        match g.stop, g.why with
        | some (.page ..), _ => s.pageHalt task
        | some _, _ => s
        | none, _ => (s.scanOut task).scanned task

/-- HALTC goes to the nodes of the group: one that is to be halted, for a fold once it is frozen (R389, R391). -/
def Group.halts (g : Group) : Bool :=
  match g.why with
  | some (.shrink _) => g.draining
  | w => w.isSome

/-- HALTC (R376): a node of a group that is to be halted stops at its boundary. -/
def execHaltc (l : At) (n : Node) (s : State) : Out :=
  .next <|
    if (s.group? l.task).any Group.halts then
      s.updInst l.task l.vt fun x => if x.halted.contains n then x else { x with halted := x.halted ++ [n] }
    else s

/-- DRAIN (R389): a tile of a frozen group learns its part of the counter. -/
def execDrain (l : At) (s : State) : Out :=
  .next <|
    match s.group? l.task with
    | some { draining := true, .. } => let n := s.drainOf l.task l.vt; s.updInst l.task l.vt fun x => { x with drain := n }
    | _ => s

/-- START (R374): a node of an armed group begins; what a halt withdrew of it is sent again (R179, R435). A copy that is not resident
takes it at its next swap-in. DEDUCED, log entry 35. -/
def execStart (l : At) (n : Node) (s : State) : Out :=
  .next <|
    match s.group? l.task, s.inst? l.task l.vt with
    | some g, some x =>
      if g.live && g.isResident l.vt x && x.armed && x.nodes.contains n && x.tagged.contains n && x.cleared.contains n && !x.started.contains n
          && !(s.region (s.physRegion g.region)).ingress.any (·.task == l.task) then
        let s := s.updTask l.task fun t => if t.state == .armed then { t with state := .running } else t
        let s := s.setInst l.task l.vt { x with started := x.started ++ [n], halted := x.halted.filter (· != n) }
        (s.taskAccs l.task).foldl (fun s y =>
          if y.2.vt == l.vt && y.2.node == n && y.2.held then s.setAcc y.1 { y.2 with held := false } else s) s
      else s
    | _, _ => s

/-! ### The watchdog and slow remotes (R470) -/

/-- Remote accesses of a group whose reply is outstanding, oldest first. -/
def State.remoteWaits (s : State) (task : Nat) : List (Nat × Acc) := (s.taskAccs task).filter fun x => x.2.remote && x.2.reply.isNone

/-- A tile waits at handover while the dispenser admits slots (R287). -/
def State.atHandover (s : State) (task : Nat) (g : Group) : Bool :=
  g.vts.any (fun vt => (s.inst task vt).handover) && (s.region (s.physRegion g.region)).adm != 0

/-- The watchdog's count of a group advances (R470). -/
def State.counts (s : State) (task : Nat) (g : Group) : Bool :=
  (g.state == .running || g.state == .folded || g.state == .committing) && g.stop.isNone && s.pst != .emergency
    && !s.atHandover task g

/-- WATCHDOG_EXPIRY (R470): the count has grown by a number of ticks. -/
def execWatchdogExpiry (task ticks : Nat) (s : State) : Out :=
  .next <|
    match s.group? task with
    | none => s
    | some g =>
      let lim := (s.ctx g.ctx).wdlim.toNat
      if !s.counts task g || lim = 0 then s
      else if g.wd + ticks < lim then s.setGroup task { g with wd := g.wd + ticks }
      else
        match s.remoteWaits task with
        | [] => s.raise task (.fault 0x70 0 .seq 0 0)
        | (id, _) :: _ =>
          if g.episode.isSome || s.ringFull g.ctx then s.setGroup task { g with wd := lim }
          else
            let s := s.setGroup task { g with wd := lim, episode := some id }
            (s.ringPut g.ctx 4 (faultRecord task g.lastCut 0x61 g.ctx (s.ctx g.ctx).vf 6 0 0 0 0)).countAt task 0 0x23 1

/-- REMOTE_RETRAIN_EXPIRY (R470): the reply that an episode waits for has not come. -/
def execRemoteRetrainExpiry (task : Nat) (s : State) : Out :=
  .next <|
    match s.group? task with
    | none => s
    | some g =>
      match g.episode with
      | some id =>
        (match s.accs.get? id with
         | some a => if a.remote && a.reply.isNone then s.raise task (.fault 0x60 a.vt a.node a.opc a.rule) else s
         | none => s)
      | none => s

end Sys2Proof.Machine
end

