-- ==== Sys2Proof/Machine/Kernel.lean ====
section
/-! DEFINITION. Kernel images: header, section table, the checks that the hub and the region sequencers make, the
configuration of each virtual tile (spec/13_kernels.md R352-R370; section layouts that the spec does not give are
Config's, log entry 8). -/

namespace Sys2Proof.Machine

/-! ### Header and section table (R352, R354, R355) -/

/-- A section table entry. -/
structure SecEnt where
  kind : Nat
  vt : Nat
  alt : Nat
  off : Nat
  len : Nat
  reserved : Nat
  deriving DecidableEq, Repr, Inhabited

def SecEnt.parse (w : Nat) : SecEnt :=
  { kind := field w 7 0, vt := field w 11 8, alt := field w 13 12, off := field w 63 32, len := field w 95 64
    reserved := field w 31 14 + field w 127 96 }

def headerOf (b : List Byte) : Nat := leNat (b.take 64)

def headNsec (h : Nat) : Nat := field h 351 336

/-- The section table. -/
def sections (b : List Byte) : List SecEnt :=
  (List.range (headNsec (headerOf b))).map fun i => SecEnt.parse (leNat ((b.drop (64 + 16 * i)).take 16))

/-- Bytes of a section. -/
def SecEnt.bytes (x : SecEnt) (b : List Byte) : List Byte := (b.drop x.off).take x.len

/-- Two sections overlap. -/
def SecEnt.meets (x y : SecEnt) : Bool := x.off < y.off + y.len && y.off < x.off + x.len

/-- Every pair of a list passes a test. -/
def pairwise {α : Type} (f : α → α → Bool) : List α → Bool
  | [] => true
  | a :: l => l.all (f a) && pairwise f l

/-- The section table is as R355 says. -/
def sectionsOk (size : Nat) (l : List SecEnt) : Bool :=
  (l.all fun x => x.reserved = 0 && 1 ≤ x.kind && x.kind ≤ 0x0A && x.alt ≤ 2 && 64 + 16 * l.length ≤ x.off
      && x.off + x.len ≤ size && (x.kind != 9 || (x.vt == 0 && x.alt == 0)))
    && pairwise (fun x y => !(x.kind == y.kind && x.vt == y.vt && x.alt == y.alt) && !x.meets y) l
    && l.any fun x => x.kind == 9

/-- CHK of an image: computed with CHK as zero. -/
def chkOk (b : List Byte) : Bool :=
  crc32 (b.take 44 ++ List.replicate 4 0 ++ b.drop 48) == BitVec.ofNat 32 (field (headerOf b) 383 352)

/-- Step 1 of R363: the code of R364 that fails, or 0. -/
def imageStep1 (b : List Byte) : Nat :=
  let h := headerOf b
  if b.length < 64 || field h 31 0 != 0x314B4C54 || field h 335 320 != 1 || field h 63 32 != b.length
      || decide (196608 < b.length) then 0x0101
  else if !chkOk b then 0x0102
  else if headNsec h = 0 || decide (64 < headNsec h) || decide (b.length < 64 + 16 * headNsec h)
      || !sectionsOk b.length (sections b) then 0x0103
  else 0

/-! ### Configurations (R355, R359) -/

/-- The section of a kind for a virtual tile: of an alternative for its host tile, else of the base. -/
def secFor (l : List SecEnt) (kind vt alt host : Nat) : Option SecEnt :=
  match if alt = 0 then none else l.find? fun x => x.kind == kind && x.alt == alt && x.vt == host with
  | some x => some x
  | none => l.find? fun x => x.kind == kind && x.alt == 0 && x.vt == vt

/-- 32-bit words of bytes. -/
def wordsOf : Nat → List Byte → List Word
  | 0, _ => []
  | n + 1, b => BitVec.ofNat 32 (leNat (b.take 4)) :: wordsOf n (b.drop 4)

/-- The 32 descriptors of a BUFD section, 16 bytes each; a descriptor of zeros defines no buffer (R355, R365). -/
def bufRecords (b : List Byte) : List (Option BufDesc) :=
  (List.range 32).map fun i =>
    let r := ((b.drop (16 * i)).take 16)
    if r.all (· == 0) then none else some (Config.bufDesc r)

/-- The configuration of a virtual tile (R355). DESIGN CHOICE, log entry 8. -/
def tileCfg (b : List Byte) (l : List SecEnt) (vt alt host : Nat) : TileCfg :=
  let at? (k : Nat) : Option (List Byte) := (secFor l k vt alt host).map fun x => x.bytes b
  let slots : Vector (Vector Word 40) 16 := match at? 1 with
    | some c => let w := wordsOf 640 c; Vector.ofFn fun e : Fin 16 => Vector.ofFn fun i : Fin 40 => w.getD (40 * e.val + i.val) 0xFFFFFFFF
    | none => Vector.replicate 16 (Vector.replicate 40 0xFFFFFFFF)
  { slots := slots
    setsSlots := alt = 0 || l.any fun x => x.kind == 1 && x.alt == alt && x.vt == host
    inits := ((at? 2).map Config.initRecords).getD []
    stages := ((at? 3).map fun c => c.map (·.toNat)).getD []
    bufs := ((at? 4).map bufRecords).getD []
    ports := ((at? 5).map fun c => c.map fun x => if x = 0xFF then none else some x.toNat).getD []
    offs := (List.range 11).filterMap fun k => (secFor l k vt alt host).map fun x => (k, x.off)
    initAt := ((secFor l 2 vt alt host).map fun x =>
      (List.range (Config.initRecords (x.bytes b)).length).map fun n => x.off + Config.recordAt 2 (x.bytes b) n).getD []
    host := host
    nests := ((at? 6).map Config.nests).getD []
    cmds := let w := wordsOf 64 ((at? 7).getD []); Vector.ofFn fun i : Fin 64 => w.getD i.val 0 }

/-- Host tile of a virtual tile under a shape (R359). -/
def hostIn (gw : Nat) (sh : Nat × Nat) (vt : Nat) : Nat :=
  let w := max 1 sh.1
  let h := max 1 sh.2
  vt % max 1 gw % w + w * (vt / max 1 gw % h)

/-- The edges of an alternative: its ROUTES sections stand for those of the host tiles that they name (R359). -/
def altRoutes (l : List SecEnt) (alt : Nat) (host : Nat → Nat) : List SecEnt :=
  l.filter fun x => x.kind == 8 && (if x.alt = 0 then alt = 0 || !l.any fun y => y.kind == 8 && y.alt == alt && y.vt == host x.vt
    else x.alt == alt)

/-- The edges of some ROUTES sections, in order (R356). -/
def edgesOf (b : List Byte) (l : List SecEnt) : List Edge := l.flatMap fun x => Config.edges (x.bytes b)

/-- The byte offsets of their records. -/
def edgeAts (b : List Byte) (l : List SecEnt) : List Nat :=
  l.flatMap fun x => (List.range (Config.edges (x.bytes b)).length).map fun n => x.off + Config.recordAt 8 (x.bytes b) n

/-- The image of a kernel that passed its checks. DESIGN CHOICE, log entry 8. -/
def parseImage (b : List Byte) (kid : Nat) : Image :=
  let h := headerOf b
  let l := sections b
  let gw := field h 91 88
  let gh := field h 95 92
  let two := halve (gw, gh)
  let four := halve two
  let vts := List.range (min 16 (gw * gh))
  let order (alt : Nat) : Assoc (List Nat) :=
    (l.filter fun x => x.kind == 10 && x.alt == alt).foldl (fun (m : Assoc (List Nat)) x => Assoc.put m x.vt (Config.foldOrder (x.bytes b))) []
  { kid := kid, gw := gw, gh := gh, p := field h 111 96, staged := field h 127 112, pad := field h 159 128
    owns := BitVec.ofNat 64 (field h 223 160), sems := BitVec.ofNat 64 (field h 287 224)
    bars := BitVec.ofNat 16 (field h 319 304), dregs := field h 293 290, bufn := field h 299 294
    folds := BitVec.ofNat 2 (field h 301 300)
    tiles := vts.map fun v => (v, tileCfg b l v 0 v)
    alt2 := if field h 300 300 = 1 then vts.map fun v => (v, tileCfg b l v 1 (hostIn gw two v)) else []
    alt4 := if field h 301 301 = 1 then vts.map fun v => (v, tileCfg b l v 2 (hostIn gw four v)) else []
    edges := edgesOf b (altRoutes l 0 id)
    edges2 := edgesOf b (altRoutes l 1 (hostIn gw two)), edges4 := edgesOf b (altRoutes l 2 (hostIn gw four))
    edgeAt := edgeAts b (altRoutes l 0 id)
    edgeAt2 := edgeAts b (altRoutes l 1 (hostIn gw two)), edgeAt4 := edgeAts b (altRoutes l 2 (hostIn gw four))
    order2 := order 1, order4 := order 2 }

/-! ### What a rule names -/

def Dst.regs (d : Dst) : List Nat :=
  match d with
  | .d n => [n.val]
  | _ => []

def SrcA.regs (x : SrcA) : List Nat :=
  match x with
  | .d n => [n.val]
  | _ => []

def SrcB.regs (x : SrcB) : List Nat :=
  match x with
  | .d n => [n.val]
  | _ => []

/-- The d registers that a rule names (R365). -/
def ruleRegs : Instr → List Nat
  | .add x | .sub x | .mul x | .mulh x | .mulhu x | .min x | .max x | .minu x
  | .maxu x | .addsh x | .absd x | .adds x | .subs x | .and x | .or x | .xor x
  | .andn x | .shl x | .shr x | .sar x | .ceq x | .cne x | .clt x | .cle x
  | .cltu x | .cleu x | .steer x | .merge x | .carry x | .tagw x | .cntup x | .fadd x
  | .fsub x | .fmul x | .fmax x | .fmin x | .fclt x => Dst.regs x.dst ++ SrcA.regs x.sa ++ SrcB.regs x.sb
  | .neg x | .abs x | .clz x | .popc x | .mov x | .tagr x | .dimr x => Dst.regs x.dst ++ SrcA.regs x.sa
  | .addi x | .andi x | .ori x | .xori x => Dst.regs x.dst ++ SrcA.regs x.sa
  | .shli x | .shri x | .sari x => Dst.regs x.dst ++ SrcA.regs x.sa
  | .bfx x => Dst.regs x.dst ++ SrcA.regs x.sa
  | .ceqi x | .clti x | .cgti x => Dst.regs x.dst ++ SrcA.regs x.sa
  | .movi x | .movhi x => Dst.regs x.dst
  | .movk x => Dst.regs x.dst
  | .sel x => Dst.regs x.dst ++ SrcA.regs x.sa ++ SrcB.regs x.sb
  | .gets x => Dst.regs x.dst
  | .fcvt x => Dst.regs x.dst ++ SrcA.regs x.sa
  | .ldp x => Dst.regs x.dst ++ SrcA.regs x.sa
  | .stp x => Dst.regs x.dst ++ SrcA.regs x.sa ++ SrcB.regs x.sb
  | .ldt x | .ldfe x | .ldfec x => Dst.regs x.dst ++ SrcA.regs x.sa
  | .stt x | .ldlink x | .stfe x | .disc x | .aadd x | .amax x | .afmax x | .amin x
  | .axchg x | .aor x | .ardrs x => Dst.regs x.dst ++ SrcA.regs x.sa ++ SrcB.regs x.sb
  | .fence x => Dst.regs x.dst
  | .pref x => SrcA.regs x.sa
  | .semadd x | .semset x => SrcA.regs x.sa
  | .semwait x => SrcA.regs x.sa
  | .semrd x => Dst.regs x.dst
  | .spawn x => Dst.regs x.dst ++ SrcA.regs x.sa
  | .fres x | .bind x | .rebind x => SrcA.regs x.sa ++ SrcB.regs x.sb
  | .fjoin x | .close x | .unbind x | .sets x => SrcA.regs x.sa
  | .fpoll x | .fill x | .openName x | .mkobj x => Dst.regs x.dst ++ SrcA.regs x.sa
  | .query x => Dst.regs x.dst ++ SrcA.regs x.sa ++ SrcB.regs x.sb
  | .seal x | .pkrd x => Dst.regs x.dst
  | .evcnt x => SrcA.regs x.sa
  | .fma x => [x.d.val] ++ SrcA.regs x.sa ++ SrcB.regs x.sb
  | .acas x => [x.d.val] ++ SrcA.regs x.sa ++ SrcB.regs x.sb
  | .issue x => (match x.args with
    | .none => []
    | .one a => SrcA.regs a
    | .two a b => SrcA.regs a ++ SrcB.regs b)
  | .issuev x => SrcA.regs x.w ++ (match x.args with
    | .none => []
    | .one a => SrcB.regs a
    | .two a b => SrcB.regs a ++ [b.val])
  | _ => []

/-- The semaphore that a rule or Y-word names (R365). -/
def namedSem : Instr → Option (Fin 64)
  | .semadd x | .semset x => some x.m
  | .semwait x => some x.m
  | .semrd x => some x.m
  | .cpy x | .cpyg x => if x.sem.en then some x.sem.m else none
  | .cpys x => if x.sem.en then some x.sem.m else none
  | .cpyw x => if x.sem.en then some x.sem.m else none
  | .cpyf x | .cpyx x => if x.sem.en then some x.sem.m else none
  | .cpyb x => if x.sem.en then some x.sem.m else none
  | _ => none

/-- The barrier that a rule names (R365). -/
def namedBar : Instr → Option (Fin 16)
  | .barriv x => some x.g
  | .barwt x | .baraw x => some x.g
  | _ => none

/-- The scope of an EM-format rule (R367). -/
def emScope : Instr → Option Scope
  | .ldp x => some x.scope
  | .stp x => some x.scope
  | .ldt x | .ldfe x | .ldfec x => some x.scope
  | .stt x | .ldlink x | .stfe x | .disc x | .aadd x | .amax x | .afmax x | .amin x
  | .axchg x | .aor x | .ardrs x => some x.scope
  | .acas x => some x.scope
  | .fence x => some x.scope
  | .pref x => some x.scope
  | _ => none

/-- The barriers in which an element whose slots are given takes part (R429). -/
def partOf (slots : Vector Word 40) : BitVec 16 :=
  slots.toList.foldl (fun p w =>
    match decodeRule w with
    | .ok (.barriv x) => p ||| ((1 : BitVec 16) <<< x.g.val)
    | .ok (.baraw x) => p ||| ((1 : BitVec 16) <<< x.g.val)
    | _ => p) 0

/-- An element of these slots is used (R38). -/
def slotsUsed (slots : Vector Word 40) : Bool := slots.toList.any (· != 0xFFFFFFFF)

/-- The rules of a configuration: element, slot, word. -/
def TileCfg.rules (c : TileCfg) : List (Fin 16 × Nat × Instr) :=
  ((List.range 16).map vtOf).flatMap fun e =>
    ((vget c.slots e).toList.zipIdx).filterMap fun x =>
      match decodeRule x.1 with
      | .ok i => some (e, x.2, i)
      | .error _ => none

/-! ### Steps 6 to 8 of R363 (R365-R367) -/

/-- What a report of R364 says besides the kernel id. -/
structure Bad where
  code : Nat
  vt : Nat := 0
  alt : Nat := 0
  node : Nat := 0
  eid : Nat := 0
  slot : Nat := 0
  edge : Nat := 0xFFFF
  pfmt : Nat := 0
  cfmt : Nat := 0
  vt2 : Nat := 0
  eid2 : Nat := 0
  woff : Nat := 0
  deriving DecidableEq, Repr, Inhabited

/-- The 128-bit report (R364). -/
def Bad.report (x : Bad) (kid : Nat) : Nat :=
  x.code % 2 ^ 16 * 2 ^ 112 + kid % 4096 * 2 ^ 100 + x.vt % 16 * 2 ^ 96 + x.alt % 4 * 2 ^ 94 + x.node % 8 * 2 ^ 90 + x.eid % 16 * 2 ^ 86
    + x.slot % 64 * 2 ^ 80 + x.edge % 2 ^ 16 * 2 ^ 64 + x.pfmt % 256 * 2 ^ 56 + x.cfmt % 256 * 2 ^ 48 + x.vt2 % 16 * 2 ^ 44
    + x.eid2 % 16 * 2 ^ 40 + x.woff % 2 ^ 32

/-- A descriptor number is declared and defined (R365). -/
def Image.bufOk (i : Image) (c : TileCfg) (b : Nat) : Bool := b < i.bufn && (c.bufs.getD b none).isSome

/-- The byte offset of a part of a section of a configuration. -/
def TileCfg.at (c : TileCfg) (kind n : Nat) : Nat := c.offs.getD kind 0 + n

/-- A rule word that a report names. -/
def TileCfg.badRule (c : TileCfg) (alt : Nat) (x : Fin 16 × Nat × Instr) : Bad :=
  { code := 0x53, vt := c.host, alt := alt, eid := x.1.val, slot := x.2.1, woff := c.at 1 (4 * (40 * x.1.val + x.2.1)) }

/-- The first resource that a configuration lacks (R365). -/
def Image.badTile (i : Image) (alt : Nat) (c : TileCfg) : Option Bad :=
  let sem (m : Fin 64) : Bool := i.sems.getLsbD m.val
  let regs := c.rules.findSome? fun x => if (ruleRegs x.2.2).any (i.dregs ≤ ·) then some (c.badRule alt x) else none
  let inits := c.inits.zipIdx.findSome? fun x =>
    match x.1.target with
    | .d n =>
      if i.dregs ≤ n.val then some { code := 0x53, vt := c.host, alt := alt, eid := x.1.elem.val, woff := c.initAt.getD x.2 0 } else none
    | _ => none
  let ports := (c.ports.zipIdx).findSome? fun x =>
    match x.1 with
    | some b =>
      if i.bufOk c b then none
      else some { code := 0x53, vt := c.host, alt := alt, node := Node.code (portNode x.2), slot := b, woff := c.at 5 (x.2 / 4 * 4) }
    | none => none
  let sems := c.rules.findSome? fun x =>
    match namedSem x.2.2 with
    | some m => if sem m then none else some (c.badRule alt x)
    | none => none
  let words := c.rules.findSome? fun x =>
    match x.2.2 with
    | .issue y =>
      if y.eng.val = 4 then
        match decodeCopy (vget c.cmds y.idx) with
        | .ok j => (match namedSem j with
          | some m =>
            if sem m then none
            else some { code := 0x53, vt := c.host, alt := alt, node := 5, slot := y.idx.val, woff := c.at 7 (4 * y.idx.val) }
          | none => none)
        | .error _ => none
      else none
    | _ => none
  let bars := c.rules.findSome? fun x =>
    match namedBar x.2.2 with
    | some g => if i.bars.getLsbD g.val then none else some (c.badRule alt x)
    | none => none
  (((((regs.or inits).or ports).or sems).or words).or bars)

/-- Format code of an endpoint, with bit 7 for 64-byte tokens; 0xFF when it is untyped (R364). -/
def epFmt (cfgs : Assoc TileCfg) (p : Ep) : Nat :=
  match p with
  | .buf v b => let d := (((cfgs.getD v.val {}).bufs.getD b.val none).getD {}); d.fmt + (if d.wide then 128 else 0)
  | _ => 0xFF

/-- An edge agrees (R366). -/
def edgeOk (cfgs : Assoc TileCfg) (e : Edge) : Bool :=
  let chan (p : Ep) : Bool := match p with
    | .inp .. | .out .. => true
    | _ => false
  match e.src, e.dst with
  | .buf .., .buf .. => epFmt cfgs e.src == epFmt cfgs e.dst
  | .buf .., q => chan q && epFmt cfgs e.src < 128
  | p, .buf .. => chan p && epFmt cfgs e.dst < 128
  | _, _ => true

/-- The tile that a report names for a virtual tile: under an alternative, its host (R364). -/
def hostOfCfg (cfgs : Assoc TileCfg) (vt : Fin 16) : Nat := (cfgs.getD vt.val {}).host

/-- The end of an edge at which a report places a disagreement: the consumer, or where that is a buffer and the producer none, the
producer. DESIGN CHOICE, log entry 124. -/
def Edge.reportEnd (e : Edge) : Ep :=
  match e.dst, e.src with
  | .buf _ _, .buf _ _ => e.dst
  | .buf _ _, p => p
  | q, _ => q

/-- The node that a report names for an edge: the element or engine at that end; an edge between buffers names none. -/
def Edge.reportNode (e : Edge) : Node :=
  match e.reportEnd with
  | .inp _ k _ => .elem k
  | .out _ k _ => .elem k
  | .mst _ => .matrix
  | .bnd _ k => if k.val = 0 then .streamA else if k.val = 1 then .streamB else .copy
  | .cmd _ n => vget #v[Node.matrix, .vector, .streamA, .streamB, .copy] n
  | .buf .. => .elem 0

/-- The descriptor index of a buffer (R364). -/
def Ep.reportSlot (p : Ep) : Nat :=
  match p with
  | .buf _ b => b.val
  | _ => 0

/-- The buffers that routes name are declared (R365), and the edges agree (R366). -/
def Image.badEdge (i : Image) (alt : Nat) (cfgs : Assoc TileCfg) : Option Bad :=
  let named (p : Ep) : Bool := match p with
    | .buf v b => i.bufOk (cfgs.getD v.val {}) b.val
    | _ => true
  let at0 (c : Nat) (x : Edge × Nat) (p : Ep) : Bad :=
    { code := c, vt := hostOfCfg cfgs p.vt, alt := alt, node := Node.code x.1.reportNode, eid := Node.eid x.1.reportNode, slot := p.reportSlot
      edge := x.2, woff := i.edgeAt.getD x.2 0 }
  let lacks (x : Edge × Nat) : Option Bad :=
    if !named x.1.src then some (at0 0x53 x x.1.src)
    else if !named x.1.dst then some (at0 0x53 x x.1.dst)
    else none
  let clashes (x : Edge × Nat) : Option Bad :=
    if edgeOk cfgs x.1 then none
    else some { at0 0x51 x x.1.reportEnd with pfmt := epFmt cfgs x.1.src, cfmt := epFmt cfgs x.1.dst }
  (i.numbered.findSome? lacks).or (i.numbered.findSome? clashes)

def Scope.rank (x : Scope) : Nat :=
  match x with
  | .elem => 0
  | .tile => 1
  | .group => 2
  | .region => 3
  | .device => 4
  | .span => 5

/-- The widest scope of the EM rules of an element; none when it has none (R367). -/
def scopeOf (cfgs : Assoc TileCfg) (vt e : Fin 16) : Option Nat :=
  ((cfgs.getD vt.val {}).rules.filter fun x => x.1 == e).foldl (fun m x =>
    match emScope x.2.2 with
    | some c => some (max (m.getD 0) (Scope.rank c))
    | none => m) none

/-- The widest FENCE of an element. -/
def fenceOf (cfgs : Assoc TileCfg) (vt e : Fin 16) : Option Nat :=
  ((cfgs.getD vt.val {}).rules.filter fun x => x.1 == e).foldl (fun m x =>
    match x.2.2 with
    | .fence y => some (max (m.getD 0) (Scope.rank y.scope))
    | _ => m) none

/-- An element or buffer as a place on a path, named by an endpoint. -/
def Ep.place (p : Ep) : Ep :=
  match p with
  | .inp v e _ => .out v e 0
  | .out v e _ => .out v e 0
  | p => p

/-- The scoped elements that paths from some places reach through buffers and unscoped elements, with each path's first
edge (R367). -/
def reach (i : Image) (cfgs : Assoc TileCfg) : Nat → List (Ep × Nat) → List Ep → List (Fin 16 × Fin 16 × Nat)
  | 0, _, _ => []
  | _ + 1, [], _ => []
  | n + 1, (p, k) :: rest, seen =>
    if seen.contains p then reach i cfgs n rest seen
    else
      let next := (i.numbered.filter fun x => x.1.src.place == p).map fun x => (x.1.dst.place, k)
      match p with
      | .out v e _ =>
        if (scopeOf cfgs v e).isSome then (v, e, k) :: reach i cfgs n rest (p :: seen)
        else reach i cfgs n (rest ++ next) (p :: seen)
      | .buf .. => reach i cfgs n (rest ++ next) (p :: seen)
      | _ => reach i cfgs n rest seen

/-- The first path between scoped elements of different scopes without a boundary node (R367). -/
def Image.badPath (i : Image) (alt : Nat) (cfgs : Assoc TileCfg) : Option Bad :=
  let els := (cfgs.map fun c => vtOf c.1).flatMap fun v => ((List.range 16).map vtOf).map fun e => (v, e)
  els.findSome? fun a =>
    match scopeOf cfgs a.1 a.2 with
    | none => none
    | some s1 =>
      let start := (i.numbered.filter fun x => x.1.src.place == .out a.1 a.2 0).map fun x => (x.1.dst.place, x.2)
      (reach i cfgs (16 * i.edges.length + 600) start []).findSome? fun b =>
        let s2 := (scopeOf cfgs b.1 b.2.1).getD s1
        let w := max s1 s2
        let fenced (f : Option Nat) : Bool := match f with
          | some x => w ≤ x
          | none => false
        if s1 = s2 || fenced (fenceOf cfgs a.1 a.2) || fenced (fenceOf cfgs b.1 b.2.1) then none
        else some { code := 0x52, vt := hostOfCfg cfgs a.1, alt := alt, eid := a.2.val, edge := b.2.2, vt2 := hostOfCfg cfgs b.1
                    eid2 := b.2.1.val, woff := i.edgeAt.getD b.2.2 0 }

/-- The image with an alternative in the place of its base (R359). -/
def Image.under (i : Image) (alt : Nat) : Image :=
  match alt with
  | 1 => { i with tiles := i.alt2, edges := i.edges2, edgeAt := i.edgeAt2 }
  | 2 => { i with tiles := i.alt4, edges := i.edges4, edgeAt := i.edgeAt4 }
  | _ => i

/-- The configurations of an image: the base, then each alternative. -/
def Image.configs (i : Image) : List Nat :=
  [0] ++ (if i.alt2.isEmpty then [] else [1]) ++ (if i.alt4.isEmpty then [] else [2])

/-- Steps 6 to 8 of R363, the base configuration before each alternative. -/
def Image.bad (i : Image) : Option Bad :=
  i.configs.findSome? fun c =>
    let y := i.under c
    ((y.tiles.findSome? fun x => y.badTile c x.2).or (y.badEdge c y.tiles)).or (y.badPath c y.tiles)

/-- The image of a context's kernel as its kernel area holds it. -/
def State.imageOf (s : State) (ctx kid : Nat) : Option Image := (s.kernel ctx kid).map fun k => parseImage k.bytes kid

/-- What a region sequencer's fetch finds (R370): CHK, then steps 6 to 8. -/
def fetchBad (b : List Byte) (kid : Nat) : Option Bad :=
  if !chkOk b then some { code := 0x0102, node := 6, woff := 44 } else (parseImage b kid).bad

end Sys2Proof.Machine
end

