-- ==== Sys2Proof/Machine/Arm.lean ====
section
/-! DEFINITION. Stores and arming: the dispenser's stores, the arming of a tile, its port tokens, reconfiguration
(spec/10_charge.md R281, R285-R288; spec/14_groups.md R373-R376, R379, R382; spec/18_contexts.md R471). -/

namespace Sys2Proof.Machine

/-! ### Stores (R285-R288, R493-R502) -/

/-- The power states in which the dispensers build and the dispatcher places (R475, R501, R502). -/
def PSt.active (p : PSt) : Bool := p == .run || p == .boost || p == .throttle

/-- The dispenser of a physical region has admitted slots (R493). -/
def State.admits (s : State) (r : Nat) : Bool := (s.region r).adm != 0 && s.pst.active

/-- Stores built and not yet spent: the half in use and the half that waits. -/
def Inst.unspent (x : Inst) : Nat :=
  (x.stores.foldl (fun (y : Nat × Nat) (st : Store) =>
    let e := y.1 + 256 * st.packets
    (e, if x.debited < e then y.2 + 1 else y.2)) (x.spent, 0)).2

/-- The charge, in drops, of a meter of P packets per tile that no store holds yet (R285). -/
def Inst.unbuilt (x : Inst) (p : Nat) : Nat := 256 * (p + x.granted) - x.built

/-- Packets of the next store: 512, or what is left (R285). -/
def nextStore (drops : Nat) : Nat := min 512 ((drops + 255) / 256)

/-- The next store of a tile is built: to boost fill only in BOOST (R285, R286, R497). DEDUCED, log entry 53. -/
def State.buildStore (s : State) (task : Nat) (vt : Fin 16) : State :=
  let p := s.packets task
  s.updInst task vt fun x =>
    if x.unbuilt p = 0 then { x with handover := false }
    else { x with handover := false, stores := x.stores ++ [⟨nextStore (x.unbuilt p), s.pst == .boost⟩] }

/-- STORE_BUILD (R285): one half of the tile's reservoir. -/
def execStoreBuild (l : At) (s : State) : Out :=
  .next <|
    match s.group? l.task, s.inst? l.task l.vt with
    | some g, some x =>
      if x.armed && g.state != .halted && s.admits (s.physRegion g.region) && x.unspent < 2 then s.buildStore l.task l.vt else s
    | _, _ => s

/-- STORE_UNDERRUN (R288): a store in use ends before its metered charge. -/
def execStoreUnderrun (l : At) (s : State) : Out :=
  .next <|
    match s.group? l.task, s.inst? l.task l.vt with
    | some g, some x =>
      if g.live && x.unspent ≠ 0 then
        let s := s.raise l.task (.fault 0x11 l.vt .seq 0 0)
        let s := s.updRegion (s.physRegion g.region) fun r =>
          { r with undr := if r.undr = 0xFFFFFFFF then r.undr else r.undr + 1 }
        s.countAt l.task l.vt 0x09 1
      else s
    | _, _ => s

/-! ### The state at arm (R45, R64, R121, R200, R223) -/

/-- One `.init` record (R45). -/
def Elem.initRec (el : Elem) (args : Vector Word 8) (r : InitRec) : Elem :=
  let v := match r.value with
    | .num w => w
    | .arg n => vget args n
  match r.target with
  | .d n => { el with d := vset el.d n v }
  | .k n => { el with k := vset el.k n v }
  | .p n => { el with p := setBit el.p n.val (v != 0) }
  | .i c => { el with inq := vset el.inq c { vget el.inq c with toks := (vget el.inq c).toks ++ [⟨0, v, []⟩] } }

/-- The records of a configuration for one element, in order. -/
def TileCfg.initElem (c : TileCfg) (e : Fin 16) (args : Vector Word 8) (el : Elem) : Elem :=
  (c.inits.filter fun r => r.elem == e).foldl (fun el r => el.initRec args r) el

/-- An element at arm (R121, R429). -/
def TileCfg.freshElem (c : TileCfg) (args : Vector Word 8) (e : Fin 16) : Elem :=
  let slots := vget c.slots e
  c.initElem e args { slots := slots, part := partOf slots }

/-- The used elements of a configuration (R38). -/
def TileCfg.used (c : TileCfg) : BitVec 16 :=
  (List.range 16).foldl (fun (u : BitVec 16) e => setBit u e (slotsUsed (vget c.slots (vtOf e)))) 0

/-- A copy at arm, its meter full (R281, R373). -/
def freshInst (c : TileCfg) (args : Vector Word 8) (task : Nat) (vt : Fin 16) (host p : Nat) : Inst :=
  { elems := Vector.ofFn fun e => c.freshElem args e
    used := c.used
    cfg := c
    vec := { lfsr := Vector.ofFn fun j : Fin 64 => lfsrSeed task vt.val j.val }
    meter := 256 * p
    host := host }

/-! ### Arming (R373, R374) -/

/-- Another copy on the same host tile is armed, or ready with its pad. -/
def State.hostArmed (s : State) (task : Nat) (g : Group) (vt : Fin 16) (host : Nat) : Bool :=
  g.vts.any fun v => v != vt && (match s.inst? task v with
    | some y => (y.armed || y.ready) && y.host == host
    | none => false)

/-- The pad of a copy is scrubbed: with the whole tile's, but for the shares of copies armed or made ready before it. -/
def State.scrubPad (s : State) (task : Nat) (g : Group) (vt : Fin 16) (x : Inst) : State :=
  if s.hostArmed task g vt x.host then { s with mem := s.mem.clear (s.padAddr g x vt 0) (padWindow g.img.pad) }
  else { s with mem := s.mem.clear (s.globalTile g x * 262144) 262144 }

/-- CRST and CTXSW go to the nodes of a tile that arms; only the second when the tile last ran another context. -/
def State.portTokens (s : State) (task : Nat) (g : Group) (vt : Fin 16) : State :=
  let x := s.inst task vt
  let t := s.globalTile g x
  let same := (s.tile t).lastCtx == some g.ctx
  let s := s.updInst task vt fun x => { x with cleared := [], tagged := if same then x.nodes else [], started := [], halted := [] }
  s.setTile t { s.tile t with lastCtx := some g.ctx }

/-- The arm debit (R282, R290); its store is built by then. X of R306 counts from here until a later cut of this dispatch opens, in a
dispatch that resumes from a cut too. DESIGN CHOICE, log entry 117. -/
def State.armDebit (s : State) (task : Nat) (vt : Fin 16) : State :=
  s.debit task vt .seq 0x01 1536 s fun s => s.updInst task vt fun x => { x with armed := true, sinceCut := 0, sinceOpen := 0 }

/-- What a resumed dispatch had outstanding at its cut (R297, R307). -/
def State.resumeAccs (s : State) (r : InstRec) : State :=
  { s with accs := r.accs.foldl (fun (m : Assoc Acc) (y : Nat × Acc) => Assoc.put m y.1 y.2) s.accs }

/-- A new dispatch makes one tile ready to arm (R373 steps 1 to 4): a copy as the image has it, or as the cut has it that the task resumes
from. DEDUCED, log entry 52. -/
def State.readyTile (s : State) (task : Nat) (g : Group) (vt : Fin 16) (t : Task) : State :=
  let cfg := g.img.tiles.getD vt.val {}
  let x := freshInst cfg g.args task vt (g.hostOf vt).1 t.p
  let s := (s.setInst task vt x).scrubPad task g vt x
  let s := (s.portTokens task g vt).buildStore task vt
  let s := match t.resume with
    | some (n, r) => if n = 0 then s else (s.restoreTile task vt (r.getD vt.val {})).resumeAccs (r.getD vt.val {})
    | none => s
  s.updInst task vt fun x => { x with ready := true }

/-- A group that left its rectangle takes one tile of another (R351). -/
def State.rereadyTile (s : State) (task : Nat) (g : Group) (vt : Fin 16) : State :=
  let x := s.inst task vt
  let s := s.scrubPad task g vt x
  let a := s.padAddr g x vt 0
  let s := { s with mem := (g.pads.getD vt.val []).foldl (fun (m : Memory) (c : Host.Cell) => m.write (a + c.1) c.2) s.mem }
  ((s.portTokens task g vt).buildStore task vt).updInst task vt fun x => { x with ready := true }

/-- Every node of a copy has taken CRST, and CTXSW where its tile last ran another context (R373). -/
def Inst.prepared (x : Inst) : Bool := x.ready && x.nodes.all fun n => x.cleared.contains n && x.tagged.contains n

/-- The arguments that the group's placement asked of other nodes have all arrived (R398). -/
def State.argsHere (s : State) (task : Nat) : Bool :=
  !(s.taskAccs task).any fun x => x.2.node == .seq && x.2.reply.isNone && (match x.2.req with
    | .rd .. => true
    | _ => false)

/-- Arming a tile goes one step on (R373): its stores, values and port tokens; then, its nodes prepared, the arm debit. A group that left
its rectangle debits nothing (R351). -/
def State.armStep (s : State) (task : Nat) (g : Group) (vt : Fin 16) (t : Task) : State :=
  let x := s.inst task vt
  if !x.ready then (if g.saved then s.rereadyTile task g vt else s.readyTile task g vt t)
  else if !x.prepared then s
  else if g.saved then s.updInst task vt fun x => { x with armed := true }
  else s.armDebit task vt

def State.allArmed (s : State) (task : Nat) (g : Group) : Bool := g.vts.all fun vt => (s.inst task vt).armed

/-- The cut after cut n (R295). -/
def cutAfter (n : Nat) : Nat := if 4294967295 ≤ n then 1 else n + 1

/-- Requests that close a cut which had not opened ask for it again (R187). -/
def State.sealsAgain (s : State) (task : Nat) : List (Fin 16 × Node × Option Nat) :=
  (s.taskAccs task).filterMap fun y => if y.2.closes && y.2.staged then some (y.2.vt, y.2.node, some y.1) else none

/-- Every tile is armed: the group runs, and START goes to its nodes (R374, R375). -/
def State.groupArmed (s : State) (task : Nat) : State :=
  match s.group? task with
  | none => s
  | some g =>
    let t := (s.tasks.get? task).getD {}
    let s := s.updTask task fun t => { t with state := .armed, resume := none }
    let state : GState := if g.fold = 1 then .running else .folded
    if g.saved then
      (s.setGroup task { g with state := state, saved := false, pads := [], why := none, stop := none, draining := false }).remirror task
    else
      match t.resume with
      | some (n + 1, r) =>
        (s.setGroup task { g with state := state, lastCut := n + 1, nextCut := cutAfter (n + 1), back := r,
                                  seals := s.sealsAgain task }).remirror task
      | _ => s.setGroup task { g with state := state, back := s.recordAll task }

/-- TILE_ARM (R373): a tile is made ready; with its nodes prepared it is armed. DEDUCED, log entry 53. -/
def execTileArm (l : At) (s : State) : Out :=
  .next <|
    match s.group? l.task, s.tasks.get? l.task with
    | some g, some t =>
      if g.state == .arming && g.stop.isNone && g.vts.contains l.vt && !(s.inst l.task l.vt).armed
          && s.admits (s.physRegion g.region) && s.argsHere l.task then
        let s := s.armStep l.task g l.vt t
        if s.allArmed l.task g then s.groupArmed l.task else s
      else s
    | _, _ => s

/-! ### Port tokens (R376, R379) -/

/-- A counter that CRST to a tile zeroes (R504). -/
def Ctr.crst (c : Ctr) (tile : Nat) : Ctr :=
  let w := c.sel.toNat
  if w / 2 ^ 61 % 4 = 2 ∧ w / 2 ^ 32 % 16 = tile then { c with val := 0 } else c

/-- CRST (R376): a node zeroes its per-dispatch counts. -/
def execCrst (l : At) (n : Node) (s : State) : Out :=
  .next <|
    match s.group? l.task, s.inst? l.task l.vt with
    | some g, some x =>
      if x.ready && x.nodes.contains n && !x.cleared.contains n then
        let s := s.setInst l.task l.vt { x with cleared := x.cleared ++ [n], discards := x.discards.put (Node.key n) 0 }
        let s : State := { s with hubCtrs := s.hubCtrs.map fun c => c.crst (g.tileOf x) }
        s.updRegion (s.physRegion g.region) fun r => { r with ctrs := r.ctrs.map fun c => c.crst (g.tileOf x) }
      else s
    | _, _ => s

/-- CTXSW (R376, R165): a node tags its requests with the incoming context. -/
def execCtxsw (l : At) (n : Node) (s : State) : Out :=
  .next <|
    match s.inst? l.task l.vt with
    | some x =>
      if x.ready && x.nodes.contains n && !x.tagged.contains n then s.setInst l.task l.vt { x with tagged := x.tagged ++ [n] } else s
    | none => s

/-! ### RECFG (R382) -/

/-- Every access of a copy has performed at GROUP scope. -/
def State.groupPerformed (s : State) (task : Nat) (vt : Fin 16) : Bool :=
  (s.taskAccs task).all fun y => y.2.vt != vt || 1 ≤ y.2.perf.level

/-- Every access of a frozen copy has performed at GROUP scope, but for those that the freeze has withdrawn (R382, R389). -/
def State.restPerformed (s : State) (task : Nat) (vt : Fin 16) : Bool :=
  (s.taskAccs task).all fun y => y.2.vt != vt || y.2.held || 1 ≤ y.2.perf.level

/-- The slots of an element take the words of a configuration, each checked; a refused one leaves an empty slot (R103). -/
def Elem.putSlots (el : Elem) (w : Vector Word 40) : Elem :=
  (List.range 40).foldl (fun el i => el.kset (0x20 + i) (w.toList.getD i 0xFFFFFFFF)) el

/-- A copy takes a configuration: the slots that it sets, stages, buffers, ports, nests, commands; `.init` acts at arm alone (R45).
DEDUCED, log entry 39. -/
def Inst.recfg (x : Inst) (c : TileCfg) : Inst :=
  { x with
    elems := Vector.ofFn fun e => if c.setsSlots then (vget x.elems e).putSlots (vget c.slots e) else vget x.elems e
    used := c.used
    cfg := c }

/-- An image is held by a region: READY or PINNED (R369). -/
def State.imageHeld (s : State) (r ctx kid : Nat) : Bool :=
  (s.region r).caches.toList.any fun c => (c.st == .ready || c.st == .pinned) && c.ctx == ctx && c.kid == kid

/-- The slot that a fetch takes: an EMPTY one, else the READY one armed least recently. -/
def Region.fetchSlot (r : Region) : Option (Fin 4) :=
  let l : List (Fin 4) := [0, 1, 2, 3]
  match l.find? fun i => (vget r.caches i).st == .empty with
  | some i => some i
  | none => (l.filter fun i => (vget r.caches i).st == .ready).foldl (fun (b : Option (Fin 4)) i =>
      match b with
      | some j => if (vget r.caches i).age < (vget r.caches j).age then some i else b
      | none => some i) none

/-- The context and the kernel whose image a parked token needs. -/
def State.parkNeeds (s : State) (p : Park) : Option (Nat × Nat) :=
  (s.group? p.task).map fun g => (g.ctx, match p.recfg with
    | some (_, kid) => kid
    | none => g.img.kid)

/-- The fetch that a region starts: for the oldest parked token whose image is not held, one at a time. -/
def State.startFetch (s : State) (r : Nat) : State :=
  let x := s.region r
  if x.caches.toList.any fun c => c.st == .fetching then s
  else
    match (x.ingress.filterMap s.parkNeeds).find? fun y => !s.imageHeld r y.1 y.2 with
    | some (ctx, kid) =>
      (match x.fetchSlot with
       | some i => s.updRegion r fun x => { x with caches := vset x.caches i { st := .fetching, ctx := ctx, kid := kid } }
       | none => s)
    | none => s

/-- A token parks at a region's ingress, when it has room (R371). -/
def State.parkAt (s : State) (r : Nat) (p : Park) : State :=
  if (s.region r).ingress.length < 16 then (s.updRegion r fun x => { x with ingress := x.ingress ++ [p] }).startFetch r else s

/-- RECFG (R382), between cuts and with nothing on the routes between tiles; one whose image the region does not hold parks (R371).
DEDUCED, log entry 39. -/
def execRecfg (l : At) (kid : Nat) (s : State) : Out :=
  .next <|
    match s.group? l.task, s.inst? l.task l.vt with
    | some g, some x =>
      (match s.imageOf g.ctx kid with
       | some i =>
         let r := s.physRegion g.region
         if (s.region r).ingress.any (·.task == l.task) then s
         else if !s.imageHeld r g.ctx kid then s.parkAt r { task := l.task, recfg := some (l.vt, kid) }
         else if x.armed && x.enginesIdle && s.groupPerformed l.task l.vt && g.cut.isNone && g.flight.isEmpty then
           let own (e : Edge) : Bool := e.src.vt == l.vt
           let s := s.setInst l.task l.vt (x.recfg (i.tiles.getD l.vt.val {}))
           s.updGroup l.task fun g => { g with img := { g.img with edges := g.img.edges.filter (fun e => !own e) ++ i.edges.filter own } }
         else s
       | none => s)
    | _, _ => s

end Sys2Proof.Machine
end

