-- ==== Sys2Proof/Machine/Fold.lean ====
section
/-! DEFINITION. Folding (spec/10_charge.md R309-R310; spec/13_kernels.md R359; spec/14_groups.md R391-R394). -/

namespace Sys2Proof.Machine

/-- Global tiles of a rectangle of a physical region. -/
def rectTiles (r x0 y0 w h : Nat) : List Nat :=
  (List.range h).flatMap fun y => (List.range w).map fun x => r * 16 + (y0 + y) * 4 + (x0 + x)

/-- Tiles owned by a task or by no one. -/
def State.setOwner (s : State) (l : List Nat) (o : Option Nat) : State :=
  l.foldl (fun s t => s.setTile t { s.tile t with owner := o }) s

/-- The copy in a slot of a host tile (R359). -/
def Group.slotAt (g : Group) (host slot : Nat) : Option (Fin 16) := g.vts.find? fun v => g.hostOf v == (host, slot)

/-- The swap order of a host tile (R392). -/
def Group.order (g : Group) (host : Nat) : List Nat :=
  let m := if g.fold = 4 then g.img.order4 else g.img.order2
  m.getD host (List.range g.fold)

def Group.hosts (g : Group) : List Nat := List.range (g.img.gsz / max 1 g.fold)

/-- The victim of a fold that cannot be made, or whose surcharge cannot be funded, rolls back and stands in its queue again; what
its meters hold is credited (R309, R310). DEDUCED, log entry 34. -/
def State.foldRequeue (s : State) (task : Nat) : State := ((s.rollback task false).settleMeters task 0).backToQueue task id

/-- The group moves onto the host tiles of an alternative (R359, R391), each host's surcharge funded (R309). -/
def State.foldOnto (s : State) (task : Nat) (g : Group) (four : Bool) : State :=
  let f := if four then 4 else 2
  let pads := s.padsOf task
  let h : Group := { g with fold := f, img := g.img.under (if four then 2 else 1) }
  let r := s.physRegion g.region
  let s := s.setOwner (rectTiles r g.x0 g.y0 g.img.gw g.img.gh) none
  let s := s.setOwner (rectTiles r g.x0 g.y0 h.shape.1 h.shape.2) (some task)
  let s := s.account g.ctx fun b => b - 16 * h.hosts.length
  let h : Group := { h with
    sur := h.hosts.map fun k => (k, 4096)
    resident := h.hosts.filterMap fun k => (h.slotAt k ((h.order k).getD 0 0)).map fun v => (k, v.val) }
  let s := s.setGroup task h
  let s := h.vts.foldl (fun s vt => s.updInst task vt fun x =>
    { x.recfg (h.img.tiles.getD vt.val {}) with host := (h.hostOf vt).1 }) s
  (s.putPads task pads).restart task

/-- FOLD (R391): a seal opens first; once its cut has completed and the group is scanned out, the group moves onto its hosts.
DEDUCED, log entry 35. -/
def execFold (task : Nat) (four : Bool) (s : State) : Out :=
  .next <|
    match s.group? task with
    | none => s
    | some g =>
      if g.live && g.fold == 1 && g.cut.isNone && g.seals.isEmpty && g.why.isNone then
        let s := s.openSeal task 0 .seq none
        s.updGroup task fun g => { g with cut := g.cut.map fun c => { c with shrink := some four } }
      else
        match g.state, g.why with
        | .halted, some (.shrink four) =>
          if s.parkedNow then s
          else
          let f := if four then 4 else 2
          let alt := if four then g.img.alt4 else g.img.alt2
          if alt.isEmpty then s.requeue task
          else if !(g.vts.all fun vt => (s.inst task vt).enginesIdle && s.restPerformed task vt)
              || !s.imageHeld (s.physRegion g.region) g.ctx g.img.kid then s
          else if !s.quiet task then s.askBack task
          else if 1024 < f * g.img.staged ∨ (s.ctx g.ctx).acct < 16 * (g.img.gsz / f) then s.foldRequeue task
          else s.foldOnto task g four
        | _, _ => s

/-- A copy has a token, a reply, a START or a CAIRN waiting (R374, R392, R394); the replies of an engine wait in its command.
DEDUCED, log entry 35. -/
def State.hasWork (s : State) (task : Nat) (g : Group) (vt : Fin 16) : Bool :=
  let x := s.inst task vt
  let chan (c : Chan) : Bool := !c.toks.isEmpty || !c.incoming.isEmpty
  (((List.range 16).map vtOf).any fun e => x.used.getLsbD e.val && !(x.elem e).done && (x.elem e).inq.toList.any chan)
    || !x.enginesIdle || !x.mat.status.isEmpty || decide (x.started.length < x.nodes.length) || x.bufs.any (fun b => !b.2.isEmpty) || chan x.sa.bnd || chan x.sb.bnd || chan x.cpy.bnd
    || (s.taskAccs task).any (fun a => a.2.vt == vt && a.2.reply.isSome && !a.2.answered)
    || (match g.cut with
        | some c => c.sent.any fun n => n.1 == vt && !c.hasPassed n
        | none => false)

/-- The slots after one, in cyclic order. -/
def rotateAfter (l : List Nat) (k : Nat) : List Nat :=
  match l.dropWhile (· != k) with
  | _ :: r => r ++ l.takeWhile (· != k)
  | [] => l

/-- The copy that a host swaps to (R392). -/
def State.nextSlot (s : State) (task : Nat) (g : Group) (host : Nat) : Option (Fin 16) :=
  let now := match g.resident.get? host with
    | some v => (g.hostOf (vtOf v)).2
    | none => 0
  ((rotateAfter (g.order host) now).filterMap fun k => g.slotAt host k).find? fun v => s.hasWork task g v

/-- The resident copy of a host has completed a step in which nothing acted (R392). -/
def State.hostQuiet (s : State) (task : Nat) (g : Group) (host : Nat) : Bool :=
  match g.resident.get? host with
  | some v => (s.inst task (vtOf v)).quiet
  | none => true

/-- FOLD_SWAP (R392). DEDUCED, log entry 35. -/
def execFoldSwap (task host : Nat) (s : State) : Out :=
  .next <|
    match s.group? task with
    | none => s
    | some g =>
      if !(g.live && g.fold != 1 && s.hostQuiet task g host) then s
      else
        match s.nextSlot task g host with
        | none => s
        | some v =>
          let sur := g.sur.getD host 0
          let swap (s : State) (sur : Nat) : State :=
            (((s.updGroup task fun g => { g with sur := g.sur.put host (sur - 128), resident := g.resident.put host v.val }).updInst task v
              fun x => { x with quiet := false }).countAt task v 0x04 128).countAt task v 0x20 1
          if 128 ≤ sur then swap s sur
          else if 16 ≤ (s.ctx g.ctx).acct then swap (s.account g.ctx fun b => b - 16) (sur + 4096)
          else if s.quiet task then s.foldRequeue task
          else s.askBack task

/-- The tiles that a folded group has left. -/
def State.vacated (s : State) (g : Group) : List Nat :=
  let r := s.physRegion g.region
  (rectTiles r g.x0 g.y0 g.img.gw g.img.gh).filter fun t => !(rectTiles r g.x0 g.y0 g.shape.1 g.shape.2).contains t

/-- Every copy moves back onto its own tile; what is left of the surcharges is credited (R393, R309). DEDUCED, log entry 51. -/
def State.unfoldOnto (s : State) (task : Nat) (g : Group) (i : Image) : State :=
  let pads := s.padsOf task
  let home := rectTiles (s.physRegion g.region) g.x0 g.y0 g.shape.1 g.shape.2
  let whole := (g.sur.map fun x => x.2 / 256).sum
  let lost := (g.sur.map fun x => x.2 % 256).sum
  let s := ((s.account g.ctx fun b => b + whole).countAt task 0 0x06 whole).countAt task 0 0x07 lost
  let h : Group := { g with fold := 1, img := i, sur := [], resident := [] }
  let s := s.setGroup task h
  let s := h.vts.foldl (fun s vt =>
    let s := s.updInst task vt fun x =>
      let c : TileCfg := { i.tiles.getD vt.val {} with setsSlots := x.cfg.setsSlots }
      { x.recfg c with host := vt.val }
    let t := s.globalTile h (s.inst task vt)
    if home.contains t then s else State.portTokens { s with mem := s.mem.clear (t * 262144) 262144 } task h vt) s
  (s.putPads task pads).restart task

/-- UNFOLD (R393): the free tiles are taken and the group freezes; scanned out, it moves back. DEDUCED, log entry 51. -/
def execUnfold (task : Nat) (s : State) : Out :=
  .next <|
    match s.group? task with
    | none => s
    | some g =>
      if g.live && g.fold != 1 && g.cut.isNone && g.atCut && g.why.isNone && g.x0 + g.img.gw ≤ 4 && g.y0 + g.img.gh ≤ 4
          && (s.vacated g).all fun t => (s.tile t).owner.isNone then
        (s.setOwner (s.vacated g) (some task)).updGroup task fun g => { g with why := some .unfold }
      else
        match g.state, g.why, s.imageOf g.ctx g.img.kid with
        | .halted, some .unfold, some i => if s.parkedNow then s else s.unfoldOnto task g i
        | _, _, _ => s

end Sys2Proof.Machine
end

