-- ==== Sys2Proof/Machine/Dispatcher.lean ====
section
/-! DEFINITION. The dispatcher and the configuration caches (spec/13_kernels.md R369-R371; spec/14_groups.md R372, R375;
spec/15_queues.md R398, R417; spec/18_contexts.md R454-R456, R459). -/

namespace Sys2Proof.Machine

/-! ### Resident contexts (R454, R456) -/

/-- Numbers of the contexts in a state. -/
def State.ctxsIn (s : State) (st : CState) : List Nat := (s.ctxs.filter fun x => x.2.state == st).map (·.1)

/-- The group keeps its context resident: it is PLACED, ARMING, RUNNING, HALTED or FOLDED, neither COMMITTING nor STOPPED (R456). -/
def Group.holdsCtx (g : Group) : Bool :=
  g.state != .committing && (match g.stop with
    | none | some (.page ..) => true
    | some _ => false)

/-- A wait of a context is deferred at a sync unit (R435, R456). -/
def State.defers (s : State) (c : Nat) : Bool :=
  s.accs.any fun x => x.2.deferred && x.2.waits && x.2.task.any fun t => (s.group t).ctx == c

/-- The resident context to evict: placed least recently, with no group or wait that keeps it (R456). DEDUCED, log entry 55. -/
def State.victim (s : State) : Option Nat :=
  ((s.ctxs.filter fun x => x.2.state == .resident && !(s.groups.any fun g => g.2.ctx == x.1 && g.2.holdsCtx)
      && !s.defers x.1).foldl (fun (b : Option (Nat × Nat)) x =>
    match b with
    | some y => if x.2.placedAge < y.2 then some (x.1, x.2.placedAge) else b
    | none => some (x.1, x.2.placedAge)) none).map (·.1)

/-- A context leaves its resident place: its translation entries are invalidated (R456). DEDUCED, log entry 55. -/
def State.evictCtx (s : State) (c : Nat) : State :=
  { s.updCtx c fun x => { x with state := .defined } with
    tiles := s.tiles.mapAll fun _ t => { t with cache := t.cache.filter (fun y => y.ctx != c), fills := t.fills.filter fun y => y.ctx != c }
    regions := s.regions.map fun r =>
      { r with cache := r.cache.filter (fun y => y.ctx != c), walks := r.walks.filter (fun y => y.ctx != c)
               waiting := r.waiting.filter fun y => y.ctx != c } }

def State.makeResident (s : State) (c : Nat) : State :=
  State.updCtx { s with nextId := s.nextId + 1 } c fun x => { x with state := .resident, placedAge := s.nextId }

/-- A DEFINED context with a READY task takes a resident place if there is one, or one is freed. -/
def State.admitCtx (s : State) (c : Nat) : State :=
  if (s.ctxsIn .resident).length < 64 then s.makeResident c
  else
    match s.victim with
    | some v => (s.evictCtx v).makeResident c
    | none => s

def State.admitAll (s : State) : State :=
  ((s.ctxsIn .defined).filter fun c => s.tasks.any fun t => t.2.ctx == c && t.2.state == .ready).foldl State.admitCtx s

/-! ### Fetches (R369, R371) -/

/-- A group arms from an image: its pin count rises, and the group is ARMING (R369, R375). -/
def State.pinImage (s : State) (r task : Nat) (g : Group) : State :=
  let s := s.updGroup task fun g => { g with state := .arming }
  State.updRegion { s with nextId := s.nextId + 1 } r fun x =>
    { x with
      ingress := x.ingress.filter (·.task != task)
      caches := x.caches.map fun c =>
        if (c.st == .ready || c.st == .pinned) && c.ctx == g.ctx && c.kid == g.img.kid then
          { c with st := .pinned, pins := c.pins + 1, age := s.nextId }
        else c }

/-- Parked tokens whose image is held are released, in arrival order: a placed group arms; a RECFG goes on to its tile. -/
def State.releaseParked (s : State) (r : Nat) : State :=
  (s.region r).ingress.foldl (fun s p =>
    match s.group? p.task, s.parkNeeds p with
    | some g, some (ctx, kid) =>
      if !s.imageHeld r ctx kid then s
      else if p.recfg.isNone then s.pinImage r p.task g
      else s.updRegion r fun x => { x with ingress := x.ingress.erase p }
    | _, _ => s) s

/-- What a placed group that never arms has of its earlier steps or dispatches goes: a halted one rolls back (R304), and the PRIVATE slots
and fresh objects of its task die (R308, R321). -/
def State.undoPlaced (s : State) (task : Nat) : State :=
  let g := s.group task
  if g.saved then s.rollback task true else s.updSlots g.ctx fun x => x.rolledBack task true

/-- The image of a slot failed its checks: the fault goes to the ring, its tasks are aborted (R364, R369, R370, R468). DEDUCED, log
entry 37. -/
def State.fetchFailed (s : State) (r : Nat) (slot : Fin 4) (c : Cache) (bad : Bad) : State :=
  if s.ringFull c.ctx then s
  else
    let s := s.ringPut c.ctx 3 (bad.report c.kid)
    let s := s.updRegion r fun x => { x with caches := vset x.caches slot {} }
    let hit := (s.region r).ingress.filter fun p => s.parkNeeds p == some (c.ctx, c.kid)
    hit.foldl (fun s p =>
      if p.recfg.isNone then (s.undoPlaced p.task).abortGroup p.task 2 (bad.code % 256) 0
      else
        let s := s.updRegion r fun x => { x with ingress := x.ingress.erase p }
        s.raise p.task (.fault (bad.code % 256) 0 .seq 0 0)) s

/-- IMAGE_FETCH_DONE (R369, R370) in a physical region. DEDUCED, log entry 37. -/
def execImageFetchDone (region : Nat) (slot : Fin 4) (s : State) : Out :=
  .next <|
    let c := vget (s.region region).caches slot
    if c.st != .fetching then s
    else
      let s' := match s.kernel c.ctx c.kid with
        | some k =>
          (match fetchBad k.bytes c.kid with
           | none =>
             State.releaseParked (s.updRegion region fun x => { x with caches := vset x.caches slot { c with st := .ready, age := s.nextId } }) region
           | some b => s.fetchFailed region slot c b)
        | none => s.updRegion region fun x => { x with caches := vset x.caches slot {} }
      (s'.count region (some c.ctx) none 0x22 1).startFetch region

/-! ### What fits (R371, R372, R417, R459) -/

/-- The lowest free corner of a rectangle in a physical region: lowest y0, then lowest x0. The kernel's whole rectangle, which a folded
group takes again when it unfolds, lies in the region (R357, R393). -/
def State.freeRect (s : State) (r w h : Nat) (gw : Nat := w) (gh : Nat := h) : Option (Nat × Nat) :=
  ((List.range (5 - gh)).flatMap fun y => (List.range (5 - gw)).map fun x => (x, y)).find? fun c =>
    (rectTiles r c.1 c.2 w h).all fun t => (s.tile t).owner.isNone

/-- A logical region takes a rectangle of a kernel now. -/
def State.regionFits (s : State) (lr w h : Nat) (gw : Nat := w) (gh : Nat := h) : Bool :=
  (s.region (s.physRegion lr)).ingress.length < 16 && (s.freeRect (s.physRegion lr) w h gw gh).isSome

/-- The lowest logical region with a rectangle free, one that holds the image before others (R417). -/
def State.chooseRegion (s : State) (ctx kid w h : Nat) (gw : Nat := w) (gh : Nat := h) : Option Nat :=
  let l := (List.range s.good.toNat).filter fun lr => s.regionFits lr w h gw gh
  match l.find? fun lr => s.imageHeld (s.physRegion lr) ctx kid with
  | some lr => some lr
  | none => l.head?

/-- A region where a task fits holds its image. -/
def State.heldFits (s : State) (t : Task) : Bool :=
  (List.range s.good.toNat).any fun lr => s.regionFits lr t.trec.gw t.trec.gh && s.imageHeld (s.physRegion lr) t.ctx t.trec.kid

/-- Element c of an argument object, or its place when it lies beyond the object or its handle is not open (R398). -/
def State.argPlace (s : State) (t : Task) (n : Nat) : Option (Nat × Obj × Nat) :=
  match s.hostObj t.ctx (t.trec.argp.toNat / 1048576) with
  | none => none
  | some (obj, o) =>
    let c := t.trec.argp.toNat % 1048576 + (if t.trec.astep then 8 * t.inst else 0) + n
    if c < descCount o.desc then some (obj, o, byteOf o.desc c) else none

/-- The argument pages are here, or on another die: none is OUT or MOVING. DEDUCED, log entry 54. -/
def State.argsReady (s : State) (t : Task) : Bool :=
  (List.range 8).all fun n => match s.argPlace t n with
    | some (_, o, byte) => (o.page byte).v && (o.page byte).moving.isNone
    | none => true

/-- One argument of a task: none, or where its word stands (R398). -/
def State.argAt (s : State) (t : Task) (n : Nat) : Word ⊕ Loc :=
  if !t.trec.astep && n = 7 then .inl (BitVec.ofNat 32 t.inst)
  else
    match s.argPlace t n with
    | none => .inl 0
    | some (obj, _, byte) => .inr ⟨obj, byte, 0⟩

/-- The arguments of a task, read at its placement: their memory nodes serve the hub's reads at once where they may, and the group does not
arm before all have answered (R398). DEDUCED, log entry 54. -/
def State.readArgs (s : State) (no : Nat) (t : Task) : State :=
  ((List.range 8).foldl (fun (s : State) n =>
    match s.argAt t n with
    | .inl w => s.updGroup no fun g => { g with args := vset g.args ⟨n % 8, Nat.mod_lt _ (by decide)⟩ w }
    | .inr l =>
      let id := s.nextId
      (s.addAcc { task := some no, req := .rd l .fp32, scope := .device, slot := 1032, rule := n, answered := true }).serveVault id) s).transmit

/-- A READY task fits (R417, R459). -/
def State.taskFits (s : State) (t : Task) : Bool :=
  let c := s.ctx t.ctx
  t.state == .ready && c.state == .resident && c.saveUse + 14 * t.trec.gw * t.trec.gh ≤ c.savefr && s.argsReady t
    && (s.kernel t.ctx t.trec.kid).isSome && (s.chooseRegion t.ctx t.trec.kid t.trec.gw t.trec.gh).isSome

/-! ### Placing (R372, R375, R417) -/

/-- A group stands in a rectangle: its image is armed from, or it parks at the ingress (R371). -/
def State.occupy (s : State) (task lr w h : Nat) : State :=
  let r := s.physRegion lr
  let img := (s.group task).img
  let (x0, y0) := (s.freeRect r w h img.gw img.gh).getD (0, 0)
  let s := (s.setOwner (rectTiles r x0 y0 w h) (some task)).updGroup task fun g =>
    { g with region := lr, x0 := x0, y0 := y0, state := .placed }
  match s.group? task with
  | none => s
  | some g =>
    if s.imageHeld r g.ctx g.img.kid then s.pinImage r task g
    else (s.count r (some g.ctx) (some task) 0x21 1).parkAt r { task := task }

/-- The dispatcher places a task (R404, R417, R459): packets debited, arguments read, the save area reserved. DEDUCED, log entry 52.
-/
def State.placeTask (s : State) (no : Nat) (t : Task) (img : Image) (lr : Nat) : State :=
  let n := t.trec.gw * t.trec.gh
  let g : Group := { ctx := t.ctx, fn := (s.ctx t.ctx).vf, img := img }
  let s := (s.setGroup no g).updTask no fun t => { t with state := .placed }
  let s := g.vts.foldl (fun s vt => s.setInst no vt { meter := 256 * t.p, host := vt.val }) s
  let s := s.account t.ctx fun b => b - t.p * n
  let s := State.updCtx { s with nextId := s.nextId + 1 } t.ctx fun c =>
    { c with saveUse := c.saveUse + 14 * n, placedAge := s.nextId }
  let s := s.occupy no lr t.trec.gw t.trec.gh
  ((s.readArgs no t).count (s.physRegion lr) (some t.ctx) (some no) 0x05 (t.p * n)).countHub 0x2C 1 (some t.ctx)

/-- Saved groups, oldest task first, that a region takes (R351). DEDUCED, log entry 33. -/
def State.savedFits (s : State) : Option (Nat × Nat × Nat × Nat) :=
  let l := s.groups.filterMap fun x =>
    if x.2.saved && x.2.state == .halted then
      (s.chooseRegion x.2.ctx x.2.img.kid x.2.shape.1 x.2.shape.2 x.2.img.gw x.2.img.gh).map fun lr => (x.1, lr, x.2.shape.1, x.2.shape.2)
    else none
  let age (n : Nat) : Nat := ((s.tasks.get? n).getD {}).age
  l.foldl (fun (b : Option (Nat × Nat × Nat × Nat)) x => match b with
    | some y => if age x.1 < age y.1 then some x else b
    | none => some x) none

/-! ### The decision (R417) -/

def State.prioOf (s : State) (t : Task) : Nat := min t.trec.prio (s.queue t.ctx t.trec.queue).pmax

def Task.key (t : Task) : Nat := t.ctx * 16 + t.trec.queue.val

/-- The oldest of some tasks. -/
def oldest (l : List (Nat × Task)) : Option (Nat × Task) :=
  l.foldl (fun (b : Option (Nat × Task)) x => match b with
    | some y => if x.2.age < y.2.age then some x else b
    | none => some x) none

/-- The queue whose turn it is: the first at or after the pointer, cyclically. -/
def turnOf (keys : List Nat) (ptr : Nat) : Option Nat :=
  let lowest (l : List Nat) : Option Nat := l.foldl (fun b k => match b with
    | some j => some (min j k)
    | none => some k) none
  match lowest (keys.filter (ptr ≤ ·)) with
  | some k => some k
  | none => lowest keys

/-- Deficits of the queues that hold no fitting work are 0. DEDUCED, log entry 30. -/
def State.clearDeficits (s : State) (keys : List Nat) : State :=
  { s with ctxs := s.ctxs.mapAll fun c x =>
      { x with queues := Vector.ofFn fun q : Fin 16 =>
          let y := vget x.queues q
          if keys.contains (c * 16 + q.val) then y else { y with deficit := 0 } } }

/-- The pass rule: a task whose image is held goes before an older one, at most four times. -/
def State.passRule (s : State) (mine : List (Nat × Task)) (t : Nat × Task) : Nat × Task × State :=
  match oldest (mine.filter fun x => s.heldFits x.2) with
  | some c =>
    if c.1 ≠ t.1 ∧ t.2.pass < 4 then (c.1, c.2, s.updTask t.1 fun t => { t with pass := t.pass + 1 }) else (t.1, t.2, s)
  | none => (t.1, t.2, s)

/-- One decision over the fitting tasks of the highest priority. DEDUCED, log entry 30. -/
def State.dispatchOne (s : State) (fit : List (Nat × Task)) : State :=
  let p := (fit.map fun x => s.prioOf x.2).foldl max 0
  let all := fit.map fun x => x.2.key
  let fit := fit.filter fun x => s.prioOf x.2 == p
  let keys := fit.map fun x => x.2.key
  let pi : Fin 16 := vtOf p
  match turnOf keys (vget s.ptr pi) with
  | none => s
  | some k =>
    let mine := fit.filter fun x => x.2.key == k
    match oldest mine with
    | none => s
    | some t =>
      let s := s.clearDeficits all
      let (no, t, s) := s.passRule mine t
      let q := s.queue t.ctx t.trec.queue
      let d := (if q.deficit = 0 then q.wm1 + 1 else q.deficit) - 1
      let s := s.updQueue t.ctx t.trec.queue fun q => { q with deficit := d }
      let s := if d = 0 then { s with ptr := vset s.ptr pi (k + 1) } else s
      match s.imageOf t.ctx t.trec.kid, s.chooseRegion t.ctx t.trec.kid t.trec.gw t.trec.gh with
      | some img, some lr => s.placeTask no t img lr
      | _, _ => s

/-- Nothing keeps the dispatcher from placing (R475, R501, R518). -/
def State.places (s : State) : Bool := s.pst.active && !s.springing && s.sec != .failed

/-- DISPATCH_DECISION (R417): a saved group first, then a READY task (DEDUCED, log entry 33). -/
def execDispatchDecision (s : State) : Out :=
  .next <|
    if !s.places then s
    else
      let s := ((List.range 64).foldl State.startFetch s).admitAll
      match s.savedFits with
      | some (no, lr, w, h) => s.occupy no lr w h
      | none =>
        let fit := s.tasks.filter fun x => s.taskFits x.2
        if fit.isEmpty then s else s.dispatchOne fit

end Sys2Proof.Machine
end

