-- ==== Sys2Proof/Machine/Page.lean ====
section
/-! DEFINITION. The host's windows: which of them answer; the page window, page moves and the end of an object
(spec/11_tensors.md R315; spec/12_pages.md R335, R339-R347; spec/21_bringup.md R508, R511). -/

namespace Sys2Proof.Machine

/-! ### Windows (R472, R475, R508) -/

/-- The context whose window a host access reaches: none where nothing answers. DEDUCED, log entry 19. -/
def State.window? (s : State) (h : HostAt) : Option Ctx :=
  if s.pst == .off || s.sec == .failed then none
  else
    match s.ctxs.get? h.ctx with
    | some c =>
      if c.state == .free then none
      else
        match h.via with
        | .pf => some c
        | .vf f => if c.vf = f.val then some c else none
    | none => none

/-- A window write: refused while the context is RESETTING (R472). -/
def State.onWindow (s : State) (h : HostAt) (refuse act : State) : State :=
  match s.window? h with
  | some c => if c.state == .resetting then refuse else act
  | none => s

/-- A command word of a window: the OP it holds is this operation's, another operation's, or a reserved one, which the lowest
operation of the window answers with status 3. DEDUCED, log entry 57. -/
def State.onOp (w : Dword) (op last : Nat) (other reserved act : State) : State :=
  let o := field w.toNat 63 60
  if o = op then act else if op = 1 && (o = 0 || last < o) then reserved else other

/-! ### The order of a function's writes (R511) -/

/-- The number of the function through which a host write comes; 64 is the physical one. -/
def Via.fn (v : Via) : Nat :=
  match v with
  | .pf => 64
  | .vf f => f.val

/-- Aperture and semaphore writes of a function that have still to perform. -/
def State.hostWrites (s : State) (fn : Nat) : List Nat :=
  (s.accs.filter fun x => x.2.task.isNone && x.2.slot == 1032 && x.2.rule == fn && (match x.2.req with
    | .wr .. | .sem .. => true
    | _ => false)).map (·.1)

/-- A launch, a host bind and a semaphore write release what the function has written before (R426, R511). -/
def HostCmd.releases (i : HostCmd) : Bool :=
  match i with
  | .launch .. | .hostSemWrite .. | .hostBind .. | .hostUnbind .. | .hostRebind .. => true
  | _ => false

/-- A write of a function waits: for an earlier one that waits, or as a release for those that have still to perform (R511). -/
def State.hostWaits (s : State) (fn : Nat) (i : HostCmd) : Bool :=
  s.hostQ.any (fun x => x.1 == fn) || (i.releases && !(s.hostWrites fn).isEmpty)

/-- A host write takes effect, or waits for its turn. DEDUCED, log entry 103. -/
def State.inOrder (s : State) (via : Via) (i : HostCmd) (act : State → State) : State :=
  let fn := Via.fn via
  if s.hostWaits fn i then { s with hostQ := s.hostQ ++ [(fn, i)] } else act s

/-! ### Frames and accesses of a page -/

/-- A request names a byte of a page of an object. -/
def Acc.onPage (a : Acc) (obj page : Nat) : Bool :=
  match a.req with
  | .put l cells => l.obj == obj && (l.byte / 65536 == page || cells.any fun x => x.1 / 65536 == page)
  | .rds l _ => l.any fun p => p.obj == obj && p.byte / 65536 == page
  | r => r.target.any fun x => x.1 == obj && x.2 / 65536 == page

/-- An access that a port of this die accepted names a page of an object and has not performed, a deferred one included (R315, R339);
what a commit buffer holds waits there for the page (R347). -/
def State.pageBusy (s : State) (obj page : Nat) : Bool :=
  (s.accs.any fun x => !x.2.staged && !(x.2.held && !x.2.remote) && x.2.perf == .none && x.2.onPage obj page)
  || s.insts.any fun x => match x.2.cpy.run with
    | some r => r.moves.any fun m => m.lanes.any fun l =>
        (match l.1 with
         | .at o b _ => o == obj && b / 65536 == page
         | _ => false)
        || (match l.2 with
            | some (o, b, _) => o == obj && b / 65536 == page
            | none => false)
    | none => false

/-- The node that holds a page has accepted an access to it that has not performed: it stands in the engine's queue or list (R344). -/
def State.nodeBusy (s : State) (obj page : Nat) : Bool :=
  s.accs.any fun x => (x.2.queued || x.2.deferred) && x.2.onPage obj page

/-- The hot lines of a frame leave their engine, written back. -/
def State.dropHot (s : State) (a : Nat) : State :=
  { s with regions := s.regions.map fun r => { r with hot := r.hot.filter fun l => l / 1024 != a / 65536 } }

/-- A page gives up its frame on this die. -/
def State.freeFrame (s : State) (p : Page) : State :=
  match frameAddr p.loc p.frame with
  | some a => { s.dropHot a with usedFrames := s.usedFrames.filter (· != frameNo p.loc p.frame) }
  | none => s

/-! ### The page window (R346, R347) -/

/-- The status of the last page operation (R346). -/
def State.pgStatus (s : State) (ctx n : Nat) : State := s.updCtx ctx fun c => { c with pgst := n }

/-- Presence bits as 2 KiB (R340). -/
def presenceBytes (full : List Nat) : List Byte :=
  (List.range 2048).map fun i => (List.range 8).foldl (fun (b : Byte) j => setBit b j (full.contains (8 * i + j))) 0

/-- Presence bits from 2 KiB. -/
def presenceWords (l : List Byte) : List Nat :=
  l.zipIdx.flatMap fun x => (List.range 8).filterMap fun j => if x.1.getLsbD j then some (8 * x.2 + j) else none

/-- The content of a page that goes OUT stands in host memory (R340, R341, R347); the page is OUT on every die (R335). -/
def State.pageOut (s : State) (p : PgOp) (fe : Bool) (data : List Byte) (full : List Nat) : State :=
  let at0 := (s.ctx p.ctx).pgaddr.toNat
  let bits := if fe then presenceBytes full else []
  let s := State.invalidate { s with hostMem := (s.hostMem.writes at0 data).writes (at0 + 65536) bits } p.obj p.page
  ((s.updPage p.obj p.page fun y => { y with v := false, held := false, full := [], clocks := [], scount := 0 }).tellEntry p.obj p.page).pgStatus
    p.ctx 0

/-- The data of a page on this die, none of a dead one. -/
def State.pageData (s : State) (y : Page) : List Byte :=
  match y.dead, frameAddr y.loc y.frame with
  | false, some a => s.mem.reads a 65536
  | _, _ => []

/-- The operation at the head of the hub's list has come to a stage. -/
def State.pageStage (s : State) (p : PgOp) (st : PgStage) : State := { s with pgops := { p with stage := st } :: s.pgops.drop 1 }

/-- Bytes as move flits of 192 each, their parts numbered from k on. -/
def moveParts (obj page dst : Nat) : Nat → Nat → List Byte → List Tx
  | 0, _, _ => []
  | n + 1, k, l =>
    if l.isEmpty then []
    else { dst := dst, msg := .move obj page k (l.take 192) false false } :: moveParts obj page dst n (k + 1) (l.drop 192)

/-- The flits of a page move (R492): 192 data bytes each, parts 0 to 341, then on a full-empty page the presence bits, parts 342 to 352, and
the DEAD bit. -/
def State.moveFlits (s : State) (obj page dst : Nat) (p : Page) : List Tx :=
  let data := match p.dead, frameAddr p.loc p.frame with
    | false, some a => s.mem.reads a 65536
    | _, _ => []
  let bits := if (s.objs.get? obj).any fun o => descFe o.desc then presenceBytes p.full else []
  moveParts obj page dst 342 0 data ++ moveParts obj page dst 11 342 bits ++ [{ dst := dst, msg := .move obj page 353 [] true p.dead }]

/-- The clocks that a page's words bear are merged before it leaves, so that its flits carry them (R344, R449). DEDUCED, log entry 76. -/
def State.mergePage (s : State) (p : Page) : State := p.clocks.foldl (fun s x => s.mergeClock x.2) s

/-- The other dies and this one are told that an entry is to change, or that the change has been given up (R339). -/
def State.holdPage (s : State) (obj page : Nat) (why : Still) : State :=
  (s.updPage obj page fun p => { p with held := why == .change }).tellAll (.still obj page why)

/-- PGOUT once the other dies have answered (R339, R347): every access that a port accepted for the page performs first; a page that
another die holds is asked of it. -/
def State.pgoutGo (s : State) (p : PgOp) (o : Obj) (y : Page) : Bool × State :=
  if y.moving.isSome || s.pageBusy p.obj p.page then (false, s.pageStage p (.asked []))
  else if y.die = s.die.toNat then
    if s.nodeBusy p.obj p.page then (false, s.pageStage p (.asked []))
    else (true, (s.freeFrame y).pageOut p (descFe o.desc) (s.pageData y) y.full)
  else (false, (s.sendTo y.die (.pgout p.obj p.page s.die.toNat)).pageStage p .sent)

/-- PGOUT (R335, R339, R347): the translations of the page are invalidated on every die first. DEDUCED, log entry 56. -/
def State.servePgout (s : State) (p : PgOp) (o : Obj) (y : Page) : Bool × State :=
  match p.stage with
  | .fresh =>
    if y.moving.isSome || y.pin then (true, s.pgStatus p.ctx 5)
    else if o.isFresh || !y.v then (true, s.pgStatus p.ctx 3)
    else
      let dies := s.others.filter s.reaches
      let s := (s.invalidate p.obj p.page).holdPage p.obj p.page .change
      if dies.isEmpty then s.pgoutGo p o y else (false, s.pageStage p (.asked dies))
  | .asked l => if (l.filter s.reaches).isEmpty then s.pgoutGo p o y else (false, s)
  | .sent =>
    if !y.v then (true, (s.holdPage p.obj p.page .over).pgStatus p.ctx 3)
    else if s.reaches y.die then (false, s)
    else (true, (s.holdPage p.obj p.page .over).pgStatus p.ctx 5)

/-- PGIN once the other dies have invalidated their entries (R335, R339, R347, R533). -/
def State.pginGo (s : State) (p : PgOp) (o : Obj) (y : Page) : State :=
    match s.placePage s.usedFrames (descPlace o.desc) o.tile o.region p.page with
    | none => s.pgStatus p.ctx 2
    | some (loc, frame) =>
      let at0 := (s.ctx p.ctx).pgaddr.toNat
      let mem := match y.dead, frameAddr loc frame with
        | false, some a => (s.mem.clear a 65536).writes a (s.hostMem.reads at0 65536)
        | _, _ => s.mem
      let full := if descFe o.desc then presenceWords (s.hostMem.reads (at0 + 65536) 2048) else []
      let s := State.invalidate { s with mem := mem, usedFrames := s.usedFrames ++ [frameNo loc frame] } p.obj p.page
      let s := (s.updPage p.obj p.page fun y =>
        { y with v := true, held := false, drt := false, die := s.die.toNat, loc := loc, frame := frame, full := full, scount := 0 }).tellEntry
          p.obj p.page
      (s.pgStatus p.ctx 0).retryEnded

/-- PGIN (R335, R339, R347): the translations of the page are invalidated on every die first. -/
def State.servePgin (s : State) (p : PgOp) (o : Obj) (y : Page) : Bool × State :=
  if y.v then (true, s.pgStatus p.ctx 3)
  else if (s.placePage s.usedFrames (descPlace o.desc) o.tile o.region p.page).isNone then (true, s.pgStatus p.ctx 2)
  else
    match p.stage with
    | .fresh =>
      let dies := s.others.filter s.reaches
      let s := (s.invalidate p.obj p.page).tellAll (.still p.obj p.page .change)
      if dies.isEmpty then (true, s.pginGo p o y) else (false, s.pageStage p (.asked dies))
    | .asked l => if (l.filter s.reaches).isEmpty then (true, s.pginGo p o y) else (false, s)
    | .sent => (true, s.pginGo p o y)

/-- One operation of the page window is served, as far as it may be: whether it has ended, and the state after it (R346, R347). -/
def State.servePage (s : State) (p : PgOp) : Bool × State :=
  match s.objs.get? p.obj with
  | none => (true, s.pgStatus p.ctx 3)
  | some o =>
    if o.ctx ≠ p.ctx ∨ descPages o.desc ≤ p.page then (true, s.pgStatus p.ctx 3)
    else
      let y := o.pages.getD p.page {}
      match p.op with
      | .pgout => s.servePgout p o y
      | .pgin => s.servePgin p o y
      | .pgunpin =>
        if !p.pf then (true, s.pgStatus p.ctx 3)
        else (true, ((s.updPage p.obj p.page fun y => { y with pin := false, mig := 0 }).tellAll (.unpin p.obj p.page)).pgStatus p.ctx 0)
      | .pgread =>
        (true, (s.updCtx p.ctx fun c => { c with pgstat := BitVec.ofNat 64 (pageEntry o.desc s.die.toNat y) }).pgStatus p.ctx 0)

/-- The hub serves page operations one at a time, in the order in which they were written (R346). -/
def State.pageService : Nat → State → State
  | 0, s => s
  | n + 1, s =>
    match s.pgops with
    | [] => s
    | p :: _ =>
      match s.servePage p with
      | (true, t) => State.pageService n { t with pgops := t.pgops.drop 1 }
      | (false, t) => t

/-- What another die has asked of a page: to tell when the accesses of this die have performed (R339), or to send a page that goes OUT,
for which this die's node has no access to serve any more (R344, R347). DEDUCED, log entry 104. -/
def State.pageAsked (s : State) (x : Rx) : State :=
  let gone : State := { s with rx := s.rx.erase x }
  match x.msg with
  | .still obj page why =>
    let valid := (s.objs.get? obj).any fun o => (o.pages.getD page {}).v
    if valid && s.pageBusy obj page then s else gone.sendTo x.src (.stilled obj page why)
  | .pgout obj page die =>
    match s.objs.get? obj with
    | none => gone
    | some o =>
      let p := o.pages.getD page {}
      if !p.v then gone
      else if p.die ≠ s.die.toNat then gone.sendTo p.die (.pgout obj page die)
      else if p.moving.isSome || s.nodeBusy obj page then s
      else
        let t := gone.mergePage p
        let s := State.freeFrame { t with tx := t.tx ++ t.moveFlits obj page die p } p
        (s.invalidate obj page).updPage obj page fun p => { p with v := false, loc := 2, frame := 0, full := [], clocks := [], scount := 0 }
  | _ => s

/-- What other dies have asked is tried again. -/
def State.pagesAsked (s : State) : State := (s.rx.filter (·.parked)).foldl State.pageAsked s

/-- A write to PGCMD starts an operation, status 7 until it ends (R346); one more of a window whose operation is in progress is dropped
(DESIGN CHOICE, log entry 102). -/
def State.pageCmd (s : State) (h : HostAt) (w : Dword) (code : Nat) (op : PgKind) : State :=
  s.onWindow h (s.pgStatus h.ctx 5) <| State.onOp w code 4 s (s.pgStatus h.ctx 3) <|
    if s.pgops.any fun p => p.ctx == h.ctx then s
    else
      let p : PgOp := { ctx := h.ctx, pf := h.via == .pf, op := op, obj := field w.toNat 31 16, page := field w.toNat 51 32 }
      let s := s.pgStatus h.ctx 7
      (State.pageService (s.pgops.length + 1) { s with pgops := s.pgops ++ [p] }).transmit

/-- PGOUT (R347). -/
def State.pgoutNow (h : HostAt) (w : Dword) (s : State) : State := s.pageCmd h w 2 .pgout

/-- PGOUT, in the order of the function's writes (R346, R511). -/
def execPgout (h : HostAt) (w : Dword) (s : State) : Out := .next (s.inOrder h.via (.pgout h w) (State.pgoutNow h w))

/-- PGIN (R347). -/
def State.pginNow (h : HostAt) (w : Dword) (s : State) : State := s.pageCmd h w 1 .pgin

/-- PGIN, in the order of the function's writes (R346, R511). -/
def execPgin (h : HostAt) (w : Dword) (s : State) : Out := .next (s.inOrder h.via (.pgin h w) (State.pginNow h w))

/-- PGUNPIN (R335, R347): through the physical function alone. -/
def State.pgunpinNow (h : HostAt) (w : Dword) (s : State) : State := s.pageCmd h w 3 .pgunpin

/-- PGUNPIN, in the order of the function's writes (R346, R511). -/
def execPgunpin (h : HostAt) (w : Dword) (s : State) : Out := .next (s.inOrder h.via (.pgunpin h w) (State.pgunpinNow h w))

/-- PGREAD (R347): this die's copy of the entry. -/
def State.pgreadNow (h : HostAt) (w : Dword) (s : State) : State := s.pageCmd h w 4 .pgread

/-- PGREAD, in the order of the function's writes (R346, R511). -/
def execPgread (h : HostAt) (w : Dword) (s : State) : Out := .next (s.inOrder h.via (.pgread h w) (State.pgreadNow h w))

/-! ### Page moves (R343-R345) -/

/-- PAGE_MOVE_DONE (R344, R345) at the die that held the page, once every access that its node has accepted for the page has
performed and the other dies have invalidated their entries (R339). Whether the new die has a frame is a free value (log entry 10); where it has none the move does not take place. DEDUCED, log
entry 56. -/
def execPageMoveDone (obj page : Nat) (s : State) : Out :=
  .next <|
    match s.objs.get? obj with
    | none => s
    | some o =>
      let p := o.pages.getD page {}
      match p.moving with
      | none => s
      | some streak =>
        if p.die ≠ s.die.toNat || s.nodeBusy obj page || !(p.asked.filter s.reaches).isEmpty then s
        else
          let fourth := p.mig = 3
          let dst := if fourth then p.home else streak
          let t :=
            if dst = p.die then
              (s.updPage obj page fun p => { p with mig := p.mig + 1, pin := fourth, moving := none, sdie := 0, scount := 0 }).tellEntry obj page
            else
              let (w, s) := s.free Config.freeWord
              if w.getLsbD 0 then (s.updPage obj page fun p => { p with moving := none, scount := 0 }).tellEntry obj page
              else
                let s := s.mergePage p
                let s := State.freeFrame { s with tx := s.tx ++ s.moveFlits obj page dst p } p
                ((s.invalidate obj page).updPage obj page fun p =>
                  { p with die := dst, loc := 2, frame := 0, drt := false, mig := p.mig + 1, pin := fourth, moving := none, sdie := 0, scount := 0
                           full := [], clocks := [] }).tellEntry obj page
          t.retryEnded.transmit

/-! ### The end of an object (R315) -/

/-- A QUERY through a handle of an object (R328). -/
def Req.asks (r : Req) (obj : Nat) : Bool :=
  match r with
  | .dir (.query o _) => o == obj
  | _ => false

/-- Some access through a handle of an object has still to perform, staged and deferred ones included. -/
def State.objBusy (s : State) (obj : Nat) : Bool :=
  (s.accs.any fun x => x.2.perf != .span && (match x.2.req.target with
    | some (o, _) => o == obj
    | none => x.2.req.asks obj))
  || (s.insts.any fun x => x.2.staged.any fun e => !e.sent && (match e.what with
    | .line o _ _ => o == obj
    | _ => false))
  || ((s.objs.get? obj).any fun o => o.pages.any fun y => s.pageBusy obj y.1)

/-- Requests of other dies for an object are dropped (R472). -/
def State.dropRequests (s : State) (obj : Nat) : State :=
  let ids := (s.accs.filter fun x => x.2.foreign && x.2.req.target.any fun y => y.1 == obj).map (·.1)
  { s.unlist ids with
    accs := s.accs.filter fun x => !ids.contains x.1
    rx := s.rx.filter fun x => !(x.acc.any ids.contains) && !(x.acc.isNone && x.msg.place.any fun y => y.1 == obj) }

/-- The pages, translations and hot lines of an object go from this die, and its id is free (R315, R332). -/
def State.forgetObj (s : State) (obj : Nat) : State :=
  match s.objs.get? obj with
  | none => s
  | some o =>
    let s := o.pages.foldl (fun s y => if y.2.v && y.2.die = s.die.toNat then s.freeFrame y.2 else s) s
    let s := o.pages.foldl (fun s y => s.invalidate obj y.1) s
    State.dropRequests { s with objs := s.objs.del obj, waiters := s.waiters.filter fun w => w.1 / 1048576 != obj } obj

/-- An object goes, on every die, each of which is told before anything else goes to it (R315, R472, R474); its id is free when each has
answered. -/
def State.dropObj (s : State) (obj : Nat) : State :=
  let s := s.forgetObj obj
  if s.others.isEmpty then s
  else s.others.foldl (fun s d =>
    { s with tx := Tx.before { dst := d, msg := .freed obj } (s.tx.filter fun t => !(t.dst == d && t.formed.isNone && t.msg.tells obj)) })
    { s with gone := s.gone.put obj s.others }

/-- A die no longer has an object (R472). -/
def State.idFreed (s : State) (die obj : Nat) : State :=
  match (s.gone.getD obj []).filter (· != die) with
  | [] => { s with gone := s.gone.del obj }
  | l => { s with gone := s.gone.put obj l }

/-- OBJECT_FREED (R315). -/
def execObjectFreed (obj : Nat) (s : State) : Out :=
  .next <|
    match s.objs.get? obj with
    | some o => if o.st == .reclaiming && !s.objBusy obj then (s.dropObj obj).transmit else s
    | none => s

end Sys2Proof.Machine
end

