-- ==== Sys2Proof/Machine/HostWindow.lean ====
section
/-! DEFINITION. The host's windows of a context: launch, queues, account, semaphores, fault ring, groups, directory, kernels,
data aperture (spec/11_tensors.md R331, R528; spec/13_kernels.md R368; spec/15_queues.md R400-R404; spec/16_barriers.md R426;
spec/18_contexts.md R455-R469; spec/21_bringup.md R509-R511). -/

namespace Sys2Proof.Machine

/-! ### Launch and queues (R400-R404) -/

/-- A record refused with a code (R400). -/
def State.refuseLaunch (s : State) (ctx code : Nat) : State :=
  s.updCtx ctx fun c => { c with ref := min 65535 (c.ref + 1), last := code }

/-- The code of a record, 0 when it is accepted unless its OWNF is settled (R400, in the order of its table). -/
def State.launchCode (s : State) (ctx : Nat) (r : TaskRec) : Nat :=
  if r.npred < r.futs.length then 2
  else if s.recordCode ctx r ≠ 0 then s.recordCode ctx r
  else if r.npred ≠ r.futs.length then 8
  else if (firstCode (s.refHost ctx) (r.ownf :: r.futs)).isSome then 9
  else 0

/-- An accepted record enters the pool whole (R400, R403). -/
def State.acceptLaunch (s : State) (ctx : Nat) (r : TaskRec) : State :=
  match s.takeSlots (r.sprm1 + 1) with
  | none => s
  | some slots =>
    let s := s.updCtx ctx fun c => { c with acc := c.acc + 1 }
    let s := s.updQueue ctx r.queue fun q => { q with count := q.count + (r.sprm1 + 1) }
    (s.declare ctx r slots none).countHub 0x2B 1 (some ctx)

/-- LAUNCH (R400): the record waits, and with it the later writes of its function, while its OWNF is looked at on another die. -/
def State.launchNow (h : HostAt) (bytes : List Byte) (s : State) : State :=
  s.onWindow h (s.refuseLaunch h.ctx 5) <|
    if bytes.length ≠ 64 then s.refuseLaunch h.ctx 1
    else
      match TaskRec.parse (leNat bytes) with
      | none => s.refuseLaunch h.ctx 2
      | some r =>
        let code := s.launchCode h.ctx r
        if code ≠ 0 then s.refuseLaunch h.ctx code
        else if r.ownf = 0 then s.acceptLaunch h.ctx r
        else
          match s.futureSettled (s.refHost h.ctx r.ownf) { slot := 1032, scope := .device, order := .acq, rule := Via.fn h.via } with
          | (none, s) => { s with hostQ := s.hostQ ++ [(Via.fn h.via, .launch h bytes)] }
          | (some true, s) => s.refuseLaunch h.ctx 9
          | (some false, s) => s.acceptLaunch h.ctx r

/-- LAUNCH, in the order of the function's writes (R511). -/
def execLaunch (h : HostAt) (bytes : List Byte) (s : State) : Out :=
  .next (s.inOrder h.via (.launch h bytes) (State.launchNow h bytes))

/-- A queue after a descriptor write (R402). DEDUCED, log entry 58. -/
def Queue.write (q : Queue) (w : Nat) : Queue :=
  let st := field w 63 62
  let alim := field w 48 32
  if st = 1 ∧ q.st ≠ 2 ∧ 1 ≤ alim then
    { q with st := 1, alim := alim, rmax := field w 7 6, wm1 := field w 5 4, pmax := field w 3 0,
             count := if q.st = 0 then 0 else q.count }
  else if st = 1 ∧ q.st = 2 then { q with st := 1 }
  else if st = 2 ∧ q.st = 1 then { q with st := 2 }
  else if st = 0 ∧ q.st = 2 ∧ q.count = 0 then { q with st := 0 }
  else q

/-- QDESC_WRITE (R401, R402). DEDUCED, log entry 58. -/
def State.qdescWriteNow (h : HostAt) (q : Fin 16) (w : Dword) (s : State) : State :=
  s.onWindow h s <| s.updQueue h.ctx q fun x => x.write w.toNat

/-- QDESC_WRITE, in the order of the function's writes (R511). -/
def execQdescWrite (h : HostAt) (q : Fin 16) (w : Dword) (s : State) : Out :=
  .next (s.inOrder h.via (.qdescWrite h q w) (State.qdescWriteNow h q w))

/-- ACCADD (R458): a signed amount; the balance clamps at 0 and saturates at 2^48 - 1. -/
def State.accaddNow (h : HostAt) (w : Dword) (s : State) : State :=
  s.onWindow h s <| s.account h.ctx fun b => (Int.ofNat b + w.toInt).toNat

/-- ACCADD, in the order of the function's writes (R511). -/
def execAccadd (h : HostAt) (w : Dword) (s : State) : Out :=
  .next (s.inOrder h.via (.accadd h w) (State.accaddNow h w))

/-- HOST_SEM_WRITE (R426): a request to the home unit with slot 1032, that releases what the function has written. -/
def State.hostSemWriteNow (h : HostAt) (m : Fin 64) (w : Dword) (s : State) : State :=
  s.onWindow h s <|
    s.addAcc { req := .sem h.ctx m (.host (w.setWidth 32) (w.getLsbD 63)), scope := .device, order := .rel, slot := 1032
               rule := Via.fn h.via, answered := true }

/-- HOST_SEM_WRITE, in the order of the function's writes (R511). -/
def execHostSemWrite (h : HostAt) (m : Fin 64) (w : Dword) (s : State) : Out :=
  .next (s.inOrder h.via (.hostSemWrite h m w) (State.hostSemWriteNow h m w))

/-- FQIDX_WRITE (R468): the entries before CONS are free. -/
def State.fqidxWriteNow (h : HostAt) (w : Dword) (s : State) : State :=
  s.onWindow h s <| s.updCtx h.ctx fun c => { c with cons := BitVec.ofNat 8 (field w.toNat 15 8) }

/-- FQIDX_WRITE, in the order of the function's writes (R511). -/
def execFqidxWrite (h : HostAt) (w : Dword) (s : State) : Out :=
  .next (s.inOrder h.via (.fqidxWrite h w) (State.fqidxWriteNow h w))

/-! ### Groups (R467, R469) -/

def State.grpStatus (s : State) (h : HostAt) (n : Nat) : State := s.updCtx h.ctx fun c => { c with grpstat := n }

/-- One operation on a group of the window's context. -/
def State.groupOp (s : State) (h : HostAt) (task : Word) (act : Nat → Group → State) : State :=
  s.onWindow h (s.grpStatus h 5) <|
    match s.group? task.toNat with
    | some g => if g.ctx = h.ctx then act task.toNat g else s.grpStatus h 4
    | none => s.grpStatus h 4

/-- A group halted in its rectangle for a page fault, HALT or, held, a group fault. -/
def Group.waitsHost (g : Group) : Bool :=
  g.state == .halted && !g.saved && (match g.why with
    | some .page | some .halt | some .held | some (.shrink _) => true
    | _ => false)

/-- RESUME (R351, R467, R469). DEDUCED, log entry 60. -/
def State.resumeNow (h : HostAt) (task : Word) (s : State) : State :=
  s.groupOp h task fun t g =>
    if g.state == .halted && g.why == some .park then s.grpStatus h 0
    else if !g.waitsHost then s.grpStatus h 5
    else if s.parkedNow then (s.updGroup t fun g => { g with why := some .park }).grpStatus h 0
    else (s.restart t).grpStatus h 0

/-- RESUME, in the order of the function's writes (R511). -/
def execResume (h : HostAt) (task : Word) (s : State) : Out :=
  .next (s.inOrder h.via (.resume h task) (State.resumeNow h task))

/-- REQUEUE (R351, R469). -/
def State.requeueNow (h : HostAt) (task : Word) (s : State) : State :=
  s.groupOp h task fun t g =>
    if g.waitsHost && (g.why == some .page || g.why == some .halt) then (s.requeue t).grpStatus h 0 else s.grpStatus h 5

/-- REQUEUE, in the order of the function's writes (R511). -/
def execRequeue (h : HostAt) (task : Word) (s : State) : Out :=
  .next (s.inOrder h.via (.requeue h task) (State.requeueNow h task))

/-- ABORT (R467, R469): rolled back, then ended with END 2 and FCODE 0, when nothing released is still to perform. DEDUCED, log
entry 60. -/
def State.abortNow (h : HostAt) (task : Word) (s : State) : State :=
  s.groupOp h task fun t g =>
    if g.state == .halted && !g.saved then
      ((s.updGroup t fun g => { g with asked := some .abort }).grpStatus h 7).abortHalted t
    else s.grpStatus h 5

/-- ABORT, in the order of the function's writes (R511). -/
def execAbort (h : HostAt) (task : Word) (s : State) : Out :=
  .next (s.inOrder h.via (.abort h task) (State.abortNow h task))

/-- The group is asked to halt; DRAIN_COMPLETE reports it done. -/
def State.askHalt (s : State) (h : HostAt) (t : Nat) (why : Why) : State :=
  (s.updGroup t fun g => { g with why := some why, asked := some why }).grpStatus h 7

/-- HALT (R469, R475). -/
def State.haltNow (h : HostAt) (task : Word) (s : State) : State :=
  s.groupOp h task fun t g =>
    if !s.invasive g.ctx then s.grpStatus h 6
    else if g.live && g.why.isNone && s.pst != .emergency then s.askHalt h t .halt
    else s.grpStatus h 5

/-- HALT, in the order of the function's writes (R511). -/
def execHalt (h : HostAt) (task : Word) (s : State) : Out :=
  .next (s.inOrder h.via (.halt h task) (State.haltNow h task))

/-- PREEMPT (R469): as HALT at every debug level, then REQUEUE. -/
def State.preemptNow (h : HostAt) (task : Word) (s : State) : State :=
  s.groupOp h task fun t g =>
    if g.live && g.why.isNone then s.askHalt h t .preempt else s.grpStatus h 5

/-- PREEMPT, in the order of the function's writes (R511). -/
def execPreempt (h : HostAt) (task : Word) (s : State) : Out :=
  .next (s.inOrder h.via (.preempt h task) (State.preemptNow h task))

/-! ### The directory window (R331, R509, R510) -/

/-- DIRSTAT after an operation: result and status. -/
def State.dirAnswer (s : State) (h : HostAt) (v status : Nat) : State :=
  s.updCtx h.ctx fun c => { c with dirstat := BitVec.ofNat 64 (v % 2 ^ 32 * 2 ^ 32 + status) }

/-- One host operation of the directory; the hub's counters count it (R312, R505). -/
def State.dirHostOp (s : State) (h : HostAt) (w : Dword) (op : Nat) (act : State) : State :=
  s.onWindow h (s.dirAnswer h 0 5) <| State.onOp w op 7 s (s.dirAnswer h 0 3) (act.countHub 0x1F 1 (some h.ctx))

def dirHandle (w : Dword) : Nat := field w.toNat 55 44
def dirArgOf (w : Dword) : Nat := field w.toNat 59 56

/-- HOST_OPEN (R331). -/
def State.hostOpenNow (h : HostAt) (w : Dword) (s : State) : State :=
  s.dirHostOp h w 1 <|
    let name : Word := w.setWidth 32
    if nameWait name || nameId name = 0 then s.dirAnswer h 0 3
    else
      match (s.name h.ctx (nameId name)).obj, s.freeSlot h.ctx with
      | none, _ => s.dirAnswer h 0 1
      | some _, none => s.dirAnswer h 0 2
      | some o, some n =>
        (State.refObj { s with slots := s.slots.put (slotKey h.ctx n) { obj := o } } o).dirAnswer h n 0

/-- HOST_OPEN, in the order of the function's writes (R511). -/
def execHostOpen (h : HostAt) (w : Dword) (s : State) : Out :=
  .next (s.inOrder h.via (.hostOpen h w) (State.hostOpenNow h w))

/-- HOST_CLOSE (R331, R528). -/
def State.hostCloseNow (h : HostAt) (w : Dword) (s : State) : State :=
  s.dirHostOp h w 2 <|
    match s.slot? h.ctx (dirHandle w) with
    | some { st := .opened, .. } => (s.freeHandle (slotKey h.ctx (dirHandle w))).dirAnswer h 0 0
    | _ => s.dirAnswer h 0 4

/-- HOST_CLOSE, in the order of the function's writes (R511). -/
def execHostClose (h : HostAt) (w : Dword) (s : State) : Out :=
  .next (s.inOrder h.via (.hostClose h w) (State.hostCloseNow h w))

/-- Slots that the host may use (R321). -/
def State.hostSlot (s : State) (ctx n : Nat) : Option Slot :=
  match s.slot? ctx n with
  | some x => if x.hostUsable then some x else none
  | none => none

/-- Entries that the host binds take effect at one serial point (R319, R331); to unbind a name that does not exist is nothing. -/
def State.hostBinds (s : State) (h : HostAt) (l : List BindEnt) : State :=
  let l := l.filter fun b => b.obj.isSome || s.hasName h.ctx b.name
  if s.bindsFull h.ctx l then s.dirAnswer h 0 2
  else (((l.foldl (fun s b => s.reserveBind h.ctx b) s).releaseBinds h.ctx l).dirAnswer h 0 0).transmit

/-- The status of a bind's failing check. -/
def bindStatus (code : Nat) : Nat := if code = 0x22 then 4 else 3

/-- Slots that the host may bind: BIND checks its handle as a host CLOSE does (R325, R326, R528). -/
def State.hostClosable (s : State) (ctx n : Nat) : Option Slot :=
  match s.slot? ctx n with
  | some x => if x.st == .opened then some x else none
  | none => none

/-- HOST_BIND (R331). -/
def State.hostBindNow (h : HostAt) (w : Dword) (s : State) : State :=
  s.dirHostOp h w 3 <|
    match bindEntry (s.hostClosable h.ctx) (w.setWidth 32) (BitVec.ofNat 32 (dirHandle w)) false with
    | .error c => s.dirAnswer h 0 (bindStatus c)
    | .ok b => s.hostBinds h [b]

/-- HOST_BIND, in the order of the function's writes (R511). -/
def execHostBind (h : HostAt) (w : Dword) (s : State) : Out :=
  .next (s.inOrder h.via (.hostBind h w) (State.hostBindNow h w))

/-- HOST_UNBIND (R331). -/
def State.hostUnbindNow (h : HostAt) (w : Dword) (s : State) : State :=
  s.dirHostOp h w 4 <|
    match bindEntry (s.hostClosable h.ctx) (w.setWidth 32) 0 true with
    | .error c => s.dirAnswer h 0 (bindStatus c)
    | .ok b => s.hostBinds h [b]

/-- HOST_UNBIND, in the order of the function's writes (R511). -/
def execHostUnbind (h : HostAt) (w : Dword) (s : State) : Out :=
  .next (s.inOrder h.via (.hostUnbind h w) (State.hostUnbindNow h w))

/-- The bytes of DIRARG. -/
def Ctx.dirBytes (c : Ctx) : List Byte := c.dirarg.toList.flatMap fun w => leBytes 8 w.toNat

/-- HOST_REBIND (R327, R331): the name list stands in DIRARG. -/
def State.hostRebindNow (h : HostAt) (w : Dword) (s : State) : State :=
  s.dirHostOp h w 5 <|
    let n := dirArgOf w + 1
    if 8 < n then s.dirAnswer h 0 3
    else
      match bindList (s.hostClosable h.ctx) (s.ctx h.ctx).dirBytes n with
      | .error c => s.dirAnswer h 0 (bindStatus c)
      | .ok l => if sameName l then s.dirAnswer h 0 3 else s.hostBinds h l

/-- HOST_REBIND, in the order of the function's writes (R511). -/
def execHostRebind (h : HostAt) (w : Dword) (s : State) : Out :=
  .next (s.inOrder h.via (.hostRebind h w) (State.hostRebindNow h w))

/-- HOST_QUERY (R328, R331). -/
def State.hostQueryNow (h : HostAt) (w : Dword) (s : State) : State :=
  s.dirHostOp h w 6 <|
    if 12 < dirArgOf w then s.dirAnswer h 0 3
    else
      match s.hostSlot h.ctx (dirHandle w) with
      | some x => s.dirAnswer h (s.queryVal x.obj (dirArgOf w)) 0
      | none => s.dirAnswer h 0 4

/-- HOST_QUERY, in the order of the function's writes (R511). -/
def execHostQuery (h : HostAt) (w : Dword) (s : State) : Out :=
  .next (s.inOrder h.via (.hostQuery h w) (State.hostQueryNow h w))

/-- HOST_MKOBJ (R314, R331): the creating tile is tile 0 of the home region. -/
def State.hostMkobjNow (h : HostAt) (w : Dword) (s : State) : State :=
  s.dirHostOp h w 7 <|
    let d := leNat ((s.ctx h.ctx).dirBytes.take 32)
    if descInvalid d || !s.keyLoaded h.ctx d then s.dirAnswer h 0 3
    else if !s.canMake h.ctx d 0 (s.home h.ctx) then s.dirAnswer h 0 2
    else
      let (n, s) := s.makeObj h.ctx d 0 (s.home h.ctx) .shared .opened false
      (s.dirAnswer h n 0).transmit

/-- HOST_MKOBJ, in the order of the function's writes (R511). -/
def execHostMkobj (h : HostAt) (w : Dword) (s : State) : Out :=
  .next (s.inOrder h.via (.hostMkobj h w) (State.hostMkobjNow h w))

/-- OBSERVE debug reads are allowed (R475). -/
def State.observes (s : State) : Bool := s.pst != .off && s.sec != .failed && s.dbg != .off

/-- The entry of a handle slot (R320). PRESUMED, log entry 46. -/
def slotEntry (x : Option Slot) : Nat :=
  let b (y : Bool) : Nat := if y then 1 else 0
  match x with
  | none => 0
  | some x =>
    let (st, owner) := match x.st with
      | .priv o => (1, o)
      | .opened => (2, 0)
      | .closing o _ _ _ => (3, o)
    st * 2 ^ 62 + b x.cvd * 2 ^ 61 + b x.keep * 2 ^ 60 + owner % 65536 * 2 ^ 32 + x.obj % 65536

/-- DIRENT_READ (R510). -/
def execDirentRead (h : HostAt) (s : State) : Out :=
  .next <|
    match s.window? h with
    | none => { s with readData := 0 }
    | some c =>
      if s.observes then { s with readData := BitVec.ofNat 64 (slotEntry (s.slot? h.ctx (c.dirsel.toNat % 4096))) }
      else State.updCtx { s with readData := 0 } h.ctx fun c => { c with dirstat := BitVec.ofNat 64 (c.dirstat.toNat / 8 * 8 + 6) }

/-! ### The kernel window (R368, R510) -/

def State.kStatus (s : State) (h : HostAt) (n : Nat) : State := s.updCtx h.ctx fun c => { c with kstat := n }

/-- KERNEL_REGISTER (R363, R368, R510): the hub copies SIZE bytes from KADDR and repeats step 1 of the load checks; status 2 where the
context's kernel area has no room for them. DESIGN CHOICE, log entry 121. -/
def State.kernelRegisterNow (h : HostAt) (kid : Nat) (s : State) : State :=
  s.onWindow h (s.kStatus h 5) <|
    if 4096 ≤ kid then s.kStatus h 3
    else if (s.kernel h.ctx kid).isSome then s.kStatus h 5
    else
      let at0 := (s.ctx h.ctx).kaddr.toNat
      let size := leNat (s.hostMem.reads (at0 + 4) 4)
      if size < 64 ∨ 196608 < size then s.kStatus h 3
      else
        let b := s.hostMem.reads at0 size
        if imageStep1 b ≠ 0 then s.kStatus h 3
        else if Config.kernelArea < ((s.ctx h.ctx).kernels.map fun k => k.2.bytes.length).sum + size then s.kStatus h 2
        else (s.updCtx h.ctx fun c => { c with kernels := c.kernels.put kid { bytes := b } }).kStatus h 0

/-- KERNEL_REGISTER, in the order of the function's writes (R511). -/
def execKernelRegister (h : HostAt) (kid : Nat) (s : State) : Out :=
  .next (s.inOrder h.via (.kernelRegister h kid) (State.kernelRegisterNow h kid))

/-- KERNEL_UNLOAD (R368). DEDUCED, log entry 61. -/
def State.kernelUnloadNow (h : HostAt) (kid : Nat) (s : State) : State :=
  s.onWindow h (s.kStatus h 5) <|
    match s.kernel h.ctx kid with
    | none => s.kStatus h 3
    | some k =>
      if k.st == .retiring then s.kStatus h 5
      else
        ((s.updCtx h.ctx fun c => { c with kernels := c.kernels.modify kid fun k => { k with st := .retiring } }).kernelGone
          h.ctx kid).kStatus h 0

/-- KERNEL_UNLOAD, in the order of the function's writes (R511). -/
def execKernelUnload (h : HostAt) (kid : Nat) (s : State) : Out :=
  .next (s.inOrder h.via (.kernelUnload h kid) (State.kernelUnloadNow h kid))

/-! ### The data aperture (R511) -/

/-- The byte of the object that an aperture offset reaches; none for a bad handle, a page beyond the object or one that is
OUT. -/
def State.aperture (s : State) (c : Ctx) (ctx off : Nat) : Option (Nat × Obj × Nat) :=
  match s.hostObj ctx (field c.dwsel.toNat 63 52) with
  | none => none
  | some (obj, o) =>
    let page := field c.dwsel.toNat 51 32
    if page < descPages o.desc && (o.pages.getD page {}).v then some (obj, o, page * 65536 + off % 65536) else none

/-- Bytes that an aperture access moves: the word at its offset, or the half word or byte where the offset lies within one. DESIGN CHOICE, log
entry 125. -/
def apertureSize (off : Nat) : Nat := if off % 4 = 0 then 4 else if off % 2 = 0 then 2 else 1

/-- The format that has that many bytes, which none changes. -/
def apertureFmt (off : Nat) : Fmt := if off % 4 = 0 then .fp32 else if off % 2 = 0 then .bf16 else .uint8

/-- A request of the host through an aperture: its memory node serves it at once where it may (R511). -/
def State.hostAccess (s : State) (h : HostAt) (r : Req) : State :=
  let id := s.nextId
  ((s.addAcc { req := r, scope := .device, slot := 1032, rule := Via.fn h.via, answered := true }).serveVault id).transmit

/-- APERTURE_READ (R511). The answer of a request that must wait arrives later. -/
def execApertureRead (h : HostAt) (off : Nat) (s : State) : Out :=
  .next <|
    match s.window? h with
    | none => { s with readData := 0 }
    | some c =>
      match s.aperture c h.ctx off with
      | none => { s with readData := 0xFFFFFFFF }
      | some (obj, _, byte) => s.hostAccess h (.rd ⟨obj, byte, 0⟩ (apertureFmt off))

/-- APERTURE_WRITE (R511): never staged. DEDUCED, log entry 61. -/
def State.apertureWriteNow (h : HostAt) (off : Nat) (w : Word) (s : State) : State :=
  s.onWindow h s <|
    match s.window? h with
    | none => s
    | some c =>
      match s.aperture c h.ctx off with
      | none => s
      | some (obj, o, byte) => if descWr o.desc then s.hostAccess h (.wr ⟨obj, byte, 0⟩ (apertureSize off) w.toNat) else s

/-- APERTURE_WRITE, in the order of the function's writes (R511). -/
def execApertureWrite (h : HostAt) (off : Nat) (w : Word) (s : State) : Out :=
  .next (s.inOrder h.via (.apertureWrite h off w) (State.apertureWriteNow h off w))

end Sys2Proof.Machine
end

