-- ==== Sys2Proof/Machine/Context.lean ====
section
/-! DEFINITION. Contexts defined, undefined and reset; registers that a plain write reaches (spec/18_contexts.md R454, R457,
R472-R475; spec/20_power.md R503, R504; spec/26_reset.md R529-R531). -/

namespace Sys2Proof.Machine

/-! ### Definition (R454, R517) -/

/-- The hub window answers the physical function (R475). DEDUCED, log entry 19. -/
def State.hubOpen (s : State) : Bool := s.pst != .off && s.sec != .failed

/-- Everything that the directory holds of some contexts goes: names, handle slots, objects with their frames (R472). -/
def State.clearDirectory (s : State) (mine : Nat → Bool) : State :=
  let s := { s with names := s.names.filter fun x => !mine (x.1 / 2147483648)
                    slots := s.slots.filter fun x => !mine (x.1 / 4096) }
  ((s.objs.filter fun x => mine x.2.ctx).map (·.1)).foldl State.dropObj s

/-- Translation entries and cached images of some contexts go. -/
def State.clearCaches (s : State) (mine : Nat → Bool) : State :=
  { s with
    tiles := s.tiles.mapAll fun _ t => { t with cache := t.cache.filter (fun y => !mine y.ctx), fills := t.fills.filter fun y => !mine y.ctx }
    regions := s.regions.map fun r =>
      { r with cache := r.cache.filter fun y => !mine y.ctx
               walks := r.walks.filter fun y => !mine y.ctx
               waiting := r.waiting.filter fun y => !mine y.ctx
               caches := r.caches.map fun c => if c.st != .empty && mine c.ctx then {} else c } }

/-- DEFINE_CONTEXT (R454): through the physical function's hub window. DEDUCED, log entry 59. -/
def State.defineContextNow (ctx : Nat) (fn : Fin 64) (s : State) : State :=
  if !s.hubOpen then s
  else if 4096 ≤ ctx ∨ (s.ctx ctx).state != .free then { s with hubStat := 3 }
  else { s with ctxs := s.ctxs.put ctx { state := .defined, vf := fn.val }, hubStat := 0 }

/-- DEFINE_CONTEXT, in the order of the function's writes (R511). -/
def execDefineContext (ctx : Nat) (fn : Fin 64) (s : State) : Out := .next (s.inOrder .pf (.defineContext ctx fn) (State.defineContextNow ctx fn))

/-- UNDEFINE_CONTEXT (R454). DEDUCED, log entry 59. -/
def State.undefineContextNow (ctx : Nat) (s : State) : State :=
  if !s.hubOpen then s
  else
    let c := s.ctx ctx
    if c.state == .free then { s with hubStat := 3 }
    else if c.state != .defined || c.queues.toList.any (fun q => q.st != 0) || !c.kernels.isEmpty then { s with hubStat := 5 }
    else
      let s := (s.clearDirectory (· == ctx)).clearCaches (· == ctx)
      { s with ctxs := s.ctxs.del ctx, hubStat := 0 }

/-- UNDEFINE_CONTEXT, in the order of the function's writes (R511). -/
def execUndefineContext (ctx : Nat) (s : State) : Out := .next (s.inOrder .pf (.undefineContext ctx) (State.undefineContextNow ctx))

/-! ### Function-level reset (R472-R474, R529-R531) -/

/-- Numbers of the contexts bound to a function. -/
def State.ctxsOf (s : State) (fn : Nat) : List Nat :=
  (s.ctxs.filter fun x => x.2.state != .free && x.2.vf == fn).map (·.1)

/-- A request that a unit or a link has accepted is served for no one: its reply is discarded (R472 step 3). -/
def Acc.orphan (a : Acc) : Acc :=
  { a with task := none, dest := .none, pw := none, link := none, answered := true, deps := [], staged := false, closes := false
           order := .rlx, slot := 1033 }

/-- A unit or a link has accepted the request, and serves it: one that could only wait at its unit is withdrawn. -/
def Acc.accepted (a : Acc) : Bool := (a.remote || (a.queued && !a.awaitsFull && !a.waits)) && !a.deferred && !a.staged && (match a.req with
  | .bar .. => false
  | _ => true)

/-- The context whose object or semaphore a request reaches. -/
def State.ctxOfAcc (s : State) (a : Acc) : Option Nat :=
  match a.req with
  | .sem c _ _ => some c
  | r => r.target.bind fun x => (s.objs.get? x.1).map (·.ctx)

/-- Steps 1 to 3 of R472: the contexts are RESETTING; groups stop, with nothing rolled back, recorded or credited; tasks and parked
tokens are discarded; what units and links have accepted is left to them, everything else that bears the function's tag is dropped, other
dies' requests for its objects too. DEDUCED, log entry 62. -/
def State.beginFlr (s : State) (fn : Nat) (hub : Bool) : State :=
  let cs := s.ctxsOf fn
  let mine (c : Nat) : Bool := cs.contains c
  let gone := (s.groups.filter fun x => mine x.2.ctx).map (·.1)
  let isGone (a : Acc) : Bool := match a.task with
    | some t => gone.contains t
    | none => false
  let unsent := s.tx.filterMap fun t => if t.formed.isNone then t.msg.request else none
  let tagged := s.accs.filter fun x => isGone x.2 || (x.2.task.isNone && (s.ctxOfAcc x.2).any mine)
  let kept := (tagged.filter fun x => x.2.accepted && !unsent.contains x.1).map (·.1)
  let drop := (tagged.map (·.1)).filter fun i => !kept.contains i
  let s := gone.foldl State.askBack s
  let s : State := { s.unlist drop with
    accs := Assoc.mapAll (s.accs.filter fun (x : Nat × Acc) => !drop.contains x.1) fun i a =>
      if kept.contains i && !a.foreign then a.orphan else a
    rx := s.rx.filter fun x => !(x.acc.any drop.contains)
    tx := s.tx.filter fun t => t.formed.isSome || !(t.msg.request.any drop.contains) }
  let s := cs.foldl (fun s c => s.updCtx c fun x => { x with state := .resetting }) s
  { s with
    groups := s.groups.filter fun x => !gone.contains x.1
    insts := s.insts.filter fun x => !gone.contains (x.1 / 16)
    spreads := s.spreads.filter fun x => !mine x.2.ctx
    tasks := s.tasks.filter fun x => !mine x.2.ctx
    pgops := s.pgops.filter fun p => !mine p.ctx
    regions := s.regions.map fun r => { r with ingress := r.ingress.filter fun t => !gone.contains t.task }
    flrs := s.flrs ++ [{ fn := fn, hub := hub, accs := kept, tasks := gone }] }

/-- INITIATE_FUNCTION_LEVEL_RESET (R472): the bit of the function's own configuration space. -/
def execInitiateFunctionLevelReset (fn : Fin 64) (s : State) : Out :=
  .next <|
    if s.pst == .off || s.flrs.any fun f => f.fn == fn.val then s else s.beginFlr fn.val false

/-- RESET_FUNCTION (R472): commanded by the physical function. -/
def State.resetFunctionNow (fn : Fin 64) (s : State) : State :=
  if !s.hubOpen then s
  else if s.flrs.any fun f => f.fn == fn.val then { s with hubStat := 5 }
  else { s.beginFlr fn.val true with hubStat := 7 }

/-- RESET_FUNCTION, in the order of the function's writes (R511). -/
def execResetFunction (fn : Fin 64) (s : State) : Out := .next (s.inOrder .pf (.resetFunction fn) (State.resetFunctionNow fn))

/-- Tiles that a reset zeroes: those of the groups that it stopped, and those on which a context of the function last armed a
group (R472, R531). -/
def State.flrTiles (s : State) (f : Flr) : List Nat :=
  let cs := s.ctxsOf f.fn
  (s.tiles.filter fun x => x.2.owner.any f.tasks.contains || x.2.lastCtx.any cs.contains).map (·.1)

/-- A tile and its pad zeroed; no context has armed on it, and it belongs to no group that the reset stopped: another function's group that
has it keeps it, and has made nothing ready there. -/
def State.zeroTile (s : State) (gone : List Nat) (t : Nat) : State :=
  let x := s.tile t
  State.setTile { s with mem := s.mem.clear (t * 262144) 262144 } t
    { x with owner := if x.owner.any gone.contains then none else x.owner, lastCtx := none }

/-- Vault frames of the objects of some contexts zeroed. -/
def State.zeroVaults (s : State) (mine : Nat → Bool) : State :=
  (s.objs.filter fun x => mine x.2.ctx).foldl (fun s x => x.2.pages.foldl (fun s y =>
    match y.2.v && y.2.loc == 0 && y.2.die == s.die.toNat, frameAddr y.2.loc y.2.frame with
    | true, some a => { s with mem := s.mem.clear a 65536 }
    | _, _ => s) s) s

/-- A context after its function's reset: bound as before, its registers as they were, its tables, queues, kernels,
semaphores, account, save area and fault ring empty (R472, R529). -/
def Ctx.flr (c : Ctx) : Ctx :=
  { c with state := .defined, acct := 0, prod := 0, cons := 0, ring := [], grpstat := 0, acc := 0, ref := 0, last := 0
           queues := Vector.replicate 16 {}, sems := Vector.replicate 64 {}, kernels := [], saveUse := 0 }

/-- Steps 4 and 5 of R472. DEDUCED, log entry 62. -/
def State.endFlr (s : State) (f : Flr) : State :=
  let cs := s.ctxsOf f.fn
  let mine (c : Nat) : Bool := cs.contains c
  let s := (s.flrTiles f).foldl (State.zeroTile · f.tasks) s
  let s := ((s.zeroVaults mine).clearDirectory mine).clearCaches mine
  let s := cs.foldl (fun s c => s.updCtx c Ctx.flr) s
  { s with
    keys := s.keys.filter fun k => !mine k.2.ctx
    pairs := s.pairs.filter fun k => !mine (k.1 / 8192)
    flrs := s.flrs.filter (· != f)
    hubStat := if f.hub && s.hubStat == 7 then 0 else s.hubStat }

/-- A link has accepted a request of another die for a page of a function's objects, and no unit has it yet. -/
def State.rxOwes (s : State) (fn : Nat) : Bool :=
  let cs := s.ctxsOf fn
  s.rx.any fun x => x.acc.isNone && x.msg.place.any fun y =>
    s.pageReady y.1 y.2 && (s.objs.get? y.1).any fun o => cs.contains o.ctx

/-- FUNCTION_LEVEL_RESET_COMPLETE (R472), once what was accepted for the function has been served. -/
def execFunctionLevelResetComplete (fn : Fin 64) (s : State) : Out :=
  .next <|
    match s.flrs.find? fun f => f.fn == fn.val with
    | some f => if (f.accs.all fun i => (s.accs.get? i).isNone) && !s.rxOwes fn.val then (s.endFlr f).transmit else s
    | none => s

/-! ### Plain registers (R4) -/

/-- A write that reaches a context's window through the physical function or the function it is bound to. -/
def State.ctxWrite (s : State) (via : Via) (ctx : Nat) (f : Ctx → Ctx) : State :=
  s.onWindow ⟨via, ctx⟩ s (s.updCtx ctx f)

/-- A write to a register of the physical function's blocks. -/
def State.pfWrite (s : State) (via : Via) (act : State) : State :=
  match via with
  | .pf => if s.hubOpen then act else s
  | .vf _ => s

def Via.isPf (v : Via) : Bool :=
  match v with
  | .pf => true
  | .vf _ => false

/-- CTXCTL (R457): DBGOK through the physical function alone. -/
def Ctx.writeCtl (c : Ctx) (pf : Bool) (w : Dword) : Ctx :=
  { c with dbgok := if pf then w.getLsbD 61 else c.dbgok, fhold := w.getLsbD 60, wdlim := w.setWidth 32 }

/-- CTXQUOTA (R457). -/
def Ctx.writeQuota (c : Ctx) (w : Dword) : Ctx :=
  { c with names := field w.toNat 63 48, objs := field w.toNat 47 32, savefr := field w.toNat 31 16 }

/-- Bits of a register cleared below a bit. -/
def keepFrom (w : Dword) (lo : Nat) : Dword := BitVec.ofNat 64 (w.toNat / 2 ^ lo * 2 ^ lo)

/-- PWCTL without its PARK bit (R503): PBST is clamped to its range. -/
def State.writePwctl (s : State) (w : Dword) : State :=
  let plim := field w.toNat 47 32
  { s with boosten := w.getLsbD 63, plim := BitVec.ofNat 16 plim
           pbst := BitVec.ofNat 16 (max (min plim 1500) (min 1800 (field w.toNat 31 16))) }

/-- A counter register write is allowed (R504). -/
def State.ctrWrite (s : State) (via : Via) (act : State) : State := s.pfWrite via (if s.observes then act else s)

/-- EVVAL: cleared by a write of 0. -/
def Ctr.writeVal (c : Ctr) (w : Dword) : Ctr := if w = 0 then { c with val := 0 } else c

def State.updHubCtr (s : State) (k : Fin 16) (f : Ctr → Ctr) : State := { s with hubCtrs := vset s.hubCtrs k (f (vget s.hubCtrs k)) }

def State.updCtr (s : State) (r : Nat) (k : Fin 8) (f : Ctr → Ctr) : State :=
  if 64 ≤ r then s else s.updRegion r fun x => { x with ctrs := vset x.ctrs k (f (vget x.ctrs k)) }

/-- EVSEL (R504): reserved bits read as zero. -/
def evsel (w : Dword) : Dword := w &&& 0xE000FFFF000000FF

/-- ROUTELO and ROUTEHI are not written while a context is resident (R478). -/
def State.routeWrite (s : State) (via : Via) (act : State) : State :=
  s.pfWrite via (if (s.ctxsIn .resident).isEmpty then act else s)

end Sys2Proof.Machine
end

