-- ==== Sys2Proof/Machine/Power.lean ====
section
/-! DEFINITION. The power arbiter, alarms and power states (spec/20_power.md R493-R503). -/

namespace Sys2Proof.Machine

/-! ### Budget (R497, R503) -/

/-- PLIM in force: 300 to 1,500 W. DEDUCED, log entry 63. -/
def State.sustained (s : State) : Nat := max 300 (min 1500 s.plim.toNat)

/-- The budget in force (R497). -/
def State.budget (s : State) : Nat :=
  if s.pst == .boost then max s.sustained (min 1800 s.pbst.toNat) else s.sustained

/-- PWCAUSE is zero. -/
def State.noCause (s : State) : Bool := !s.oc && !s.droop && !s.supin

/-- The conditions of BOOST (R497). -/
def State.mayBoost (s : State) : Bool := s.boosten && s.noCause && decide (0 < s.snow)

/-- A power state entered; the hub counts the change (R505), and tiles run at half width in THROTTLE alone (R498). -/
def State.enter (s : State) (p : PSt) : State :=
  let s : State := { s with regions := s.regions.map fun r => { r with half := p == .throttle } }
  if s.pst == p then s else { s with pst := p }.countHub 0x2D 1

/-- The snowpack after a period (R496), in units of 1 nJ. -/
def snowAfter (snow draw ns : Nat) : Nat := min 600000000000 (snow + 1500 * ns - draw * ns)

/-- The power state after a period (R497, R498, R501). DEDUCED, log entry 63. -/
def State.nextPower (s : State) (demand : Nat) : PSt :=
  match s.pst with
  | .run | .boost => if s.budget < demand then .throttle else if s.mayBoost then .boost else .run
  | .throttle => if demand * 10 < s.budget * 9 then (if s.mayBoost then .boost else .run) else .throttle
  | p => p

/-! ### Admission (R494) -/

/-- The k lowest of the 16 slots. -/
def slotMask (k : Nat) : BitVec 16 := BitVec.ofNat 16 (2 ^ min k 16 - 1)

/-- Regions, in cyclic order from the one after `last`. -/
def afterRegion (last : Nat) (l : List Nat) : List Nat := l.filter (last < ·) ++ l.filter (· ≤ last)

/-- A tile has a half that waits for charge: its next store is not built and a half is free, or its first is charged as it arms (R285,
R373, R494). DEDUCED, log entry 53. -/
def State.wantsCharge (s : State) (task : Nat) (g : Group) (vt : Fin 16) : Bool :=
  let x := s.inst task vt
  if g.state == .arming then !x.armed
  else x.armed && g.state != .halted && x.unbuilt (s.packets task) != 0 && decide (x.unspent < 2)

/-- A region has a half that waits for charge (R494). -/
def State.waitsCharge (s : State) (r : Nat) : Bool :=
  s.groups.any fun y => s.physRegion y.2.region == r && y.2.vts.any fun vt => s.wantsCharge y.1 y.2 vt

/-- Every region's pattern: equal shares of the period's slots for the regions that wait for charge, those left over one
each, in cyclic order. How many slots a budget makes is a free value (log entry 10). -/
def State.admitLowest (s : State) : State :=
  let l := s.inService.filter s.waitsCharge
  let total := Config.slots s.freeNo % (16 * l.length + 1)
  let each := total / max 1 l.length
  let extra := (afterRegion s.lastLeft l).take (total % max 1 l.length)
  { s with
    freeNo := s.freeNo + 1
    lastLeft := extra.getLastD s.lastLeft
    regions := Vector.ofFn fun n : Fin 64 =>
      { s.region n.val with adm := if l.contains n.val then slotMask (each + if extra.contains n.val then 1 else 0) else 0 } }

/-- No region is admitted any slot. -/
def State.admitNone (s : State) : State := { s with regions := s.regions.map fun r => { r with adm := 0 } }

/-- The ticks of a period that the regions' oscillators count, a free value (R505). They belong to no context and no tile. DESIGN
CHOICE, log entry 110. -/
def State.countTicks (s : State) : State :=
  s.inService.foldl (fun s r => State.count { s with freeNo := s.freeNo + 1 } r none none 0x01 (Config.ticks s.freeNo)) s

/-- ARBITRATION_PERIOD (R494-R498). -/
def execArbitrationPeriod (x : PowerSample) (s : State) : Out :=
  .next <|
    if s.pst == .off then s
    else
      let s := s.countTicks
      let s : State := { s with snow := snowAfter s.snow x.draw x.ns, draw := BitVec.ofNat 16 (min x.draw 65535) }
      let s := s.enter (s.nextPower x.demand)
      if s.pst.active then s.admitLowest else s.admitNone

/-! ### Alarms (R499-R502) -/

def countTrue (l : List Bool) : Nat := (l.filter id).length

/-- POWER_ALARM (R499): the conditions that hold now; each that begins is latched and raises CNT, and any enters EMERGENCY at once; one that
held before is no new event. DESIGN CHOICE, log entry 64. -/
def execPowerAlarm (x : Alarms) (s : State) : Out :=
  .next <|
    if s.pst == .off then s
    else
      let n := countTrue [x.oc && !s.holds.oc, x.droop && !s.holds.droop, x.supin && !s.holds.supin]
      let s : State := { s with holds := x, oc := s.oc || x.oc, droop := s.droop || x.droop, supin := s.supin || x.supin,
                                causeCnt := BitVec.ofNat 8 (min 255 (s.causeCnt.toNat + n)) }
      if n = 0 then s
      else
        let s : State := { s with before := if s.pst == PSt.emergency then s.before else s.pst }
        (s.enter .emergency).admitNone

/-- EMERGENCY_EXIT (R501): back to the state before, RUN from BOOST. -/
def execEmergencyExit (s : State) : Out :=
  .next <|
    if s.pst == .emergency && countTrue [s.holds.oc, s.holds.droop, s.holds.supin] = 0 then
      s.enter (if s.before == .boost then .run else s.before)
    else s

/-- PWCAUSE_CLEAR (R500, R503): by writing 1; a condition that still holds keeps its bit; CNT clears with the last. DESIGN CHOICE,
log entry 64. -/
def State.pwcauseClearNow (w : Dword) (s : State) : State :=
  if !s.hubOpen then s
  else
    let keep (bit held : Bool) (n : Nat) : Bool := bit && (!w.getLsbD n || held)
    let s : State := { s with oc := keep s.oc s.holds.oc 0, droop := keep s.droop s.holds.droop 1, supin := keep s.supin s.holds.supin 2 }
    if s.noCause then { s with causeCnt := 0 } else s

/-- PWCAUSE_CLEAR, in the order of the function's writes (R511). -/
def execPwcauseClear (w : Dword) (s : State) : Out := .next (s.inOrder .pf (.pwcauseClear w) (State.pwcauseClearNow w))

/-! ### PARK (R501, R503) -/

/-- A group that runs as PARK is written freezes at once: for the reason that it was to halt for, if there is one, but a shrink, which is
given up (R475, R501). DEDUCED, log entry 60. -/
def State.parkGroup (s : State) (task : Nat) : State :=
  match s.group? task with
  | some g =>
    if g.live then
      s.freeze task (match g.why with
        | none | some (.shrink _) => .park
        | some w => w)
    else s
  | none => s

/-- A group that PARK halted acts again (R351, R501). -/
def State.unparkGroup (s : State) (task : Nat) : State :=
  match s.group? task with
  | some g => if g.state == .halted && g.why == some .park then s.restart task else s
  | none => s

/-- PARK (R501): every group that runs is halted and scanned out; the rest of PWCTL is written with it. -/
def State.parkNow (w : Dword) (s : State) : State :=
  if !s.hubOpen then s
  else
    let t :=
      if s.pst.active then
        State.admitNone <| State.enter (s.groups.foldl (fun s g => s.parkGroup g.1) s) .parked
      else s
    { t.writePwctl w with park := true }

/-- PARK, in the order of the function's writes (R511). -/
def execPark (w : Dword) (s : State) : Out := .next (s.inOrder .pf (.park w) (State.parkNow w))

/-- BOOST ends as soon as a condition of it fails (R497, R501). -/
def State.stayBoost (s : State) : State := if s.pst == .boost && !s.mayBoost then s.enter .run else s

/-- UNPARK (R501, R351): the groups that PARK halted are restored and STARTed; one whose scan-out is not at its end is once it is (R475). -/
def State.unparkNow (w : Dword) (s : State) : State :=
  if !s.hubOpen then s
  else
    let t :=
      if s.pst == .parked then State.enter (s.groups.foldl (fun s g => s.unparkGroup g.1) s) .run
      else s
    State.stayBoost { t.writePwctl w with park := false }

/-- UNPARK, in the order of the function's writes (R511). -/
def execUnpark (w : Dword) (s : State) : Out := .next (s.inOrder .pf (.unpark w) (State.unparkNow w))

end Sys2Proof.Machine
end

