-- ==== Sys2Proof/Machine/Boot.lean ====
section
/-! DEFINITION. Boot, resets, the spring check and the security mailbox (spec/01_machine.md R25-R31; spec/21_bringup.md
R512-R519). -/

namespace Sys2Proof.Machine

/-! ### Grades (R28, R29) -/

/-- Regions in service under a fence map. -/
def goodOf (fenced : BitVec 64) : Nat := ((List.range 64).filter fun n => !fenced.getLsbD n).length

/-- CLASS (R29). -/
def classOf (good : Nat) (router : Bool) : BitVec 2 :=
  if router || good < 56 then 3 else if good < 60 then 2 else if good < 64 then 1 else 0

/-- GRADE (R28). -/
def State.grade (s : State) : Nat := s.sccount.toNat * 65536 + s.cls.toNat * 256 + s.good.toNat

/-- HUBST [63:32] (R517). -/
def State.hubWord (s : State) : Nat :=
  let sec := match s.sec with
    | .production => 0
    | .development => 1
    | .failed => 2
  let dbg := match s.dbg with
    | .off => 0
    | .observe => 1
    | .invasive => 2
  sec * 2 ^ 30 + (if s.sec == .failed then 0 else dbg) * 2 ^ 28

/-! ### Firmware (R512, R516) -/

/-- What is wrong with a firmware image, 0 for nothing: 4 store unreadable, 3 malformed, 1 signature, 2 version. DESIGN CHOICE, log
entry 7. DEDUCED, log entry 66. -/
def State.fwFault (s : State) (b : List Byte) : Nat :=
  if b.isEmpty then 4
  else if b.length < 4096 ∨ 16777216 < b.length ∨ b.length % 4096 ≠ 0 then 3
  else if !Config.verifies (Config.sha256 (b.take (b.length - 64))) (b.drop (b.length - 64)) then 1
  else if leNat ((b.drop 4).take 4) < s.minVer.toNat then 2
  else 0

/-! ### Boot (R512) -/

/-- What survives when everything volatile is lost: the shock log, the grade, the fuses, the firmware store and its boot
status; and the model's own counters. -/
def State.cold (s : State) : State :=
  { State.reset with
    agenda := s.agenda, turnNo := s.turnNo, freeNo := s.freeNo, nextId := s.nextId, hostMem := s.hostMem
    sccount := s.sccount, cls := s.cls, good := s.good, fenced := s.fenced
    shocks := s.shocks, shockPend := s.shockPend, shockPeak := s.shockPeak
    devFuse := s.devFuse, minVer := s.minVer, fw := s.fw, bootReason := s.bootReason, badBoots := s.badBoots, badHash := s.badHash }

/-- Links that are DOWN train, their replay buffers empty (R483); one whose peer is not of the span stays as it is (R515). -/
def State.trainLinks (s : State) : State :=
  { s with lnks := s.lnks.map fun l => if l.st == .down && !l.barred then { l with st := .training, kept := [], txSeq := 0, rxSeq := 0 } else l }

/-- The last step of a boot: links train, and the power state is RUN (R512 step 5, R501). DEDUCED, log entry 65. -/
def State.finishBoot (s : State) : State := s.trainLinks.enter .run

/-- Boot (R512): the firmware is verified and measured; a spring check runs when an event is pending, and boot ends with it.
DEDUCED, log entry 65. -/
def State.boot (s : State) : State :=
  let bad := s.fwFault s.fw
  if bad ≠ 0 then
    let n := if s.badBoots = 0xFFFFFFFF then s.badBoots else s.badBoots + 1
    State.enter { s with sec := .failed, bootReason := bad, badBoots := n, badHash := Config.sha256 s.fw } .run
  else
    let s : State := { s with
      sec := if s.devFuse then .development else .production, badBoots := 0
      measured := (Config.sha256 (Config.bootPart s.fw), Config.sha256 (Config.hubPart s.fw)) }
    if s.shockPend then { s with springing := true } else s.finishBoot

/-- POWER_ON (R501, R512, R519). -/
def execPowerOn (s : State) : Out := .next <| if s.pst == .off && !s.springing then s.cold.boot else s

/-- A part reset (R519): as power-on, but that PWCAUSE, the snowpack and link and underrun counts since power-on stay. -/
def State.resetPart (s : State) : State :=
  let c := s.cold
  State.boot { c with
    snow := s.snow, oc := s.oc, droop := s.droop, supin := s.supin, holds := s.holds, causeCnt := s.causeCnt
    lnks := Vector.ofFn fun n : Fin 8 => let l := vget s.lnks n; { retrn := l.retrn, crcerr := l.crcerr, autherr := l.autherr }
    regions := Vector.ofFn fun n : Fin 64 => { undr := (s.region n.val).undr } }

/-- PART_RESET (R519), in the spring check of a boot too. -/
def execPartReset (s : State) : Out := .next <| if s.pst == .off && !s.springing then s else s.resetPart

/-- RAIL_REMOVED (R501). -/
def execRailRemoved (s : State) : Out := .next s.cold

/-! ### Shock log and spring check (R30, R517, R518) -/

/-- SHOCK_EVENT (R517): an event of g above 15, with or without power; one during a spring check is logged as any other, and is kept apart for
the end of the check (R518). -/
def execShockEvent (g : Nat) (s : State) : Out :=
  .next <|
    if g ≤ 15 then s
    else
      let p := BitVec.ofNat 16 (min 65535 g)
      let s : State := { s with shocks := if s.shocks = 0xFFFFFFFF then s.shocks else s.shocks + 1 }
      let peak (q : BitVec 16) : BitVec 16 := if q.toNat < p.toNat then p else q
      { s with shockPend := true, shockPeak := peak s.shockPeak
               shockNew := if s.springing then some (peak (s.shockNew.getD 0)) else s.shockNew }

/-- SPRING_CHECK (R30, R517): commanded by the host, refused while a context is resident. -/
def State.springCheckNow (s : State) : State :=
  if !s.hubOpen then s
  else if s.springing || !(s.ctxsIn .resident).isEmpty then { s with hubStat := 5 }
  else State.trainLinks { s with springing := true, hubStat := 7 }

/-- SPRING_CHECK, in the order of the function's writes (R511). -/
def execSpringCheck (s : State) : Out := .next (s.inOrder .pf .springCheck State.springCheckNow)

/-- A page whose frame lies in a fenced region takes a new one, its content moved (R25, R518); where no frame of a region in service is free
it goes OUT, its content lost (DESIGN CHOICE, log entry 109). -/
def State.evacuatePage (s : State) (obj : Nat) (o : Obj) (j : Nat) (p : Page) : State :=
  if p.v && p.die == s.die.toNat && p.loc < 2 && s.fenced.getLsbD (homeRegion p.loc p.frame) then
    match s.placePage s.usedFrames (descPlace o.desc) o.tile o.region j, frameAddr p.loc p.frame with
    | some (loc, frame), some a =>
      let data := if p.dead then [] else s.mem.reads a 65536
      let mem := match p.dead, frameAddr loc frame with
        | false, some b => (s.mem.clear b 65536).writes b data
        | _, _ => s.mem
      let s := State.freeFrame { s with mem := mem, usedFrames := s.usedFrames ++ [frameNo loc frame] } p
      ((s.invalidate obj j).updPage obj j fun p => { p with loc := loc, frame := frame, drt := false }).tellEntry obj j
    | _, _ =>
      (((s.freeFrame p).invalidate obj j).updPage obj j fun p => { p with v := false, full := [], clocks := [], scount := 0 }).tellEntry obj j
  else s

def State.evacuate (s : State) : State :=
  s.objs.foldl (fun s x => x.2.pages.foldl (fun s y => s.evacuatePage x.1 x.2 y.1 y.2) s) s

/-- SPRING_CHECK_DONE (R25-R31, R518): what the check found; a boot that waited for it ends. -/
def execSpringCheckDone (fenced : Dword) (router : Bool) (s : State) : Out :=
  .next <|
    if !s.springing then s
    else
      let good := goodOf fenced
      let s : State := { s with
        springing := false, fenced := fenced, good := BitVec.ofNat 7 good, cls := classOf good router
        sccount := if s.sccount = 0xFFFF then s.sccount else s.sccount + 1
        shockPend := s.shockNew.isSome, shockPeak := s.shockNew.getD 0, shockNew := none
        hubStat := if s.hubStat = 7 then 0 else s.hubStat }
      let s := s.evacuate
      (if s.pst == .off then s.finishBoot else s).transmit

/-! ### The security mailbox (R513-R516) -/

/-- The mailbox answers with a status. -/
def State.mbAnswer (s : State) (n : Nat) : State := { s with mbStat := n }

/-- One mailbox command; in FAILED only BOOTST and RECOVER. -/
def State.mailbox (s : State) (recovery : Bool) (act : State) : State :=
  if s.pst == .off then s else if s.sec == .failed && !recovery then s.mbAnswer 6 else act

/-- A command word names this command, another, or none. DEDUCED, log entry 57. -/
def State.onMb (s : State) (w : Dword) (op : Nat) (act : State) : State :=
  let o := field w.toNat 63 56
  if o = op then act else if o = 0 ∨ 6 < o then s.mbAnswer 3 else s

/-- Some context is resident. DEDUCED, log entry 67. -/
def State.anyResident (s : State) : Bool := !(s.ctxsIn .resident).isEmpty

/-- Bytes 0-191 of an attestation report (R513). -/
def State.reportHead (s : State) : List Byte :=
  s.mbBuf.reads 0 32 ++ leBytes 32 s.measured.1 ++ leBytes 32 s.measured.2 ++ leBytes 4 s.grade ++ leBytes 4 s.hubWord
    ++ leBytes 8 s.fenced.toNat ++ List.replicate 16 0 ++ leBytes 64 Config.identityKey

/-- ATTEST (R513). DESIGN CHOICE, log entry 7. -/
def State.attestNow (s : State) : State :=
  s.mailbox false <|
    let h := s.reportHead
    State.mbAnswer { s with mbBuf := s.mbBuf.writes 0 (h ++ leBytes 64 (Config.signature (Config.sha256 h))) } 0

/-- ATTEST, in the order of the function's writes (R511). -/
def execAttest (s : State) : Out := .next (s.inOrder .pf .attest State.attestNow)

/-- What a DRAM page of this die reads as under another pair than the one that it stands encrypted under, line by line (R342). -/
def State.rekeyPage (s : State) (old new : Nat) (p : Page) : State :=
  if p.v && !p.dead && p.die == s.die.toNat && p.loc == 1 then
    match frameAddr p.loc p.frame with
    | some a =>
      { s with mem := (List.range 1024).foldl (fun m k =>
          let l := m.reads (a + 64 * k) 64
          m.writes (a + 64 * k) ((List.range 64).map fun i => Config.rekeyed old new ((a - 4294967296) / 64 + k) l i)) s.mem }
    | none => s
  else s

/-- Another pair in a context's key slot: DRAM pages of the slot decrypt under it to what it makes of their lines (R342, R514). -/
def State.rekey (s : State) (ctx slot pair : Nat) : State :=
  let t : State := match s.pairs.get? (ctx * 8192 + slot) with
    | some old =>
      if old = pair then s
      else (s.objs.filter fun o => o.2.ctx == ctx && descKey o.2.desc == slot).foldl (fun s o =>
        o.2.pages.foldl (fun s p => s.rekeyPage old pair p.2) s) s
    | none => s
  { t with pairs := t.pairs.put (ctx * 8192 + slot) pair }

/-- KEYLOAD (R514, R515). DEDUCED, log entry 67. -/
def State.keyloadNow (w : Dword) (s : State) : State :=
  s.mailbox false <| s.onMb w 2 <|
    let c := field w.toNat 55 44
    let slot := field w.toNat 43 31
    if (s.ctx c).state != .defined && s.anyResident then s.mbAnswer 5
    else if (s.keys.get? slot).any (·.ctx != c) || !Config.unwraps (s.mbBuf.reads 0 144) then s.mbAnswer 3
    else
      let pair := Config.keyPair (s.mbBuf.reads 0 144)
      let s := s.rekey c slot pair
      State.mbAnswer { s with keys := s.keys.put slot ⟨c, pair⟩ } 0

/-- KEYLOAD, in the order of the function's writes (R511). -/
def execKeyload (w : Dword) (s : State) : Out := .next (s.inOrder .pf (.keyload w) (State.keyloadNow w))

/-- KEYDROP (R514). -/
def State.keydropNow (w : Dword) (s : State) : State :=
  s.mailbox false <| s.onMb w 3 <|
    let c := field w.toNat 55 44
    let slot := field w.toNat 43 31
    if (s.keys.get? slot).any (·.ctx != c) then s.mbAnswer 3 else State.mbAnswer { s with keys := s.keys.del slot } 0

/-- KEYDROP, in the order of the function's writes (R511). -/
def execKeydrop (w : Dword) (s : State) : Out := .next (s.inOrder .pf (.keydrop w) (State.keydropNow w))

/-- SPAN (R476, R482, R515): ids, peers and key epochs as the security processors agree them. -/
def State.spanNow (s : State) : State :=
  s.mailbox false <|
    if s.anyResident then s.mbAnswer 5
    else
      let b := s.mbBuf.reads 0 4096
      State.mbAnswer { s with
        die := Config.spanDie b, spm1 := Config.spanSize b
        lnks := Vector.ofFn fun n : Fin 8 =>
          let l := vget s.lnks n
          { l with peer := BitVec.ofNat 4 (Config.spanPeer b n.val), epoch := Config.spanEpoch b n.val, sent := 0, rcvd := 0
                   barred := !Config.spanAttests b n.val
                   st := if Config.spanAttests b n.val then l.st else .failed } } 0

/-- SPAN, in the order of the function's writes (R511). -/
def execSpan (s : State) : Out := .next (s.inOrder .pf .span State.spanNow)

/-- RECOVER (R516, R519). -/
def State.recoverNow (s : State) : State :=
  s.mailbox true <|
    let at0 := leNat (s.mbBuf.reads 0 8)
    let len := leNat (s.mbBuf.reads 8 4)
    let image := s.hostMem.reads at0 len
    if s.sec != .failed && s.anyResident then s.mbAnswer 5
    else if at0 % 4096 ≠ 0 ∨ len < 4096 ∨ 16777216 < len ∨ len % 4096 ≠ 0 ∨ leNat (s.mbBuf.reads 12 4) ≠ 0 ∨ s.fwFault image ≠ 0 then
      s.mbAnswer 3
    else
      let t := State.mbAnswer { s with fw := image } 0
      if s.sec == .failed then t.resetPart else t

/-- RECOVER, in the order of the function's writes (R511). -/
def execRecover (s : State) : Out := .next (s.inOrder .pf .recover State.recoverNow)

/-- BOOTST (R516). DEDUCED, log entry 66. -/
def State.bootstNow (s : State) : State :=
  s.mailbox true <|
    let b := leBytes 4 s.bootReason ++ leBytes 4 s.badBoots.toNat ++ List.replicate 8 0 ++ leBytes 32 s.badHash
    State.mbAnswer { s with mbBuf := s.mbBuf.writes 0 b } 0

/-- BOOTST, in the order of the function's writes (R511). -/
def execBootst (s : State) : Out := .next (s.inOrder .pf .bootst State.bootstNow)

end Sys2Proof.Machine
end

