-- ==== Sys2Proof/Machine/Compare.lean ====
section
/-! DEFINITION. Compares and predicate instructions (spec/05_elements.md R131-R133). -/

namespace Sys2Proof.Machine

/-- A condition as a result (R131). -/
def truth (b : Bool) : Word := if b then 1 else 0

/-- CEQ (R131). -/
def execCeq (x : Ea2) (s : State) : Out := .next (s.fireEa2 x 0x20 1 fun a b => (truth (a == b), {}))

/-- CNE (R131). -/
def execCne (x : Ea2) (s : State) : Out := .next (s.fireEa2 x 0x21 1 fun a b => (truth (a != b), {}))

/-- CLT (R131). -/
def execClt (x : Ea2) (s : State) : Out := .next (s.fireEa2 x 0x22 1 fun a b => (truth (a.slt b), {}))

/-- CLE (R131). -/
def execCle (x : Ea2) (s : State) : Out := .next (s.fireEa2 x 0x23 1 fun a b => (truth (a.sle b), {}))

/-- CLTU (R131). -/
def execCltu (x : Ea2) (s : State) : Out := .next (s.fireEa2 x 0x24 1 fun a b => (truth (a.ult b), {}))

/-- CLEU (R131). -/
def execCleu (x : Ea2) (s : State) : Out := .next (s.fireEa2 x 0x25 1 fun a b => (truth (a.ule b), {}))

/-- CEQI (R132). -/
def execCeqi (x : EiCmp) (s : State) : Out :=
  .next (s.fireEi x.trig x.dst x.sa x.pd x.pw 0x26 1 fun a => (truth (a == x.imm.signExtend 32), {}))

/-- CLTI (R132). -/
def execClti (x : EiCmp) (s : State) : Out :=
  .next (s.fireEi x.trig x.dst x.sa x.pd x.pw 0x27 1 fun a => (truth (a.slt (x.imm.signExtend 32)), {}))

/-- CGTI (R132). -/
def execCgti (x : EiCmp) (s : State) : Out :=
  .next (s.fireEi x.trig x.dst x.sa x.pd x.pw 0x28 1 fun a => (truth ((x.imm.signExtend 32).slt a), {}))

/-- PAND (R133). -/
def execPand (x : Pr2) (s : State) : Out :=
  .next (s.firePred x.trig x.pd 0x29 [x.pa, x.pb] fun el => el.pred x.pa && el.pred x.pb)

/-- POR (R133). -/
def execPor (x : Pr2) (s : State) : Out :=
  .next (s.firePred x.trig x.pd 0x2A [x.pa, x.pb] fun el => el.pred x.pa || el.pred x.pb)

/-- PXOR (R133). -/
def execPxor (x : Pr2) (s : State) : Out :=
  .next (s.firePred x.trig x.pd 0x2B [x.pa, x.pb] fun el => el.pred x.pa != el.pred x.pb)

/-- PNOT (R133). -/
def execPnot (x : Pr1) (s : State) : Out := .next (s.firePred x.trig x.pd 0x2C [x.pa] fun el => !el.pred x.pa)

/-- PSET (R133). -/
def execPset (x : Pr0) (s : State) : Out := .next (s.firePred x.trig x.pd 0x2D [] fun _ => true)

/-- PCLR (R133). -/
def execPclr (x : Pr0) (s : State) : Out := .next (s.firePred x.trig x.pd 0x2E [] fun _ => false)

/-- PMOV (R133). -/
def execPmov (x : Pr1) (s : State) : Out := .next (s.firePred x.trig x.pd 0x2F [x.pa] fun el => el.pred x.pa)

end Sys2Proof.Machine
end

