-- ==== Sys2Proof/Machine/Float.lean ====
section
/-! DEFINITION. Scalar floating point of the elements (spec/05_elements.md R144, R145). -/

namespace Sys2Proof.Machine

/-- FADD (R144). -/
def execFadd (x : Ea2) (s : State) : Out := .next (s.fireEa2 x 0x40 3 fadd32)

/-- FSUB (R144). -/
def execFsub (x : Ea2) (s : State) : Out := .next (s.fireEa2 x 0x41 3 fsub32)

/-- FMUL (R144). -/
def execFmul (x : Ea2) (s : State) : Out := .next (s.fireEa2 x 0x42 3 fmul32)

/-- FMAX (R144). -/
def execFmax (x : Ea2) (s : State) : Out := .next (s.fireEa2 x 0x44 3 fmax32)

/-- FMIN (R144). -/
def execFmin (x : Ea2) (s : State) : Out := .next (s.fireEa2 x 0x45 3 fmin32)

/-- FCLT (R144): sets no ARSTAT bit. -/
def execFclt (x : Ea2) (s : State) : Out := .next (s.fireEa2 x 0x46 3 fun a b => (fclt32 a b, {}))

/-- FMA (R144): the DST register is the addend and the destination. -/
def execFma (x : EaFma) (s : State) : Out :=
  let old := match s.here with
    | some h => vget h.el.d x.d
    | none => 0
  .next (s.fireEa2 ⟨x.trig, .d x.d, x.sa, x.sb, x.pd, x.pw, x.ctag, x.dim⟩ 0x43 3 fun a b => fma32 a b old)

/-- The format of FCVT's 3-bit code (R89). -/
def cvtFmt (c : Fin 8) : Fmt := (Fmt.ofCode c.val).getD .fp32

/-- FCVT (R145). -/
def execFcvt (x : EiFcvt) (s : State) : Out :=
  .next (s.fireEi x.trig x.dst x.sa 0 false 0x47 3 fun a => fcvt (cvtFmt x.src) (cvtFmt x.tgt) (modeOf x.rnd.val) a)

end Sys2Proof.Machine
end

