-- ==== Sys2Proof/Machine/Flow.lean ====
section
/-! DEFINITION. STEER, MERGE, CARRY, CNTUP, DONE (spec/05_elements.md R139-R143, R151). -/

namespace Sys2Proof.Machine

/-- STEER (R139): room is tested only when the rule will write. -/
def execSteer (x : Ea2) (s : State) : Out :=
  match s.here with
  | none => .next s
  | some h =>
    let b := h.el.readB x.sb
    let on := b.val != 0
    if s.gate h x.trig && h.el.okA x.sa && h.el.okB x.sb && (!on || (h.el.okDst x.dst && s.dstRoom h x.dst)) then
      .next <| s.charge h 0x34 1 fun s =>
        let a := h.el.readA x.sa
        let deps := s.fireDeps h x.trig (a.deps ++ b.deps)
        let el := h.el.dequeue (s.pullHere h) (takesOf (SrcA.takes x.sa) (SrcB.takes x.sb))
        let el := if x.pw then el.setPred x.pd on deps else el
        if on then s.result h el x.dst (resultTok a b.side x.ctag x.dim a.val deps) a.val x.pd false
        else s.putHere h el
    else .next s

/-- The token MERGE and CARRY write for the source taken (R140). -/
def mergeTok (t : Tok) (ctag : Bool) (m : DimC) (deps : List Nat) : Tok :=
  if Side.ctl t.side then (if m = .none then ⟨0, t.val, deps⟩ else { t with deps := deps })
  else ⟨(if m = .none then 0 else Side.dim t.side) ||| (if ctag then Side.tagGen t.side else 0), t.val, deps⟩

/-- MERGE's source counts as ready: a register always, a channel with a head (R140). -/
def Elem.readyA (el : Elem) (a : SrcA) : Bool :=
  match a with
  | .d _ => true
  | .deq c | .peek c => (el.head c).isSome

def Elem.readyB (el : Elem) (b : SrcB) : Bool :=
  match b with
  | .deq c => (el.head c).isSome
  | _ => true

/-- The firing of MERGE and CARRY once the source is chosen (R140, R141). -/
def State.fireTake (s : State) (h : Here) (x : Ea2) (opc : Nat) (t : Tok) (takes : List (Fin 4)) (el : Elem) : State :=
  s.charge h opc 1 fun s =>
    let deps := s.fireDeps h x.trig t.deps
    let el := el.dequeue (s.pullHere h) takes
    s.result h el x.dst (mergeTok t x.ctag x.dim deps) t.val x.pd x.pw

/-- MERGE (R140). -/
def execMerge (x : Ea2) (s : State) : Out :=
  match s.here with
  | none => .next s
  | some h =>
    if s.gate h x.trig && h.el.okDst x.dst && s.dstRoom h x.dst then
      if h.el.readyA x.sa then
        if h.el.okA x.sa then .next (s.fireTake h x 0x35 (h.el.readA x.sa) (SrcA.takes x.sa) h.el) else .next s
      else if h.el.readyB x.sb && h.el.okB x.sb then
        .next (s.fireTake h x 0x35 (h.el.readB x.sb) (SrcB.takes x.sb) h.el)
      else .next s
    else .next s

/-- CARRY (R141). -/
def execCarry (x : Ea2) (s : State) : Out :=
  match s.here with
  | none => .next s
  | some h =>
    if s.gate h x.trig && h.el.okDst x.dst && s.dstRoom h x.dst then
      if h.el.phase s.cur.slot then
        if h.el.okB x.sb then
          let b := h.el.readB x.sb
          let stay := !Side.ctl b.side && Side.dim b.side == 0
          .next (s.fireTake h x 0x36 b (SrcB.takes x.sb) (h.el.setPhase s.cur.slot stay))
        else .next s
      else if h.el.okA x.sa then
        .next (s.fireTake h x 0x36 (h.el.readA x.sa) (SrcA.takes x.sa) (h.el.setPhase s.cur.slot true))
      else .next s
    else .next s

/-- The counter register of CNTUP after a firing. -/
def Elem.setCounter (el : Elem) (a : SrcA) (v : Word) (deps : List Nat) : Elem :=
  match a with
  | .d n => el.setD n v deps
  | _ => el

/-- CNTUP (R142, R143). -/
def execCntup (x : Ea2) (s : State) : Out :=
  match s.here with
  | none => .next s
  | some h =>
    let a := h.el.readA x.sa
    let b := h.el.readB x.sb
    let bound := b.val.toInt
    let writes := Side.ctl a.side || 0 < bound
    if s.gate h x.trig && h.el.okA x.sa && h.el.okB x.sb && (!writes || (h.el.okDst x.dst && s.dstRoom h x.dst)) then
      .next <| s.charge h 0x3D 1 fun s =>
        let deps := s.fireDeps h x.trig (a.deps ++ b.deps)
        let pull := s.pullHere h
        if Side.ctl a.side then
          let el := h.el.dequeue pull (SrcA.takes x.sa)
          s.result h el x.dst (resultTok a b.side x.ctag x.dim a.val deps) a.val x.pd x.pw
        else if bound ≤ 0 then
          let el := h.el.dequeue pull (takesOf (SrcA.takes x.sa) (SrcB.takes x.sb))
          let el := el.setCounter x.sa 0 deps
          s.putHere h (if x.pw then el.setPred x.pd false deps else el)
        else
          let n := a.val + 1
          let wrap := decide (bound ≤ n.toInt)
          let el := h.el.dequeue pull
            (if wrap then takesOf (SrcA.takes x.sa) (SrcB.takes x.sb) else SrcA.takes x.sa)
          let el := if x.pw then el.setPred x.pd (!wrap) deps else el
          let side := (if wrap then 0x1000 ||| dimOf x.dim a.side b.side else 0)
            ||| (if x.ctag then Side.tagGen a.side else 0)
          let s := s.result h el x.dst ⟨side, a.val, deps⟩ a.val x.pd false
          s.updElem s.cur.task s.cur.vt h.e fun el => el.setCounter x.sa (if wrap then 0 else n) deps
    else .next s

end Sys2Proof.Machine
end

