-- ==== Sys2Proof/Machine/LinkState.lean ====
section
/-! DEFINITION. The commands of the link blocks: a link trained, retrained or reset (spec/19_links.md R477, R483, R485). -/

namespace Sys2Proof.Machine

/-- A link starts to retrain: new flits stall (R483). DEDUCED, log entry 78. -/
def State.retrainLink (s : State) (n : Fin 8) : State :=
  let l := vget s.lnks n
  { s.countHub 0x2A 1 with lnks := vset s.lnks n { l with st := .retraining, bad := 0, retrn := min 65535 (l.retrn + 1) } }

/-- LINK_RETRAIN (R483): CMD 1 of LNKCTL. DEDUCED, log entry 78. -/
def State.linkRetrainNow (n : Fin 8) (s : State) : State :=
  let l := vget s.lnks n
  if s.pst == .off || l.barred then s
  else
    match l.st with
    | .down => { s with lnks := vset s.lnks n { l with st := .training, kept := [], txSeq := 0, rxSeq := 0 } }
    | .failed => { s with lnks := vset s.lnks n { l with st := .training } }
    | .up | .degraded => s.retrainLink n
    | .training | .retraining => s

/-- LINK_RETRAIN, in the order of the function's writes (R511). -/
def execLinkRetrain (n : Fin 8) (s : State) : Out := .next (s.inOrder .pf (.linkRetrain n) (State.linkRetrainNow n))

/-- LINK_RESET (R483, R485): CMD 2 of LNKCTL. A link whose peer is not of the span reads FAILED (R515). -/
def State.linkResetNow (n : Fin 8) (s : State) : State :=
  let l := vget s.lnks n
  if l.st == .down || l.barred then s
  else
    let t : State := { s with lnks := vset s.lnks n { l with st := .down, lanes := 0 } }
    if l.st == .training then t else (t.failover n).transmit.settleAll

/-- LINK_RESET, in the order of the function's writes (R511). -/
def execLinkReset (n : Fin 8) (s : State) : Out := .next (s.inOrder .pf (.linkReset n) (State.linkResetNow n))

end Sys2Proof.Machine
end

