-- ==== Sys2Proof/Machine/Serve.lean ====
section
/-! DEFINITION. What the hub does as requests perform: released effects, records, page operations, host writes that waited; and the
turns of the units that serve requests (spec/01_machine.md R19; spec/06_memory.md R188-R190; spec/11_tensors.md R312;
spec/16_barriers.md R421; spec/21_bringup.md R511). -/

namespace Sys2Proof.Machine

/-! ### REGISTER_WRITE (R4) -/

/-- LNKCTL (R485): its command, and the retrain bound that the same word carries. -/
def State.writeLnkctl (s : State) (n : Fin 8) (w : Dword) : State :=
  let t :=
    match field w.toNat 63 62 with
    | 1 => State.linkRetrainNow n s
    | 2 => State.linkResetNow n s
    | _ => s
  { t with lnks := vset t.lnks n { vget t.lnks n with rtb := BitVec.ofNat 16 (field w.toNat 47 32) } }

/-- REGISTER_WRITE (R4): a register that has no behaviour of its own, or a reserved command of GRPCMD or HUBCMD (R469, R517). -/
def State.registerWriteNow (via : Via) (r : HostReg) (w : Dword) (s : State) : State :=
  match r with
  | .ctxctl c => s.ctxWrite via c fun x => x.writeCtl (Via.isPf via) w
  | .ctxquota c => if (Via.isPf via) then s.ctxWrite via c fun x => x.writeQuota w else s
  | .pgaddr c => s.ctxWrite via c fun x => { x with pgaddr := keepFrom w 12 }
  | .dirarg c i => s.ctxWrite via c fun x => { x with dirarg := vset x.dirarg i w }
  | .dirsel c => s.ctxWrite via c fun x => { x with dirsel := w &&& 0xFFF }
  | .kaddr c => s.ctxWrite via c fun x => { x with kaddr := keepFrom w 12 }
  | .dwsel c => s.ctxWrite via c fun x => { x with dwsel := keepFrom w 32 }
  | .grpcmd c =>
    let h : HostAt := ⟨via, c⟩
    let op := field w.toNat 63 60
    s.onWindow h (s.grpStatus h 5) (if op = 0 ∨ 5 < op then s.grpStatus h 3 else s)
  | .hubcmd =>
    let op := field w.toNat 63 60
    s.pfWrite via (if op = 0 ∨ 4 < op then { s with hubStat := 3 } else s)
  | .pwctl => s.pfWrite via (if w.getLsbD 62 then State.parkNow w s else State.unparkNow w s)
  | .routelo => s.routeWrite via { s with routeLo := w, onAlt := s.onAlt &&& 0xFF00 }
  | .routehi => s.routeWrite via { s with routeHi := w, onAlt := s.onAlt &&& 0x00FF }
  | .lnkctl n => s.pfWrite via (s.writeLnkctl n w)
  | .hubst =>
    s.pfWrite via <|
      match field w.toNat 61 60 with
      | 0 => { s with dbg := .off }
      | 1 => { s with dbg := .observe }
      | 2 => { s with dbg := .invasive }
      | _ => s
  | .mbbuf i =>
    if (Via.isPf via) && s.pst != .off then { s with mbBuf := s.mbBuf.writes (8 * i.val) (leBytes 8 w.toNat) } else s
  | .evsel n k => s.ctrWrite via (s.updCtr n k fun c => { c with sel := evsel w })
  | .evval n k => s.ctrWrite via (s.updCtr n k fun c => c.writeVal w)
  | .evselH k => s.ctrWrite via (s.updHubCtr k fun c => { c with sel := evsel w })
  | .evvalH k => s.ctrWrite via (s.updHubCtr k fun c => c.writeVal w)
  | .reserved => s

/-- REGISTER_WRITE, in the order of the function's writes (R511). -/
def execRegisterWrite (via : Via) (r : HostReg) (w : Dword) (s : State) : Out := .next (s.inOrder via (.registerWrite via r w) (State.registerWriteNow via r w))

/-! ### Host writes that waited (R511) -/

/-- A host write takes effect. -/
def State.hostRun (i : HostCmd) (s : State) : State :=
  match i with
  | .launch h bytes => State.launchNow h bytes s
  | .qdescWrite h q w => State.qdescWriteNow h q w s
  | .accadd h w => State.accaddNow h w s
  | .hostSemWrite h m w => State.hostSemWriteNow h m w s
  | .fqidxWrite h w => State.fqidxWriteNow h w s
  | .resume h task => State.resumeNow h task s
  | .requeue h task => State.requeueNow h task s
  | .abort h task => State.abortNow h task s
  | .halt h task => State.haltNow h task s
  | .preempt h task => State.preemptNow h task s
  | .pgin h w => State.pginNow h w s
  | .pgout h w => State.pgoutNow h w s
  | .pgunpin h w => State.pgunpinNow h w s
  | .pgread h w => State.pgreadNow h w s
  | .hostOpen h w => State.hostOpenNow h w s
  | .hostClose h w => State.hostCloseNow h w s
  | .hostBind h w => State.hostBindNow h w s
  | .hostUnbind h w => State.hostUnbindNow h w s
  | .hostRebind h w => State.hostRebindNow h w s
  | .hostQuery h w => State.hostQueryNow h w s
  | .hostMkobj h w => State.hostMkobjNow h w s
  | .kernelRegister h kid => State.kernelRegisterNow h kid s
  | .kernelUnload h kid => State.kernelUnloadNow h kid s
  | .apertureWrite h off w => State.apertureWriteNow h off w s
  | .defineContext ctx fn => State.defineContextNow ctx fn s
  | .undefineContext ctx => State.undefineContextNow ctx s
  | .resetFunction fn => State.resetFunctionNow fn s
  | .springCheck => State.springCheckNow s
  | .attest => State.attestNow s
  | .keyload w => State.keyloadNow w s
  | .keydrop w => State.keydropNow w s
  | .span => State.spanNow s
  | .recover => State.recoverNow s
  | .bootst => State.bootstNow s
  | .linkRetrain n => State.linkRetrainNow n s
  | .linkReset n => State.linkResetNow n s
  | .park w => State.parkNow w s
  | .unpark w => State.unparkNow w s
  | .pwcauseClear w => State.pwcauseClearNow w s
  | .registerWrite via r w => State.registerWriteNow via r w s

/-- Host writes in their order, each as soon as it may: one that must wait keeps back the later ones of its function. -/
def State.hostTry : List (Nat × HostCmd) → State → State
  | [], s => s
  | (fn, i) :: l, s => State.hostTry l (if s.hostWaits fn i then { s with hostQ := s.hostQ ++ [(fn, i)] } else s.hostRun i)

/-- Host writes that wait are tried again. -/
def State.hostService (s : State) : State := State.hostTry s.hostQ { s with hostQ := [] }

/-- The hub does what it may: what cuts have released, records of ended tasks, page operations, host writes; and the links send.
DEDUCED, log entry 103. -/
def State.hubWork (s : State) : State :=
  let s := s.settleAll.retryEnded.pagesAsked
  (State.pageService (s.pgops.length + 1) s).hostService.transmit

/-! ### Units -/

/-- The page that a request reaches is on this die, and its entry names no frame of the part (R16, R20, R334). DEDUCED, log entry
49. -/
def State.lacksFrame (s : State) (id : Nat) : Bool :=
  match (s.accs.get? id).bind fun a => a.req.target with
  | some (obj, byte) =>
    s.pageReady obj byte && !s.isRemote obj byte && (match s.objs.get? obj with
      | some o => (o.addr byte).isNone
      | none => false)
  | none => false

/-- VAULT_PORT_SERVE (R19). DEDUCED, log entry 13. DEDUCED, log entry 49. -/
def execVaultPortServe (id : Nat) (s : State) : Out :=
  if s.lacksFrame id then .fault .noFrame else .next (s.serveVault id).hubWork

/-- ATOMIC_ENGINE_SERVE (R189, R190). -/
def execAtomicEngineServe (r : Nat) (arrivals : List Nat) (s : State) : Out := .next (s.atomicTurn r arrivals).hubWork

/-- SYNC_UNIT_SERVE (R421). -/
def execSyncUnitServe (r : Nat) (arrivals : List Nat) (s : State) : Out := .next (s.syncTurn r arrivals).hubWork

/-- The directory unit serves an operation (R312). -/
def State.dirTurn (s : State) (id : Nat) : State :=
  match s.accs.get? id with
  | none => s
  | some a =>
    match a.req, a.task with
    | .dir op, some t => if s.accReady a then State.serveDir (s.countAt t a.vt 0x1F 1) id a t op else s
    | _, _ => s

/-- DIRECTORY_SERVE (R312). -/
def execDirectoryServe (id : Nat) (s : State) : Out := .next (s.dirTurn id).hubWork

end Sys2Proof.Machine
end

