-- ==== Sys2Proof/Machine/Link.lean ====
section
/-! DEFINITION. Chip links: link states, flits that arrive, the apply rule, probes and acknowledgements (spec/19_links.md
R476-R492; spec/12_pages.md R342-R345; spec/18_contexts.md R470, R474). -/

namespace Sys2Proof.Machine

/-! ### Link states (R483-R485) -/

/-- LINK_TRAINING_DONE (R483-R485): the outcome by the lanes that pass. -/
def execLinkTrainingDone (n : Fin 8) (lanes : Fin 9) (s : State) : Out :=
  .next <|
    let l := vget s.lnks n
    if l.barred || (l.st != .training && l.st != .retraining) then s
    else if lanes.val < 4 then
      let t : State := { s with lnks := vset s.lnks n { l with st := .failed, lanes := 0 } }
      if l.st == .training then ((t.waitingOn n).foldl State.failAcc t).hubWork else (t.failover n).hubWork
    else
      let st := if lanes.val = 8 then LSt.up else .degraded
      let t : State := { s with lnks := vset s.lnks n { l with st := st, lanes := if lanes.val = 8 then 8 else 4 } }
      (t.countHub 0x29 l.kept.length).hubWork

/-- LANE_LOST (R483). -/
def execLaneLost (n : Fin 8) (s : State) : Out := .next <| if (vget s.lnks n).open_ then s.retrainLink n else s

/-- LINK_RETRAIN_TIMEOUT (R483, R485): the retrain bound passes. -/
def execLinkRetrainTimeout (n : Fin 8) (s : State) : Out :=
  .next <|
    let l := vget s.lnks n
    if l.st == .retraining then
      (State.failover { s with lnks := vset s.lnks n { l with st := .failed, lanes := 0 } } n).hubWork
    else s

/-! ### A flit arrives (R479-R482, R486) -/

/-- A flit discarded: a NAK goes at once; one that fails R482 counts, and the third in a row retrains the link. DEDUCED, log entry 71. -/
def State.discardFlit (s : State) (n : Fin 8) (auth : Bool) : State :=
  let l := vget s.lnks n
  let l := { l with crcerr := min 65535 (l.crcerr + 1), nak := true }
  if !auth then State.sendIdle { s with lnks := vset s.lnks n l } n
  else
    let l := { l with autherr := min 65535 (l.autherr + 1), bad := l.bad + 1 }
    let t : State := { s with lnks := vset s.lnks n l }
    if 3 ≤ l.bad then t.retrainLink n else t.sendIdle n

/-- Flits kept after an acknowledgement covers SEQ. -/
def ackUpTo (seq : BitVec 8) (l : List Kept) : List Kept :=
  if l.any (·.seq == seq) then (l.dropWhile (·.seq != seq)).drop 1 else l

/-- The clock of a flit: the last one of its source, with the counters that the flit names (R487). -/
def flitClock (old : List (BitVec 16)) (src : Nat) (scnt : BitVec 16) (entries : List (Nat × BitVec 16)) : List (BitVec 16) :=
  (List.range 16).map fun k =>
    if k = src then scnt
    else match entries.find? fun (x : Nat × BitVec 16) => x.1 == k with
      | some x => x.2
      | none => old.getD k 0

/-- The clock entries of a flit (R479). -/
def flitEntries (b : List Byte) (ncl : Nat) : List (Nat × BitVec 16) :=
  (List.range ncl).map fun i =>
    let w := leNat ((b.drop (8 + 4 * i)).take 4)
    (w / 65536 % 16, BitVec.ofNat 16 w)

/-- The answer to a request that left over a link; an acquire at SPAN and every atomic merge the holder's clock (R490). DEDUCED, log
entry 76. -/
def State.takeAnswer (s : State) (id v : Nat) (clock : List (BitVec 16)) : State :=
  match s.accs.get? id with
  | none => s
  | some a =>
    if !a.remote then s
    else
      let merges : Bool := match a.req with
        | .rd .. | .rds .. => (a.order == .acq || a.order == .acqrel) && a.scope == .span
        | _ => true
      let w : Word := match a.req with
        | .rd _ f => extend f (v % 2 ^ (8 * f.bytes))
        | _ => BitVec.ofNat 32 v
      let s := s.updAcc id fun a => { a with held := false }
      let s := if merges then s.mergeClock clock else s
      match a.req with
      | .rds l n => s.readsTaken id { a with held := false } l n ((List.range a.asked).map fun i => v / 2 ^ (8 * n * i) % 2 ^ (8 * n))
      | _ =>
        let s := s.answer id w .span
        if a.staged then s.afterStaged a id else s

/-- A request that the holder refused (R178, R342, R412). -/
def State.takeRefusal (s : State) (id code : Nat) : State :=
  match s.accs.get? id with
  | none => s
  | some a =>
    let done : State := { s with accs := s.accs.del id }
    match a.req, a.task with
    | .fut _ op, none =>
      if a.foreign then (s.dropForeign id).sendTo a.rule (.refused a.tokVal.toNat code)
      else
        (match op with
         | .join _ no => done.failWaiter no
         | .poll => done
         | _ => done.doubleResolve a)
    | _, none => if a.foreign then (s.dropForeign id).sendTo a.rule (.refused a.tokVal.toNat code) else done
    | r, some t =>
      if code = 0x40 then (s.doubleResolve a).answer id 0 .span
      else
        let s := (s.updAcc id fun a => { a with remote := false }).raise t (.fault code a.vt a.node a.opc a.rule)
        let s := match r with
          | .fut _ (.join _ no) => s.failWaiter no
          | _ => s
        if a.staged then s.afterStaged a id else { s with accs := s.accs.del id }

/-- A flit for this die is taken in: SEEN rises, answers reach their requests, the rest waits. DESIGN CHOICE, log entry 9. -/
def State.takeFlit (s : State) (n : Fin 8) (src : Fin 16) (scnt : BitVec 16) (entries : List (Nat × BitVec 16)) (m : Msg) : State :=
  let clock := match m with
    | .fullClock l => flitClock l src.val scnt []
    | _ => flitClock (s.srcClk.getD src.val []) src.val scnt entries
  let s : State := { s with
    srcClk := s.srcClk.put src.val clock
    seen := if clockGe (vget s.seen src) scnt then s.seen else vset s.seen src scnt }
  match m with
  | .idle | .fullClock _ => s
  | .readRep id v | .atomRep id v => (s.takeAnswer id v clock).hubWork
  | .refused id code => (s.takeRefusal id code).hubWork
  | _ => { s with rx := s.rx ++ [{ link := n.val, src := src.val, scnt := scnt, clock := clock, msg := m }] }

/-- The flit accepted is acknowledged by the next flit on its link, an IDLE flit where the step has sent none (R481). DESIGN CHOICE, log
entry 69. -/
def State.acknowledge (owed : Bool) (n : Fin 8) (sent : BitVec 64) (s : State) : State :=
  if owed && (vget s.lnks n).sent == sent then s.sendIdle n else s

/-- The payload in clear of a flit that its sender encrypted with a count (R482). -/
def flitBody (n : Fin 8) (epoch : Word) (count : Nat) (b : List Byte) : List Byte :=
  Config.unsealPayload n.val false (epoch.toNat * 2 ^ 64 + count) (b.take 20) ((b.drop 20).take 216)

/-- The tag of a flit is right for a count (R482). -/
def flitSealed (n : Fin 8) (epoch : Word) (count : Nat) (b : List Byte) : Bool :=
  Config.sealTag n.val false (epoch.toNat * 2 ^ 64 + count) (b.take 20) (flitBody n epoch count b) == (b.drop 236).take 16

/-- The first of n counts from k on that passes a test: an IDLE flit lost on the way, or kept flits that moved to another link, have taken
counts that do not arrive. -/
def firstCount : Nat → Nat → (Nat → Bool) → Option Nat
  | 0, _, _ => none
  | n + 1, k, ok => if ok k then some k else firstCount n (k + 1) ok

/-- FLIT_RECEIVE (R477, R481, R482, R486). DESIGN CHOICE, log entry 69. UNVERIFIED, log entry 70. -/
def execFlitReceive (n : Fin 8) (b : List Byte) (s : State) : Out :=
  .next <|
    let l := vget s.lnks n
    if b.length ≠ 256 ∨ !l.open_ then s
    else if leNat (b.drop 252) ≠ (crc32 (b.take 252)).toNat then s.discardFlit n false
    else
      let h := leNat (b.take 4)
      let ty := field h 31 28
      let ncl := field h 2 0
      if 12 ≤ ty ∨ 4 ≤ ncl then s.discardFlit n true
      else if BitVec.ofNat 8 (field h 19 12) ≠ l.rxSeq then s.discardFlit n false
      else
        match firstCount 65536 l.rcvd.toNat fun c => flitSealed n l.epoch c b with
        | none => s.discardFlit n true
        | some c =>
          let head := b.take 20
          let body := flitBody n l.epoch c b
          let kept := ackUpTo (BitVec.ofNat 8 (field h 11 4)) l.kept
          let resent := if field h 3 3 = 1 then kept.length else 0
          let l := { l with rxSeq := if ty = 0 then l.rxSeq else l.rxSeq + 1, rcvd := BitVec.ofNat 64 (c + 1), bad := 0, nak := false, kept := kept }
          let s := State.countHub { s with lnks := vset s.lnks n l } 0x29 resent
          let src : Fin 16 := ⟨field h 27 24 % 16, Nat.mod_lt _ (by decide)⟩
          let dst := field h 23 20
          let m := Config.message ty (body.take (leNat ((b.drop 4).take 1)))
          let m := if m.type = ty then m else .idle
          State.acknowledge (ty != 0) n l.sent <|
          if s.spm1.toNat < src.val then s
          else if dst = s.die.toNat then
            (s.takeFlit n src (BitVec.ofNat 16 (leNat ((b.drop 6).take 2))) (flitEntries b ncl) m).transmit
          else if ty = 0 then s
          else State.transmit { s with tx := s.tx ++ [{ dst := dst, msg := m, formed := some (head ++ fit 216 body) }] }

/-! ### The apply rule (R488) -/

/-- The message needs service at this die. -/
def Msg.needsService (m : Msg) : Bool := m.type == 1 || m.type == 3 || m.type == 5 || 10 ≤ m.type

/-- The flit has been served. -/
def State.rxDone (s : State) (x : Rx) : Bool :=
  x.parked || (match x.acc with
    | some id => match s.accs.get? id with
      | some a => a.deferred
      | none => true
    | none => false)

/-- Dies whose flits the clock of a flit counts and this die has not seen. -/
def State.unseen (s : State) (c : List (BitVec 16)) : List Nat :=
  (List.range 16).filter fun k => k != s.die.toNat && !clockGe (s.seen.toList.getD k 0) (c.getD k 0)

/-- Every counted flit that a clock covers has been served, but for the flit itself. -/
def State.coveredServed (s : State) (before after : List Rx) (c : List (BitVec 16)) : Bool :=
  (before ++ after).all fun y => !y.msg.counted || s.rxDone y || !clockGe (c.getD y.src 0) y.scnt

/-- The format by which a read of n bytes is served. -/
def byteFmt (n : Nat) : Fmt :=
  if n = 1 then .uint8 else if n = 2 then .bf16 else .fp32

/-- The request that serves a message of another die; none where the hub serves it. DEDUCED, log entry 75. -/
def Msg.asReq (m : Msg) : Option (Nat × Req) :=
  match m with
  | .read id obj byte n => some (id, .rd ⟨obj, byte, 0⟩ (byteFmt n))
  | .reads id l n => some (id, .rds (l.map fun x => ⟨x.1, x.2, 0⟩) n)
  | .write id _ obj cells => some (id, .put ⟨obj, (cells.head?.map (·.1)).getD 0, 0⟩ cells)
  | .atom id _ obj byte op b => some (id, .atom ⟨obj, byte, 0⟩ op b)
  | .fe id _ obj byte op => some (id, .fe ⟨obj, byte, 0⟩ op)
  | .fut id _ obj byte op => some (id, .fut ⟨obj, byte, 0⟩ op)
  | _ => none

/-- The die from which a message's request comes, whichever die has sent it on (R343). -/
def Msg.origin (m : Msg) (src : Nat) : Nat :=
  match m with
  | .write _ org _ _ | .atom _ org _ _ _ _ | .fe _ org _ _ _ | .fut _ org _ _ _ => org
  | _ => src

/-- A join of another die's task carries the die (R406). -/
def Req.from (r : Req) (src : Nat) : Req :=
  match r with
  | .fut l (.join x no) => .fut l (.join x ((src + 1) * 2 ^ 32 + no % 2 ^ 32))
  | _ => r

/-- The key slot of a page that this die holds is not loaded here for its context (R342). -/
def State.keyMissing (s : State) (r : Req) : Bool :=
  match r.target with
  | some (obj, byte) =>
    (match s.objs.get? obj with
     | some o => !s.isRemote obj byte && !s.keyLoaded o.ctx o.desc
     | none => false)
  | none => false

/-- The parts of a page move that have arrived from a die before its last flit. -/
def Rx.part (x : Rx) (src obj page : Nat) : Option (Nat × List Byte) :=
  match x.msg with
  | .move ob pg part data _ _ => if x.src = src ∧ x.parked ∧ ob = obj ∧ pg = page then some (part, data) else none
  | _ => none

/-- Data and presence bits among the parts of a page move (R492). -/
def movedData (parts : List (Nat × List Byte)) : List (Nat × List Byte) := parts.filter fun x => x.1 < 342

def movedFull (parts : List (Nat × List Byte)) : List Nat :=
  presenceWords ((List.range 11).flatMap fun k => ((parts.find? fun x => x.1 == 342 + k).map (·.2)).getD [])

/-- The page takes a frame of this die. -/
def State.landHere (s : State) (o : Obj) (obj page : Nat) (parts : List (Nat × List Byte)) (dead : Bool) (full : List Nat) : Option State :=
  match s.placePage s.usedFrames (descPlace o.desc) o.tile o.region page with
  | none => none
  | some (loc, frame) =>
    let mem := match frameAddr loc frame with
      | some a => parts.foldl (fun (m : Memory) x => m.writes (a + 192 * x.1) x.2) (s.mem.clear a 65536)
      | none => s.mem
    let s : State := { s with mem := mem, usedFrames := s.usedFrames ++ [frameNo loc frame] }
    some ((s.invalidate obj page).updPage obj page fun p =>
      { p with v := true, dead := dead, drt := false, die := s.die.toNat, loc := loc, frame := frame, mig := p.mig + 1, pin := p.mig == 3
               full := full, clocks := [], moving := none, held := false, sdie := 0, scount := 0 })

/-- The last flit of a page move: the page is placed and stored here, and RESIDENT (R344, R345); one that the hub has asked for goes OUT
(R347), and one of an object that is freed meanwhile is dropped. DEDUCED, log entry 79. -/
def State.landPage (s : State) (src obj page : Nat) (dead : Bool) : Option State :=
  let all := s.rx.filterMap fun x => x.part src obj page
  let parts := movedData all
  let full := movedFull all
  let s : State := { s with rx := s.rx.filter fun x => (x.part src obj page).isNone }
  match s.objs.get? obj with
  | none => some s
  | some o =>
    match s.pgops with
    | p :: ops =>
      if p.op == .pgout && p.stage == .sent && p.obj == obj && p.page == page then
        let data := parts.foldl (fun (m : Memory) x => m.writes (192 * x.1) x.2) []
        some (State.pageOut { s with pgops := ops } p (descFe o.desc) (if dead then [] else data.reads 0 65536) full)
      else s.landHere o obj page parts dead full
    | [] => s.landHere o obj page parts dead full

/-- An object that another die has made has its copy of the page table here (R332). DEDUCED, log entry 104. -/
def State.copyTable (s : State) (src obj : Nat) (o : Obj) : State :=
  if (s.objs.get? obj).isSome then s
  else
    let pages := o.pages.mapAll fun _ p => { p with loc := 2, frame := 0 }
    let st : ObjSt := match o.st with
      | .fresh t => .fresh ((src + 1) * 2 ^ 32 + t)
      | st => st
    { s with objs := s.objs.put obj { o with st := st, refs := 0, pages := pages } }

/-- This die holds the page. -/
def State.holds? (s : State) (obj page : Nat) : Bool :=
  (s.objs.get? obj).any fun o => let p := o.pages.getD page {}; p.v && p.die == s.die.toNat

/-- An entry that another die has changed (R332, R339), LOC and FRAME being this die's own; the holder's entry is its own, DEAD and DRT too
(R337). DEDUCED, log entry 104. -/
def State.copyEntry (s : State) (obj page : Nat) (p : Page) : State :=
  if s.holds? obj page then s.updPage obj page fun q => { q with held := false }
  else
    (s.invalidate obj page).updPage obj page fun q =>
      { q with v := p.v, die := p.die, mig := p.mig, pin := p.pin, dead := p.dead, drt := p.drt, loc := 2, frame := 0, moving := none
               held := false, full := [], clocks := [] }

/-- DEAD and DRT of a page as its holder has set them (R332). -/
def State.copyFlags (s : State) (obj page : Nat) (dead drt : Bool) : State :=
  if s.holds? obj page then s else s.updPage obj page fun q => { q with dead := dead, drt := drt }

/-- An entry is to change, or is not after all: its translations go, and no port accepts an access of the page meanwhile (R335, R339). -/
def State.stillPage (s : State) (src obj page : Nat) (why : Still) : State :=
  (s.invalidate obj page).updPage obj page fun q =>
    match why with
    | .change => { q with held := q.v }
    | .move => if q.die == s.die.toNat then q else { q with moving := some src }
    | .over => { q with held := false }

/-- The request of another die that bears a number of that die. -/
def State.foreignOf (s : State) (src id : Nat) : Option (Nat × Acc) :=
  s.accs.find? fun x => x.2.foreign && x.2.rule == src && x.2.tokVal.toNat == id

/-- A request of another die is withdrawn: here, or where this die has sent it on; one that has been answered is gone already (R179).
DEDUCED, log entry 105. -/
def State.cancelReq (s : State) (src id : Nat) : State :=
  match s.foreignOf src id with
  | none => s
  | some (n, a) =>
    if a.remote then s.sendTo a.sentTo (.cancel n)
    else ((s.unlist [n]).dropForeign n).sendTo src (.cancelled id)

/-- A request that this die withdrew has left the engine that held it (R179). DEDUCED, log entry 105. -/
def State.cancelDone (s : State) (id : Nat) : State :=
  match s.accs.get? id with
  | none => s
  | some a =>
    match a.task with
    | some t => s.setAcc id { a with remote := false, held := !(s.group t).live }
    | none => if a.foreign then (s.dropForeign id).sendTo a.rule (.cancelled a.tokVal.toNat) else { s with accs := s.accs.del id }

/-- A die has invalidated its translations of a page that moves, or of one whose entry is to change and to which its accesses have performed
(R339, R344). -/
def State.stilled (s : State) (src obj page : Nat) (why : Still) : State :=
  match why, s.pgops with
  | .move, _ => s.updPage obj page fun p => { p with asked := p.asked.filter (· != src) }
  | _, p :: ops =>
    (match p.stage with
     | .asked l => if p.obj = obj ∧ p.page = page then { s with pgops := { p with stage := .asked (l.filter (· != src)) } :: ops } else s
     | _ => s)
  | _, [] => s

/-- A message that the hub serves itself: the state after it; none where it must wait. DEDUCED, log entry 79. -/
def State.serveControl (s : State) (x : Rx) : Option State :=
  match x.msg with
  | .move obj page _ _ last dead => if last then (s.mergeClock x.clock).landPage x.src obj page dead else none
  | m =>
    let s := s.mergeClock x.clock
    some <| match m with
      | .freed obj => (s.forgetObj obj).sendTo x.src (.freedOk obj)
      | .freedOk obj => s.idFreed x.src obj
      | .made obj o => s.copyTable x.src obj o
      | .shared obj => { s with objs := s.objs.modify obj fun o => { o with st := .shared } }
      | .flags obj page dead drt => s.copyFlags obj page dead drt
      | .unpin obj page => s.updPage obj page fun p => { p with pin := false, mig := 0 }
      | .entry obj page die v mig pin dead drt =>
        s.copyEntry obj page { v := v, die := die, mig := mig, pin := pin, dead := dead, drt := drt }
      | .dead id obj p0 count => (s.markDead obj p0 count).sendTo x.src (.applied id)
      | .stilled obj page why => s.stilled x.src obj page why
      | .still obj page why => s.stillPage x.src obj page why
      | .cancel id => s.cancelReq x.src id
      | .cancelled id => s.cancelDone id
      | .wake no ok => if ok then s.satisfy no else s.failWaiter no
      | _ => s

/-- A received flit whose clock conditions hold is served, or handed to the unit that serves it. DEDUCED, log entry 75. DEDUCED, log
entry 76. -/
def State.serveFlit (s : State) (before after : List Rx) (x : Rx) : State :=
  let put (y : Rx) : State := { s with rx := before ++ y :: after }
  let gone : State := { s with rx := before ++ after }
  match x.msg with
  | .move _ _ _ _ false _ => put { x with parked := true }
  | .still obj page .change => State.stillPage (State.mergeClock (put { x with parked := true }) x.clock) x.src obj page .change
  | .still obj page .move => (State.stillPage (State.mergeClock gone x.clock) x.src obj page .move).sendTo x.src (.stilled obj page .move)
  | .pgout .. => State.mergeClock (put { x with parked := true }) x.clock
  | m =>
    match m.asReq with
    | some (id, r) =>
      if !(r.target.any fun y => (s.objs.get? y.1).isSome) then gone
      else if s.keyMissing r then gone.sendTo x.src (.refused id 0x24)
      else
        State.addAcc (put { x with acc := some s.nextId })
          { req := r.from x.src, slot := 1024 + x.link % 8, rule := x.src, opc := x.msg.origin x.src, tokVal := BitVec.ofNat 32 id, clock := x.clock }
    | none => (gone.serveControl x).getD s

/-- The first flit of a source that waits for service, with those before and after it. -/
def firstRx (src : Nat) : List Rx → Option (List Rx × Rx × List Rx)
  | [] => none
  | x :: l =>
    if x.src = src && x.msg.needsService && x.acc.isNone && !x.parked then some ([], x, l)
    else (firstRx src l).map fun y => (x :: y.1, y.2.1, y.2.2)

/-- FLIT_APPLY (R488, R490): flits of one source in the order of arrival. -/
def execFlitApply (src : Fin 16) (s : State) : Out :=
  .next <|
    match firstRx src.val s.rx with
    | none => s
    | some (before, x, after) =>
      if before.any fun y => y.src == src.val && y.msg.needsService && !s.rxDone y then s
      else
        match s.unseen x.clock with
        | [] => if s.coveredServed before after x.clock then (s.serveFlit before after x).hubWork else s
        | l => (s.askClocks l).transmit

/-! ### Probes and acknowledgements (R488, R490) -/

/-- The first flit of a source that a test takes, removed. -/
def State.takeRx (s : State) (src : Nat) (f : Msg → Bool) : Option (Rx × State) :=
  match s.rx.find? fun x => x.src == src && f x.msg with
  | none => none
  | some x => some (x, { s with rx := s.rx.erase x })

/-- CLOCK_PROBE (R488): the answer goes after every flit that has been sent. -/
def execClockProbe (src : Fin 16) (s : State) : Out :=
  .next <|
    match s.takeRx src.val fun m => m == .probe with
    | none => s
    | some (_, s) => State.transmit { s with tx := Tx.before { dst := src.val, msg := .probeAns (vget s.seen src) } s.tx }

/-- PROBE_ANSWER (R488, R489). -/
def execProbeAnswer (src : Fin 16) (s : State) : Out :=
  .next <|
    match s.takeRx src.val fun m => m.type == 8 with
    | some ({ msg := .probeAns v, scnt := c, .. }, s) =>
      State.transmit { s with
        probed := s.probed &&& ~~~(BitVec.ofNat 16 (2 ^ src.val))
        seenBy := vset s.seenBy src v
        seen := if clockGe (vget s.seen src) c then s.seen else vset s.seen src c }
    | _ => s

/-- WRITE_APPLIED (R490, R491): the write has performed at SPAN. -/
def execWriteApplied (src : Fin 16) (s : State) : Out :=
  .next <|
    match s.takeRx src.val fun m => m.type == 4 with
    | some ({ msg := .applied id, .. }, s) =>
      (match s.accs.get? id with
       | none => s
       | some a =>
         if !a.remote then s
         else if !a.acks.isEmpty then (s.discApplied src.val id a).hubWork
         else if a.staged then (s.afterStaged a id).hubWork
         else (s.putApplied id a).hubWork)
    | _ => s

end Sys2Proof.Machine
end

