-- ==== Sys2Proof/Machine/Logic.lean ====
section
/-! DEFINITION. Logic, shifts and bit fields of the elements (spec/05_elements.md R128-R130). -/

namespace Sys2Proof.Machine

/-- AND (R128). -/
def execAnd (x : Ea2) (s : State) : Out := .next (s.fireEa2 x 0x10 1 fun a b => (a &&& b, {}))

/-- OR (R128). -/
def execOr (x : Ea2) (s : State) : Out := .next (s.fireEa2 x 0x11 1 fun a b => (a ||| b, {}))

/-- XOR (R128). -/
def execXor (x : Ea2) (s : State) : Out := .next (s.fireEa2 x 0x12 1 fun a b => (a ^^^ b, {}))

/-- ANDN (R128). -/
def execAndn (x : Ea2) (s : State) : Out := .next (s.fireEa2 x 0x13 1 fun a b => (a &&& ~~~b, {}))

/-- SHL (R128). -/
def execShl (x : Ea2) (s : State) : Out := .next (s.fireEa2 x 0x17 1 fun a b => (if b.ult 32 then a <<< b.toNat else 0, {}))

/-- SHR (R128). -/
def execShr (x : Ea2) (s : State) : Out := .next (s.fireEa2 x 0x18 1 fun a b => (if b.ult 32 then a >>> b.toNat else 0, {}))

/-- SAR (R128). -/
def execSar (x : Ea2) (s : State) : Out := .next (s.fireEa2 x 0x19 1 fun a b => (a.sshiftRight (min b.toNat 31), {}))

/-- ANDI (R129). -/
def execAndi (x : Ei) (s : State) : Out :=
  .next (s.fireEi x.trig x.dst x.sa 0 false 0x14 1 fun a => (a &&& x.imm.signExtend 32, {}))

/-- ORI (R129). -/
def execOri (x : Ei) (s : State) : Out :=
  .next (s.fireEi x.trig x.dst x.sa 0 false 0x15 1 fun a => (a ||| x.imm.signExtend 32, {}))

/-- XORI (R129). -/
def execXori (x : Ei) (s : State) : Out :=
  .next (s.fireEi x.trig x.dst x.sa 0 false 0x16 1 fun a => (a ^^^ x.imm.signExtend 32, {}))

/-- SHLI (R129). -/
def execShli (x : EiShift) (s : State) : Out :=
  .next (s.fireEi x.trig x.dst x.sa 0 false 0x1A 1 fun a => (a <<< x.n.toNat, {}))

/-- SHRI (R129). -/
def execShri (x : EiShift) (s : State) : Out :=
  .next (s.fireEi x.trig x.dst x.sa 0 false 0x1B 1 fun a => (a >>> x.n.toNat, {}))

/-- SARI (R129). -/
def execSari (x : EiShift) (s : State) : Out :=
  .next (s.fireEi x.trig x.dst x.sa 0 false 0x1C 1 fun a => (a.sshiftRight x.n.toNat, {}))

/-- Leading zero bits, 0-32 (R128). -/
def clz32 (a : Word) : Word := if a = 0 then 32 else BitVec.ofNat 32 (31 - Nat.log2 a.toNat)

/-- One bits among the low n (R128). -/
def popcount : Nat → Nat → Nat
  | 0, _ => 0
  | n + 1, v => v % 2 + popcount n (v / 2)

/-- CLZ (R128). -/
def execClz (x : Ea1) (s : State) : Out := .next (s.fireEa1 x 0x1D 1 fun a => (clz32 a.val, {}))

/-- POPC (R128). -/
def execPopc (x : Ea1) (s : State) : Out :=
  .next (s.fireEa1 x 0x1E 1 fun a => (BitVec.ofNat 32 (popcount 32 a.val.toNat), {}))

/-- A bit field of `width` bits from bit lo (R130). -/
def bitField (a : Word) (lo width : Nat) (sx : Bool) : Word :=
  let f := a.toNat / 2 ^ lo % 2 ^ width
  if sx && f / 2 ^ (width - 1) % 2 == 1 then BitVec.ofInt 32 ((f : Int) - 2 ^ width) else BitVec.ofNat 32 f

/-- BFX (R130). -/
def execBfx (x : EiBfx) (s : State) : Out :=
  .next (s.fireEi x.trig x.dst x.sa 0 false 0x1F 1 fun a => (bitField a x.lo.toNat (x.wm1.toNat + 1) x.sx, {}))

end Sys2Proof.Machine
end

