-- ==== Sys2Proof/Machine/Move.lean ====
section
/-! DEFINITION. Moves, constants, tags, SEL, DROP, ENDT, REQ and GETS (spec/05_elements.md R120, R122, R134-R138). -/

namespace Sys2Proof.Machine

/-- MOV (R134). -/
def execMov (x : Ea1) (s : State) : Out := .next (s.fireEa1 x 0x30 1 fun a => (a.val, {}))

/-- TAGR (R134): tag in bits [3:0], generation in [7:4]. -/
def execTagr (x : Ea1) (s : State) : Out :=
  .next (s.fireEa1 x 0x3A 1 fun a => (BitVec.ofNat 32 (Side.tag a.side + 16 * Side.gen a.side), {}))

/-- DIMR (R134). -/
def execDimr (x : Ea1) (s : State) : Out :=
  .next (s.fireEa1 x 0x3B 1 fun a => (BitVec.ofNat 32 (a.side.toNat / 4096 % 8), {}))

/-- The sideband bits of a tag and generation taken from bits [7:0] of a word (R134). -/
def tagBits (b : Word) : Side := BitVec.ofNat 16 (b.toNat % 16 * 256 + b.toNat / 16 % 16 * 16)

/-- TAGW (R134). -/
def execTagw (x : Ea2) (s : State) : Out :=
  match s.here with
  | none => .next s
  | some h =>
    if s.gate h x.trig && h.el.okA x.sa && h.el.okB x.sb && h.el.okDst x.dst && s.dstRoom h x.dst then
      .next <| s.charge h 0x39 1 fun s =>
        let a := h.el.readA x.sa
        let b := h.el.readB x.sb
        let deps := s.fireDeps h x.trig (a.deps ++ b.deps)
        let el := h.el.dequeue (s.pullHere h) (takesOf (SrcA.takes x.sa) (SrcB.takes x.sb))
        let tok := if Side.ctl a.side then resultTok a b.side false x.dim a.val deps
          else ⟨dimOf x.dim a.side b.side ||| tagBits b.val, a.val, deps⟩
        s.result h el x.dst tok a.val x.pd x.pw
    else .next s

/-- MOVI (R135). -/
def execMovi (x : EiMov) (s : State) : Out :=
  .next (s.fireNone x.trig x.dst 0 0 false 0x31 1 fun _ => x.imm.signExtend 32)

/-- The value of MOVHI over the old low bits (R135). -/
def movhi (imm : BitVec 15) (old : Word) : Word := BitVec.ofNat 32 (imm.toNat * 131072 + old.toNat % 131072)

/-- MOVHI (R135): old is the DST register, or 0. -/
def execMovhi (x : EiMov) (s : State) : Out :=
  .next (s.fireNone x.trig x.dst 0 0 false 0x32 1 fun h =>
    movhi x.imm (match x.dst with
      | .d n => vget h.el.d n
      | _ => 0))

/-- MOVK (R134): the sideband is zero. -/
def execMovk (x : EaMovk) (s : State) : Out :=
  .next (s.fireNone x.trig x.dst 0 x.pd x.pw 0x33 1 fun h => vget h.el.k x.k)

/-- SEL (R136): both sources are read and dequeued; a control token at A is the result (R114). DEDUCED, log entry 42. -/
def execSel (x : EaSel) (s : State) : Out :=
  let p := match s.here with
    | some h => h.el.pred x.p
    | none => false
  .next (s.fireEa2 ⟨x.trig, x.dst, x.sa, x.sb, 0, false, x.ctag, x.dim⟩ 0x3E 1 fun a b => (if p then a else b, {}))

/-- DROP (R137). -/
def execDrop (x : EaChan) (s : State) : Out :=
  match s.here with
  | none => .next s
  | some h =>
    if s.gate h x.trig && (h.el.head x.c).isSome then
      .next <| s.charge h 0x37 1 fun s => s.putHere h (h.el.dequeue (s.pullHere h) [x.c])
    else .next s

/-- The END token of a level (R138). -/
def endTok (level : Nat) : Tok := ⟨BitVec.ofNat 16 (0x8A00 + level * 16), 0, []⟩

/-- ENDT (R138). -/
def execEndt (x : EiEndt) (s : State) : Out :=
  .next (s.fireNone x.trig (.o x.o) (endTok x.level.val).side 0 false 0x38 1 fun _ => 0)

/-- Requests outstanding for a pull channel: under way, at the producer, and tokens owed for them (R118). -/
def State.pullOut (s : State) (h : Here) (c : Fin 4) : Nat :=
  let ch := vget h.el.inq c
  ch.reqs +
    (match h.g.img.into (.inp s.cur.vt h.e c) with
     | some (⟨.out v e o, _, _⟩, n) =>
       let p := s.elem s.cur.task v e
       vget p.pulls o + (vget p.outq o).length + roomCount (h.g.inFlight n) + (ch.incoming.filter fun t => !isCairn t.side).length
     | _ => 0)

/-- REQ (R120): a push channel that a KSET made it name raises 0x01. -/
def execReq (x : EaChan) (s : State) : Out :=
  match s.here with
  | none => .next s
  | some h =>
    if s.gate h x.trig then
      if s.pullHere h x.c then
        if (vget h.el.inq x.c).toks.length + s.pullOut h x.c < 4 then
          .next <| s.charge h 0x3C 1 fun s =>
            s.putHere h { h.el with inq := vset h.el.inq x.c { vget h.el.inq x.c with reqs := (vget h.el.inq x.c).reqs + 1 } }
        else .next s
      else .next (s.ruleFault s.cur.task s.cur.vt h.e 0x01 0x3C s.cur.slot.val)
    else .next s

/-- The special registers (R88, R122, R123). -/
def State.special (s : State) (h : Here) (sel : Fin 19) : Word :=
  BitVec.ofNat 32 <|
    match sel.val with
    | 0 => h.e.val
    | 1 => h.g.tileOf h.x
    | 2 => h.g.region
    | 3 => s.cur.vt.val % max 1 h.g.img.gw
    | 4 => s.cur.vt.val / max 1 h.g.img.gw
    | 5 => h.x.cfg.stage (.elem h.e)
    | 6 => h.g.img.gsz
    | 7 => h.g.fold
    | 16 => h.x.stepDrops
    | 17 => h.g.ctx
    | 18 => (h.el.esw &&& 0xFFF8FF01).toNat
    | n => (h.g.args.toList.getD (n - 8) 0).toNat

/-- GETS (R122). -/
def execGets (x : EiGets) (s : State) : Out :=
  .next (s.fireNone x.trig x.dst 0 0 false 0x3F 1 fun h => s.special h x.sel)

end Sys2Proof.Machine
end

