-- ==== Sys2Proof/Machine/Dispatch.lean ====
section
/-! DEFINITION. The dispatch of every instruction and event to its meaning. -/

namespace Sys2Proof.Machine

/-- The meaning of an instruction or event. -/
def exec (i : Instr) (s : State) : Host.Outcome State Fault Refusal :=
  match i with
  | .add x => Sys2Proof.Machine.execAdd x s
  | .sub x => Sys2Proof.Machine.execSub x s
  | .addi x => Sys2Proof.Machine.execAddi x s
  | .mul x => Sys2Proof.Machine.execMul x s
  | .mulh x => Sys2Proof.Machine.execMulh x s
  | .mulhu x => Sys2Proof.Machine.execMulhu x s
  | .min x => Sys2Proof.Machine.execMin x s
  | .max x => Sys2Proof.Machine.execMax x s
  | .minu x => Sys2Proof.Machine.execMinu x s
  | .maxu x => Sys2Proof.Machine.execMaxu x s
  | .addsh x => Sys2Proof.Machine.execAddsh x s
  | .absd x => Sys2Proof.Machine.execAbsd x s
  | .adds x => Sys2Proof.Machine.execAdds x s
  | .subs x => Sys2Proof.Machine.execSubs x s
  | .neg x => Sys2Proof.Machine.execNeg x s
  | .abs x => Sys2Proof.Machine.execAbs x s
  | .and x => Sys2Proof.Machine.execAnd x s
  | .or x => Sys2Proof.Machine.execOr x s
  | .xor x => Sys2Proof.Machine.execXor x s
  | .andn x => Sys2Proof.Machine.execAndn x s
  | .andi x => Sys2Proof.Machine.execAndi x s
  | .ori x => Sys2Proof.Machine.execOri x s
  | .xori x => Sys2Proof.Machine.execXori x s
  | .shl x => Sys2Proof.Machine.execShl x s
  | .shr x => Sys2Proof.Machine.execShr x s
  | .sar x => Sys2Proof.Machine.execSar x s
  | .shli x => Sys2Proof.Machine.execShli x s
  | .shri x => Sys2Proof.Machine.execShri x s
  | .sari x => Sys2Proof.Machine.execSari x s
  | .clz x => Sys2Proof.Machine.execClz x s
  | .popc x => Sys2Proof.Machine.execPopc x s
  | .bfx x => Sys2Proof.Machine.execBfx x s
  | .ceq x => Sys2Proof.Machine.execCeq x s
  | .cne x => Sys2Proof.Machine.execCne x s
  | .clt x => Sys2Proof.Machine.execClt x s
  | .cle x => Sys2Proof.Machine.execCle x s
  | .cltu x => Sys2Proof.Machine.execCltu x s
  | .cleu x => Sys2Proof.Machine.execCleu x s
  | .ceqi x => Sys2Proof.Machine.execCeqi x s
  | .clti x => Sys2Proof.Machine.execClti x s
  | .cgti x => Sys2Proof.Machine.execCgti x s
  | .pand x => Sys2Proof.Machine.execPand x s
  | .por x => Sys2Proof.Machine.execPor x s
  | .pxor x => Sys2Proof.Machine.execPxor x s
  | .pnot x => Sys2Proof.Machine.execPnot x s
  | .pset x => Sys2Proof.Machine.execPset x s
  | .pclr x => Sys2Proof.Machine.execPclr x s
  | .pmov x => Sys2Proof.Machine.execPmov x s
  | .mov x => Sys2Proof.Machine.execMov x s
  | .movi x => Sys2Proof.Machine.execMovi x s
  | .movhi x => Sys2Proof.Machine.execMovhi x s
  | .movk x => Sys2Proof.Machine.execMovk x s
  | .steer x => Sys2Proof.Machine.execSteer x s
  | .merge x => Sys2Proof.Machine.execMerge x s
  | .carry x => Sys2Proof.Machine.execCarry x s
  | .drop x => Sys2Proof.Machine.execDrop x s
  | .endt x => Sys2Proof.Machine.execEndt x s
  | .tagw x => Sys2Proof.Machine.execTagw x s
  | .tagr x => Sys2Proof.Machine.execTagr x s
  | .dimr x => Sys2Proof.Machine.execDimr x s
  | .req x => Sys2Proof.Machine.execReq x s
  | .cntup x => Sys2Proof.Machine.execCntup x s
  | .sel x => Sys2Proof.Machine.execSel x s
  | .gets x => Sys2Proof.Machine.execGets x s
  | .fadd x => Sys2Proof.Machine.execFadd x s
  | .fsub x => Sys2Proof.Machine.execFsub x s
  | .fmul x => Sys2Proof.Machine.execFmul x s
  | .fma x => Sys2Proof.Machine.execFma x s
  | .fmax x => Sys2Proof.Machine.execFmax x s
  | .fmin x => Sys2Proof.Machine.execFmin x s
  | .fclt x => Sys2Proof.Machine.execFclt x s
  | .fcvt x => Sys2Proof.Machine.execFcvt x s
  | .ldp x => Sys2Proof.Machine.execLdp x s
  | .stp x => Sys2Proof.Machine.execStp x s
  | .ldt x => Sys2Proof.Machine.execLdt x s
  | .stt x => Sys2Proof.Machine.execStt x s
  | .ldlink x => Sys2Proof.Machine.execLdlink x s
  | .ldfe x => Sys2Proof.Machine.execLdfe x s
  | .ldfec x => Sys2Proof.Machine.execLdfec x s
  | .stfe x => Sys2Proof.Machine.execStfe x s
  | .disc x => Sys2Proof.Machine.execDisc x s
  | .fence x => Sys2Proof.Machine.execFence x s
  | .pref x => Sys2Proof.Machine.execPref x s
  | .aadd x => Sys2Proof.Machine.execAadd x s
  | .amax x => Sys2Proof.Machine.execAmax x s
  | .afmax x => Sys2Proof.Machine.execAfmax x s
  | .amin x => Sys2Proof.Machine.execAmin x s
  | .axchg x => Sys2Proof.Machine.execAxchg x s
  | .acas x => Sys2Proof.Machine.execAcas x s
  | .aor x => Sys2Proof.Machine.execAor x s
  | .ardrs x => Sys2Proof.Machine.execArdrs x s
  | .semadd x => Sys2Proof.Machine.execSemadd x s
  | .semwait x => Sys2Proof.Machine.execSemwait x s
  | .semset x => Sys2Proof.Machine.execSemset x s
  | .semrd x => Sys2Proof.Machine.execSemrd x s
  | .barriv x => Sys2Proof.Machine.execBarriv x s
  | .barwt x => Sys2Proof.Machine.execBarwt x s
  | .baraw x => Sys2Proof.Machine.execBaraw x s
  | .spawn x => Sys2Proof.Machine.execSpawn x s
  | .fres x => Sys2Proof.Machine.execFres x s
  | .fjoin x => Sys2Proof.Machine.execFjoin x s
  | .fpoll x => Sys2Proof.Machine.execFpoll x s
  | .trigger x => Sys2Proof.Machine.execTrigger x s
  | .seal x => Sys2Proof.Machine.execSeal x s
  | .fill x => Sys2Proof.Machine.execFill x s
  | .pkrd x => Sys2Proof.Machine.execPkrd x s
  | .openName x => Sys2Proof.Machine.execOpenName x s
  | .close x => Sys2Proof.Machine.execClose x s
  | .bind x => Sys2Proof.Machine.execBind x s
  | .unbind x => Sys2Proof.Machine.execUnbind x s
  | .rebind x => Sys2Proof.Machine.execRebind x s
  | .query x => Sys2Proof.Machine.execQuery x s
  | .mkobj x => Sys2Proof.Machine.execMkobj x s
  | .issue x => Sys2Proof.Machine.execIssue x s
  | .issuev x => Sys2Proof.Machine.execIssuev x s
  | .sets x => Sys2Proof.Machine.execSets x s
  | .trap x => Sys2Proof.Machine.execTrap x s
  | .tret x => Sys2Proof.Machine.execTret x s
  | .done x => Sys2Proof.Machine.execDone x s
  | .evcnt x => Sys2Proof.Machine.execEvcnt x s
  | .vadd x => Sys2Proof.Machine.execVadd x s
  | .vsub x => Sys2Proof.Machine.execVsub x s
  | .vmul x => Sys2Proof.Machine.execVmul x s
  | .vfma x => Sys2Proof.Machine.execVfma x s
  | .vmin x => Sys2Proof.Machine.execVmin x s
  | .vmax x => Sys2Proof.Machine.execVmax x s
  | .vabs x => Sys2Proof.Machine.execVabs x s
  | .vneg x => Sys2Proof.Machine.execVneg x s
  | .vscl x => Sys2Proof.Machine.execVscl x s
  | .vadds x => Sys2Proof.Machine.execVadds x s
  | .vexp2 x => Sys2Proof.Machine.execVexp2 x s
  | .vlog2 x => Sys2Proof.Machine.execVlog2 x s
  | .vrcp x => Sys2Proof.Machine.execVrcp x s
  | .vrsq x => Sys2Proof.Machine.execVrsq x s
  | .vtanh x => Sys2Proof.Machine.execVtanh x s
  | .vsigm x => Sys2Proof.Machine.execVsigm x s
  | .vcvt x => Sys2Proof.Machine.execVcvt x s
  | .vqdp8 x => Sys2Proof.Machine.execVqdp8 x s
  | .vspc x => Sys2Proof.Machine.execVspc x s
  | .vspx x => Sys2Proof.Machine.execVspx x s
  | .vrsum x => Sys2Proof.Machine.execVrsum x s
  | .vrmax x => Sys2Proof.Machine.execVrmax x s
  | .vramax x => Sys2Proof.Machine.execVramax x s
  | .vrdrn x => Sys2Proof.Machine.execVrdrn x s
  | .vcmp x => Sys2Proof.Machine.execVcmp x s
  | .vsel x => Sys2Proof.Machine.execVsel x s
  | .vperm x => Sys2Proof.Machine.execVperm x s
  | .vbcast x => Sys2Proof.Machine.execVbcast x s
  | .vzip x => Sys2Proof.Machine.execVzip x s
  | .vuzp x => Sys2Proof.Machine.execVuzp x s
  | .vtop2 x => Sys2Proof.Machine.execVtop2 x s
  | .vtags x => Sys2Proof.Machine.execVtags x s
  | .vheap x => Sys2Proof.Machine.execVheap x s
  | .vhdrn x => Sys2Proof.Machine.execVhdrn x s
  | .vcnt x => Sys2Proof.Machine.execVcnt x s
  | .vscan x => Sys2Proof.Machine.execVscan x s
  | .mxld x => Sys2Proof.Machine.execMxld x s
  | .mxldt x => Sys2Proof.Machine.execMxldt x s
  | .mxevict x => Sys2Proof.Machine.execMxevict x s
  | .mxres x => Sys2Proof.Machine.execMxres x s
  | .mxmul x => Sys2Proof.Machine.execMxmul x s
  | .mxmult x => Sys2Proof.Machine.execMxmult x s
  | .mxmuls x => Sys2Proof.Machine.execMxmuls x s
  | .mxgrad x => Sys2Proof.Machine.execMxgrad x s
  | .mxgdrn x => Sys2Proof.Machine.execMxgdrn x s
  | .mxdrn x => Sys2Proof.Machine.execMxdrn x s
  | .mxzero x => Sys2Proof.Machine.execMxzero x s
  | .swalk x => Sys2Proof.Machine.execSwalk x s
  | .sbnd x => Sys2Proof.Machine.execSbnd x s
  | .sstop x => Sys2Proof.Machine.execSstop x s
  | .cpy x => Sys2Proof.Machine.execCpy x s
  | .cpyg x => Sys2Proof.Machine.execCpyg x s
  | .cpys x => Sys2Proof.Machine.execCpys x s
  | .cpyw x => Sys2Proof.Machine.execCpyw x s
  | .cpyf x => Sys2Proof.Machine.execCpyf x s
  | .cpyb x => Sys2Proof.Machine.execCpyb x s
  | .cpyx x => Sys2Proof.Machine.execCpyx x s
  | .tokenArrival task edge => Sys2Proof.Machine.execTokenArrival task edge s
  | .pullRequestArrival l e c => Sys2Proof.Machine.execPullRequestArrival l e c s
  | .loadReply id => Sys2Proof.Machine.execLoadReply id s
  | .atomicReply id => Sys2Proof.Machine.execAtomicReply id s
  | .storeCompletion id => Sys2Proof.Machine.execStoreCompletion id s
  | .directoryReply id => Sys2Proof.Machine.execDirectoryReply id s
  | .fillGrant id => Sys2Proof.Machine.execFillGrant id s
  | .pkrdReply id => Sys2Proof.Machine.execPkrdReply id s
  | .fpollReply id => Sys2Proof.Machine.execFpollReply id s
  | .semwaitAnswer id => Sys2Proof.Machine.execSemwaitAnswer id s
  | .barrierAnswer id => Sys2Proof.Machine.execBarrierAnswer id s
  | .implicitSeal l => Sys2Proof.Machine.execImplicitSeal l s
  | .commandBegin l n => Sys2Proof.Machine.execCommandBegin l n s
  | .vectorTokenStep l => Sys2Proof.Machine.execVectorTokenStep l s
  | .matrixRowStep l => Sys2Proof.Machine.execMatrixRowStep l s
  | .matrixLoadToken l => Sys2Proof.Machine.execMatrixLoadToken l s
  | .streamToken l n => Sys2Proof.Machine.execStreamToken l n s
  | .copyUnit l => Sys2Proof.Machine.execCopyUnit l s
  | .copyCompletion l => Sys2Proof.Machine.execCopyCompletion l s
  | .boxComplete l => Sys2Proof.Machine.execBoxComplete l s
  | .ridgelineTransfer task edge => Sys2Proof.Machine.execRidgelineTransfer task edge s
  | .translationFill tile idx => Sys2Proof.Machine.execTranslationFill tile idx s
  | .pageWalk region idx => Sys2Proof.Machine.execPageWalk region idx s
  | .pageFault task => Sys2Proof.Machine.execPageFault task s
  | .vaultPortServe id => Sys2Proof.Machine.execVaultPortServe id s
  | .pageMoveDone obj page => Sys2Proof.Machine.execPageMoveDone obj page s
  | .atomicEngineServe region arrivals => Sys2Proof.Machine.execAtomicEngineServe region arrivals s
  | .hotLineFetch region line => Sys2Proof.Machine.execHotLineFetch region line s
  | .syncUnitServe region arrivals => Sys2Proof.Machine.execSyncUnitServe region arrivals s
  | .directoryServe id => Sys2Proof.Machine.execDirectoryServe id s
  | .objectFreed obj => Sys2Proof.Machine.execObjectFreed obj s
  | .dispatchDecision => Sys2Proof.Machine.execDispatchDecision s
  | .imageFetchDone region slot => Sys2Proof.Machine.execImageFetchDone region slot s
  | .tileArm l => Sys2Proof.Machine.execTileArm l s
  | .start l n => Sys2Proof.Machine.execStart l n s
  | .flush l n => Sys2Proof.Machine.execFlush l n s
  | .crst l n => Sys2Proof.Machine.execCrst l n s
  | .ctxsw l n => Sys2Proof.Machine.execCtxsw l n s
  | .recfg l kid => Sys2Proof.Machine.execRecfg l kid s
  | .haltc l n => Sys2Proof.Machine.execHaltc l n s
  | .drain l => Sys2Proof.Machine.execDrain l s
  | .kset l e c => Sys2Proof.Machine.execKset l e c s
  | .cairnSeed task => Sys2Proof.Machine.execCairnSeed task s
  | .cairnPassage l n => Sys2Proof.Machine.execCairnPassage l n s
  | .cutComplete task => Sys2Proof.Machine.execCutComplete task s
  | .commit task => Sys2Proof.Machine.execCommit task s
  | .shortfall task => Sys2Proof.Machine.execShortfall task s
  | .groupFault task => Sys2Proof.Machine.execGroupFault task s
  | .groupHalt task => Sys2Proof.Machine.execGroupHalt task s
  | .drainComplete task => Sys2Proof.Machine.execDrainComplete task s
  | .fold task four => Sys2Proof.Machine.execFold task four s
  | .foldSwap task host => Sys2Proof.Machine.execFoldSwap task host s
  | .unfold task => Sys2Proof.Machine.execUnfold task s
  | .watchdogExpiry task ticks => Sys2Proof.Machine.execWatchdogExpiry task ticks s
  | .remoteRetrainExpiry task => Sys2Proof.Machine.execRemoteRetrainExpiry task s
  | .storeBuild l => Sys2Proof.Machine.execStoreBuild l s
  | .storeUnderrun l => Sys2Proof.Machine.execStoreUnderrun l s
  | .arbitrationPeriod x => Sys2Proof.Machine.execArbitrationPeriod x s
  | .powerAlarm x => Sys2Proof.Machine.execPowerAlarm x s
  | .emergencyExit => Sys2Proof.Machine.execEmergencyExit s
  | .railRemoved => Sys2Proof.Machine.execRailRemoved s
  | .powerOn => Sys2Proof.Machine.execPowerOn s
  | .partReset => Sys2Proof.Machine.execPartReset s
  | .shockEvent g => Sys2Proof.Machine.execShockEvent g s
  | .launch h bytes => Sys2Proof.Machine.execLaunch h bytes s
  | .qdescWrite h q w => Sys2Proof.Machine.execQdescWrite h q w s
  | .accadd h w => Sys2Proof.Machine.execAccadd h w s
  | .hostSemWrite h m w => Sys2Proof.Machine.execHostSemWrite h m w s
  | .fqidxWrite h w => Sys2Proof.Machine.execFqidxWrite h w s
  | .resume h task => Sys2Proof.Machine.execResume h task s
  | .requeue h task => Sys2Proof.Machine.execRequeue h task s
  | .abort h task => Sys2Proof.Machine.execAbort h task s
  | .halt h task => Sys2Proof.Machine.execHalt h task s
  | .preempt h task => Sys2Proof.Machine.execPreempt h task s
  | .pgin h w => Sys2Proof.Machine.execPgin h w s
  | .pgout h w => Sys2Proof.Machine.execPgout h w s
  | .pgunpin h w => Sys2Proof.Machine.execPgunpin h w s
  | .pgread h w => Sys2Proof.Machine.execPgread h w s
  | .hostOpen h w => Sys2Proof.Machine.execHostOpen h w s
  | .hostClose h w => Sys2Proof.Machine.execHostClose h w s
  | .hostBind h w => Sys2Proof.Machine.execHostBind h w s
  | .hostUnbind h w => Sys2Proof.Machine.execHostUnbind h w s
  | .hostRebind h w => Sys2Proof.Machine.execHostRebind h w s
  | .hostQuery h w => Sys2Proof.Machine.execHostQuery h w s
  | .hostMkobj h w => Sys2Proof.Machine.execHostMkobj h w s
  | .direntRead h => Sys2Proof.Machine.execDirentRead h s
  | .kernelRegister h kid => Sys2Proof.Machine.execKernelRegister h kid s
  | .kernelUnload h kid => Sys2Proof.Machine.execKernelUnload h kid s
  | .apertureRead h off => Sys2Proof.Machine.execApertureRead h off s
  | .apertureWrite h off w => Sys2Proof.Machine.execApertureWrite h off w s
  | .defineContext ctx fn => Sys2Proof.Machine.execDefineContext ctx fn s
  | .undefineContext ctx => Sys2Proof.Machine.execUndefineContext ctx s
  | .resetFunction fn => Sys2Proof.Machine.execResetFunction fn s
  | .initiateFunctionLevelReset fn => Sys2Proof.Machine.execInitiateFunctionLevelReset fn s
  | .springCheck => Sys2Proof.Machine.execSpringCheck s
  | .springCheckDone fenced router => Sys2Proof.Machine.execSpringCheckDone fenced router s
  | .attest => Sys2Proof.Machine.execAttest s
  | .keyload w => Sys2Proof.Machine.execKeyload w s
  | .keydrop w => Sys2Proof.Machine.execKeydrop w s
  | .span => Sys2Proof.Machine.execSpan s
  | .recover => Sys2Proof.Machine.execRecover s
  | .bootst => Sys2Proof.Machine.execBootst s
  | .linkRetrain n => Sys2Proof.Machine.execLinkRetrain n s
  | .linkReset n => Sys2Proof.Machine.execLinkReset n s
  | .park w => Sys2Proof.Machine.execPark w s
  | .unpark w => Sys2Proof.Machine.execUnpark w s
  | .pwcauseClear w => Sys2Proof.Machine.execPwcauseClear w s
  | .registerWrite via r w => Sys2Proof.Machine.execRegisterWrite via r w s
  | .linkTrainingDone n lanes => Sys2Proof.Machine.execLinkTrainingDone n lanes s
  | .laneLost n => Sys2Proof.Machine.execLaneLost n s
  | .linkRetrainTimeout n => Sys2Proof.Machine.execLinkRetrainTimeout n s
  | .flitReceive n bytes => Sys2Proof.Machine.execFlitReceive n bytes s
  | .flitApply src => Sys2Proof.Machine.execFlitApply src s
  | .clockProbe src => Sys2Proof.Machine.execClockProbe src s
  | .probeAnswer src => Sys2Proof.Machine.execProbeAnswer src s
  | .writeApplied src => Sys2Proof.Machine.execWriteApplied src s
  | .functionLevelResetComplete fn => Sys2Proof.Machine.execFunctionLevelResetComplete fn s

end Sys2Proof.Machine
end

