-- ==== Sys2Proof/Machine/Tile.lean ====
section
/-! DEFINITION. One step of tiles of a group: what arrives, what each engine and element does, and their deeds one after the other
(spec/05_elements.md R105-R110, spec/10_charge.md R283, R298, spec/18_contexts.md R465). -/

namespace Sys2Proof.Machine

/-! ### The start of a step -/

/-- Nodes of a tile that a CAIRN has reached pass, as they stood when the step began (R385). -/
def State.passAll (s : State) (l : At) : State :=
  let g := s.group l.task
  ((s.inst l.task l.vt).nodes.filter fun n => g.due (l.vt, n)).foldl (fun s n => s.passDue l n) s

/-- The heap that stays held as a step begins: that of the command that runs (R220). -/
def Inst.heldOn (x : Inst) : List (Nat × Nat) :=
  match x.vec.run with
  | some r => if cmdOp r.cmd.word == 0x52 || cmdOp r.cmd.word == 0x53 then x.heap.getLast?.toList else []
  | none => []

/-- A KSET that stands at the head of a channel (R380). -/
def Chan.standing (ch : Chan) : Bool :=
  match ch.toks with
  | t :: _ => hiddenCtl t.side && Side.op t.side = 6 && ksetOk (Side.sel t.side)
  | [] => false

/-- The start of a step of a tile: the meter is read for GETS (R123), the matrix node writes the status tokens that wait, what the step
before sent arrives, nodes that a CAIRN has reached pass, buffers feed their routes, the bank records are kept for what reads them as the
step before left them (R216, R230), and the counts of the step begin. DEDUCED, log entry 80. -/
def State.beginTile (s : State) (l : At) : State :=
  let es : List (Fin 16) := (List.range 16).map vtOf
  let cs : List (Fin 4) := [0, 1, 2, 3]
  let s := s.updInst l.task l.vt fun x => { x with stepDrops := x.meter, stepNo := x.stepNo + 1, portUse := 0, dirUse := false, cmdUse := [], quiet := true, heap := x.heldOn }
  let s := if (s.inst l.task l.vt).nodeLive .matrix then s.matIdle l.task l.vt else s
  let s := es.foldl (fun s e => s.landElem l.task l.vt e) s
  let s := es.foldl (fun s e => cs.foldl (fun s c =>
    if (s.group l.task).img.localPull l.vt e c then s.flushReqs l.task l.vt e c else s) s) s
  let s := (s.passAll l).pump l.task l.vt
  let s := s.updInst l.task l.vt fun x =>
    { x with recs := x.mat.banks
             elems := x.elems.map fun el => { el with inq := el.inq.map fun ch => { ch with stood := ch.standing } } }
  let s := if (s.inst l.task l.vt).handover then s.countAt l.task l.vt 0x0A 1 else s
  s.countAt l.task l.vt 0x02 1

/-! ### Which deeds a step does (R105-R107, R283, R465) -/

/-- What a deed would do beside its effect: raise a group fault, or only a trap or a page fault (R465). -/
inductive Harm where
  | none
  | yields
  | fault
  deriving DecidableEq, Repr

/-- A deed with its place in the order of R283 and its harm. -/
structure Choice where
  place : Nat
  what : Planned
  harm : Harm := .none
  deriving DecidableEq, Repr

/-- Place of an element in the order of R283: after the matrix node's lanes, the other engines and what follows the vector node. -/
def elemPlace (e : Fin 16) : Nat := 8 + e.val

/-- Place of the sequencer (R283), and of the KSETs that are applied as the step ends (R380). -/
def seqPlace : Nat := 24
def lastPlace : Nat := 25

/-- The control tokens that stand at heads of channels as the step begins: a KSET is applied as the step ends (R380), any other raises
0x50 at its element's place (R100, R377). DEDUCED, log entry 20. -/
def State.hiddenChoices (s : State) (l : At) : List Choice :=
  ((List.range 16).map vtOf).flatMap fun e =>
    if s.elemLive l.task l.vt e && !(s.elem l.task l.vt e).done then
      ([0, 1, 2, 3] : List (Fin 4)).filterMap fun c =>
        match (vget (s.elem l.task l.vt e).inq c).toks with
        | t :: _ =>
          if !hiddenCtl t.side then none
          else if Side.op t.side = 6 && ksetOk (Side.sel t.side) then some ⟨lastPlace, ⟨l, .hidden e c⟩, .none⟩
          else some ⟨elemPlace e, ⟨l, .hidden e c⟩, .fault⟩
        | [] => none
    else []

/-- Commands of an engine by lane: the compute lane, the load lane and the place before them of the matrix node, the one command of
another engine (R235). -/
def Inst.laneWord (x : Inst) (n : Node) (lane : Nat) : Option Word :=
  match n with
  | .matrix =>
    if lane = 0 then x.mat.comp.map (·.cmd.word)
    else if lane = 1 then x.mat.load.map (·.cmd.word)
    else x.mat.wait.bind fun c =>
      let op := mOp c
      if op = 3 || op = 4 || (op ≤ 2 && x.mat.load.isNone) || (4 < op && x.mat.comp.isNone) then some c.word else none
  | .vector => (x.vec.run.map (·.cmd.word)).orElse fun _ => x.vec.wait.map (·.word)
  | .streamA => (x.sa.run.map (·.cmd.word)).orElse fun _ => x.sa.wait.map (·.word)
  | .streamB => (x.sb.run.map (·.cmd.word)).orElse fun _ => x.sb.wait.map (·.word)
  | .copy => (x.cpy.run.map (·.cmd.word)).orElse fun _ => x.cpy.wait.map (·.word)
  | _ => none

/-- The instruction of an engine's lane, read in the engine's word space. -/
def Inst.laneInstr (x : Inst) (n : Node) (lane : Nat) : Option Instr :=
  (x.laneWord n lane).bind fun w =>
    (match n with
     | .matrix => decodeMat w
     | .vector => decodeVec w
     | .copy => decodeCopy w
     | _ => decodeStream w).toOption

/-- A load waits for its bank to leave, as the step before left it (R228, R230). -/
def Mat.loadWaits (m : Mat) : Bool :=
  match m.load with
  | some l => !l.entered && (m.bank (mBank l.cmd)).st == .leaving
  | none => false

/-- The vector node tags rows (R215). -/
def Vec.tagging (v : Vec) : Bool :=
  match v.run with
  | some r => cmdOp r.cmd.word == 0x51
  | none => false

/-- What the engines named do in the step: the lanes of the matrix node that hold a command, and the others in port order (R283). An
immediate command that waits takes its debit in the matrix node's place; where VTAGS tags rows in the step its effect comes after them
(R216, R230). DEDUCED, log entry 98. -/
def Inst.engineChoices (x : Inst) (l : At) (engines : List Node) : List Choice :=
  let go (place : Nat) (n : Node) (lane : Nat) : List Choice :=
    if engines.contains n && (x.laneWord n lane).isSome then [⟨place, ⟨l, .advance n lane⟩, .none⟩] else []
  go 0 .matrix 0 ++ (if x.mat.loadWaits then [] else go 1 .matrix 1)
    ++ (if engines.contains .vector && x.vec.tagging then go 2 .matrix 3 ++ go 4 .matrix 2 else go 2 .matrix 2)
    ++ go 3 .vector 0 ++ go 5 .streamA 0 ++ go 6 .streamB 0 ++ go 7 .copy 0

/-- The command of an engine's lane advances (R148, R283); the locus names the lane. -/
def State.runLane (s : State) (l : At) (n : Node) (lane : Nat) : Out :=
  match (s.inst l.task l.vt).laneInstr n lane with
  | some i => exec i { s with cur := { task := l.task, vt := l.vt, node := n, slot := ⟨lane % 40, Nat.mod_lt _ (by decide)⟩ }, fired := false }
  | none => .next s

/-- A rule tried at its place: the state after it. -/
def State.tryRule (s : State) (l : At) (e : Fin 16) (i : Fin 40) (r : Instr) : Out :=
  exec r { s with cur := { task := l.task, vt := l.vt, node := .elem e, slot := i }, fired := false }

/-- The harm of a rule of element e whose trial turns s into t. -/
def State.harm (s t : State) (l : At) (e : Fin 16) : Harm :=
  match (t.group l.task).stop with
  | some (.fault ..) => .fault
  | some (.page ..) => .yields
  | _ => if (t.elem l.task l.vt e).inTrap && !(s.elem l.task l.vt e).inTrap then .yields else .none

/-- A trial has asked for an implicit seal without firing (R294). -/
def State.asksSeal (s t : State) (task : Nat) : Bool :=
  (t.group task).cut.isSome != (s.group task).cut.isSome || (t.group task).seals.length != (s.group task).seals.length

/-- What a trial takes of the ports of a step (R149, R163, R298), and the heap of a command that it begins (R220). -/
def State.takePorts (s t : State) (l : At) : State :=
  let x := t.inst l.task l.vt
  (s.updInst l.task l.vt fun y => { y with portUse := x.portUse, dirUse := x.dirUse, cmdUse := x.cmdUse, heap := x.heap }).updGroup l.task
    fun g => { g with sealUse := (t.group l.task).sealUse }

/-- The lowest slot whose rule would fire, or stop its group (R106, R107); a slot that holds a refused word raises 0x01 when it is
come to (R102, R104). Translation fills that a rule in vain asked for stay asked for; an implicit seal that it asks for is
opened at its place; what a chosen rule would do is not done yet, but the ports that it uses are taken. -/
def State.choose (l : At) (e : Fin 16) : List (Fin 40) → State → List Choice × State
  | [], s => ([], s)
  | i :: is, s =>
    let at_ (d : Deed) (h : Harm) : Choice := ⟨elemPlace e, ⟨l, d⟩, h⟩
    let w := vget (s.elem l.task l.vt e).slots i
    if w = 0xFFFFFFFF then State.choose l e is s
    else
      match decodeRule w with
      | .error _ => ([at_ (.refuse e i.val) .fault], s)
      | .ok r =>
        match s.tryRule l e i r with
        | .next t =>
          if t.fired then ([at_ (.fire e i) (s.harm t l e)], s.takePorts t l)
          else if s.asksSeal t l.task then
            let (cs, u) := State.choose l e is s
            (at_ (.fire e i) .none :: cs, u)
          else State.choose l e is t
        | _ => State.choose l e is s

/-- Slots that an element tests: the rules, or in trap state the trap slots (R106). -/
def slotsOf (trapped : Bool) : List (Fin 40) :=
  (if trapped then List.range 8 |>.map (· + 32) else List.range 32).map fun n => ⟨n % 40, Nat.mod_lt _ (by decide)⟩

/-- The deeds of the elements of a tile in a step (R105). An element with a refused word raises 0x01 instead (R103); one that has executed
DONE tests nothing (R106). -/
def State.chooseAll (l : At) : List (Fin 16) → State → List Choice × State
  | [], s => ([], s)
  | e :: es, s =>
    let el := s.elem l.task l.vt e
    if !s.elemLive l.task l.vt e || el.done then State.chooseAll l es s
    else
      let (cs, s) := match el.badWord with
        | some i => ([⟨elemPlace e, ⟨l, .refuse e i⟩, .fault⟩], s)
        | none => State.choose l e (slotsOf el.inTrap) s
      let (ds, s) := State.chooseAll l es s
      (cs ++ ds, s)

/-- The heap that a waiting VHEAP or VHDRN will hold, where the vector node's deed of the step begins it (R220). -/
def State.heapSoon (s : State) (l : At) (engs : List Choice) : List (Nat × Nat) :=
  let x := s.inst l.task l.vt
  let waits := x.vec.wait.any fun c => cmdOp c.word == 0x52 || cmdOp c.word == 0x53
  if waits && engs.any (fun c => c.what == ⟨l, .advance .vector 0⟩) then
    match s.runLane l .vector 0 with
    | .next t => (t.inst l.task l.vt).heap
    | _ => x.heap
  else x.heap

/-- The deeds of the elements of a tile, once more where a rule chosen begins a heap: its bytes are held for every rule of the step
(R220). DEDUCED, log entry 119. -/
def State.chooseHeld (s : State) (l : At) : List Choice × State :=
  let es : List (Fin 16) := (List.range 16).map vtOf
  let r := State.chooseAll l es s
  let h := (r.2.inst l.task l.vt).heap
  if h = (s.inst l.task l.vt).heap then r else State.chooseAll l es (s.updInst l.task l.vt fun x => { x with heap := h })

/-- The deeds of every element of the tiles that step, by tile. -/
def State.chooseTiles (task : Nat) (engs : List Choice) : List (Fin 16) → State → List Choice × State
  | [], s => ([], s)
  | vt :: vts, s =>
    let h := (s.inst task vt).heap
    let (cs, s) := (s.updInst task vt fun x => { x with heap := s.heapSoon ⟨task, vt⟩ engs }).chooseHeld ⟨task, vt⟩
    let (ds, s) := State.chooseTiles task engs vts (s.updInst task vt fun x => { x with heap := h })
    (cs ++ ds, s)

/-- The deeds that are done, in the order of R283 and within a place by virtual tile (R465): where one raises a group fault, those
that would only trap or page-fault are not done. DEDUCED, log entry 87. A SEAL that finds a cut opened in the step by an earlier deed leaves
its element without a firing. DESIGN CHOICE, log entry 118. -/
def planOf (l : List Choice) : List Planned :=
  let kept := if l.any fun x => x.harm == .fault then l.filter fun x => x.harm != .yields else l
  (List.range 26).flatMap fun p =>
    let here := kept.filter fun x => x.place == p
    ((List.range 16).flatMap fun v => here.filter fun x => x.what.l.vt.val == v).map (·.what)

/-- A step of tiles of a group up to its deeds: they stand in `plan`. -/
def State.stepTiles (s : State) (task : Nat) (vts : List (Fin 16)) (engines : List (Fin 16 × Node)) : State :=
  match s.group? task with
  | some g =>
    let vts := g.vts.filter fun v => vts.contains v && g.isResident v (s.inst task v) && (s.inst task v).armed
    if g.live && !vts.isEmpty then
      let s := s.updGroup task fun g => { g with sealUse := false, atCut := false }
      let s := vts.foldl (fun s v => s.beginTile ⟨task, v⟩) s
      let engs := vts.flatMap fun v => (s.inst task v).engineChoices ⟨task, v⟩ ((engines.filter fun n => n.1 == v).map (·.2))
      let hid := vts.flatMap fun v => s.hiddenChoices ⟨task, v⟩
      let owed := (vts.filter fun v => (s.inst task v).lines != 0).map fun v => (⟨seqPlace, ⟨⟨task, v⟩, .lines⟩, .none⟩ : Choice)
      let (cs, s) := State.chooseTiles task engs vts s
      let s := vts.foldl (fun s v => s.updInst task v fun x => { x with portUse := 0, dirUse := false, cmdUse := [] }) s
      { s.updGroup task fun g => { g with sealUse := false } with plan := planOf (engs ++ hid ++ cs ++ owed) }
    else s
  | none => s

/-! ### Doing them -/

/-- One deed. -/
def State.runDeed (s : State) (p : Planned) : Out :=
  match p.deed with
  | .advance n lane => s.runLane p.l n lane
  | .fire e i =>
    match decodeRule (vget (s.elem p.l.task p.l.vt e).slots i) with
    | .ok r => s.tryRule p.l e i r
    | .error _ => .next s
  | .refuse e i =>
    .next ((s.updElem p.l.task p.l.vt e fun el => { el with badWord := none }).raise p.l.task (.fault 0x01 p.l.vt (.elem e) 0 i))
  | .lines => .next (s.payLines p.l)
  | .hidden e c => .next (if s.elemLive p.l.task p.l.vt e then s.takeHidden p.l.task p.l.vt e c else s)

/-- The copy has acted in its step: an element fired or an engine advanced (R392). -/
def State.acted (s t : State) (p : Planned) : State :=
  let active := match p.deed with
    | .advance .. => (t.group p.l.task).fold != 1 && t.inst p.l.task p.l.vt != s.inst p.l.task p.l.vt
    | .fire .. => t.fired
    | _ => false
  if active then t.updInst p.l.task p.l.vt fun x => { x with quiet := false } else t

/-- A step of a group ends: slots that it closed are CLOSING, and a page fault that it raised stops the group (R325, R348). -/
def State.endStep (s : State) (task : Nat) : State :=
  (s.closes.foldl State.closeSlot { s with closes := [] }).updGroup task fun g =>
    match g.later with
    | some st => { g with later := none }.stopped false st
    | none => g

/-- What follows a deed: the step ends with its last. -/
def State.afterDeed (s : State) (p : Planned) (rest : List Planned) (t : State) : State :=
  let t := s.acted t p
  if rest.isEmpty then t.endStep p.l.task else t

/-- The first deed of the plan, if there is one. -/
def State.runPlan (s : State) : Out :=
  match s.plan with
  | [] => .next s
  | p :: ps =>
    match { s with plan := ps }.runDeed p with
    | .next t => .next (s.afterDeed p ps t)
    | o => o

/-- A turn of the machine (DESIGN CHOICE, log entry 3). -/
def State.takeTurn (s : State) (t : Turn) : Out :=
  match t with
  | .tiles task vts engines => (s.stepTiles task vts engines).runPlan
  | .event i => exec i { s with fired := false }

end Sys2Proof.Machine
end

