-- ==== Sys2Proof/Machine/Step.lean ====
section
/-! DEFINITION. The step of the machine, and the state in which the next step runs a given instruction
(log entries 3 and 4). -/

namespace Sys2Proof.Machine

/-- One step: the next deed that a step of tiles has planned; else the next turn of the agenda; else a turn that the schedule of the
part chooses, or none. DESIGN CHOICE, log entry 3. -/
def step (s : State) : Host.Outcome State Fault Refusal :=
  match s.plan with
  | _ :: _ => s.runPlan
  | [] =>
    match s.agenda with
    | t :: ts => { s with agenda := ts }.takeTurn t
    | [] =>
      match Config.freeTurn s.turnNo with
      | some t => { s with turnNo := s.turnNo + 1 }.takeTurn t
      | none => .next { s with turnNo := s.turnNo + 1 }

/-- The copy of virtual tile 0 of task 0. -/
def fetchAt : At := ⟨0, 0⟩

/-- A pointer to element 0 of the object behind handle 1. -/
def fetchPtr : Word := 0x00100000

/-- The object behind handle 1: 16 FP32 elements, writable, shared. -/
def fetchObj : Obj := { desc := 16 * 2 ^ 64 + 2 ^ 32, pages := [(0, {})] }

/-- A one-tile kernel whose input channels of element 0 are pull channels. -/
def fetchImage : Image :=
  { p := 64, pad := 32, sems := BitVec.allOnes 64, bars := BitVec.allOnes 16, edges := [0, 1, 2, 3].map fun c => { src := .out 0 1 c, dst := .inp 0 0 c, pull := true } }

/-- The copy in which the instruction stands: slot w0 of element 0, or the waiting place of an engine. DESIGN CHOICE, log entry 4.
-/
def fetchInst (sp : Space) (w : Word) : Inst :=
  let el : Elem :=
    { slots := (Vector.replicate 40 0xFFFFFFFF).set 0 (if sp = .rule then w else 0xFFFFFFFF)
      d := Vector.replicate 8 fetchPtr
      inq := Vector.replicate 4 { toks := [⟨0, fetchPtr, []⟩] }
      pulls := Vector.replicate 4 4 }
  let c : Option Cmd := some { word := w }
  { elems := (Vector.replicate 16 {}).set 0 el, used := 1, meter := 16384, stores := [⟨64, false⟩], armed := true
    started := [.elem 0, .matrix, .vector, .streamA, .streamB, .copy]
    vec := if sp = .vector then { wait := c } else {}
    mat := if sp = .matrix then { wait := c } else {}
    sa := if sp = .stream then { wait := c } else {}
    cpy := if sp = .copy then { wait := c } else {} }

/-- The turn in which the instruction runs: a step of the tile in which the engine that holds it advances. -/
def fetchTurn (sp : Space) : Turn :=
  let engines : List Node := match sp with
    | .rule => []
    | .vector => [.vector]
    | .matrix => [.matrix]
    | .stream => [.streamA]
    | .copy => [.copy]
  .tiles 0 [0] (engines.map fun n => (0, n))

/-- The state with an instruction placed where the next step runs it: a running one-tile group of a resident context. DESIGN CHOICE,
log entry 4. -/
def State.withFetchWord (s : State) (nbits w : Nat) : State :=
  let word : Word := BitVec.ofNat 32 (w % 2 ^ nbits)
  let sp := (tableSpace word).getD .rule
  { s with
    plan := []
    closes := []
    agenda := [fetchTurn sp]
    pst := .run
    ctxs := s.ctxs.put 0 { state := .resident, acct := 1024 }
    keys := s.keys.put 0 {}
    objs := s.objs.put 1 fetchObj
    slots := s.slots.put 1 { obj := 1 }
    tiles := s.tiles.put 0 { cache := [⟨0, 1, 0, 0, false, false⟩], owner := some 0 }
    groups := s.groups.put 0 { img := fetchImage, state := .running }
    insts := s.insts.put (ikey 0 0) (fetchInst sp word) }

end Sys2Proof.Machine
end

