-- ==== Sys2Proof/Machine/Registers.lean ====
section
/-! DEFINITION. What the host reads from its registers: every field in its place, and zero in every reserved bit (spec/00_scope.md R3, R4;
spec/01_machine.md R28; spec/08_matrix.md R224; spec/12_pages.md R346; spec/15_queues.md R400, R401; spec/16_barriers.md R426; spec/18_contexts.md R457, R458,
R468, R469; spec/19_links.md R477, R486; spec/20_power.md R503, R504; spec/21_bringup.md R508-R517). -/

namespace Sys2Proof.Machine

/-- A register of the physical function's BAR0 (R508). -/
inductive PartReg where
  | grade
  | fencemap
  | hubst
  | shock
  | hubcmd
  | pwctl
  | pwstat
  | pwcause
  | regpw (n : Fin 64)
  | evsel (n : Fin 64) (k : Fin 8)
  | evval (n : Fin 64) (k : Fin 8)
  | evselH (k : Fin 16)
  | evvalH (k : Fin 16)
  | spancfg
  | routelo
  | routehi
  | lnkctl (n : Fin 8)
  | lnkstat (n : Fin 8)
  | vclk (k : Fin 16)
  | mbcmd
  | mbbuf (i : Fin 512)
  deriving DecidableEq, Repr

/-- A register of a context's window (R509). -/
inductive CtxReg where
  | ctxctl
  | ctxquota
  | acct
  | accadd
  | fqidx
  | grpcmd
  | grpstat
  | fault (i : Fin 256) (word : Fin 4)
  | launch
  | lstat
  | qdesc (q : Fin 16)
  | sem (m : Fin 64)
  | pgcmd
  | pgaddr
  | pgentry
  | pgstat
  | dircmd
  | dirstat
  | dirarg (i : Fin 8)
  | dirsel
  | kaddr
  | kcmd
  | dwsel
  deriving DecidableEq, Repr

def CState.code (x : CState) : Nat :=
  match x with
  | .free => 0
  | .defined => 1
  | .resident => 2
  | .resetting => 3

def LSt.code (x : LSt) : Nat :=
  match x with
  | .down => 0
  | .training => 1
  | .up => 2
  | .retraining => 3
  | .degraded => 4
  | .failed => 5

def PSt.code (x : PSt) : Nat :=
  match x with
  | .off => 0
  | .run => 1
  | .boost => 2
  | .throttle => 3
  | .parked => 4
  | .emergency => 5

/-- A value in the field [hi:lo] of a register. -/
def inField (hi lo v : Nat) : Nat := v % 2 ^ (hi + 1 - lo) * 2 ^ lo

def inBit (n : Nat) (b : Bool) : Nat := if b then 2 ^ n else 0

/-- The bits of a register of a context (R4: command fields and reserved bits read as zero). -/
def Ctx.readReg (c : Ctx) (r : CtxReg) : Nat :=
  match r with
  | .ctxctl => inField 63 62 c.state.code + inBit 61 c.dbgok + inBit 60 c.fhold + inField 59 54 c.vf + inField 31 0 c.wdlim.toNat
  | .ctxquota => inField 63 48 c.names + inField 47 32 c.objs + inField 31 16 c.savefr
  | .acct => inField 47 0 c.acct
  | .fqidx => inField 15 8 c.cons.toNat + inField 7 0 c.prod.toNat
  | .grpstat => inField 2 0 c.grpstat
  | .fault i w => c.ring.getD i.val 0 / 2 ^ (64 * w.val)
  | .lstat => inField 63 32 c.acc.toNat + inField 31 16 c.ref + inField 15 8 c.last
  | .qdesc q =>
    let x := vget c.queues q
    inField 63 62 x.st + inField 48 32 x.alim + inField 31 15 x.count + inField 7 6 x.rmax + inField 5 4 x.wm1 + inField 3 0 x.pmax
  | .sem m => let x := vget c.sems m; inBit 63 x.sat + inField 31 0 x.val.toNat
  | .pgaddr => c.pgaddr.toNat
  | .pgentry => c.pgstat.toNat
  | .pgstat => inField 2 0 c.pgst
  | .dirstat => inField 63 32 (c.dirstat.toNat / 2 ^ 32) + inField 2 0 c.dirstat.toNat
  | .dirarg i => (vget c.dirarg i).toNat
  | .dirsel => inField 11 0 c.dirsel.toNat
  | .kaddr => c.kaddr.toNat
  | .kcmd => inField 2 0 c.kstat
  | .dwsel => inField 63 52 (c.dwsel.toNat / 2 ^ 52) + inField 51 32 (c.dwsel.toNat / 2 ^ 32)
  | .accadd | .grpcmd | .launch | .pgcmd | .dircmd => 0

/-- The bits of a counter's registers (R504), read at debug level OBSERVE or higher (R475). -/
def State.readCtr (s : State) (c : Ctr) (val : Bool) : Nat :=
  if !s.observes then 0 else if val then inField 47 0 c.val.toNat else (evsel c.sel).toNat

/-- The bits of a register of the part (R4). -/
def State.readPart (s : State) (r : PartReg) : Nat :=
  match r with
  | .grade => inField 31 16 s.sccount.toNat + inField 9 8 s.cls.toNat + inField 6 0 s.good.toNat
  | .fencemap => s.fenced.toNat
  | .hubst =>
    inField 63 62 (match s.sec with
      | .production => 0
      | .development => 1
      | .failed => 2) + inField 61 60 (match s.dbg with
      | .off => 0
      | .observe => 1
      | .invasive => 2)
  | .shock => inField 63 32 s.shocks.toNat + inBit 31 s.shockPend + inField 15 0 s.shockPeak.toNat
  | .hubcmd => inField 2 0 s.hubStat
  | .pwctl => inBit 63 s.boosten + inBit 62 s.park + inField 47 32 s.plim.toNat + inField 31 16 s.pbst.toNat
  | .pwstat => inField 63 61 s.pst.code + inField 41 32 (s.snow / 1000000000) + inField 15 0 s.draw.toNat
  | .pwcause => inField 15 8 s.causeCnt.toNat + inBit 2 s.supin + inBit 1 s.droop + inBit 0 s.oc
  | .regpw n => let x := s.region n; inField 63 48 x.adm.toNat + inBit 47 x.half + inField 31 0 x.undr.toNat
  | .evsel n k => s.readCtr (vget (s.region n).ctrs k) false
  | .evval n k => s.readCtr (vget (s.region n).ctrs k) true
  | .evselH k => s.readCtr (vget s.hubCtrs k) false
  | .evvalH k => s.readCtr (vget s.hubCtrs k) true
  | .spancfg => inField 63 60 s.die.toNat + inField 59 56 s.spm1.toNat
  | .routelo => s.routeLo.toNat
  | .routehi => s.routeHi.toNat
  | .lnkctl n => inField 47 32 (vget s.lnks n).rtb.toNat
  | .lnkstat n =>
    let l := vget s.lnks n
    inField 63 61 l.st.code + inField 60 57 l.peer.toNat + inField 56 53 l.lanes + inField 47 32 l.retrn + inField 31 16 l.crcerr
      + inField 15 0 l.autherr
  | .vclk k => inField 31 16 (vget s.seen k).toNat + inField 15 0 (vget s.clk k).toNat
  | .mbcmd => inField 2 0 s.mbStat
  | .mbbuf i => leNat (s.mbBuf.reads (8 * i.val) 8)

/-- What a read of a context's register returns: zero where nothing answers (R475, R508). DEDUCED, log entry 107. -/
def State.readCtxReg (s : State) (h : HostAt) (r : CtxReg) : Dword :=
  match s.window? h with
  | some c => BitVec.ofNat 64 (c.readReg r)
  | none => 0

/-- The register lies in the security mailbox, which answers in FAILED too (R475). -/
def PartReg.inMailbox (r : PartReg) : Bool :=
  match r with
  | .mbcmd | .mbbuf _ => true
  | _ => false

/-- What a read of a register of the part returns, through the physical function alone (R508). DEDUCED, log entry 107. -/
def State.readPartReg (s : State) (via : Via) (r : PartReg) : Dword :=
  if (Via.isPf via) && s.pst != .off && (r.inMailbox || s.sec != .failed) then BitVec.ofNat 64 (s.readPart r) else 0

/-! ### Where an offset of a BAR leads (R508, R509) -/

/-- What stands at an offset of a context's window: a register, DIRENT, which a read serves as an operation of the directory (R510), or a byte of
the data aperture (R511). -/
inductive WindowPlace where
  | reg (r : CtxReg)
  | dirent
  | aperture (off : Nat)
  deriving DecidableEq, Repr

/-- The entry of a table of registers of 8 bytes each that begins at `base`. -/
def tableAt {α : Type} (n : Nat) (base : Nat) (r : Fin n → α) (off : Nat) (step : Nat := 8) : Option α :=
  if base ≤ off ∧ (off - base) % step = 0 then
    if h : (off - base) / step < n then some (r ⟨(off - base) / step, h⟩) else none
  else none

/-- The identity block (R28, R517). -/
def identityAt (off : Nat) : Option PartReg :=
  match off with
  | 0x000 => some .grade
  | 0x008 => some .fencemap
  | 0x018 => some .hubst
  | 0x020 => some .shock
  | 0x030 => some .hubcmd
  | _ => none

/-- The power block (R503, R504). -/
def powerAt (off : Nat) : Option PartReg :=
  match off with
  | 0x000 => some .pwctl
  | 0x008 => some .pwstat
  | 0x010 => some .pwcause
  | _ =>
    let regpw := tableAt 64 0x100 .regpw off
    let hub := (tableAt 16 0x800 .evselH off 16).or (tableAt 16 0x808 .evvalH off 16)
    let counters := (List.range 64).findSome? fun n =>
      (tableAt 8 (0x1000 + 0x80 * n) (.evsel (Fin.ofNat 64 n)) off 16).or (tableAt 8 (0x1008 + 0x80 * n) (.evval (Fin.ofNat 64 n)) off 16)
    (regpw.or hub).or counters

/-- The link block (R477, R485, R486). -/
def linkAt (off : Nat) : Option PartReg :=
  match off with
  | 0x000 => some .spancfg
  | 0x008 => some .routelo
  | 0x010 => some .routehi
  | _ => ((tableAt 8 0x040 .lnkctl off 32).or (tableAt 8 0x048 .lnkstat off 32)).or (tableAt 16 0x200 .vclk off)

/-- The security mailbox (R514). -/
def mailboxAt (off : Nat) : Option PartReg := if off = 0 then some .mbcmd else tableAt 512 0x1000 .mbbuf off

/-- The register at an offset of the physical function's BAR0 (R508). -/
def bar0At (off : Nat) : Option PartReg :=
  match off / 0x10000 with
  | 0 => identityAt (off % 0x10000)
  | 1 => powerAt (off % 0x10000)
  | 2 => linkAt (off % 0x10000)
  | 3 => mailboxAt (off % 0x10000)
  | _ => none

/-- The control window (R457, R458, R468, R469). -/
def controlAt (off : Nat) : Option CtxReg :=
  match off with
  | 0x000 => some .ctxctl
  | 0x008 => some .ctxquota
  | 0x010 => some .acct
  | 0x018 => some .accadd
  | 0x020 => some .fqidx
  | 0x028 => some .grpcmd
  | 0x030 => some .grpstat
  | _ =>
    if 0x1000 ≤ off ∧ off % 8 = 0 then
      tableAt 256 0x1000 (fun i => .fault i (Fin.ofNat 4 (off / 8))) (off / 32 * 32) 32
    else none

/-- The launch window (R400, R401): all of LAUNCH is one record. -/
def launchAt (off : Nat) : Option CtxReg :=
  if off < 0x40 then some .launch
  else if off = 0x40 then some .lstat
  else tableAt 16 0x100 .qdesc off

/-- The page window (R346). -/
def pageAt (off : Nat) : Option CtxReg :=
  match off with
  | 0x000 => some .pgcmd
  | 0x008 => some .pgaddr
  | 0x010 => some .pgentry
  | 0x018 => some .pgstat
  | _ => none

/-- The directory window (R509, R510). -/
def directoryAt (off : Nat) : Option WindowPlace :=
  match off with
  | 0x000 => some (.reg .dircmd)
  | 0x008 => some (.reg .dirstat)
  | 0x080 => some (.reg .dirsel)
  | 0x088 => some .dirent
  | _ => (tableAt 8 0x040 .dirarg off).map .reg

/-- The kernel window (R510). -/
def kernelAt (off : Nat) : Option CtxReg :=
  match off with
  | 0x000 => some .kaddr
  | 0x008 => some .kcmd
  | _ => none

/-- What stands at an offset of a context's window (R509). -/
def windowAt (off : Nat) : Option WindowPlace :=
  if 0x20000 ≤ off then none
  else if 0x10000 ≤ off then some (.aperture (off - 0x10000))
  else if 0x09000 ≤ off then (if off = 0x09000 then some (.reg .dwsel) else none)
  else if 0x08000 ≤ off then (kernelAt (off - 0x08000)).map .reg
  else if 0x07000 ≤ off then directoryAt (off - 0x07000)
  else if 0x06000 ≤ off then (pageAt (off - 0x06000)).map .reg
  else if 0x05000 ≤ off then (tableAt 64 0x05000 .sem off).map .reg
  else if 0x04000 ≤ off then (launchAt (off - 0x04000)).map .reg
  else (controlAt off).map .reg

/-- The context, and what stands in its window, at an offset of a function's BAR2: windows of 128 KiB each (R508). -/
def bar2At (off : Nat) : Nat × Option WindowPlace := (off / 0x20000 % 4096, windowAt (off % 0x20000))

/-- What a read of BAR0 returns: zero where no register stands. -/
def State.readBar0 (s : State) (via : Via) (off : Nat) : Dword := (bar0At off).elim 0 (s.readPartReg via)

/-- A read of BAR2 (R508-R511): what it leaves in `readData`. DIRENT and the aperture are served as operations of their own. -/
def State.readBar2 (s : State) (via : Via) (off : Nat) : Out :=
  let h : HostAt := { via := via, ctx := (bar2At off).1 }
  match (bar2At off).2 with
  | some (.reg r) => .next { s with readData := s.readCtxReg h r }
  | some .dirent => execDirentRead h s
  | some (.aperture o) => execApertureRead h o s
  | none => .next { s with readData := 0 }

/-- The register that a plain write of BAR0 reaches (R4, R508); PWCAUSE, HUBCMD and MBCMD take commands. -/
def PartReg.written (r : PartReg) : Option HostReg :=
  match r with
  | .hubst => some .hubst
  | .pwctl => some .pwctl
  | .routelo => some .routelo
  | .routehi => some .routehi
  | .lnkctl n => some (.lnkctl n)
  | .mbbuf i => some (.mbbuf i)
  | .evsel n k => some (.evsel n.val k)
  | .evval n k => some (.evval n.val k)
  | .evselH k => some (.evselH k)
  | .evvalH k => some (.evvalH k)
  | _ => none

/-- The register that a plain write of a context's window reaches (R4, R509); the others take commands, records or amounts. -/
def CtxReg.written (r : CtxReg) (ctx : Nat) : Option HostReg :=
  match r with
  | .ctxctl => some (.ctxctl ctx)
  | .ctxquota => some (.ctxquota ctx)
  | .pgaddr => some (.pgaddr ctx)
  | .dirarg i => some (.dirarg ctx i)
  | .dirsel => some (.dirsel ctx)
  | .kaddr => some (.kaddr ctx)
  | .dwsel => some (.dwsel ctx)
  | _ => none

/-! ### Debug reads and writes (R63, R475) -/

/-- ARSTAT of a tile of a running group, at debug level OBSERVE (R63, R475): status 6 where its cell does not allow it, 4 where there is no
such tile. The spec names no trace besides the counters and gives it no form. DEDUCED, log entry 126. -/
def State.readArstat (s : State) (task : Nat) (vt : Fin 16) : Except Nat Word :=
  if !s.observes then .error 6
  else match s.inst? task vt with
    | some x => .ok x.arstat
    | none => .error 4

/-- A handle slot as a debugger reads it, at debug level OBSERVE (R320, R475). -/
def State.readSlot (s : State) (ctx n : Nat) : Except Nat Nat :=
  if s.observes then .ok (slotEntry (s.slot? ctx n)) else .error 6

/-- A tile of a scanned image: its nodes, buffers and registers as the scan-out left them, and its pad's bytes that are not 0. -/
structure Scanned where
  inst : Inst := {}
  pad : List Host.Cell := []
  deriving DecidableEq, Repr

/-- The part is in a state whose cells of R475 hold H or H+. -/
def State.debugsScans (s : State) : Bool := s.pst != .off && s.pst != .emergency

/-- A group of which a scanned image stands: status 4 for no such group, 5 for one that is not scanned out. -/
def State.scannedGroup (s : State) (task : Nat) : Except Nat Group :=
  match s.group? task with
  | none => .error 4
  | some g => if g.state == .halted && !g.draining then .ok g else .error 5

/-- A scanned image read, tile by tile (R475 H and H+). DEDUCED, log entry 126. -/
def State.readScan (s : State) (task : Nat) (vt : Fin 16) : Except Nat Scanned :=
  match s.scannedGroup task with
  | .error c => .error c
  | .ok g =>
    if !s.debugsScans || !s.invasive g.ctx then .error 6
    else
      match s.inst? task vt with
      | none => .error 4
      | some x => .ok { inst := x, pad := if g.saved then g.pads.getD vt.val [] else s.padCells g x vt }

/-- A tile of a scanned image written (R475 H+): in DEVELOPMENT alone. The status, and the state after it. DEDUCED, log entry 126. -/
def State.writeScan (s : State) (task : Nat) (vt : Fin 16) (y : Scanned) : Nat × State :=
  match s.scannedGroup task with
  | .error c => (c, s)
  | .ok g =>
    if !s.debugsScans || s.sec != .development || s.dbg != .invasive then (6, s)
    else
      match s.inst? task vt with
      | none => (4, s)
      | some x =>
        let s := s.setInst task vt y.inst
        if g.saved then (0, s.updGroup task fun g => { g with pads := g.pads.put vt.val y.pad })
        else
          let a := s.padAddr g x vt 0
          let mem := y.pad.foldl (fun (m : Memory) c => m.write (a + c.1 % padWindow g.img.pad) c.2) (s.mem.clear a (padWindow g.img.pad))
          (0, { s with mem := mem })

/-! ### The record of a weight bank in a scanned image (R224) -/

def BankSt.code (x : BankSt) : Nat :=
  match x with
  | .empty => 0
  | .loading => 1
  | .resident => 2
  | .leaving => 3

/-- The 64-bit record of a bank, which a scan-out writes (R224). -/
def Bank.record (b : Bank) : Dword :=
  BitVec.ofNat 64 (inField 63 48 b.expid.toNat + inField 47 44 b.gen.toNat + inField 43 42 b.st.code + inBit 41 b.rsv + inBit 40 b.hold
    + inField 39 20 b.readers + inField 19 12 b.km1 + inField 11 6 b.nm1 + inField 5 4 b.sp + inField 2 0 b.wfmt)

/-- The record as a scanned image holds it, least byte first (R3, R224). -/
def Bank.recordBytes (b : Bank) : List Byte := leBytes 8 b.record.toNat

end Sys2Proof.Machine
end

