-- ==== Sys2Proof/Safety.lean ====
section
/-! DEFINITION. What counts as a safe step and a well-formed state, when a rule of an element fires, and the states that
firings leave, in the terms the statements use. -/

namespace Sys2Proof

open Sys2Proof.Machine

/-- A step that answers a next state: neither a fault nor a refusal. -/
def Safety.goesOn (s : State) : Prop := ∃ t, step s = .next t

/-- The memories are in their canonical form. -/
abbrev Safety.memOk (s : State) : Prop := s.mem.wf = true ∧ s.hostMem.wf = true ∧ s.mbBuf.wf = true

/-- A rule with trigger t fires at the locus for d drops (R106, R109, R281, R282, R287): its element stands there, its
conditions beside its operands hold, the meter keeps 256 drops, and the stores built cover the debit. -/
structure Safety.Fires (s : State) (h : Here) (t : Trig) (d : Nat) : Prop where
  here : s.here = some h
  gate : s.gate h t = true
  meter : d + 256 ≤ h.x.meter
  built : h.x.debited + d ≤ h.x.built

/-- A debit of d drops is covered (R282, R287). -/
abbrev Safety.Covered (x : Inst) (d : Nat) : Prop := d + 256 ≤ x.meter ∧ x.debited + d ≤ x.built

/-- The state at the locus of h once d drops are debited. -/
def Safety.paid (s : State) (h : Here) (d : Nat) : State := s.paid (h.x.debit d) d

/-- DST can take a result: its register is not pending, its channel has room (R106, R167). -/
abbrev Safety.takes (s : State) (h : Here) (d : Dst) : Prop := h.el.okDst d = true ∧ s.dstRoom h d = true

/-- The sources of a two-source rule can be read. -/
abbrev Safety.readable (h : Here) (a : SrcA) (b : SrcB) : Prop := h.el.okA a = true ∧ h.el.okB b = true

/-- The element after the sources of a rule are dequeued. -/
def Safety.dequeued (s : State) (h : Here) (l : List (Fin 4)) : Elem := h.el.dequeue (s.pullHere h) l

/-- The state after a two-source register rule with the result v for data (R111-R114). -/
def Safety.after2 (s : State) (h : Here) (x : Ea2) (d : Nat) (f : Word → Word → Word × Ar) : State :=
  let s := Safety.paid s h d
  let a := h.el.readA x.sa
  let b := h.el.readB x.sb
  let r := if Side.ctl a.side then (a.val, {}) else f a.val b.val
  (s.result h (Safety.dequeued s h (takesOf (SrcA.takes x.sa) (SrcB.takes x.sb))) x.dst
    (resultTok a b.side x.ctag x.dim r.1 (s.fireDeps h x.trig (a.deps ++ b.deps))) r.1 x.pd x.pw).setAr r.2

/-- The state after a one-source register rule (R111-R114). -/
def Safety.after1 (s : State) (h : Here) (x : Ea1) (d : Nat) (f : Tok → Word) : State :=
  let s := Safety.paid s h d
  let a := h.el.readA x.sa
  let v := if Side.ctl a.side then a.val else f a
  (s.result h (Safety.dequeued s h (SrcA.takes x.sa)) x.dst
    (resultTok a 0 x.ctag x.dim v (s.fireDeps h x.trig a.deps)) v x.pd x.pw).setAr {}

/-- The state after an immediate rule: the sideband of its result is zero (R84, R115). -/
def Safety.afterImm (s : State) (h : Here) (t : Trig) (dst : Dst) (sa : SrcA) (pd : Fin 8) (pw : Bool) (d : Nat)
    (r : Word × Ar) : State :=
  let s := Safety.paid s h d
  (s.result h (Safety.dequeued s h (SrcA.takes sa)) dst ⟨0, r.1, s.fireDeps h t (h.el.readA sa).deps⟩ r.1 pd pw).setAr r.2

/-- The state after a rule without a source. -/
def Safety.afterNone (s : State) (h : Here) (t : Trig) (dst : Dst) (side : Side) (pd : Fin 8) (pw : Bool) (v : Word) : State :=
  let s := Safety.paid s h 1
  s.result h h.el dst ⟨side, v, s.fireDeps h t []⟩ v pd pw

/-! ### Requests of elements -/

/-- The registers of an element that no request and no staged effect writes at its firing: predicates, constants, esw. -/
def Safety.keepsControl (el el' : Elem) : Prop := el'.p = el.p ∧ el'.k = el.k ∧ el'.esw = el.esw

/-- The firing of a rule at the locus of h in s left the request `req` for a reply at `dest`, under the next number, in t;
memory and the element's registers are as they were, and the element remembers the request until it is done (R446). -/
structure Safety.Sends (s t : State) (h : Here) (req : Req) (dest : Dest) : Prop where
  sent : ∃ a, t.accs.get? s.nextId = some a ∧ a.req = req ∧ a.dest = dest ∧ a.task = some s.cur.task ∧ a.vt = s.cur.vt
    ∧ a.node = .elem h.e
  fresh : t.nextId = s.nextId + 1
  mem : t.mem = s.mem
  regs : (t.elem s.cur.task s.cur.vt h.e).d = h.el.d
  control : Safety.keepsControl h.el (t.elem s.cur.task s.cur.vt h.e)
  kept : ∀ n, n ≠ s.nextId → t.accs.get? n = s.accs.get? n
  past : s.nextId ∈ (t.elem s.cur.task s.cur.vt h.e).past

/-- The meter of the firing copy fell by d drops. -/
abbrev Safety.debited (s t : State) (h : Here) (d : Nat) : Prop := (t.inst s.cur.task s.cur.vt).meter + d = h.x.meter

/-- The layout unit accepts a tensor access of the rule at the locus (R161-R164): its ports and sources are ready, the
checks of R162 pass, its page is there and its entry is not about to change (R335, R339), and the debit of d drops is covered. -/
structure Safety.Accepts (s : State) (h : Here) (t : Trig) (dst : Dst) (sa : SrcA) (writes atomic : Bool) (d : Nat)
    (l : Loc) (desc cls : Nat) (fresh : Bool) : Prop where
  here : s.here = some h
  ready : s.emReady h t dst = true
  okA : h.el.okA sa = true
  unused : h.x.portUse < 2
  checks : s.check (s.globalTile h.g h.x) h.g.ctx s.cur.task (h.el.readA sa).val writes atomic = .ok l desc cls fresh
  present : s.pageOpen l.obj l.byte = true
  covered : Safety.Covered h.x d

/-- A host write through a function has its turn (R511): no earlier write of the function waits, and what the function has written has
performed. -/
abbrev Safety.HostTurn (s : State) (via : Via) : Prop := (∀ x ∈ s.hostQ, x.1 ≠ Via.fn via) ∧ s.hostWrites (Via.fn via) = []

/-- A staged entry of the firing copy holds the effect of the request numbered id, which has performed for its group. -/
def Safety.stagedAs (s t : State) (id : Nat) : Prop :=
  (∃ e ∈ (t.inst s.cur.task s.cur.vt).staged, ∃ no, (id, no) ∈ e.accs)
    ∧ ∃ a, t.accs.get? id = some a ∧ a.perf = .group ∧ a.staged = true

/-- The request numbered id goes to its unit at once (R292): it is not staged and closes no cut. -/
def Safety.direct (t : State) (id : Nat) : Prop :=
  ∃ a, t.accs.get? id = some a ∧ a.staged = false ∧ a.closes = false ∧ a.perf = .none

/-- The firing of a rule at the locus of h in s, with a debit of d drops, left a request that is the last effect of a cut of its own
(R181, R187, R412): with no cut in progress the next cut opens in this step, for 64 drops more and 1 for each line not covered, if they are
covered (R294, R300); during a cut the implicit seal waits its turn. -/
structure Safety.Closes (s t : State) (h : Here) (d : Nat) : Prop where
  closing : ∃ a, t.accs.get? s.nextId = some a ∧ a.closes = true ∧ a.staged = true
  opens : h.g.cut = none → Safety.Covered h.x (d + (64 + h.x.uncovered)) →
    (∃ c, (t.group s.cur.task).cut = some c ∧ c.no = h.g.nextCut ∧ c.closer = some s.nextId)
      ∧ Safety.debited s t h (d + (64 + h.x.uncovered))
  waits : h.g.cut ≠ none → (s.cur.vt, Node.elem h.e, some s.nextId) ∈ (t.group s.cur.task).seals
    ∧ (t.group s.cur.task).cut = h.g.cut ∧ Safety.debited s t h d

/-- The firing of a rule at the locus of h in s staged an entry for the hub (R292, R297) with the next staging number, for which a
request stands until it has performed (R425, R446); every other request is as it was, and the element remembers this one. -/
structure Safety.StagesHub (s t : State) (h : Here) (what : Stg) : Prop where
  entry : ∃ e ∈ (t.inst s.cur.task s.cur.vt).staged, e.what = what ∧ e.no = s.stageNo ∧ e.released = false ∧ (s.nextId, s.stageNo) ∈ e.accs
  stands : ∃ a, t.accs.get? s.nextId = some a ∧ a.req = .hub ∧ a.task = some s.cur.task ∧ a.vt = s.cur.vt ∧ a.node = .elem h.e
    ∧ a.perf = .group ∧ a.staged = true
  kept : ∀ n, n ≠ s.nextId → t.accs.get? n = s.accs.get? n
  past : s.nextId ∈ (t.elem s.cur.task s.cur.vt h.e).past

end Sys2Proof
end

