-- ==== Sys2Proof/Certificates/Slice0/Obligations.lean ====
section
/-! DEFINITION. The statements for the provers. Each says of instructions and events what the rules of spec/ say they do, as a
next state that exec answers under hypotheses on the state and the operands alone. -/

open Sys2Proof Sys2Proof.Machine

/-! ### Reset, decoding, the step -/

/-- At reset the memories are in canonical form, and the registers of the power block, of the routes and of the links read as
their tables give them at reset (20 R503 tables; 19 R477, R485 tables). -/
def Obligations.ResetState : Prop :=
  (Safety.memOk State.reset)
  ∧ (State.reset.boosten = true ∧ State.reset.park = false ∧ State.reset.plim = 1500 ∧ State.reset.pst = .off
    ∧ State.reset.routeLo = 0 ∧ State.reset.routeHi = 0
    ∧ ∀ n : Fin 8, (vget State.reset.lnks n).st = .down ∧ (vget State.reset.lnks n).rtb = 1953
        ∧ (vget State.reset.lnks n).retrn = 0 ∧ (vget State.reset.lnks n).crcerr = 0 ∧ (vget State.reset.lnks n).autherr = 0)
  ∧ State.reset.readPart .pwctl = 2 ^ 63 + 1500 * 2 ^ 32 + 1800 * 2 ^ 16
  ∧ State.reset.readPart .pwstat = 600 * 2 ^ 32 ∧ State.reset.readPart .pwcause = 0
  ∧ (∀ r : Fin 64, State.reset.readPart (.regpw r) = 0)
  ∧ State.reset.readPart .routelo = 0 ∧ State.reset.readPart .routehi = 0
  ∧ ∀ n : Fin 8, State.reset.readPart (.lnkctl n) = 1953 * 2 ^ 32 ∧ State.reset.readPart (.lnkstat n) = 0

/-- Words written out from the encoding tables decode to the instructions they stand for. -/
def Obligations.DecodeWords : Prop :=
  (decodeRule 0x01360FBB).toOption = some (.ceqi ⟨.alw, .pred, .d 1, -5, 3, true⟩)
    ∧ (decodeRule 0x0188FFFD).toOption = some (.movi ⟨.alw, .d 1, -3⟩)
    ∧ (decodeRule 0x014E0938).toOption = some (.pand ⟨.alw, 3, 1, 2⟩)
    ∧ (decodeRule 0x03E00000).toOption = some (.tret ⟨.alw⟩)
    ∧ (decodeMat 0x03080000).toOption = some (.mxevict ⟨1⟩)

/-! ### Elements: arithmetic, logic, compares (05 R124-R133) -/

/-- The results of the two-source integer instructions: constructor, drops, result (R124, R128, R131). -/
def Claims.intRows : List ((Ea2 → Instr) × Nat × (Word → Word → Word)) :=
  [ (.add, 1, fun a b => a + b), (.sub, 1, fun a b => a - b), (.mul, 2, fun a b => a * b),
    (.mulh, 2, fun a b => BitVec.ofInt 32 (a.toInt * b.toInt / 2 ^ 32)),
    (.mulhu, 2, fun a b => BitVec.ofNat 32 (a.toNat * b.toNat / 2 ^ 32)),
    (.min, 1, fun a b => if a.toInt < b.toInt then a else b), (.max, 1, fun a b => if a.toInt < b.toInt then b else a),
    (.minu, 1, fun a b => if a.toNat < b.toNat then a else b), (.maxu, 1, fun a b => if a.toNat < b.toNat then b else a),
    (.addsh, 1, fun a b => BitVec.ofInt 32 ((a.toInt + b.toInt) / 2)),
    (.absd, 1, fun a b => BitVec.ofNat 32 (a.toInt - b.toInt).natAbs),
    (.adds, 1, fun a b => BitVec.ofInt 32 (max (-2 ^ 31) (min (2 ^ 31 - 1) (a.toInt + b.toInt)))),
    (.subs, 1, fun a b => BitVec.ofInt 32 (max (-2 ^ 31) (min (2 ^ 31 - 1) (a.toInt - b.toInt)))),
    (.and, 1, fun a b => a &&& b), (.or, 1, fun a b => a ||| b), (.xor, 1, fun a b => a ^^^ b),
    (.andn, 1, fun a b => a &&& ~~~b),
    (.shl, 1, fun a b => if b.toNat < 32 then a <<< b.toNat else 0),
    (.shr, 1, fun a b => if b.toNat < 32 then a >>> b.toNat else 0),
    (.sar, 1, fun a b => if b.toNat < 32 then a.sshiftRight b.toNat else a.sshiftRight 31),
    (.ceq, 1, fun a b => if a = b then 1 else 0), (.cne, 1, fun a b => if a = b then 0 else 1),
    (.clt, 1, fun a b => if a.toInt < b.toInt then 1 else 0), (.cle, 1, fun a b => if a.toInt ≤ b.toInt then 1 else 0),
    (.cltu, 1, fun a b => if a.toNat < b.toNat then 1 else 0), (.cleu, 1, fun a b => if a.toNat ≤ b.toNat then 1 else 0) ]

/-- CLZ, POPC and the moves: constructor, result of the token at A (R128, R134). -/
def Claims.oneRows : List ((Ea1 → Instr) × (Tok → Word)) :=
  [ (.clz, fun a => if a.val = 0 then 32 else BitVec.ofNat 32 (31 - Nat.log2 a.val.toNat)),
    (.popc, fun a => BitVec.ofNat 32 (popcount 32 a.val.toNat)), (.mov, fun a => a.val),
    (.tagr, fun a => BitVec.ofNat 32 (a.side.toNat / 256 % 16 + 16 * (a.side.toNat / 16 % 16))),
    (.dimr, fun a => BitVec.ofNat 32 (a.side.toNat / 4096 % 8)) ]

/-- Every two-source integer instruction, one-source integer instruction and move completes with its result: DST, sideband and PW
as R113 and R114 say, no ARSTAT; 1 drop, and 2 for MUL, MULH and MULHU. -/
def Obligations.IntegerInstructions : Prop :=
  (∀ r ∈ Claims.intRows, ∀ (x : Ea2) (s : State) (h : Here),
    Safety.Fires s h x.trig r.2.1 → Safety.readable h x.sa x.sb → Safety.takes s h x.dst →
      exec (r.1 x) s = .next (Safety.after2 s h x r.2.1 fun a b => (r.2.2 a b, {})))
  ∧ (∀ r ∈ Claims.oneRows, ∀ (x : Ea1) (s : State) (h : Here),
    Safety.Fires s h x.trig 1 → h.el.okA x.sa = true → Safety.takes s h x.dst →
      exec (r.1 x) s = .next (Safety.after1 s h x 1 r.2))

/-- NEG yields (0 - a) mod 2^32, and ABS yields a where a ≥ 0 and (0 - a) mod 2^32 elsewhere, for every source and destination;
their opcodes are 0x0E and 0x0F, and their words mean the same whatever SB holds (R125). -/
def Obligations.NegAndAbs : Prop :=
  (∀ (x : Ea1) (s : State) (h : Here), Safety.Fires s h x.trig 1 → h.el.okA x.sa = true → Safety.takes s h x.dst →
    exec (.neg x) s = .next (Safety.after1 s h x 1 fun a => BitVec.ofNat 32 ((2 ^ 32 - a.val.toNat) % 2 ^ 32))
    ∧ exec (.abs x) s = .next (Safety.after1 s h x 1 fun a =>
        if a.val.toNat < 2 ^ 31 then a.val else BitVec.ofNat 32 ((2 ^ 32 - a.val.toNat) % 2 ^ 32)))
  ∧ ∀ (t : Trig) (f : RuleFields),
    (f.op = 0x0E → decodeOp t f = decEa1 t { f with sb := 0 } .neg) ∧ (f.op = 0x0F → decodeOp t f = decEa1 t { f with sb := 0 } .abs)

/-- The IMM11 forms, the immediate compares, the immediate shifts and BFX complete with their results; PD and PW of a compare act
as in EA (R126, R129, R130, R132). -/
def Obligations.ImmediateInstructions : Prop :=
  ((∀ r ∈ ([ (.addi, fun a i => a + i), (.andi, fun a i => a &&& i), (.ori, fun a i => a ||| i), (.xori, fun a i => a ^^^ i) ] :
      List ((Ei → Instr) × (Word → Word → Word))), ∀ (x : Ei) (s : State) (h : Here),
    Safety.Fires s h x.trig 1 → h.el.okA x.sa = true → Safety.takes s h x.dst →
      exec (r.1 x) s = .next (Safety.afterImm s h x.trig x.dst x.sa 0 false 1
        (r.2 (h.el.readA x.sa).val (BitVec.ofInt 32 x.imm.toInt), {})))
  ∧ ∀ r ∈ ([ (.ceqi, fun a i => decide (a = i)), (.clti, fun a i => decide (a < i)), (.cgti, fun a i => decide (i < a)) ] :
      List ((EiCmp → Instr) × (Int → Int → Bool))), ∀ (x : EiCmp) (s : State) (h : Here),
    Safety.Fires s h x.trig 1 → h.el.okA x.sa = true → Safety.takes s h x.dst →
      exec (r.1 x) s = .next (Safety.afterImm s h x.trig x.dst x.sa x.pd x.pw 1
        (if r.2 (h.el.readA x.sa).val.toInt x.imm.toInt then 1 else 0, {})))
  ∧ ((∀ r ∈ ([ (.shli, fun a n => a <<< n), (.shri, fun a n => a >>> n), (.sari, fun a n => a.sshiftRight n) ] :
      List ((EiShift → Instr) × (Word → Nat → Word))), ∀ (x : EiShift) (s : State) (h : Here),
    Safety.Fires s h x.trig 1 → h.el.okA x.sa = true → Safety.takes s h x.dst →
      exec (r.1 x) s = .next (Safety.afterImm s h x.trig x.dst x.sa 0 false 1 (r.2 (h.el.readA x.sa).val x.n.toNat, {})))
  ∧ ∀ (x : EiBfx) (s : State) (h : Here), Safety.Fires s h x.trig 1 → h.el.okA x.sa = true → Safety.takes s h x.dst →
      let f := (h.el.readA x.sa).val.toNat / 2 ^ x.lo.toNat % 2 ^ (x.wm1.toNat + 1)
      exec (.bfx x) s = .next (Safety.afterImm s h x.trig x.dst x.sa 0 false 1
        (if x.sx = true ∧ 2 ^ x.wm1.toNat ≤ f then BitVec.ofInt 32 ((f : Int) - 2 ^ (x.wm1.toNat + 1)) else BitVec.ofNat 32 f, {})))

/-- The predicate instructions complete: p[PD] takes the result, computed from the predicates as the step found them, and after
the debit of 1 drop nothing else changes but what p[PD] is recorded to derive from; no channel is consumed, and no operand
keeps the rule back. Their words have DST 12 and PW 1, and SA and SB name the predicates (R133). -/
def Obligations.PredicateInstructions : Prop :=
  ∀ (s : State) (h : Here) (t : Trig) (pd pa pb : Fin 8), Safety.Fires s h t 1 →
    let sel (p : Fin 8) : BitVec 4 := (0 : BitVec 1) ++ BitVec.ofFin (w := 3) p
    ∀ r ∈ ([ (.pand ⟨t, pd, pa, pb⟩, 0x29, sel pa, sel pb, h.el.pred pa && h.el.pred pb),
        (.por ⟨t, pd, pa, pb⟩, 0x2A, sel pa, sel pb, h.el.pred pa || h.el.pred pb),
        (.pxor ⟨t, pd, pa, pb⟩, 0x2B, sel pa, sel pb, h.el.pred pa != h.el.pred pb),
        (.pnot ⟨t, pd, pa⟩, 0x2C, sel pa, 0, !h.el.pred pa), (.pset ⟨t, pd⟩, 0x2D, 0, 0, true),
        (.pclr ⟨t, pd⟩, 0x2E, 0, 0, false), (.pmov ⟨t, pd, pa⟩, 0x2F, sel pa, 0, h.el.pred pa) ] :
        List (Instr × BitVec 7 × BitVec 4 × BitVec 4 × Bool)),
      (∃ deps, exec r.1 s = .next ((Safety.paid s h 1).putHere h (h.el.setPred pd r.2.2.2.2 deps)))
      ∧ encode r.1 = some ⟨.rule, encTrig t ++ r.2.1 ++ (12 : BitVec 4) ++ r.2.2.1 ++ r.2.2.2.1 ++
          BitVec.ofFin (w := 3) pd ++ (8 : BitVec 4)⟩

/-! ### Elements: scalar floating point (05 R144, R145) -/

/-- The FP32 instructions complete with their results and ARSTAT bits. -/
def Obligations.FloatInstructions : Prop :=
  (∀ r ∈ ([ (.fadd, fadd32), (.fsub, fsub32), (.fmul, fmul32), (.fmax, fmax32), (.fmin, fmin32),
        (.fclt, fun a b => (if (fv32 a).lt (fv32 b) then 1 else 0, {})) ] : List ((Ea2 → Instr) × (Word → Word → Word × Ar))),
      ∀ (x : Ea2) (s : State) (h : Here),
    Safety.Fires s h x.trig 3 → Safety.readable h x.sa x.sb → Safety.takes s h x.dst →
      exec (r.1 x) s = .next (Safety.after2 s h x 3 r.2))
  ∧ (∀ (x : EaFma) (s : State) (h : Here), Safety.Fires s h x.trig 3 → Safety.readable h x.sa x.sb → h.el.pending x.d = false →
      exec (.fma x) s = .next (Safety.after2 s h ⟨x.trig, .d x.d, x.sa, x.sb, x.pd, x.pw, x.ctag, x.dim⟩ 3
        fun a b => fma32 a b (vget h.el.d x.d)))
  ∧ ∀ (x : EiFcvt) (s : State) (h : Here), Safety.Fires s h x.trig 3 → h.el.okA x.sa = true → Safety.takes s h x.dst →
      exec (.fcvt x) s = .next (Safety.afterImm s h x.trig x.dst x.sa 0 false 3
        (fcvt (cvtFmt x.src) (cvtFmt x.tgt) (modeOf x.rnd.val) (h.el.readA x.sa).val))

/-! ### Elements: constants, tags, tokens, loops (05 R134-R143, R151; 20 R506) -/

/-- MOVI, MOVHI, MOVK, GETS and ENDT complete with their results (R122, R134, R135, R138). -/
def Obligations.Constants : Prop :=
  (∀ (x : EiMov) (s : State) (h : Here), Safety.Fires s h x.trig 1 → Safety.takes s h x.dst →
    exec (.movi x) s = .next (Safety.afterNone s h x.trig x.dst 0 0 false (BitVec.ofInt 32 x.imm.toInt))
    ∧ exec (.movhi x) s = .next (Safety.afterNone s h x.trig x.dst 0 0 false
        (BitVec.ofNat 32 (x.imm.toNat * 2 ^ 17 + (match x.dst with
          | .d n => (vget h.el.d n).toNat % 2 ^ 17
          | _ => 0)))))
  ∧ (∀ (x : EaMovk) (s : State) (h : Here), Safety.Fires s h x.trig 1 → Safety.takes s h x.dst →
      exec (.movk x) s = .next (Safety.afterNone s h x.trig x.dst 0 x.pd x.pw (vget h.el.k x.k)))
  ∧ (∀ (x : EiGets) (s : State) (h : Here), Safety.Fires s h x.trig 1 → Safety.takes s h x.dst →
      exec (.gets x) s = .next (Safety.afterNone s h x.trig x.dst 0 0 false (s.special h x.sel)))
  ∧ ∀ (x : EiEndt) (s : State) (h : Here), Safety.Fires s h x.trig 1 → s.dstRoom h (.o x.o) = true →
      exec (.endt x) s = .next (Safety.afterNone s h x.trig (.o x.o) (BitVec.ofNat 16 (0x8A00 + x.level.val * 16)) 0 false 0)

/-- SEL and TAGW complete with their results (R134, R136). The model's own choices enter by log entry 42. -/
def Obligations.SelectAndTag : Prop :=
  (∀ (x : EaSel) (s : State) (h : Here), Safety.Fires s h x.trig 1 → Safety.readable h x.sa x.sb → Safety.takes s h x.dst →
    exec (.sel x) s = .next (Safety.after2 s h ⟨x.trig, x.dst, x.sa, x.sb, 0, false, x.ctag, x.dim⟩ 1
      fun a b => (if h.el.pred x.p then a else b, {})))
  ∧ ∀ (x : Ea2) (s : State) (h : Here), Safety.Fires s h x.trig 1 → Safety.readable h x.sa x.sb → Safety.takes s h x.dst →
    let a := h.el.readA x.sa
    let b := h.el.readB x.sb
    let p := Safety.paid s h 1
    let deps := p.fireDeps h x.trig (a.deps ++ b.deps)
    exec (.tagw x) s = .next (p.result h (Safety.dequeued p h (takesOf (SrcA.takes x.sa) (SrcB.takes x.sb))) x.dst
      (if Side.ctl a.side then resultTok a b.side false x.dim a.val deps
       else ⟨dimOf x.dim a.side b.side ||| BitVec.ofNat 16 (b.val.toNat % 16 * 256 + b.val.toNat / 16 % 16 * 16), a.val, deps⟩)
      a.val x.pd x.pw)

/-- STEER completes: where b is not 0 it passes a on, where b is 0 it writes nothing and needs no room (R139). MERGE completes
with A where A is ready, else with B; the source not taken stays (R140). CARRY completes: in INIT it takes A and enters LOOP;
in LOOP it takes B, and a token that ends a dimension or a control token returns the slot to INIT (R141). -/
def Obligations.SteerMergeCarry : Prop :=
  (∀ (x : Ea2) (s : State) (h : Here), Safety.Fires s h x.trig 1 → Safety.readable h x.sa x.sb →
    let a := h.el.readA x.sa
    let b := h.el.readB x.sb
    let p := Safety.paid s h 1
    let deps := p.fireDeps h x.trig (a.deps ++ b.deps)
    let el := Safety.dequeued p h (takesOf (SrcA.takes x.sa) (SrcB.takes x.sb))
    (b.val ≠ 0 → Safety.takes s h x.dst →
      exec (.steer x) s = .next (p.result h (if x.pw then el.setPred x.pd true deps else el) x.dst
        (resultTok a b.side x.ctag x.dim a.val deps) a.val x.pd false))
    ∧ (b.val = 0 → exec (.steer x) s = .next (p.putHere h (if x.pw then el.setPred x.pd false deps else el))))
  ∧ ((∀ (x : Ea2) (s : State) (h : Here), Safety.Fires s h x.trig 1 → Safety.takes s h x.dst →
    let p := Safety.paid s h 1
    let after (t : Tok) (l : List (Fin 4)) : State :=
      let deps := p.fireDeps h x.trig t.deps
      p.result h (Safety.dequeued p h l) x.dst (mergeTok t x.ctag x.dim deps) t.val x.pd x.pw
    (h.el.readyA x.sa = true → h.el.okA x.sa = true →
      exec (.merge x) s = .next (after (h.el.readA x.sa) (SrcA.takes x.sa)))
    ∧ (h.el.readyA x.sa = false → h.el.readyB x.sb = true → h.el.okB x.sb = true →
      exec (.merge x) s = .next (after (h.el.readB x.sb) (SrcB.takes x.sb))))
  ∧ (∀ (x : Ea2) (s : State) (h : Here), Safety.Fires s h x.trig 1 → Safety.takes s h x.dst →
    let p := Safety.paid s h 1
    let after (t : Tok) (l : List (Fin 4)) (loop : Bool) : State :=
      let deps := p.fireDeps h x.trig t.deps
      p.result h ((h.el.setPhase s.cur.slot loop).dequeue (p.pullHere h) l) x.dst (mergeTok t x.ctag x.dim deps) t.val x.pd x.pw
    (h.el.phase s.cur.slot = false → h.el.okA x.sa = true →
      exec (.carry x) s = .next (after (h.el.readA x.sa) (SrcA.takes x.sa) true))
    ∧ (h.el.phase s.cur.slot = true → h.el.okB x.sb = true →
      exec (.carry x) s = .next (after (h.el.readB x.sb) (SrcB.takes x.sb)
        (!Side.ctl (h.el.readB x.sb).side && Side.dim (h.el.readB x.sb).side == 0)))))

/-- The element with the counter register of CNTUP written, where SA names one. -/
def Claims.counted (el : Elem) (a : SrcA) (v : Word) (deps : List Nat) : Elem :=
  match a with
  | .d n => el.setD n v deps
  | _ => el

/-- CNTUP completes: with a control token at A it passes the token on and keeps counter and bound; a bound of 0 or less writes
nothing and takes the bound; else it writes the counter and counts up, and the bound token stays at the head of its channel
until the count reaches it, when the end of the dimension is marked, the counter wraps to 0 and the bound is taken (R142,
R143). -/
def Obligations.CountUp : Prop :=
  ∀ (x : Ea2) (s : State) (h : Here), Safety.Fires s h x.trig 1 → Safety.readable h x.sa x.sb →
    let a := h.el.readA x.sa
    let b := h.el.readB x.sb
    let p := Safety.paid s h 1
    let deps := p.fireDeps h x.trig (a.deps ++ b.deps)
    (Side.ctl a.side = true → Safety.takes s h x.dst →
      exec (.cntup x) s = .next (p.result h (Safety.dequeued p h (SrcA.takes x.sa)) x.dst
        (resultTok a b.side x.ctag x.dim a.val deps) a.val x.pd x.pw))
    ∧ (Side.ctl a.side = false → b.val.toInt ≤ 0 →
      let el := Claims.counted (Safety.dequeued p h (takesOf (SrcA.takes x.sa) (SrcB.takes x.sb))) x.sa 0 deps
      exec (.cntup x) s = .next (p.putHere h (if x.pw then el.setPred x.pd false deps else el)))
    ∧ (Side.ctl a.side = false → 0 < b.val.toInt → Safety.takes s h x.dst →
      let wrap := decide (b.val.toInt ≤ (a.val + 1).toInt)
      let el := Safety.dequeued p h (if wrap then takesOf (SrcA.takes x.sa) (SrcB.takes x.sb) else SrcA.takes x.sa)
      exec (.cntup x) s = .next ((p.result h (if x.pw then el.setPred x.pd (!wrap) deps else el) x.dst
          ⟨(if wrap then 0x1000 ||| dimOf x.dim a.side b.side else 0) ||| (if x.ctag then Side.tagGen a.side else 0), a.val, deps⟩
          a.val x.pd false).updElem s.cur.task s.cur.vt h.e fun el =>
            Claims.counted el x.sa (if wrap then 0 else a.val + 1) deps))

/-- DROP, REQ, SETS, EVCNT and DONE complete (R120, R137, R151, R463, R506). -/
def Obligations.TokensAndEnds : Prop :=
  ∀ (s : State) (h : Here) (t : Trig) (c : Fin 4) (a : SrcA), Safety.Fires s h t 1 →
    let p := Safety.paid s h 1
    ((h.el.head c).isSome = true → exec (.drop ⟨t, c⟩) s = .next (p.putHere h (Safety.dequeued p h [c])))
    ∧ (s.pullHere h c = true → (vget h.el.inq c).toks.length + s.pullOut h c < 4 →
        exec (.req ⟨t, c⟩) s = .next (p.putHere h
          { h.el with inq := vset h.el.inq c { vget h.el.inq c with reqs := (vget h.el.inq c).reqs + 1 } }))
    ∧ (h.el.okA a = true →
        exec (.sets ⟨t, a⟩) s = .next (p.putHere h
          { Safety.dequeued p h (SrcA.takes a) with esw := ((h.el.readA a).val &&& 0xFFFFFFFE) ||| (h.el.esw &&& 1) }))
    ∧ (∀ n : Fin 4, h.el.okA a = true →
        exec (.evcnt ⟨t, a, n⟩) s = .next ((p.putHere h (Safety.dequeued p h (SrcA.takes a))).countAt s.cur.task s.cur.vt
          (0x24 + n.val) (h.el.readA a).val.toNat))
    ∧ exec (.done ⟨t⟩) s = .next ((p.putHere h { h.el with done := true }).barDone s.cur.task h.el.part)

/-- TRAP in an element that has a handler and is not in trap state takes the trap: esw saves the predicates, the slot and the
cause, and TS is 1 (R461, R463). TRET in trap state restores the predicates and clears TS; where a reserved bit of esw is 1,
or TS is 0, fault 0x03 stops the group and nothing is restored (R463). -/
def Obligations.Traps : Prop :=
  (∀ (x : EiTrap) (s : State) (h : Here), Safety.Fires s h x.trig 1 → h.el.inTrap = false → h.el.noHandler = false →
    ∃ t, exec (.trap x) s = .next t ∧ (t.elem s.cur.task s.cur.vt h.e).esw =
      BitVec.ofNat 32 (x.cause.toNat * 2 ^ 24 + s.cur.slot.val % 32 * 2 ^ 19 + h.el.p.toNat * 2 ^ 8 + 1)
      ∧ (t.elem s.cur.task s.cur.vt h.e).d = h.el.d ∧ (t.elem s.cur.task s.cur.vt h.e).p = h.el.p ∧ t.mem = s.mem)
  ∧ (∀ (x : EaT) (s : State) (h : Here), Safety.Fires s h x.trig 1 →
    (h.el.inTrap = true → h.el.esw &&& 0x000700FE = 0 →
      ∃ t, exec (.tret x) s = .next t ∧ (t.elem s.cur.task s.cur.vt h.e).p = BitVec.ofNat 8 (h.el.esw.toNat / 256)
        ∧ (t.elem s.cur.task s.cur.vt h.e).inTrap = false ∧ (t.elem s.cur.task s.cur.vt h.e).d = h.el.d)
    ∧ (h.el.inTrap = false ∨ h.el.esw &&& 0x000700FE ≠ 0 →
      exec (.tret x) s = .next (s.raise s.cur.task (.fault 0x03 s.cur.vt (.elem h.e) 0x7C s.cur.slot.val))))

/-! ### Elements: memory (06 R155-R187) -/

/-- LDP and STP complete with their request, for 2 drops: the pad of the rule's tile or of the sibling that bit 28 and the bits 27
to 24 of the address name, at the address modulo W rounded down to the access size (R155-R158, R174). They wait while the
bytes are those of a heap that is held (R220), STP while its node's pad writes are held back (R388). -/
def Obligations.PadAccesses : Prop :=
  ∀ (s : State) (h : Here), s.here = some h → Safety.Covered h.x 2 →
    (∀ x : EmLdp, s.emReady h x.trig x.dst = true → h.el.okA x.sa = true →
      s.padFree h (h.el.readA x.sa).val (Size.bytes x.size) = true →
      let a := (h.el.readA x.sa).val.toNat
      let vt := if a / 2 ^ 28 % 2 = 1 then vtOf (a / 2 ^ 24 % 16 % max 1 h.g.img.gsz) else s.cur.vt
      let off := a % 2 ^ 18 % padWindow h.g.img.pad / Size.bytes x.size * Size.bytes x.size
      ∃ t, exec (.ldp x) s = .next t ∧ Safety.Sends s t h (.padRd vt off (Size.bytes x.size)) (destOf x.dst)
        ∧ Safety.debited s t h 2)
    ∧ ∀ x : EmStp, s.emReady h x.trig x.dst = true → h.el.okA x.sa = true → h.el.okB x.sb = true →
      s.padFree h (h.el.readA x.sa).val (Size.bytes x.size) = true → s.padHeld s.cur.task s.cur.vt (.elem h.e) = false →
      let a := (h.el.readA x.sa).val.toNat
      let vt := if a / 2 ^ 28 % 2 = 1 then vtOf (a / 2 ^ 24 % 16 % max 1 h.g.img.gsz) else s.cur.vt
      let off := a % 2 ^ 18 % padWindow h.g.img.pad / Size.bytes x.size * Size.bytes x.size
      ∃ t, exec (.stp x) s = .next t
        ∧ Safety.Sends s t h (.padWr vt off (Size.bytes x.size) (h.el.readB x.sb).val) (destOf x.dst)
        ∧ Safety.debited s t h 2

/-- LDT, LDLINK, LDFE and LDFEC complete with a read of the element that the pointer names, for the debit of the page's class; on
a page with presence bits LDFE and LDFEC complete with their full-empty requests, LDFEC at once on a fresh object and as the
close of a cut on a shared one (R164, R174-R176, R181). -/
def Obligations.TensorLoads : Prop :=
  ∀ (s : State) (h : Here) (l : Loc) (desc cls : Nat) (fresh : Bool),
    (∀ x : EmLd, Safety.Accepts s h x.trig x.dst x.sa false false (classDrops cls) l desc cls fresh →
      (∃ t, exec (.ldt x) s = .next t ∧ Safety.Sends s t h (.rd l (descFormat desc)) (destOf x.dst)
        ∧ Safety.debited s t h (classDrops cls))
      ∧ (descFe desc = true → ∃ t, exec (.ldfe x) s = .next t ∧ Safety.Sends s t h (.fe l .ldfe) (destOf x.dst)
        ∧ Safety.debited s t h (classDrops cls)))
    ∧ (∀ x : EmSt, Safety.Accepts s h x.trig x.dst x.sa false false (classDrops cls) l desc cls fresh →
      h.el.okB x.sb = true →
        ∃ t, exec (.ldlink x) s = .next t ∧ Safety.Sends s t h (.rd l (descFormat desc)) (destOf x.dst)
          ∧ Safety.debited s t h (classDrops cls)
          ∧ ∀ n, x.sa = .d n → (t.elem s.cur.task s.cur.vt h.e).pending n = true
            ∧ ∃ a, t.accs.get? s.nextId = some a ∧ a.link = some (n, (h.el.readB x.sb).val))
    ∧ ∀ x : EmLd, Safety.Accepts s h x.trig x.dst x.sa true false (classDrops cls) l desc cls fresh → descFe desc = true →
      ∃ t, exec (.ldfec x) s = .next t ∧ Safety.Sends s t h (.fe l .ldfec) (destOf x.dst)
        ∧ (fresh = true → Safety.direct t s.nextId ∧ Safety.debited s t h (classDrops cls))
        ∧ (fresh = false → Safety.Closes s t h (classDrops cls))

/-- The state without the opcodes that its requests record for fault records. -/
def Claims.sansOpc (s : State) : State := { s with accs := s.accs.mapAll fun _ a => { a with opc := 0 } }

/-- On a page without presence bits LDFE and LDFEC complete as LDT does and STFE as STT: the states they leave are the same but
for the opcode that the request records (R180). The model's own choices enter by log entry 47. -/
def Obligations.FullEmptyActsAsPlain : Prop :=
  ∀ (s : State) (h : Here) (l : Loc) (desc cls : Nat) (fresh : Bool), descFe desc = false →
    (∀ x : EmLd, Safety.Accepts s h x.trig x.dst x.sa false false (classDrops cls) l desc cls fresh →
      ∃ t u, exec (.ldfe x) s = .next t ∧ exec (.ldt x) s = .next u ∧ Claims.sansOpc t = Claims.sansOpc u)
    ∧ (∀ x : EmLd, Safety.Accepts s h x.trig x.dst x.sa true false (classDrops cls) l desc cls fresh →
      Safety.Accepts s h x.trig x.dst x.sa false false (classDrops cls) l desc cls fresh →
      ∃ t u, exec (.ldfec x) s = .next t ∧ exec (.ldt x) s = .next u ∧ Claims.sansOpc t = Claims.sansOpc u)
    ∧ ∀ x : EmSt, Safety.Accepts s h x.trig x.dst x.sa true false (classDrops cls) l desc cls fresh → h.el.okB x.sb = true →
      (fresh = false → s.hasLine s.cur.task h.g s.cur.vt (.elem h.e) (some (l.obj, l.byte / 64)) = true) →
      ∃ t u, exec (.stfe x) s = .next t ∧ exec (.stt x) s = .next u ∧ Claims.sansOpc t = Claims.sansOpc u

/-- STT, STFE and DISC complete for the debit of the page's class: at once on a fresh object; on a shared one STT and DISC are
staged, where a line is free or merges, and STFE on presence bits is the close of a cut (R174, R176, R180-R182, R292). A DISC
of 0 pages marks nothing and is never staged. Memory changes only where the unit serves the request. -/
def Obligations.TensorStores : Prop :=
  ∀ (s : State) (h : Here) (l : Loc) (desc cls : Nat) (fresh : Bool) (x : EmSt),
    Safety.Accepts s h x.trig x.dst x.sa true false (classDrops cls) l desc cls fresh → h.el.okB x.sb = true →
    let b := (h.el.readB x.sb).val
    let w : Req := .wr l (descFormat desc).bytes (b.toNat % 2 ^ (descFormat desc).bits)
    ((fresh = false → s.hasLine s.cur.task h.g s.cur.vt (.elem h.e) (some (l.obj, l.byte / 64)) = true) →
      ∃ t, exec (.stt x) s = .next t ∧ Safety.Sends s t h w (destOf x.dst) ∧ Safety.debited s t h (classDrops cls)
        ∧ (fresh = true → Safety.direct t s.nextId) ∧ (fresh = false → Safety.stagedAs s t s.nextId))
    ∧ (descFe desc = true → ∃ t, exec (.stfe x) s = .next t ∧ Safety.Sends s t h (.fe l (.stfe b)) (destOf x.dst)
        ∧ (fresh = true → Safety.direct t s.nextId ∧ Safety.debited s t h (classDrops cls))
        ∧ (fresh = false → Safety.Closes s t h (classDrops cls)))
    ∧ ((fresh = false → b ≠ 0 → s.hasLine s.cur.task h.g s.cur.vt (.elem h.e) none = true) →
      ∃ t, exec (.disc x) s = .next t ∧ Safety.Sends s t h (.disc l b.toNat) (destOf x.dst)
        ∧ Safety.debited s t h (classDrops cls) ∧ (fresh = true ∨ b = 0 → Safety.direct t s.nextId)
        ∧ (fresh = false → b ≠ 0 → Safety.stagedAs s t s.nextId))

/-- The atomics that EM encodes with SB, and what each asks of the engine (R185). -/
def Claims.atomicRows : List ((EmSt → Instr) × AtOp) :=
  [ (.aadd, .add), (.amax, .max), (.afmax, .fmax), (.amin, .min), (.axchg, .xchg), (.aor, .or), (.ardrs, .reset) ]

/-- Every atomic completes with its request, for 16 drops: at once on a fresh object; on a shared one as the close of a cut when
it returns a value, as ACAS always does, else staged (R185-R187). -/
def Obligations.Atomics : Prop :=
  ∀ (s : State) (h : Here) (l : Loc) (desc cls : Nat) (fresh : Bool),
    (∀ r ∈ Claims.atomicRows, ∀ x : EmSt, Safety.Accepts s h x.trig x.dst x.sa true true 16 l desc cls fresh →
      h.el.okB x.sb = true →
      (fresh = false → destOf x.dst = .none → s.hasLine s.cur.task h.g s.cur.vt (.elem h.e) none = true) →
        ∃ t, exec (r.1 x) s = .next t ∧ Safety.Sends s t h (.atom l r.2 (h.el.readB x.sb).val) (destOf x.dst)
          ∧ (fresh = true → Safety.direct t s.nextId ∧ Safety.debited s t h 16)
          ∧ (fresh = false → destOf x.dst = .none → Safety.stagedAs s t s.nextId ∧ Safety.debited s t h 16)
          ∧ (fresh = false → destOf x.dst ≠ .none → Safety.Closes s t h 16))
    ∧ ∀ x : EmCas, Safety.Accepts s h x.trig (.d x.d) x.sa true true 16 l desc cls fresh → h.el.okB x.sb = true →
        ∃ t, exec (.acas x) s = .next t
          ∧ Safety.Sends s t h (.atom l (.cas (vget h.el.d x.d)) (h.el.readB x.sb).val) (.reg x.d)
          ∧ (fresh = true → Safety.direct t s.nextId ∧ Safety.debited s t h 16)
          ∧ (fresh = false → Safety.Closes s t h 16)

/-- FENCE completes with a request that waits for every access that its element has fired, and for what these derive from, until
it is done, for 1 drop (R183, R446); with acq or acqrel the memory port accepts nothing until it is answered. PREF completes
for 1 drop and changes no memory and no register (R184). -/
def Obligations.FencePref : Prop :=
  ∀ (s : State) (h : Here), s.here = some h → Safety.Covered h.x 1 →
    (∀ x : EmFence, s.emReady h x.trig x.dst = true →
      ∃ t, exec (.fence x) s = .next t ∧ Safety.Sends s t h .fence (destOf x.dst) ∧ Safety.debited s t h 1
        ∧ (∀ n ∈ h.el.past, (s.accs.get? n).isSome = true → ∃ f, t.accs.get? s.nextId = some f ∧ n ∈ f.deps)
        ∧ ((x.order = .acq ∨ x.order = .acqrel) → s.nextId ∈ (t.elem s.cur.task s.cur.vt h.e).portBlock))
    ∧ ∀ x : EmPref, s.emReady h x.trig .none = true → h.el.okA x.sa = true → h.x.portUse < 2 →
      ∃ t, exec (.pref x) s = .next t ∧ Safety.debited s t h 1 ∧ t.mem = s.mem ∧ t.accs = s.accs
        ∧ (t.elem s.cur.task s.cur.vt h.e).d = h.el.d

/-! ### Elements: semaphores, barriers, futures (16, 15, 22) -/

/-- The semaphore instructions complete with their requests for 4 drops; SEMADD and SEMSET of a semaphore that the kernel does not
own are staged (R424, R425, R428). The barrier instructions of a participant complete with their requests for 4 drops: an
arrival raises the element's counter by 1; a wait closes the memory port until it is answered (R430, R433, R434). -/
def Obligations.SemaphoresAndBarriers : Prop :=
  (∀ (s : State) (h : Here), s.here = some h → Safety.Covered h.x 4 →
    (∀ r ∈ ([ (.semadd, .add), (.semset, .set) ] : List ((EiSem → Instr) × (Word → SemOp))), ∀ x : EiSem,
      s.gate h x.trig = true → h.el.okA x.sa = true →
      (h.g.img.owns.getLsbD x.m.val = true ∨ s.hasLine s.cur.task h.g s.cur.vt (.elem h.e) none = true) →
        ∃ t, exec (r.1 x) s = .next t ∧ Safety.Sends s t h (.sem h.g.ctx x.m (r.2 (h.el.readA x.sa).val)) .none
          ∧ Safety.debited s t h 4 ∧ (h.g.img.owns.getLsbD x.m.val = false → Safety.stagedAs s t s.nextId))
    ∧ (∀ x : EiSemw, s.gate h x.trig = true → h.el.okA x.sa = true → s.dstRoom h (.o x.o) = true →
      ∃ t, exec (.semwait x) s = .next t ∧ Safety.Sends s t h (.sem h.g.ctx x.m (.wait (h.el.readA x.sa).val)) (.out x.o)
        ∧ Safety.debited s t h 4)
    ∧ ∀ x : EiSemr, s.gate h x.trig = true → Safety.takes s h x.dst →
      ∃ t, exec (.semrd x) s = .next t ∧ Safety.Sends s t h (.sem h.g.ctx x.m .rd) (destOf x.dst)
        ∧ Safety.debited s t h 4)
  ∧ (∀ (s : State) (h : Here) (n : Fin 16), s.here = some h → Safety.Covered h.x 4 → h.el.barWait = none →
    h.el.part.getLsbD n.val = true →
    let c := vget h.el.ac n
    (∀ t, s.gate h t = true →
      ∃ u : State, exec (.barriv ⟨t, n⟩) s = .next u ∧ Safety.Sends s u h (.bar n (.arrive (c + 1))) .none
        ∧ Safety.debited s u h 4 ∧ vget (u.elem s.cur.task s.cur.vt h.e).ac n = c + 1)
    ∧ ∀ x : EiBarw, x.g = n → s.gate h x.trig = true → s.dstRoom h (.o x.o) = true →
      (∃ u : State, exec (.barwt x) s = .next u ∧ Safety.Sends s u h (.bar n (.wait (some c))) (.out x.o)
        ∧ Safety.debited s u h 4 ∧ s.nextId ∈ (u.elem s.cur.task s.cur.vt h.e).portBlock
        ∧ (u.elem s.cur.task s.cur.vt h.e).barWait = some s.nextId)
      ∧ ∃ u : State, exec (.baraw x) s = .next u ∧ Safety.Sends s u h (.bar n (.both (c + 1))) (.out x.o)
        ∧ Safety.debited s u h 4 ∧ s.nextId ∈ (u.elem s.cur.task s.cur.vt h.e).portBlock
        ∧ (u.elem s.cur.task s.cur.vt h.e).barWait = some s.nextId
        ∧ vget (u.elem s.cur.task s.cur.vt h.e).ac n = c + 1)

/-- A SPAWN whose record names no future of its own, or one that is neither RESOLVED nor FAULTED, on a page that this die holds, with
no look of the rule at it under way (R400, R410). -/
def Claims.ownFree (s : State) (h : Here) (r : TaskRec) : Prop :=
  r.ownf = 0 ∨ ∃ l p, s.refGroup h.g.ctx s.cur.task r.ownf = .ok l ∧ ((s.objs.get? l.obj).map fun o => o.page l.byte) = some p
    ∧ p.v = true ∧ p.die = s.die.toNat ∧ futState (s.futureWord l) < 2 ∧ ∀ x ∈ s.accs, x.2.isLook = false

/-- SPAWN, FRES, FJOIN, FPOLL and TRIGGER complete (R409-R413, R415, R521): SPAWN of a valid record that the pool does not refuse
writes OWNF, or 1 where it names none, is staged, takes a slot of the pool for each of its tasks, and its tasks count in the
queue at once; FRES sends its resolution as the close of a cut; FJOIN of a pending continuation is staged and takes one of its
places; FPOLL sends its request; TRIGGER is staged. The model's own choices enter by log entries 26 and 44. -/
def Obligations.Futures : Prop :=
  ∀ (s : State) (h : Here), s.here = some h →
    (∀ (x : EaDa) (r : TaskRec), s.gate h x.trig = true → h.el.okA x.sa = true → Safety.takes s h x.dst →
      s.argFree h (h.el.readA x.sa).val 64 64 = true → Safety.Covered h.x 32 → s.hasLine s.cur.task h.g s.cur.vt (.elem h.e) none = true →
      TaskRec.parse (leNat (s.padArg h (h.el.readA x.sa).val 64 64)) = some r → s.spawnFault h (some r) = none →
      s.recordCode h.g.ctx r = 0 → Claims.ownFree s h r →
        ∃ t l, exec (.spawn x) s = .next t ∧ ((∀ o, x.dst ≠ .o o) → t.mem = s.mem) ∧ Safety.debited s t h 32
          ∧ (∀ n, x.dst = .d n → vget (t.elem s.cur.task s.cur.vt h.e).d n = if r.ownf = 0 then 1 else r.ownf)
          ∧ s.takeSlots (r.sprm1 + 1) = some l
          ∧ (t.queue h.g.ctx r.queue).count = (s.queue h.g.ctx r.queue).count + (r.sprm1 + 1)
          ∧ Safety.StagesHub s t h (.spawn s.nextId (leNat (s.padArg h (h.el.readA x.sa).val 64 64)) l))
    ∧ (∀ (x : EaAb) (l : Loc), s.gate h x.trig = true → h.el.okA x.sa = true → h.el.okB x.sb = true → Safety.Covered h.x 24 →
      s.refGroup h.g.ctx s.cur.task (h.el.readA x.sa).val = .ok l →
        ∃ t, exec (.fres x) s = .next t ∧ Safety.Sends s t h (.fut l (.resolve (h.el.readB x.sb).val.toNat)) .none
          ∧ Safety.Closes s t h 24)
    ∧ (∀ (x : EaA) (l : Loc) (c : Cont), s.gate h x.trig = true → h.el.okA x.sa = true → Safety.Covered h.x 24 →
      h.el.cont = some c → s.refGroup h.g.ctx s.cur.task (h.el.readA x.sa).val = .ok l →
      s.hasLine s.cur.task h.g s.cur.vt (.elem h.e) none = true →
        ∃ t, exec (.fjoin x) s = .next t ∧ Safety.debited s t h 24 ∧ t.mem = s.mem
          ∧ (t.elem s.cur.task s.cur.vt h.e).cont = (if c.slots ≤ 1 then none else some ⟨c.spawn, c.taken + 1, c.slots - 1⟩)
          ∧ Safety.StagesHub s t h (.join c.spawn c.taken (h.el.readA x.sa).val))
    ∧ (∀ (x : EaDap) (l : Loc), s.gate h x.trig = true → h.el.okA x.sa = true → Safety.takes s h x.dst → Safety.Covered h.x 16 →
      s.refGroup h.g.ctx s.cur.task (h.el.readA x.sa).val = .ok l →
        ∃ t, exec (.fpoll x) s = .next t ∧ Safety.Sends s t h (.fut l .poll) (destOf x.dst) ∧ Safety.debited s t h 16)
    ∧ ∀ x : EaT, s.gate h x.trig = true → Safety.Covered h.x 4 →
      s.hasLine s.cur.task h.g s.cur.vt (.elem h.e) none = true →
        ∃ t, exec (.trigger x) s = .next t ∧ Safety.debited s t h 4 ∧ t.mem = s.mem ∧ Safety.StagesHub s t h .trigger

/-! ### Elements: the directory, cuts, commands (11, 10, 05) -/

/-- OPEN, CLOSE, QUERY and MKOBJ complete for 32, 16, 16 and 48 drops (R323-R325, R328): the requests, or for CLOSE the slot
CLOSING from the end of the step on (R330). -/
def Obligations.DirectoryInstructions : Prop :=
  ∀ (s : State) (h : Here), s.here = some h → h.x.dirUse = false →
    (∀ x : EaDap, s.gate h x.trig = true → h.el.okA x.sa = true → Safety.takes s h x.dst →
      let a := (h.el.readA x.sa).val
      (Safety.Covered h.x 32 → nameId a ≠ 0 →
        ∃ t, exec (.openName x) s = .next t ∧ Safety.Sends s t h (.dir (.open_ a (isProbe x.dst))) (destOf x.dst)
          ∧ Safety.debited s t h 32)
      ∧ let d := leNat (s.padArg h a 32 32)
        (Safety.Covered h.x 48 → s.argFree h a 32 32 = true → descInvalid d = false → s.keyLoaded h.g.ctx d = true →
          ∃ t, exec (.mkobj x) s = .next t ∧ Safety.Sends s t h (.dir (.mkobj d (isProbe x.dst))) (destOf x.dst)
            ∧ Safety.debited s t h 48))
    ∧ (∀ (x : EaA) (y : Slot), s.gate h x.trig = true → h.el.okA x.sa = true → Safety.Covered h.x 16 →
      (h.el.readA x.sa).val.toNat < 4096 → s.ownHandle h.g.ctx s.cur.task (h.el.readA x.sa).val.toNat = some y →
      let key := slotKey h.g.ctx (h.el.readA x.sa).val.toNat
      (s.closes.any fun d => d.key == key) = false →
        ∃ t, exec (.close x) s = .next t ∧ t.mem = s.mem ∧ t.objs = s.objs ∧ Safety.debited s t h 16
          ∧ (s.plan ≠ [] → t.slots = s.slots)
          ∧ ∃ z prev k c, (t.endStep s.cur.task).slots.get? key = some z ∧ z.obj = y.obj ∧ z.st = .closing s.cur.task prev k c)
    ∧ ∀ (x : EaQuery) (obj : Nat) (o : Obj), s.gate h x.trig = true → Safety.readable h x.sa x.sb → Safety.takes s h x.dst →
      Safety.Covered h.x 16 → (h.el.readA x.sa).val.toNat < 4096 → (h.el.readB x.sb).val.toNat ≤ 12 →
      s.objOf h.g.ctx s.cur.task (h.el.readA x.sa).val.toNat = some (obj, o) →
        ∃ t, exec (.query x) s = .next t
          ∧ Safety.Sends s t h (.dir (.query obj (h.el.readB x.sb).val.toNat)) (destOf x.dst) ∧ Safety.debited s t h 16

/-- BIND, UNBIND and REBIND complete with one staged entry that holds their bindings, for 32, 32 and 32 + 16 × n drops (R326,
R327). -/
def Obligations.Bindings : Prop :=
  ∀ (s : State) (h : Here), s.here = some h → h.x.dirUse = false →
    s.hasLine s.cur.task h.g s.cur.vt (.elem h.e) none = true →
    (∀ (x : EaAb) (b : BindEnt), s.gate h x.trig = true → Safety.readable h x.sa x.sb → Safety.Covered h.x 32 →
      bindEntry (s.ownHandle h.g.ctx s.cur.task) (h.el.readA x.sa).val (h.el.readB x.sb).val false = .ok b →
      s.bindsFull h.g.ctx [b] = false →
        ∃ t, exec (.bind x) s = .next t ∧ Safety.debited s t h 32 ∧ t.mem = s.mem
          ∧ Safety.StagesHub s t h (.binds [b]))
    ∧ (∀ x : EaA, s.gate h x.trig = true → h.el.okA x.sa = true → Safety.Covered h.x 32 →
      (h.el.readA x.sa).val.toNat < 2 ^ 31 → (h.el.readA x.sa).val ≠ 0 →
      s.bindsFull h.g.ctx [⟨(h.el.readA x.sa).val.toNat, none⟩] = false →
        ∃ t, exec (.unbind x) s = .next t ∧ Safety.debited s t h 32 ∧ t.mem = s.mem
          ∧ Safety.StagesHub s t h (.binds [⟨(h.el.readA x.sa).val.toNat, none⟩]))
    ∧ ∀ (x : EaAb) (n : Nat) (l : List BindEnt), s.gate h x.trig = true → Safety.readable h x.sa x.sb →
      Safety.Covered h.x (32 + 16 * n) → (h.el.readB x.sb).val.toNat = n → 1 ≤ n → n ≤ 8 →
      bindList (s.ownHandle h.g.ctx s.cur.task) (s.padArg h (h.el.readA x.sa).val 8 (8 * n)) n = .ok l →
      s.argFree h (h.el.readA x.sa).val 8 (8 * n) = true → sameName l = false → s.bindsFull h.g.ctx l = false →
        ∃ t, exec (.rebind x) s = .next t ∧ Safety.debited s t h (32 + 16 * n) ∧ t.mem = s.mem ∧ Safety.StagesHub s t h (.binds l)

/-- SEAL, FILL and PKRD complete: SEAL opens the next cut for 64 drops and 1 for each line not covered; FILL debits the account by
its grant; PKRD sends its request (R298, R300-R302). The model's own choices enter by log entry 41. -/
def Obligations.CutInstructions : Prop :=
  ∀ (s : State) (h : Here), s.here = some h →
    (∀ x : EaDp, s.gate h x.trig = true → Safety.takes s h x.dst →
      (h.g.cut = none → h.g.sealUse = false → Safety.Covered h.x (64 + h.x.uncovered) →
        ∃ t c, exec (.seal x) s = .next t ∧ (t.group s.cur.task).cut = some c ∧ c.no = h.g.nextCut ∧ c.passed = []
          ∧ (t.group s.cur.task).nextCut = (if 2 ^ 32 - 1 ≤ h.g.nextCut then 1 else h.g.nextCut + 1)
          ∧ (∀ n, x.dst = .d n → vget (t.elem s.cur.task s.cur.vt h.e).d n = BitVec.ofNat 32 h.g.nextCut)
          ∧ Safety.debited s t h (64 + h.x.uncovered))
      ∧ (Safety.Covered h.x 4 → ∃ t, exec (.pkrd x) s = .next t ∧ Safety.Sends s t h .pkrd (destOf x.dst)
          ∧ Safety.debited s t h 4))
    ∧ ∀ (x : EaDap) (c : Ctx), s.gate h x.trig = true → h.el.okA x.sa = true → Safety.takes s h x.dst → Safety.Covered h.x 16 →
      s.ctxs.get? h.g.ctx = some c →
      let asked := (h.el.readA x.sa).val.toNat
      let n := if h.g.cut.isNone then 0 else min asked (min c.acct (65535 - (s.packets s.cur.task + h.x.granted)))
      ∃ t, exec (.fill x) s = .next t ∧ Safety.Sends s t h (.fill asked) (destOf x.dst)
        ∧ (t.ctx h.g.ctx).acct = min (c.acct - n) (2 ^ 48 - 1) ∧ (t.inst s.cur.task s.cur.vt).granted = h.x.granted + n
        ∧ Safety.debited s t h 16

/-- ISSUE and ISSUEV complete for 1 drop when the port is free (R146, R147): the word, from the command table or from the source
W, is offered to the engine's port with the parameters that the form gives; an omitted parameter is 0. A word that is not
malformed waits there while the engine's lane is in use; a malformed word raises fault 0x34 in its group and does nothing else
(R95, R148). -/
def Obligations.Commands : Prop :=
  (∀ (s : State) (h : Here),
    let p := Safety.paid s h 1
    let offer (n : Node) (t : Trig) (w a b : Tok) (idx : Nat) (l : List (Fin 4)) : State :=
      (p.putHere h (Safety.dequeued p h l)).accept s.cur.task s.cur.vt n
        { word := w.val, a := a.val, b := b.val, idx := idx, deps := p.fireDeps h t (w.deps ++ a.deps ++ b.deps) }
    (∀ x : ExIssue, Safety.Fires s h x.trig 1 → h.x.portFree (engineOf x.eng) = true →
      let w : Tok := ⟨0, vget h.x.cfg.cmds x.idx, []⟩
      (x.args = .none → exec (.issue x) s = .next (offer (engineOf x.eng) x.trig w {} {} x.idx.val []))
      ∧ (∀ a, x.args = .one a → h.el.okA a = true →
          exec (.issue x) s = .next (offer (engineOf x.eng) x.trig w (h.el.readA a) {} x.idx.val (SrcA.takes a)))
      ∧ ∀ a b, x.args = .two a b → Safety.readable h a b →
          exec (.issue x) s = .next (offer (engineOf x.eng) x.trig w (h.el.readA a) (h.el.readB b) x.idx.val
            (takesOf (SrcA.takes a) (SrcB.takes b))))
    ∧ ∀ x : ExIssuev, Safety.Fires s h x.trig 1 → h.x.portFree (engineOf x.eng) = true → h.el.okA x.w = true →
      let w := h.el.readA x.w
      (x.args = .none → exec (.issuev x) s = .next (offer (engineOf x.eng) x.trig w {} {} 63 (SrcA.takes x.w)))
      ∧ (∀ a, x.args = .one a → h.el.okB a = true →
          exec (.issuev x) s = .next (offer (engineOf x.eng) x.trig w (h.el.readB a) {} 63
            (takesOf (SrcA.takes x.w) (SrcB.takes a))))
      ∧ ∀ a b, x.args = .two a b → h.el.okB a = true → h.el.pending b = false →
          exec (.issuev x) s = .next (offer (engineOf x.eng) x.trig w (h.el.readB a)
            ⟨0, vget h.el.d b, vget h.el.dDeps b⟩ 63 (takesOf (SrcA.takes x.w) (SrcB.takes a))))
  ∧ (∀ (s : State) (task : Nat) (vt : Fin 16) (x : Inst) (c : Cmd), s.inst? task vt = some x →
    (x.vecTakes c = true → x.vec.run.isSome = true →
      ((s.accept task vt .vector c).inst task vt).vec = { x.vec with wait := some c })
    ∧ ∀ n ∈ engineNodes, ∀ g : Group, s.group? task = some g → g.stop = none → x.cmdTakes n c = false →
      ((s.accept task vt n c).group task).stop = some (.fault 0x34 vt n (c.word.toNat / 2 ^ 24) c.idx)
      ∧ (s.accept task vt n c).mem = s.mem
      ∧ ((s.accept task vt n c).inst task vt).elems = x.elems ∧ ((s.accept task vt n c).inst task vt).vec = x.vec
      ∧ ((s.accept task vt n c).inst task vt).mat = x.mat ∧ ((s.accept task vt n c).inst task vt).cpy = x.cpy)

/-! ### The vector node (07 R192-R221) -/

/-- The vector commands and their opcodes. -/
def Claims.vecRows : List ((VCmd → Instr) × BitVec 8) :=
  [ (.vadd, 0x01), (.vsub, 0x02), (.vmul, 0x03), (.vfma, 0x04), (.vmin, 0x05), (.vmax, 0x06), (.vabs, 0x07), (.vneg, 0x08),
    (.vscl, 0x09), (.vadds, 0x0A), (.vexp2, 0x10), (.vlog2, 0x11), (.vrcp, 0x12), (.vrsq, 0x13), (.vtanh, 0x14), (.vsigm, 0x15) ]
  ++ [ (.vcvt, 0x20), (.vqdp8, 0x21), (.vspc, 0x22), (.vspx, 0x23), (.vrsum, 0x30), (.vrmax, 0x31), (.vramax, 0x32),
    (.vrdrn, 0x33), (.vcmp, 0x40), (.vsel, 0x41), (.vperm, 0x42), (.vbcast, 0x43), (.vzip, 0x44), (.vuzp, 0x45),
    (.vtop2, 0x50), (.vtags, 0x51), (.vheap, 0x52), (.vhdrn, 0x53), (.vcnt, 0x60), (.vscan, 0x61) ]

/-- The head of a slot that the vector node may read is a data token, or there is none. -/
def Claims.dataHead (x : Inst) (k : Nat) : Prop := ∀ t, (x.slotToks .vector k).head? = some t → Side.ctl t.side = false

/-- Every vector command completes a token step whose tokens, room and pad are there (R194): the tokens it takes leave their
buffers (of a buffer that two slots map, the larger number: log entry 25) and the tokens it writes follow in theirs, the
registers of the elements and every byte of memory that is no byte of the tile's own pad stay. At full width the step takes
its debit; at half width the debit is taken in the first of two steps, which changes nothing else, and the second completes it
(R198, R498). -/
def Obligations.VectorStep : Prop :=
  ∀ o ∈ Claims.vecRows, ∀ (c : VCmd) (s : State) (y : At2) (r : VRun) (go : VGo),
    s.engine .vector = some y → y.x.vec.run = some r → r.cmd.word = encV o.2 c → r.left ≠ 0 → y.x.recs = y.x.mat.banks →
    Claims.dataHead y.x c.ba.val → Claims.dataHead y.x c.bb.val →
    s.vecPlan y r o.2.toNat c = .go go → (outsTo go.outs c.bo.val = 0 ∨ y.x.slotRoom .vector c.bo.val (outsTo go.outs c.bo.val) = true) →
    (outsTo go.outs c.bb.val = 0 ∨ y.x.slotRoom .vector c.bb.val (outsTo go.outs c.bb.val) = true) →
    (go.pad = none ∨ s.padHeld y.task y.vt .vector = false) → (r.paid = true ∨ Safety.Covered y.x go.drops) →
      (r.paid = true ∨ s.halfWidth y.g r.cmd = false →
        ∃ t, exec (o.1 c) s = .next t ∧ (s.cur.slot = 0 → exec (.vectorTokenStep ⟨y.task, y.vt⟩) s = .next t)
          ∧ (t.inst y.task y.vt).meter + (if r.paid then 0 else go.drops) = y.x.meter
          ∧ (t.inst y.task y.vt).elems = y.x.elems ∧ t.accs = s.accs
          ∧ (∀ b, ((t.inst y.task y.vt).buf b).map (fun k => (k.side, k.val)) =
              (((y.x.buf b).drop (((go.takes.filter fun k => y.x.slot .vector k.1 == some b).map (·.2)).foldl max 0)).map
                (fun k => (k.side, k.val)))
                ++ (go.outs.filter fun k => y.x.slot .vector k.1 == some b).map fun k => (k.2.side, k.2.val))
          ∧ (∀ k, go.vec.run = some k → k.left ≠ 0 → (t.inst y.task y.vt).vec = { go.vec with run := some { k with paid := false } })
          ∧ ∀ a, (∀ off, a ≠ s.padAddr y.g y.x y.vt off) → t.mem.read a = s.mem.read a)
      ∧ (r.paid = false → s.halfWidth y.g r.cmd = true →
        ∃ t, exec (o.1 c) s = .next t ∧ (s.cur.slot = 0 → exec (.vectorTokenStep ⟨y.task, y.vt⟩) s = .next t)
          ∧ (t.inst y.task y.vt).meter + go.drops = y.x.meter ∧ (t.inst y.task y.vt).elems = y.x.elems ∧ t.accs = s.accs
          ∧ (t.inst y.task y.vt).bufs = y.x.bufs ∧ (t.inst y.task y.vt).vec = { y.x.vec with run := some { r with paid := true } }
          ∧ t.mem = s.mem)

/-- The lane-wise arithmetic commands: opcode, whether BB is read, the result on numbers of a float format, and on integers
(R202): k is the scalar parameter, x and y the lanes. -/
def Claims.laneRows : List (Nat × Bool × (Bool → Fv → Fv → Fv → Fv) × (Int → Int → Int → Int)) :=
  [ (0x01, true, fun d _ x y => x.add d y, fun _ x y => x + y), (0x02, true, fun d _ x y => x.add d y.negate, fun _ x y => x - y),
    (0x03, true, fun _ _ x y => x.mul y, fun _ x y => x * y), (0x04, true, fun d k x y => (k.mul x).add d y, fun k x y => k * x + y),
    (0x05, true, fun _ _ x y => x.min y, fun _ x y => min x y), (0x06, true, fun _ _ x y => x.max y, fun _ x y => max x y),
    (0x07, false, fun _ _ x _ => x.abs, fun _ x _ => x.natAbs), (0x08, false, fun _ _ x _ => x.negate, fun _ x _ => -x),
    (0x09, false, fun _ k x _ => k.mul x, fun k x _ => k * x), (0x0A, false, fun d k x _ => x.add d k, fun k x _ => x + k) ]

/-- The lane-wise arithmetic commands take one token of BA (and of BB), cost 20 drops and write one token: each lane is the exact
result rounded once into the format, an INT32 lane wraps, a narrower integer lane saturates (R197, R202). VCMP writes 1 to a
lane when the condition holds and 0 otherwise; VSEL writes b[i] where a[i] is not 0 and s otherwise (R210, R211). -/
def Obligations.VectorLanes : Prop :=
  (∀ o ∈ Claims.laneRows, ∀ (s : State) (y : At2) (r : VRun) (c : VCmd) (a : Wtok) (la lb : List Wtok) (b : Wtok),
    headData (y.x.slotToks .vector c.ba.val) = a :: la → headData (y.x.slotToks .vector c.bb.val) = b :: lb →
    let f := fmtOf c.fmt.val
    let m := modeOf c.rnd.val
    ∃ go w, s.vecPlan y r o.1 c = .go go ∧ go.drops = 20 ∧ go.outs = [(c.bo.val, w)]
      ∧ w.side = (Side.dim a.side ||| Side.tagGen a.side)
      ∧ w.val = packLine f.bits ((lanesW f.bits a.val).zipIdx.map fun p =>
          let q := if o.2.1 then (lanesW f.bits b.val).getD p.2 0 else 0
          match f.float? with
          | some g => (g.ofFv m (y.x.vec.stoch f.bits p.2) (o.2.2.1 (m == .rdn) (fv32 r.cmd.b) (g.decode p.1) (g.decode q))).1
          | none => if f = .int32 then (wrapInt (o.2.2.2 r.cmd.b.toInt (intOf f p.1) (intOf f q))).1
                    else (satInt f (o.2.2.2 r.cmd.b.toInt (intOf f p.1) (intOf f q))).1))
  ∧ (∀ (s : State) (y : At2) (r : VRun) (c : VCmd) (a : Wtok) (la lb : List Wtok) (b : Wtok),
    headData (y.x.slotToks .vector c.ba.val) = a :: la → headData (y.x.slotToks .vector c.bb.val) = b :: lb →
    let f := fmtOf c.fmt.val
    let lane (g : Nat → Nat → Nat → Nat) : Line := packLine f.bits ((lanesW f.bits a.val).zipIdx.map fun p =>
      g p.2 p.1 ((lanesW f.bits b.val).getD p.2 0))
    (∃ go w, s.vecPlan y r 0x40 c = .go go ∧ go.outs = [(c.bo.val, w)] ∧ w.val = lane fun _ p q =>
      let x := fvOf f p
      let z := fvOf f q
      let holds := match c.rnd.val with
        | 0 => x.eq z
        | 1 => x.lt z
        | 2 => x.lt z || x.eq z
        | _ => !x.eq z
      if holds then unitIn f else 0)
    ∧ ∃ go w, s.vecPlan y r 0x41 c = .go go ∧ go.outs = [(c.bo.val, w)]
        ∧ w.val = lane fun i p q =>
          if laneZero f p then scalarIn f (modeOf c.rnd.val) (y.x.vec.stoch f.bits i) r.cmd.b else q)

/-! ### The matrix node (08 R222-R251) -/

/-- MXMUL, MXMULT and MXMULS complete a row that hits a bank (R243, R244): row m of the accumulators takes the products' sums,
every other accumulator stays, the meter falls by the row's drops. The row step of the event is the same. A row of MXMUL or
MXMULS whose operand stands in the pad is read there (R237). -/
def Obligations.MatrixMultiply : Prop :=
  (∀ (s : State) (y : At2) (p : MComp) (b : Fin 8) (t0 : Wtok) (r l : List Wtok),
    s.engine .matrix = some y → s.cur.slot = 0 → y.x.mat.status = [] → y.x.mat.comp = some p → p.finished = false →
    p.begun = true → mOp p.cmd ∈ [0x10, 0x11, 0x12] →
    let c := p.cmd
    let f := mF c
    let m := y.x.mat
    let k := m.bank b
    let n := m.pieces c
    mSrc c ≠ 6 → y.x.slotToks .matrix (mSrc c) = t0 :: r → Side.ctl t0.side = false → rowOf n (t0 :: r) = .row l →
    (f.tag = 0 ∧ b = mBank c ∨ f.tag ≠ 0 ∧ m.fate (f.msk = 1) t0.side = .hit b) → hitFault c k n = none →
    Safety.Covered y.x k.rowDrops →
      ∃ t, (∀ x, c.word = (encMxMul x).word 0x10 → exec (.mxmul x) s = .next t)
        ∧ (∀ x, c.word = (encMxMult x).word 0x11 → exec (.mxmult x) s = .next t)
        ∧ (∀ x, c.word = (encMxMuls x).word 0x12 → exec (.mxmuls x) s = .next t)
        ∧ exec (.matrixRowStep ⟨y.task, y.vt⟩) s = .next t
        ∧ (t.inst y.task y.vt).meter + k.rowDrops ≤ y.x.meter
        ∧ let acts := activations (mxAf f.af.toNat) k.kl (l.flatMap fun w => lineBytes w.val)
          (∀ j, j < k.n → (t.inst y.task y.vt).mat.acc.getD (p.row * 64 + j) 0 =
              (accumulate k f.af.toNat (f.acc = 1) acts (m.acc.getD (p.row * 64 + j) 0) j).1)
            ∧ ∀ i, i < p.row * 64 ∨ p.row * 64 + k.n ≤ i → (t.inst y.task y.vt).mat.acc.get? i = m.acc.get? i)
  ∧ ∀ (s : State) (y : At2) (p : MComp),
    s.engine .matrix = some y → s.cur.slot = 0 → y.x.mat.status = [] → y.x.mat.comp = some p → p.finished = false →
    p.begun = true → mOp p.cmd ∈ [0x10, 0x12] → mSrc p.cmd = 6 →
    let c := p.cmd
    let f := mF c
    let m := y.x.mat
    let k := m.bank (mBank c)
    let n := m.pieces c
    hitFault c k n = none → Safety.Covered y.x k.rowDrops →
      ∃ t, (∀ x, c.word = (encMxMul x).word 0x10 → exec (.mxmul x) s = .next t)
        ∧ (∀ x, c.word = (encMxMuls x).word 0x12 → exec (.mxmuls x) s = .next t)
        ∧ exec (.matrixRowStep ⟨y.task, y.vt⟩) s = .next t
        ∧ (t.inst y.task y.vt).meter + k.rowDrops ≤ y.x.meter
        ∧ let acts := activations (mxAf f.af.toNat) k.kl ((List.range n).flatMap fun j => s.padPiece y.task y.vt c p.row j)
          (∀ j, j < k.n → (t.inst y.task y.vt).mat.acc.getD (p.row * 64 + j) 0 =
              (accumulate k f.af.toNat (f.acc = 1) acts (m.acc.getD (p.row * 64 + j) 0) j).1)
            ∧ ∀ i, i < p.row * 64 ∨ p.row * 64 + k.n ≤ i → (t.inst y.task y.vt).mat.acc.get? i = m.acc.get? i

/-- MXLD and MXLDT complete a data token of their load (R239, R240): its values are gathered, and a part that is whole is placed
in the bank. The load step of the event is the same. -/
def Obligations.MatrixLoads : Prop :=
  ∀ (s : State) (y : At2) (l : MLoad) (t0 : Wtok) (r : List Wtok),
    s.engine .matrix = some y → s.cur.slot = 0 → y.x.mat.status = [] → y.x.mat.load = some l →
    (∀ p, y.x.mat.comp = some p → p.cmd.word ≠ l.cmd.word) → l.entered = true → l.finished = false →
    let c := l.cmd
    let k := y.x.mat.bank (mBank c)
    let byRow := decide (mOp c = 2)
    let need := if byRow then k.n else k.kv
    let got := l.got ++ lanesW (8 * k.wb) t0.val
    l.col < (if byRow then k.kl else k.n) → y.x.slotToks .matrix (mSrc c) = t0 :: r → Side.ctl t0.side = false →
    Safety.Covered y.x 8 →
      ∃ t, (∀ x, c.word = (encMxLd x).word 0x01 → exec (.mxld x) s = .next t)
        ∧ (∀ x, c.word = (encMxLd x).word 0x02 → exec (.mxldt x) s = .next t)
        ∧ exec (.matrixLoadToken ⟨y.task, y.vt⟩) s = .next t
        ∧ (got.length < need → (t.inst y.task y.vt).mat.load = some { l with got := got }
            ∧ (t.inst y.task y.vt).meter + 8 = y.x.meter)
        ∧ (need ≤ got.length → y.x.mat.wait = none →
            ((t.inst y.task y.vt).mat.bank (mBank c)).w = (k.place byRow l.col (got.take need)).w)

/-- The buffer that a row of MXDRN drains to: the one that steers its earlier tokens, the command's own, or the one that the next
steering token names (R249). -/
def Claims.drainsTo (y : At2) (p : MComp) (k : Nat) : Prop :=
  p.steer = some k ∨ p.steer = none ∧ (mSrc p.cmd = 6 ∧ k = p.cmd.b.toNat % 8
    ∨ mSrc p.cmd ≠ 6 ∧ k < 8 ∧ ∃ t r, y.x.slotToks .matrix (mSrc p.cmd) = t :: r ∧ Side.ctl t.side = false ∧ t.val.toNat % 2 ^ 32 = k)

/-- MXRES of an EMPTY bank reserves it, and MXEVICT of a RESIDENT bank that nothing reads empties it, for 4 drops, which MXEVICT
may have taken before (R228, R241, R242); COMMAND_BEGIN is the same. MXZERO clears its rows and no other accumulator. MXDRN
converts the cells of a row into the tokens of the buffer that the command or a steering token names, and keeps each back
until it knows whether one more follows; MXGDRN converts those of a bank's gradients; the last token of a row carries level-0
DIM, the last of all level-1 DIM too; a discarded row debits nothing. MXGRAD adds the products of a pair of rows to the
gradients of the bank that the command or the row's tag names (R247-R250). The model's own choices enter by log entry 27. -/
def Obligations.MatrixBanksAndRows : Prop :=
  (∀ (s : State) (y : At2) (c : Cmd), s.engine .matrix = some y → y.x.mat.comp = none → y.x.mat.load = none →
    y.x.mat.wait = some c → y.x.mat.paid = false → Safety.Covered y.x 4 →
    let k := y.x.mat.bank (mBank c)
    (∀ x, s.cur.slot = 0 → c.word = (encMxBank x).word 0x04 → k.st = .empty →
      ∃ t, exec (.mxres x) s = .next t ∧ exec (.commandBegin ⟨y.task, y.vt⟩ .matrix) s = .next t
        ∧ (t.inst y.task y.vt).meter + 4 = y.x.meter
        ∧ (t.inst y.task y.vt).mat.bank (mBank c) =
            { k with st := .loading, expid := BitVec.ofNat 16 c.a.toNat, gen := k.gen + 1, rsv := true })
    ∧ ∀ x, c.word = (encMxBank x).word 0x03 → k.st = .resident → k.readers = 0 → k.hold = false →
      (s.cur.slot = 0 → ∃ t, exec (.mxevict x) s = .next t ∧ exec (.commandBegin ⟨y.task, y.vt⟩ .matrix) s = .next t
        ∧ (t.inst y.task y.vt).meter + 4 = y.x.meter ∧ ((t.inst y.task y.vt).mat.bank (mBank c)).st = .empty)
      ∧ (s.cur.slot = 3 → ∃ t, exec (.mxevict x) s = .next t
        ∧ (t.inst y.task y.vt).meter + 4 = y.x.meter ∧ (t.inst y.task y.vt).mat = { y.x.mat with paid := true }))
  ∧ (∀ (s : State) (y : At2) (p : MComp), s.engine .matrix = some y → s.cur.slot = 0 → y.x.mat.comp = some p → p.finished = false →
    p.begun = true →
    let c := p.cmd
    let m := y.x.mat
    let line (f : Fmt) (dst : Fmt) (cell : Nat → Word) : Line :=
      packLine dst.bits ((List.range dst.lanes).map fun i => (convert f dst .rne 0 (cell (p.tok * dst.lanes + i)).toNat).1)
    (∀ x, c.word = (encMxZero x).word 0x31 → Safety.Covered y.x 4 →
      ∃ t, exec (.mxzero x) s = .next t ∧ (t.inst y.task y.vt).meter + 4 ≤ y.x.meter
        ∧ (∀ i, c.a.toNat * 64 ≤ i → i < (c.a.toNat + mRows c) * 64 → (t.inst y.task y.vt).mat.acc.get? i = none)
        ∧ ∀ i, i < c.a.toNat * 64 ∨ (c.a.toNat + mRows c) * 64 ≤ i → (t.inst y.task y.vt).mat.acc.get? i = m.acc.get? i)
    ∧ (∀ x k b, c.word = (encMxDrn x).word 0x30 → Claims.drainsTo y p k →
      y.x.slot .matrix k = some b → y.x.slotIs .matrix k true (· ≤ 7) = true →
      (∀ j w, p.kept = some (j, w) → y.x.slotRoom .matrix j 1 = true) → Safety.Covered y.x 8 →
      let dst := fmtOf (y.x.desc b).fmt
      let last : Prop := p.tok + 1 = dst.bytes
      let ends : Prop := last ∧ mRows c ≤ p.row + 1
      let u (side : Side) : Wtok := ⟨side, line (if (mF c).wf = 2 then .int32 else .fp32) dst fun i =>
        m.acc.getD ((c.a.toNat + p.row) * 64 + i) 0, c.deps⟩
      ∃ t, exec (.mxdrn x) s = .next t ∧ (t.inst y.task y.vt).meter + 8 = y.x.meter
        ∧ (¬last → (t.inst y.task y.vt).mat.acc = m.acc
          ∧ (t.inst y.task y.vt).mat.comp = some { p with tok := p.tok + 1, steer := some k, kept := some (k, u 0) })
        ∧ (last → ∀ i, (t.inst y.task y.vt).mat.acc.get? i =
            (if (mF c).acc ≠ 1 ∧ i / 64 = c.a.toNat + p.row then none else m.acc.get? i))
        ∧ (last → p.row + 1 < mRows c → (t.inst y.task y.vt).mat.comp =
            some { p with row := p.row + 1, tok := 0, steer := none, kept := some (k, u 0x1000) })
        ∧ (ends → p.kept = none → y.x.slotRoom .matrix k 1 = true → (mSrc c = 6 ∨ y.x.slot .matrix (mSrc c) ≠ some b) →
            (t.inst y.task y.vt).buf b = y.x.buf b ++ [u 0x3000])
        ∧ ∀ j w d, ¬ends → p.kept = some (j, w) → y.x.slot .matrix j = some d →
            (mSrc c = 6 ∨ y.x.slot .matrix (mSrc c) ≠ some d) →
            (t.inst y.task y.vt).buf d = y.x.buf d ++ [w])
    ∧ (∀ x t0 r, c.word = (encMxDrn x).word 0x30 → mSrc c ≠ 6 → p.steer = none → p.kept = none →
      y.x.slotToks .matrix (mSrc c) = t0 :: r → Side.ctl t0.side = false → 8 ≤ t0.val.toNat % 2 ^ 32 → t0.val.toNat % 2 ^ 32 < 16 →
        ∃ t, exec (.mxdrn x) s = .next t ∧ (t.inst y.task y.vt).meter = y.x.meter ∧ (t.inst y.task y.vt).slotToks .matrix (mSrc c) = r
          ∧ ∀ i, (t.inst y.task y.vt).mat.acc.get? i =
              (if (mF c).acc ≠ 1 ∧ i / 64 = c.a.toNat + p.row then none else m.acc.get? i))
    ∧ (∀ x b, c.word = (encMxGdrn x).word 0x21 → p.kept = none → y.x.slot .matrix (c.b.toNat % 8) = some b →
      y.x.slotRoom .matrix (c.b.toNat % 8) 1 = true → Safety.Covered y.x 8 →
      let dst := fmtOf (y.x.desc b).fmt
      let k := m.bank (mBank c)
      let last : Prop := p.tok + 1 = dst.bytes
      let side : Side := if last then (if p.row = 31 then 0x3000 else 0x1000) else 0
      ∃ t, exec (.mxgdrn x) s = .next t ∧ (t.inst y.task y.vt).meter + 8 = y.x.meter
        ∧ (t.inst y.task y.vt).buf b = y.x.buf b ++ [⟨side, line .fp32 dst fun i => k.grad.getD (p.row * 64 + i) 0, c.deps⟩]
        ∧ (¬last → (t.inst y.task y.vt).mat.comp = some { p with tok := p.tok + 1 })
        ∧ (last → p.row ≠ 31 → (t.inst y.task y.vt).mat.comp = some { p with row := p.row + 1, tok := 0 })
        ∧ ((t.inst y.task y.vt).mat.bank (mBank c)).grad = (if last ∧ p.row = 31 ∧ (mF c).acc = 0 then [] else k.grad))
    ∧ ∀ x (b : Fin 8) t0 u0 ra rb dy, c.word = (encMxGrad x).word 0x20 →
      let k := m.bank b
      ((mF c).tag = 0 ∧ b = mBank c ∨ (mF c).tag ≠ 0 ∧ m.fate ((mF c).msk = 1) t0.side = .hit b) →
      y.x.slotToks .matrix (mSrc c) = t0 :: ra →
      y.x.slotToks .matrix (mSrc c + 1) = u0 :: rb → Side.ctl t0.side = false → Side.ctl u0.side = false →
      rowOf 2 (u0 :: rb) = .row dy → k.sp = 0 → k.wfmt = 0 → Safety.Covered y.x k.rowDrops →
        ∃ t, exec (.mxgrad x) s = .next t ∧ (t.inst y.task y.vt).meter + k.rowDrops ≤ y.x.meter
          ∧ ((t.inst y.task y.vt).mat.bank b).grad =
              (gradRow k (lanesW 16 t0.val) (dy.flatMap fun d => lanesW 16 d.val)).1.grad)

/-! ### The stream and copy engines (09 R256-R276) -/

/-- SBND sets a bound, SSTOP stops the walk of its nest, and SWALK at a position whose element can be read writes its token for 2
drops and leaves the position; STREAM_TOKEN of a walk is the same (R258, R261-R263). The model's own choices enter by log
entry 28. -/
def Obligations.Streams : Prop :=
  ∀ (n : Node), n = .streamA ∨ n = .streamB → ∀ (s : State) (y : At2), s.engine n = some y → s.cur.slot = 0 →
    let e := y.x.stream n
    (∀ x c k, e.run = none → e.wait = some c → c.word = wordOf (.sbnd x) → wOp c = 0x02 → y.x.nest (wNest c) = some k →
      (wFieldsOf c.word).level.toNat < k.levels.length → ((wFieldsOf c.word).btok = 1 ∨ c.a.toNat ≤ 2 ^ 20) →
        ∃ t, exec (.sbnd x) s = .next t ∧ exec (.streamToken ⟨y.task, y.vt⟩ n) s = .next t
          ∧ ((t.inst y.task y.vt).stream n).wait = none
          ∧ ((t.inst y.task y.vt).stream n).bnds.get? (wNest c * 5 + (wFieldsOf c.word).level.toNat) =
              some (if (wFieldsOf c.word).btok = 1 then .token else .fixed c.a.toNat))
    ∧ (∀ x c r, e.run = some r → r.stopped = false → e.wait = some c → c.word = wordOf (.sstop x) → wOp c = 0x03 →
      r.cmd.word ≠ c.word → wNest r.cmd = wNest c →
        ∃ t, exec (.sstop x) s = .next t ∧ ((t.inst y.task y.vt).stream n).run = some { r with stopped := true }
          ∧ ((t.inst y.task y.vt).stream n).wait = none)
    ∧ ∀ x r k obj o b f, e.run = some r → r.cmd.word = wordOf (.swalk x) → r.stopped = false → r.reads = [] →
      y.x.nest (wNest r.cmd) = some k → r.walk.pass k.levels e.bnds (wNest r.cmd) r.cmd.a r.cmd.b e.bnd.toks = .here →
      s.objOf y.g.ctx y.task ((k.handle.number r.cmd).getD 0) = some (obj, o) → y.x.slot n (wOut r.cmd) = some b →
      y.x.slotRoom n (wOut r.cmd) 1 = true → (y.x.desc b).wide = false → f = descFormat o.desc →
      let c := r.walk.coords k.levels (descAxes o.desc) []
      let at0 := byteAt o.desc c
      inExtent o.desc c = true → laneCoords o.desc (k.levels.getD 0 {}).axis c 0 = some c →
      (∃ l d cls fr, s.checkLane y.task y.g y.x ((k.handle.number r.cmd).getD 0) at0 false = .ok l d cls fr) →
      s.pageReady obj at0 = true → s.laneAsks y.task obj at0 = false → s.objs.get? obj = some o → Safety.Covered y.x 2 →
        ∃ t, exec (.swalk x) s = .next t ∧ exec (.streamToken ⟨y.task, y.vt⟩ n) s = .next t
          ∧ (t.inst y.task y.vt).meter + 2 = y.x.meter
          ∧ ((t.inst y.task y.vt).stream n).run = some { r with walk := r.walk.leave k.levels.length }
          ∧ (t.inst y.task y.vt).buf b = y.x.buf b ++ [⟨r.walk.dim k.levels.length,
              (extend f (s.readObj (some y.task) obj o at0 f.bytes).1).setWidth 512, s.live r.cmd.deps⟩]

/-- The walking copy commands complete a unit whose tests pass and whose pages are there (R267, R335): the control tokens
discarded at the head of IN and the tokens that the unit takes leave IN (R532), the drops of its farthest page are debited.
COPY_UNIT is the same. The model's own choices enter by log entries 28 and 29. -/
def Obligations.CopyUnits : Prop :=
  ∀ (s : State) (y : At2) (r : CRun) (n : Nest) (u : UnitIn) (cls : Nat), s.engine .copy = some y → s.cur.slot = 0 →
    y.x.cpy.run = some r → r.moves = [] → r.atEnd = false → walks r.cmd = true → y.x.nest (yF r.cmd).nest.toNat = some n →
    let toks := y.x.slotToks .copy (yF r.cmd).inp.toNat
    let stale := if fromBuf r.cmd || indexed r.cmd then (toks.takeWhile fun t => dropped t.side).length else 0
    s.gather y.task y.g y.x n 2048 { run := r, toks := toks.drop stale } = .got u →
    u.moves ≠ [] → (∀ m ∈ u.moves, m.all s.pageOpen = true) → u.stray = none →
    (toBuf u.run.cmd = true → y.x.slotRoom .copy (yF u.run.cmd).out.toNat
      (y.x.unitTokens u.run.cmd (u.moves.filter fun m => m.out.isSome).length) = true) →
    Tests.of u.tests = .pass cls →
    let d := if yOp u.run.cmd = 7 then 128 else unitDrops cls
    Safety.Covered y.x d →
      ∃ t, (∀ x, r.cmd.word = wordOf (.cpy x) → exec (.cpy x) s = .next t)
        ∧ (∀ x, r.cmd.word = wordOf (.cpyg x) → exec (.cpyg x) s = .next t)
        ∧ (∀ x, r.cmd.word = wordOf (.cpys x) → exec (.cpys x) s = .next t)
        ∧ (∀ x, r.cmd.word = wordOf (.cpyw x) → exec (.cpyw x) s = .next t)
        ∧ (∀ x, r.cmd.word = wordOf (.cpyf x) → exec (.cpyf x) s = .next t)
        ∧ (∀ x, r.cmd.word = wordOf (.cpyx x) → exec (.cpyx x) s = .next t)
        ∧ exec (.copyUnit ⟨y.task, y.vt⟩) s = .next t
        ∧ (t.inst y.task y.vt).meter + d ≤ y.x.meter ∧ (t.inst y.task y.vt).elems = y.x.elems
        ∧ ∀ b, y.x.slot .copy (yF r.cmd).inp.toNat = some b → y.x.slot .copy (yF r.cmd).out.toNat ≠ some b →
            (t.inst y.task y.vt).buf b = (y.x.buf b).drop (stale + u.taken)

/-- CPYB sets the bit of a box whose writes have performed, and goes on to the next box (R276); BOX_COMPLETE is the same. A copy
command that has moved everything ends: without a semaphore and an END the engine is idle; with the semaphore of the kernel it
sends the addition of 1 (R258, R270). The model's own choices enter by log entry 32. -/
def Obligations.CopyBoxesAndEnds : Prop :=
  (∀ (s : State) (y : At2) (r : CRun) (x : CpyB), s.engine .copy = some y → s.cur.slot = 0 → y.x.cpy.run = some r → r.moves = [] →
    r.atEnd = false → r.cmd.word = wordOf (.cpyb x) → walks r.cmd = false → r.k = 1 → r.boxLen ≤ r.byte →
    4096 * r.box < r.rcd.2.2.toNat → s.cpyOwing r = false →
    s.padHeld y.task y.vt .copy = false →
    let q := s.boxBit y.task y.vt r
    s.heapHeld y.task q.1 q.2.1 1 = false →
    let a := s.padAddr y.g (s.inst y.task q.1) q.1 q.2.1
      ∃ t, exec (.cpyb x) s = .next t ∧ exec (.boxComplete ⟨y.task, y.vt⟩) s = .next t
        ∧ t.mem.read a = s.mem.read a ||| BitVec.ofNat 8 (2 ^ q.2.2)
        ∧ (∀ b, b ≠ a → t.mem.read b = s.mem.read b)
        ∧ (t.inst y.task y.vt).cpy.run = some { r with box := r.box + 1, k := 0, byte := 0, writes := [] })
  ∧ (∀ (s : State) (y : At2) (r : CRun), s.engine .copy = some y → s.cur.slot = 0 → y.x.cpy.run = some r → r.moves = [] →
    r.atEnd = true → s.cpyOwing r = false → y.x.cpy.wait = none →
    (toBuf r.cmd = false ∨ (y.x.nest (yF r.cmd).nest.toNat).any (·.endTok) = false) →
    ((yF r.cmd).semen = 0 → ∃ t, exec (.copyCompletion ⟨y.task, y.vt⟩) s = .next t ∧ (t.inst y.task y.vt).cpy.run = none
      ∧ t.mem = s.mem ∧ t.accs = s.accs)
    ∧ ((yF r.cmd).semen = 1 → y.g.img.ownsSem (yF r.cmd).sem.toFin = true → Safety.Covered y.x 4 →
        ∃ t a, exec (.copyCompletion ⟨y.task, y.vt⟩) s = .next t ∧ (t.inst y.task y.vt).cpy.run = none
          ∧ t.accs.get? s.nextId = some a ∧ a.req = .sem y.g.ctx (yF r.cmd).sem.toFin (.add 1)
          ∧ (t.inst y.task y.vt).meter + 4 = y.x.meter))

/-! ### Tokens on their way and replies (05 R108, R117-R119; 06 R166-R172; 24 R525) -/

/-- Tokens arrive in order at the tail of their consumer: on an edge between tiles, on a route between two buffers, where the
value also stands in the pad of the tile that it reaches, each route out of the buffer getting it; a KSET that stood at a
channel's head is applied; a pull request reaches its producer. The model's own choices enter by log entries 11, 20, 21 and
106. -/
def Obligations.TokensArrive : Prop :=
  (∀ (s : State) (task edge : Nat) (g : Group) (k : Wtok) (r : List Wtok) (e : Edge) (vt el : Fin 16) (c : Fin 4) (x : Inst),
    s.group? task = some g → g.inFlight edge = k :: r → (g.img.edges.drop edge).head? = some e → e.dst = .inp vt el c →
    isCairn k.side = false → s.inst? task vt = some x →
      ∃ t, exec (.tokenArrival task edge) s = .next t ∧ (t.group task).inFlight edge = r ∧ t.mem = s.mem
        ∧ (vget (t.elem task vt el).inq c).toks = (vget (x.elem el).inq c).toks ++ [k.narrow])
  ∧ (∀ (s : State) (task edge : Nat) (g : Group) (k : Wtok) (r : List Wtok) (e : Edge) (vt : Fin 16) (b : Fin 32) (x : Inst),
    s.group? task = some g → g.live = true → (g.img.edges.drop edge).head? = some e → e.src = .buf vt b → e.ridge = true →
    s.inst? task vt = some x → x.buf b.val = k :: r → isCairn k.side = false → s.hasRoom task g (.buf vt b) 0 1 = true →
    let routes := g.img.from (.buf vt b)
    (routes.map (·.1.dst)).Nodup → (∀ n ∈ routes, ∀ wt d, n.1.dst = .buf wt d → wt ≠ vt) →
      ∃ t, exec (.ridgelineTransfer task edge) s = .next t ∧ (t.inst task vt).buf b.val = r
        ∧ (∀ n ∈ routes, ∀ wt d y, n.1.dst = .buf wt d → s.inst? task wt = some y →
            (t.inst task wt).buf d.val = y.buf d.val ++ [k])
        ∧ (∀ wt d y, routes = [(e, edge)] → e.dst = .buf wt d → s.inst? task wt = some y →
            let w := if (y.desc d.val).wide then 64 else 4
            w ≤ padWindow g.img.pad →
            let place (i : Nat) := s.padAddr g y wt ((y.desc d.val).base + y.bufWr.getD d.val 0 * w + i)
            (∀ i, i < w → t.mem.read (place i) = BitVec.ofNat 8 (k.val.toNat / 2 ^ (8 * i)))
              ∧ ∀ a, (∀ i, i < w → a ≠ place i) → t.mem.read a = s.mem.read a)
        ∧ ∀ a, (∀ n ∈ routes, ∀ off, a ≠ s.padAddr g (s.inst task n.1.dst.vt) n.1.dst.vt off) → t.mem.read a = s.mem.read a)
  ∧ (∀ (s : State) (l : At) (e : Fin 16) (c : Fin 4) (k : Tok) (r : List Tok), s.elemLive l.task l.vt e = true →
    (vget (s.elem l.task l.vt e).inq c).toks = k :: r → (s.elem l.task l.vt e).done = false → hiddenCtl k.side = true →
    (vget (s.elem l.task l.vt e).inq c).stood = true → Side.op k.side = 6 → Side.sel k.side ≤ 3 →
      ∃ t, exec (.kset l e c) s = .next t ∧ (vget (t.elem l.task l.vt e).inq c).toks = r ∧ t.mem = s.mem
        ∧ (t.elem l.task l.vt e).k.toList[Side.sel k.side]? = some k.val)
  ∧ ∀ (s : State) (l : At) (e p : Fin 16) (c o : Fin 4) (v : Fin 16) (x : Edge) (k : Nat) (g : Group) (a b : Inst),
    s.group? l.task = some g → s.inst? l.task l.vt = some a → s.inst? l.task v = some b →
    0 < (vget (a.elem e).inq c).reqs → g.img.into (.inp l.vt e c) = some (x, k) → x.src = .out v p o →
      ∃ t, exec (.pullRequestArrival l e c) s = .next t ∧ vget (t.elem l.task v p).pulls o = vget (b.elem p).pulls o + 1
        ∧ (vget (t.elem l.task l.vt e).inq c).reqs + 1 = (vget (a.elem e).inq c).reqs

/-- The event that delivers the answer of a request. -/
def Claims.replyOf (r : Req) : Option (Nat → Instr) :=
  match r with
  | .rd .. | .fe _ .ldfe | .fe _ .ldfec => some .loadReply
  | .atom .. => some .atomicReply
  | .dir _ => some .directoryReply
  | .fut _ .poll => some .fpollReply
  | .sem .. => some .semwaitAnswer
  | .bar .. => some .barrierAnswer
  | _ => none

/-- The places of an output channel's queue with the one kept for a request filled: by the token of a FENCE or a barrier wait, which ends
what it holds back once it is written, or another. -/
def Claims.filled (q : List Owed) (id : Nat) (bar : Bool) (k : Tok) : List Owed :=
  q.map fun y => match y with
    | .wait j => if j = id then (if bar then .bar k id else .tok k) else y
    | _ => y

/-- The answer of a request is written to its register, the register and a stepped address are pending no more; one for a channel
takes the place that its firing kept, and leaves with every token in front of which no answer is missing (R166-R168, R175). -/
def Obligations.Replies : Prop :=
  ∀ (s : State) (id task : Nat) (a : Acc) (e : Fin 16) (x : Inst) (v : Word) (mk : Nat → Instr),
    s.accs.get? id = some a → a.task = some task → a.node = .elem e → s.inst? task a.vt = some x → a.held = false →
    a.answered = false → a.reply = some v → a.acquired = true → a.isLook = false → Claims.replyOf a.req = some mk →
      ∃ t, exec (mk id) s = .next t ∧ ((x.elem e).done = false → ∀ b, t.accs.get? id = some b → b.answered = true)
        ∧ (∀ n, a.dest = .reg n → t.mem = s.mem ∧ (t.elem task a.vt e).p = (match a.pw with
            | some q => setBit (x.elem e).p q.val (v != 0)
            | none => (x.elem e).p)
          ∧ (a.link = none → (t.elem task a.vt e).d = vset (x.elem e).d n v ∧ (t.elem task a.vt e).pending n = false)
          ∧ ∀ m off, a.link = some (m, off) → (t.elem task a.vt e).d = vset (vset (x.elem e).d n v) m (v + off)
              ∧ (t.elem task a.vt e).pending m = false)
        ∧ ∀ o, a.dest = .out o → (x.elem e).done = false →
            let bar := (x.elem e).portBlock.contains id
            ∃ k : Tok, k.val = v ∧ k.side = 0
              ∧ vget (t.elem task a.vt e).outq o = (takeToks (Claims.filled (vget (x.elem e).outq o) id bar k)).2

/-- A pad load reads its bytes, a pad store writes its bytes and no others, a FILL's grant raises the meter by 256 drops a packet,
PKRD reads the balance, a fence performs when what it waits for has, and ends what it holds back once its completion token is
written (R166, R172, R183, R301, R302); a pad access waits for the accesses of lower-numbered ports of its tile and step to
its bank (R15). The model's own choices enter by log entry 41. -/
def Obligations.Completions : Prop :=
  ∀ (s : State) (id task : Nat) (a : Acc) (e : Fin 16) (x : Inst) (g : Group),
    s.accs.get? id = some a → a.task = some task → a.node = .elem e → s.inst? task a.vt = some x → s.group? task = some g →
    a.held = false → a.answered = false →
    (∀ vt off n q, a.req = .padRd vt off n → a.reply = none → s.accReady a = true → s.heapHeld task vt off n = false →
      s.bankHeld a = false → a.dest = .reg q → a.link = none →
        ∃ t, exec (.loadReply id) s = .next t ∧ t.mem = s.mem
          ∧ vget (t.elem task a.vt e).d q = BitVec.ofNat 32 (leNat (s.padRead task g vt off n)))
    ∧ (∀ vt off n v, a.req = .padWr vt off n v → n ≤ 4 → a.perf = .none → s.accReady a = true →
      s.heapHeld task vt off n = false → s.padHeld task a.vt a.node = false → s.bankHeld a = false →
        ∃ t, exec (.storeCompletion id) s = .next t
          ∧ ((∀ o, a.dest ≠ .out o) →
              (∀ i, i < n → t.mem.read (s.padAddr g (s.inst task vt) vt (off + i)) = BitVec.ofNat 8 (v.toNat / 2 ^ (8 * i)))
              ∧ ∀ b, (∀ i, i < n → b ≠ s.padAddr g (s.inst task vt) vt (off + i)) → t.mem.read b = s.mem.read b))
    ∧ (∀ asked v, a.req = .fill asked → a.reply = some v → ∃ t, exec (.fillGrant id) s = .next t
        ∧ (t.inst task a.vt).meter = x.meter + 256 * a.tokVal.toNat)
    ∧ (∀ q, a.req = .pkrd → a.reply = none → a.dest = .reg q → a.link = none →
        ∃ t, exec (.pkrdReply id) s = .next t
          ∧ vget (t.elem task a.vt e).d q = BitVec.ofNat 32 (min (s.ctx g.ctx).acct (2 ^ 32 - 1)))
    ∧ (a.req = .fence → s.unperformed a.deps (Scope.level a.scope) = false → 
        (a.dest = .none → ∃ t, exec (.storeCompletion id) s = .next t ∧ t.accs.get? id = none
          ∧ (t.elem task a.vt e).portBlock = (x.elem e).portBlock.filter (· != id))
        ∧ ∀ o, a.dest = .out o → (x.elem e).done = false → id ∈ (x.elem e).portBlock → .wait id ∈ vget (x.elem e).outq o →
          ∃ (t : State) (k : Tok), exec (.storeCompletion id) s = .next t ∧ k.val = 0 ∧ k.side = 0
            ∧ vget (t.elem task a.vt e).outq o = (takeToks (Claims.filled (vget (x.elem e).outq o) id true k)).2
            ∧ (id ∈ (t.elem task a.vt e).portBlock ↔ id ∈ barIds (vget (t.elem task a.vt e).outq o)))

/-! ### Cuts (10 R294-R304, 14 R384-R388) -/

/-- A seal that waits opens the next cut (R294); seeding reaches the nodes of the lowest stage that has one to pass (R384); a node
that a CAIRN has reached passes (R385); a cut whose nodes have all passed completes (R297). -/
def Obligations.Cuts : Prop :=
  ∀ (s : State) (task : Nat) (g : Group), s.group? task = some g → g.live = true →
    (∀ vt node closer r x, g.seals = (vt, node, closer) :: r → g.cut = none → s.inst? task vt = some x →
      Safety.Covered x (64 + x.uncovered) →
        ∃ t c, exec (.implicitSeal ⟨task, vt⟩) s = .next t ∧ (t.group task).cut = some c ∧ c.no = g.nextCut ∧ c.closer = closer
          ∧ (t.group task).seals = r ∧ (t.inst task vt).meter + (64 + x.uncovered) = x.meter)
    ∧ (∀ c, g.cut = some c →
        (∃ t d, exec (.cairnSeed task) s = .next t ∧ (t.group task).cut = some d ∧ d.no = c.no ∧ d.passed = c.passed
          ∧ (∀ n, n ∈ c.sent → n ∈ d.sent)
          ∧ ∀ n ∈ s.groupNodes task, c.hasPassed n = false →
              (∀ m ∈ s.groupNodes task, c.hasPassed m = false →
                (s.inst task n.1).cfg.stage n.2 ≤ (s.inst task m.1).cfg.stage m.2) →
              (s.inst task n.1).cfg.stage n.2 ≤ 16 → n ∈ d.sent)
        ∧ (∀ vt n x, s.inst? task vt = some x → g.isResident vt x = true → x.nodeLive n = true → n ∈ x.nodes →
            (vt, n) ∈ c.sent → c.hasPassed (vt, n) = false → s.boundary task vt n = true → x.staged = [] →
              ∃ t d, exec (.cairnPassage ⟨task, vt⟩ n) s = .next t ∧ (t.group task).cut = some d
                ∧ d.passed = c.passed ++ [(vt, n)])
        ∧ (s.cutReady task g c = true →
            ∃ t, exec (.cutComplete task) s = .next t ∧ (t.group task).cut = none ∧ (t.group task).lastCut = c.no))

/-! ### Translations, pages and the units (06 R161, R188-R190; 12 R337-R350; 16 R421-R428; 11 R312, R315) -/

/-- A fill that its region's cache holds ends in the tile's cache; a walk ends in the region's cache when the page is valid; a
page fault whose group has drained halts it and writes its record to the ring; a page move ends at the page's die once its
node has performed what it has accepted and every other die that it reaches has invalidated its entry (R335, R337-R339, R344,
R348). The model's own choices enter by log entries 14, 56 and 104. -/
def Obligations.Translations : Prop :=
  (∀ (s : State) (tile i : Nat) (k : Trans) (sl : Slot), ((s.tile tile).fills.drop i).head? = some k →
    s.slot? k.ctx k.key = some sl → (s.region (tile / 16)).cache.any (fun u => Trans.same u { k with key := sl.obj }) = true →
    s.transBad sl.obj k.page = false →
      ∃ t, exec (.translationFill tile i) s = .next t ∧ { k with bad := false, pref := false } ∈ (t.tile tile).cache
        ∧ ∀ u ∈ (t.tile tile).fills, Trans.same u k = false)
  ∧ (∀ (s : State) (r i : Nat) (k : Trans), ((s.region r).walks.drop i).head? = some k → s.transBad k.key k.page = false →
    ((s.objs.get? k.key).any fun o => (o.pages.getD k.page {}).moving.isSome) = false →
      ∃ t, exec (.pageWalk r i) s = .next t ∧ { k with bad := false, pref := false } ∈ (t.region r).cache)
  ∧ (∀ (s : State) (task : Nat) (g : Group) (vt : Fin 16) (node : Node) (opc obj page kind : Nat) (c : Ctx),
    s.group? task = some g → g.stop = some (.page vt node opc obj page kind) → g.draining = true → s.drained task = true →
    s.ctxs.get? g.ctx = some c → c.prod + 1 ≠ c.cons →
      ∃ t d, exec (.pageFault task) s = .next t ∧ (t.group task).state = .halted ∧ (t.group task).stop = none
        ∧ (g.asked ≠ some .preempt → (t.group task).why = some .page) ∧ (g.asked = some .preempt → (t.group task).saved = true)
        ∧ t.ctxs.get? g.ctx = some d ∧ d.prod = c.prod + 1
        ∧ d.ring.get? c.prod.toNat = some (1 + pageRecord task page obj g.ctx c.vf (Node.code node) (Node.eid node) vt.val opc kind * 2 ^ 128))
  ∧ ∀ (s : State) (obj page streak : Nat) (o : Obj) (p : Page), s.objs.get? obj = some o → o.pages.get? page = some p →
    p.moving = some streak → p.die = s.die.toNat → s.nodeBusy obj page = false → (∀ d ∈ p.asked, s.reaches d = false) →
      ∃ (u : State) (q : Page), exec (.pageMoveDone obj page) s = .next u.retryEnded.transmit
        ∧ (u.objs.get? obj).bind (fun o => o.pages.get? page) = some q ∧ q.moving = none ∧ (q.die = p.die ∨ q.die = (if p.mig = 3 then p.home else streak))

/-- The units serve requests; after each turn the hub does what it may. A memory node answers a read with the bytes of its frame
and writes a store's bytes and no others (R19, R174); an atomic engine serves the oldest queued request whose line is hot: an
atomic is answered with the old word and leaves the new one (R185, R190), and a line that a queued request needs is fetched,
in the place of the least recently served line that none needs when 64 are held (R190); a sync unit serves the oldest request
of its queue: SEMADD saturates at the ends of a signed word and marks it, SEMSET sets it (R421, R426, R428); the directory
answers a query (R312, R322); an object that nothing uses is freed (R315); a page whose frame is no frame of the part is not
served. The model's own choices enter by log entries 13, 49 and 103. -/
def Obligations.Units : Prop :=
  (∀ (s : State) (id task : Nat) (a : Acc) (l : Loc) (o : Obj) (ad : Nat), s.accs.get? id = some a → a.task = some task →
    a.queued = false → a.answered = false → s.accReady a = true → s.hubTurn id a = true → s.objs.get? l.obj = some o → s.pageReady l.obj l.byte = true →
    (o.page l.byte).die = s.die.toNat → s.isHot l.obj l.byte = false → s.lacksFrame id = false →
    (∀ i, i < 4 → o.addr (l.byte + i) = some (ad + i) ∧ (o.page (l.byte + i)).dead = false ∧ s.stagedByte task l.obj (l.byte + i) = none) →
      (∀ f, a.req = .rd l f → ∃ (u : State) (x : Acc), exec (.vaultPortServe id) s = .next u.hubWork ∧ u.accs.get? id = some x
        ∧ x.reply = some (extend f (leNat ((List.range f.bytes).map fun i => s.mem.read (ad + i)))) ∧ u.mem = s.mem)
      ∧ ∀ n v, n = 1 ∨ n = 2 ∨ n = 4 → descFe o.desc = false → a.req = .wr l n v → ∃ u : State, exec (.vaultPortServe id) s = .next u.hubWork
        ∧ (∀ i, i < n → u.mem.read (ad + i) = BitVec.ofNat 8 (v / 2 ^ (8 * i)))
        ∧ ∀ b, b < ad ∨ ad + n ≤ b → u.mem.read b = s.mem.read b)
  ∧ (∀ (s : State) (id : Nat), s.lacksFrame id = true → exec (.vaultPortServe id) s = .fault .noFrame)
  ∧ (∀ (s : State) (r id task obj byte k line ad : Nat) (q : List Nat) (a : Acc) (o : Obj) (op : AtOp) (b : Word),
    s.fenced.getLsbD r = false → (s.region r).aq = id :: q → s.accs.get? id = some a → a.task = some task → a.staged = false →
    a.answered = false → a.req = .atom ⟨obj, byte, k⟩ op b → s.lineOfAcc id = some line → line ∈ (s.region r).hot → s.objs.get? obj = some o →
    descFe o.desc = false → (∀ i, i < 4 → o.addr (byte + i) = some (ad + i) ∧ (o.page (byte + i)).dead = false) →
      let old : Word := BitVec.ofNat 32 (leNat ((List.range 4).map fun i => s.mem.read (ad + i)))
      ∃ (u : State) (x : Acc), exec (.atomicEngineServe r []) s = .next u.hubWork ∧ u.accs.get? id = some x ∧ x.reply = some old
        ∧ (u.region r).aq = q.filter (· != id) ∧ (∀ i, i < 4 → u.mem.read (ad + i) = BitVec.ofNat 8 ((op.apply old b).toNat / 2 ^ (8 * i)))
        ∧ ∀ c, c < ad ∨ ad + 4 ≤ c → u.mem.read c = s.mem.read c)
  ∧ (∀ (s : State) (r line id : Nat), id ∈ (s.region r).aq → s.lineOfAcc id = some line → line ∉ (s.region r).hot →
    ((s.region r).hot.length < 64 →
      ∃ t, exec (.hotLineFetch r line) s = .next t ∧ (t.region r).hot = (s.region r).hot ++ [line])
    ∧ ∀ old, 64 ≤ (s.region r).hot.length →
      ((s.region r).hot.find? fun l => !(s.region r).aq.any fun i => s.lineOfAcc i == some l) = some old →
        ∃ t, exec (.hotLineFetch r line) s = .next t ∧ (t.region r).hot = (s.region r).hot.filter (· != old) ++ [line])
  ∧ (∀ (s : State) (r id ctx task : Nat) (q : List Nat) (a : Acc) (m : Fin 64) (c : Ctx) (v : Word), s.fenced.getLsbD r = false →
    (s.region r).sq = id :: q →
    s.accs.get? id = some a → a.task = some task → a.staged = false → (s.group task).img.sems.getLsbD m.val = true →
    s.ctxs.get? ctx = some c →
      let old := (vget c.sems m).val.toInt
      (a.req = .sem ctx m (.add v) → ∃ u : State, exec (.syncUnitServe r []) s = .next u.hubWork
        ∧ (u.sem ctx m).val.toInt = max (-2 ^ 31) (min (2 ^ 31 - 1) (old + v.toInt))
        ∧ ((u.sem ctx m).sat = true ↔ (vget c.sems m).sat = true ∨ old + v.toInt < -2 ^ 31 ∨ 2 ^ 31 - 1 < old + v.toInt))
      ∧ (a.req = .sem ctx m (.set v) → ∃ u : State, exec (.syncUnitServe r []) s = .next u.hubWork ∧ (u.sem ctx m).val = v)
      ∧ (a.req = .sem ctx m (.wait v) → a.answered = false → v.toInt ≤ old →
        ∃ (u : State) (x : Acc), exec (.syncUnitServe r []) s = .next u.hubWork ∧ u.accs.get? id = some x ∧ x.reply = some (vget c.sems m).val))
  ∧ (∀ (s : State) (id task obj sel : Nat) (a : Acc), s.accs.get? id = some a → a.req = .dir (.query obj sel) →
    a.task = some task → s.accReady a = true → a.answered = false →
      ∃ (u : State) (x : Acc), exec (.directoryServe id) s = .next u.hubWork ∧ u.accs.get? id = some x
        ∧ x.reply = some (BitVec.ofNat 32 (s.queryVal obj sel)))
  ∧ ∀ (s : State) (obj : Nat) (o : Obj), s.objs.get? obj = some o → o.st = .reclaiming → s.objBusy obj = false →
      ∃ t, exec (.objectFreed obj) s = .next t ∧ t.objs.get? obj = none ∧ t.mem = s.mem

/-! ### The sequencer of a tile and of a group (10 R281-R309, 14 R373-R396) -/

/-- TILE_ARM makes a tile of a new dispatch ready, its pad zero and its meter full with its P packets, and, once its nodes have
taken their tokens, debits 1,536 drops and arms it; START, CRST, CTXSW, HALTC, DRAIN and FLUSH reach a node, FLUSH emptying
the channels of an element and, of an engine, the buffers that it reads and its bound channel, and counting the data tokens;
RECFG changes the configuration, and parks while the region does not hold its image (R281, R290, R371, R373-R376, R382, R504).
The model's own choices enter by log entries 35, 39 and 53. -/
def Obligations.TileControl : Prop :=
  ∀ (s : State) (l : At) (g : Group), s.group? l.task = some g →
    (∀ k, s.tasks.get? l.task = some k → g.state = .arming → g.stop = none → g.saved = false → k.resume = none → l.vt ∈ g.vts →
      (s.inst l.task l.vt).armed = false → s.admits (s.physRegion g.region) = true → s.argsHere l.task = true →
        ((s.inst l.task l.vt).ready = false → s.hostArmed l.task g l.vt (g.hostOf l.vt).1 = false →
          ∃ t, exec (.tileArm l) s = .next t ∧ (t.inst l.task l.vt).ready = true ∧ (t.inst l.task l.vt).armed = false
            ∧ (t.inst l.task l.vt).meter = 256 * k.p ∧ (t.inst l.task l.vt).cleared = []
            ∧ ∀ a, s.globalTile g (t.inst l.task l.vt) * 2 ^ 18 ≤ a → a < (s.globalTile g (t.inst l.task l.vt) + 1) * 2 ^ 18 →
                t.mem.read a = 0)
        ∧ ((s.inst l.task l.vt).prepared = true → Safety.Covered (s.inst l.task l.vt) 1536 →
          ∃ t, exec (.tileArm l) s = .next t ∧ (t.inst l.task l.vt).armed = true
            ∧ (t.inst l.task l.vt).meter + 1536 = (s.inst l.task l.vt).meter ∧ t.mem = s.mem))
    ∧ ∀ x n, s.inst? l.task l.vt = some x → n ∈ x.nodes →
      (x.armed = true → g.live = true → g.isResident l.vt x = true → n ∈ x.tagged → n ∈ x.cleared → n ∉ x.started →
        ((s.region (s.physRegion g.region)).ingress.any fun p => p.task == l.task) = false →
        ∃ t, exec (.start l n) s = .next t ∧ (t.inst l.task l.vt).started = x.started ++ [n])
      ∧ (x.ready = true → n ∉ x.cleared →
        let zero (c : Ctr) : Prop := c.sel.toNat / 2 ^ 61 % 4 = 2 → c.sel.toNat / 2 ^ 32 % 16 = g.tileOf x → c.val = 0
        ∃ t, exec (.crst l n) s = .next t ∧ n ∈ (t.inst l.task l.vt).cleared
          ∧ (t.inst l.task l.vt).discards.getD (Node.key n) 0 = 0 ∧ (∀ k : Fin 16, zero (vget t.hubCtrs k))
          ∧ ∀ k : Fin 8, zero (vget (t.region (s.physRegion g.region)).ctrs k))
      ∧ (x.ready = true → n ∉ x.tagged → ∃ t, exec (.ctxsw l n) s = .next t ∧ n ∈ (t.inst l.task l.vt).tagged)
      ∧ (g.halts = true → ∃ t, exec (.haltc l n) s = .next t ∧ n ∈ (t.inst l.task l.vt).halted)
      ∧ (g.draining = true → ∃ t, exec (.drain l) s = .next t ∧ (t.inst l.task l.vt).drain = s.drainOf l.task l.vt)
      ∧ (∀ e, n = .elem e → g.state = .committing → s.performedAll l.task = true →
        ∃ t, exec (.flush l n) s = .next t ∧ ∀ c, (vget ((t.inst l.task l.vt).elem e).inq c).toks = [])
      ∧ (g.state = .committing → s.performedAll l.task = true →
        let own (b : Fin 32) : Prop := g.img.consumer x (.buf l.vt b) = some (l.vt, n)
        ∃ t, exec (.flush l n) s = .next t ∧ t.mem = s.mem
          ∧ (∀ b : Fin 32, own b → (t.inst l.task l.vt).buf b.val = []) ∧ (∀ b : Fin 32, ¬own b → (t.inst l.task l.vt).buf b.val = x.buf b.val)
          ∧ (n = .vector ∨ n = .matrix → (t.inst l.task l.vt).discards.getD (Node.key n) 0 = x.discards.getD (Node.key n) 0
              + (((List.range 32).filter fun b => g.img.consumer x (.buf l.vt ⟨b % 32, Nat.mod_lt _ (by decide)⟩) == some (l.vt, n)).map fun b =>
                  ((x.buf b).filter fun k => !Side.ctl k.side).length).sum)
          ∧ (n = .streamA → (t.inst l.task l.vt).sa.bnd.toks = []) ∧ (n = .streamB → (t.inst l.task l.vt).sb.bnd.toks = [])
          ∧ (n = .copy → (t.inst l.task l.vt).cpy.bnd.toks = []))
      ∧ ∀ kid i, s.imageOf g.ctx kid = some i → ((s.region (s.physRegion g.region)).ingress.any fun p => p.task == l.task) = false →
          (s.imageHeld (s.physRegion g.region) g.ctx kid = true → x.armed = true → x.enginesIdle = true →
            s.groupPerformed l.task l.vt = true → g.cut = none → g.flight = [] →
              ∃ t, exec (.recfg l kid) s = .next t ∧ (t.inst l.task l.vt).cfg = i.tiles.getD l.vt.val {}
                ∧ (t.inst l.task l.vt).bufs = x.bufs)
          ∧ (s.imageHeld (s.physRegion g.region) g.ctx kid = false → (s.region (s.physRegion g.region)).ingress.length < 16 →
              ∃ t, exec (.recfg l kid) s = .next t ∧ (t.region (s.physRegion g.region)).ingress
                = (s.region (s.physRegion g.region)).ingress ++ [{ task := l.task, recfg := some (l.vt, kid) }])

/-- A dispatch ends: SHORTFALL retries with more packets or aborts, GROUP_FAULT writes its record and aborts, COMMIT first commits
and then retires, and waits where its debit needs a store that is not built; GROUP_HALT freezes, and aborts a halted group
that the host has asked to abort; DRAIN_COMPLETE halts, or lets a group go on that PARK froze and whose part has left PARKED
meanwhile (R299, R303-R307, R389, R395, R466-R469, R475, R502). The model's own choices enter by log entries 36, 38, 50 and
60. -/
def Obligations.EndsAndHalts : Prop :=
  ∀ (s : State) (task : Nat) (g : Group), s.group? task = some g →
    (∀ vt node opc d k, g.stop = some (.short vt node opc d) → s.quiet task = true → s.tasks.get? task = some k →
      (s.policy k = 0 ∨ 3 ≤ k.rtry → ∃ t, exec (.shortfall task) s = .next t ∧ t.group? task = none)
      ∧ (s.policy k ≠ 0 → k.rtry < 3 → ∃ t j, exec (.shortfall task) s = .next t ∧ t.group? task = none
          ∧ t.tasks.get? task = some j ∧ j.p = retryP (s.policy k) k.p ∧ j.rtry = k.rtry + 1))
    ∧ (∀ code vt node opc slot c, g.stop = some (.fault code vt node opc slot) → s.quiet task = true →
      s.ctxs.get? g.ctx = some c → c.prod + 1 ≠ c.cons →
        ∃ t d, exec (.groupFault task) s = .next t ∧ t.ctxs.get? g.ctx = some d ∧ d.prod = c.prod + 1
          ∧ d.ring.get? c.prod.toNat = some (2 + faultRecord task g.lastCut code g.ctx c.vf (Node.code node) (Node.eid node)
              vt.val opc slot * 2 ^ 128)
          ∧ (c.fhold = false → t.group? task = none))
    ∧ (g.live = true → g.cut = none → g.seals = [] → s.quiet task = true → (∀ vt ∈ g.vts, (s.inst task vt).ended = true) →
        ∃ t, exec (.commit task) s = .next t ∧ (t.group task).state = .committing)
    ∧ (g.state = .committing → g.stop = none → s.performedAll task = true →
        (s.commitWaits task g = [] →
          ∃ t, exec (.commit task) s = .next t ∧ t.group? task = none ∧ ∀ vt : Fin 16, t.inst? task vt = none)
        ∧ (s.commitWaits task g ≠ [] → ∃ t, exec (.commit task) s = .next t ∧ (t.group task).state = .committing ∧ t.mem = s.mem
          ∧ ∀ vt ∈ s.commitWaits task g, (s.inst? task vt).isSome = true →
              (t.inst task vt).handover = true ∧ (t.inst task vt).meter = (s.inst task vt).meter))
    ∧ (∀ w, g.why = some w → g.live = true → s.mayFreeze task g w = true → g.asked ≠ some .abort →
        ∃ t, exec (.groupHalt task) s = .next t ∧ (t.group task).draining = true ∧ t.mem = s.mem)
    ∧ (g.asked = some .abort → s.quiet task = true → ∃ t, exec (.groupHalt task) s = .next t ∧ t.group? task = none)
    ∧ (g.draining = true → s.drained task = true → g.stop = none →
        (g.why ≠ some .park ∨ s.parkedNow = true →
          ∃ t, exec (.drainComplete task) s = .next t ∧ (t.group task).state = .halted ∧ t.mem = s.mem
            ∧ (g.asked = some .preempt → (t.group task).saved = true))
        ∧ (g.why = some .park → s.parkedNow = false → g.fold = 1 →
          ∃ t, exec (.drainComplete task) s = .next t ∧ (t.group task).state = .running ∧ (t.group task).draining = false ∧ t.mem = s.mem))

/-- STORE_BUILD builds the next half, at most 512 packets, and ends a wait at handover; STORE_UNDERRUN stops the group with fault
0x11; the watchdog counts while the group runs or commits and no tile waits at handover, and at its limit stops the group with
0x70, or opens an episode where a remote access waits; a remote access whose retrain has expired stops it with 0x60
(R285-R288, R470). The model's own choices enter by log entry 53. -/
def Obligations.StoresAndTimers : Prop :=
  (∀ (s : State) (l : At) (g : Group) (x : Inst), s.group? l.task = some g → s.inst? l.task l.vt = some x →
    (x.armed = true → g.state ≠ .halted → s.admits (s.physRegion g.region) = true → x.unspent < 2 →
      x.unbuilt (s.packets l.task) ≠ 0 →
        ∃ t, exec (.storeBuild l) s = .next t ∧ (t.inst l.task l.vt).stores =
          x.stores ++ [⟨min 512 ((x.unbuilt (s.packets l.task) + 255) / 256), s.pst == .boost⟩]
          ∧ (t.inst l.task l.vt).handover = false)
    ∧ (g.live = true → x.unspent ≠ 0 →
        ∃ t, exec (.storeUnderrun l) s = .next t ∧ (t.group l.task).stop = some (.fault 0x11 l.vt .seq 0 0)
          ∧ (t.region (s.physRegion g.region)).undr.toNat =
              min (2 ^ 32 - 1) ((s.region (s.physRegion g.region)).undr.toNat + 1)))
  ∧ ∀ (s : State) (task : Nat) (g : Group), s.group? task = some g →
    (∀ n, (g.state = .running ∨ g.state = .folded ∨ g.state = .committing) → g.stop = none → s.pst ≠ .emergency →
      s.atHandover task g = false → (s.ctx g.ctx).wdlim ≠ 0 →
      (g.wd + n < (s.ctx g.ctx).wdlim.toNat →
        ∃ t, exec (.watchdogExpiry task n) s = .next t ∧ (t.group task).wd = g.wd + n ∧ (t.group task).stop = none)
      ∧ ((s.ctx g.ctx).wdlim.toNat ≤ g.wd + n → s.remoteWaits task = [] →
        ∃ t, exec (.watchdogExpiry task n) s = .next t ∧ (t.group task).stop = some (.fault 0x70 0 .seq 0 0))
      ∧ ∀ id a r c, (s.ctx g.ctx).wdlim.toNat ≤ g.wd + n → s.remoteWaits task = (id, a) :: r → g.episode = none →
        s.ctxs.get? g.ctx = some c → c.prod + 1 ≠ c.cons →
          ∃ t d, exec (.watchdogExpiry task n) s = .next t ∧ (t.group task).episode = some id ∧ (t.group task).stop = none
            ∧ t.ctxs.get? g.ctx = some d ∧ d.prod = c.prod + 1)
    ∧ ∀ id a, g.episode = some id → s.accs.get? id = some a → a.remote = true → a.reply = none → g.stop = none →
        ∃ t, exec (.remoteRetrainExpiry task) s = .next t
          ∧ (t.group task).stop = some (.fault 0x60 a.vt a.node a.opc a.rule)

/-! ### The dispatcher and folding (10 R309; 13 R359, R369-R371; 14 R391-R393; 15 R417) -/

/-- DISPATCH_DECISION places the one task that fits (R417): its packets are debited, its group has the image and the context;
IMAGE_FETCH_DONE makes a slot READY when the image passes its checks, and reports the fault and empties it when not (R370).
The model's own choices enter by log entries 33, 37 and 54. -/
def Obligations.Dispatches : Prop :=
  (∀ (s : State) (no lr : Nat) (t : Task) (i : Image), s.places = true →
    let u := ((List.range 64).foldl State.startFetch s).admitAll
    u.savedFits = none → (u.tasks.filter fun x => u.taskFits x.2) = [(no, t)] → u.imageOf t.ctx t.trec.kid = some i →
    u.chooseRegion t.ctx t.trec.kid t.trec.gw t.trec.gh = some lr → (u.ctx t.ctx).acct < 2 ^ 48 →
    t.p * (t.trec.gw * t.trec.gh) ≤ (u.ctx t.ctx).acct →
      ∃ v g j, exec .dispatchDecision s = .next v ∧ v.group? no = some g ∧ g.ctx = t.ctx ∧ g.img = i ∧ g.region = lr
        ∧ v.tasks.get? no = some j ∧ j.state = .placed
        ∧ (v.ctx t.ctx).acct + t.p * (t.trec.gw * t.trec.gh) = (u.ctx t.ctx).acct)
  ∧ ∀ (s : State) (r : Nat) (slot : Fin 4) (x : Ctx) (k : Kernel),
    let c := vget (s.region r).caches slot
    c.st = .fetching → s.ctxs.get? c.ctx = some x → x.kernels.get? c.kid = some k → (s.region r).ingress = [] →
      (fetchBad k.bytes c.kid = none → ∃ t, exec (.imageFetchDone r slot) s = .next t ∧ t.mem = s.mem
        ∧ vget (t.region r).caches slot = { c with st := .ready, age := s.nextId })
      ∧ ∀ b, fetchBad k.bytes c.kid = some b → x.prod + 1 ≠ x.cons →
        ∃ t d, exec (.imageFetchDone r slot) s = .next t ∧ vget (t.region r).caches slot = {}
          ∧ t.ctxs.get? c.ctx = some d ∧ d.prod = x.prod + 1

/-- FOLD seals a running group first, and moves a group that has halted for it onto its hosts once its engines are idle and its
accesses have performed; FOLD_SWAP makes the next copy with work resident for 128 drops of the host's surcharge when the
resident one has come to rest; UNFOLD takes the free tiles at a completed cut, and moves a halted group back (R309, R382,
R391-R393). The model's own choices enter by log entries 34, 35 and 51. -/
def Obligations.Folds : Prop :=
  ∀ (s : State) (task : Nat) (g : Group), s.group? task = some g →
    (∀ four, g.live = true → g.fold = 1 → g.cut = none → g.seals = [] → g.why = none →
      Safety.Covered (s.inst task 0) (64 + (s.inst task 0).uncovered) →
        ∃ t c, exec (.fold task four) s = .next t ∧ (t.group task).cut = some c ∧ c.no = g.nextCut ∧ c.shrink = some four)
    ∧ (∀ four : Bool, g.state = .halted → g.why = some (.shrink four) → (if four then g.img.alt4 else g.img.alt2) ≠ [] →
      s.quiet task = true → (∀ vt ∈ g.vts, (s.inst task vt).enginesIdle = true ∧ s.restPerformed task vt = true) →
      s.imageHeld (s.physRegion g.region) g.ctx g.img.kid = true →
      let f := if four then 4 else 2
      f * g.img.staged ≤ 1024 → 16 * (g.img.gsz / f) ≤ (s.ctx g.ctx).acct → (s.ctx g.ctx).acct < 2 ^ 48 →
        ∃ t, exec (.fold task four) s = .next t ∧ (t.group task).fold = f ∧ (t.group task).state = .folded
          ∧ (t.ctx g.ctx).acct + 16 * (g.img.gsz / f) = (s.ctx g.ctx).acct)
    ∧ (∀ host v, g.live = true → g.fold ≠ 1 → s.hostQuiet task g host = true → s.nextSlot task g host = some v → 128 ≤ g.sur.getD host 0 →
        ∃ t, exec (.foldSwap task host) s = .next t ∧ (t.group task).resident.get? host = some v.val
          ∧ (t.group task).sur.get? host = some (g.sur.getD host 0 - 128))
    ∧ (g.live = true → g.fold ≠ 1 → g.cut = none → g.atCut = true → g.why = none → g.x0 + g.img.gw ≤ 4 → g.y0 + g.img.gh ≤ 4 →
      (∀ n ∈ s.vacated g, (s.tile n).owner = none) →
        ∃ t, exec (.unfold task) s = .next t ∧ (t.group task).why = some .unfold
          ∧ ∀ n ∈ s.vacated g, (t.tile n).owner = some task)
    ∧ ∀ i, g.state = .halted → g.why = some .unfold → s.imageOf g.ctx g.img.kid = some i →
        ∃ t, exec (.unfold task) s = .next t ∧ (t.group task).fold = 1 ∧ (t.group task).state = .running
          ∧ (t.group task).sur = [] ∧ (t.group task).resident = []

/-! ### Power and bring-up (20 R493-R503; 21 R512-R519; 01 R25-R30) -/

/-- ARBITRATION_PERIOD moves the snowpack, the power state and the admitted slots: a region with no half waiting gets none, the
waiting ones the same number each, and those left over one each in cyclic order; above the budget it enters THROTTLE, with
half width, and leaves it below 90 %; POWER_ALARM counts each condition that begins and enters EMERGENCY at once, and
EMERGENCY_EXIT leaves it; RAIL_REMOVED loses all that is volatile (R494-R501). The model's own choices enter by log entries 63
and 64. -/
def Obligations.Power : Prop :=
  ∀ (s : State),
    (∀ x : PowerSample, s.pst ≠ .off →
      let n := min 600000000000 (s.snow + 1500 * x.ns - x.draw * x.ns)
      let boosts : Prop := s.boosten = true ∧ s.oc = false ∧ s.droop = false ∧ s.supin = false ∧ 0 < n
      let waiting := s.inService.filter s.waitsCharge
      ∃ t, exec (.arbitrationPeriod x) s = .next t ∧ t.snow = n ∧ t.mem = s.mem
        ∧ (∀ r, r < 64 → s.waitsCharge r = false → (t.region r).adm = 0)
        ∧ (t.pst.active = true → ∃ each left, (waiting ≠ [] → left < waiting.length)
            ∧ let more := (afterRegion s.lastLeft waiting).take left
              t.lastLeft = more.getLastD s.lastLeft
              ∧ ∀ r ∈ waiting, (t.region r).adm = slotMask (if r ∈ more then each + 1 else each))
        ∧ ((s.pst = .run ∨ s.pst = .boost) → (s.budget < x.demand → t.pst = .throttle)
            ∧ (x.demand ≤ s.budget → (boosts → t.pst = .boost) ∧ (¬boosts → t.pst = .run)))
        ∧ (s.pst = .throttle → (s.budget * 9 ≤ x.demand * 10 → t.pst = .throttle)
            ∧ (x.demand * 10 < s.budget * 9 → (boosts → t.pst = .boost) ∧ (¬boosts → t.pst = .run)))
        ∧ (∀ r, (t.region r).half = decide (t.pst = .throttle))
        ∧ ((s.pst = .parked ∨ s.pst = .emergency) → t.pst = s.pst ∧ ∀ r, (t.region r).adm = 0))
    ∧ (∀ x : Alarms, s.pst ≠ .off →
      let n := countTrue [x.oc && !s.holds.oc, x.droop && !s.holds.droop, x.supin && !s.holds.supin]
      ∃ t, exec (.powerAlarm x) s = .next t ∧ t.holds = x ∧ t.oc = (s.oc || x.oc) ∧ t.droop = (s.droop || x.droop)
        ∧ t.supin = (s.supin || x.supin) ∧ t.causeCnt.toNat = min 255 (s.causeCnt.toNat + n) ∧ t.mem = s.mem
        ∧ (0 < n → t.pst = .emergency ∧ ∀ r, (t.region r).adm = 0) ∧ (n = 0 → t.pst = s.pst ∧ t.regions = s.regions))
    ∧ (s.pst = .emergency → s.holds = ⟨false, false, false⟩ →
      ∃ t, exec .emergencyExit s = .next t ∧ t.pst = (if s.before = .boost then .run else s.before) ∧ t.mem = s.mem
        ∧ ∀ r, (t.region r).half = decide (t.pst = .throttle))
    ∧ ∃ t, exec .railRemoved s = .next t ∧ t.pst = .off ∧ t.mem = [] ∧ t.groups = [] ∧ t.ctxs = [] ∧ t.keys = []
        ∧ t.shocks = s.shocks ∧ t.sccount = s.sccount ∧ t.fenced = s.fenced ∧ t.good = s.good ∧ t.cls = s.cls ∧ t.fw = s.fw
        ∧ t.minVer = s.minVer

/-- PWCAUSE_CLEAR clears by writing 1 and leaves a bit whose condition holds; PARK freezes every running group, for its own reason
or for PARK, and UNPARK starts those that it has halted, while one that still drains goes on draining (R475, R500, R501,
R503). The model's own choices enter by log entries 60 and 64. -/
def Obligations.PowerWrites : Prop :=
  ∀ (s : State) (w : Dword), s.pst ≠ .off → s.sec ≠ .failed → Safety.HostTurn s .pf →
    (∃ t, exec (.pwcauseClear w) s = .next t ∧ t.oc = (s.oc && (!w.getLsbD 0 || s.holds.oc))
      ∧ t.droop = (s.droop && (!w.getLsbD 1 || s.holds.droop)) ∧ t.supin = (s.supin && (!w.getLsbD 2 || s.holds.supin))
      ∧ t.causeCnt = (if t.oc = false ∧ t.droop = false ∧ t.supin = false then 0 else s.causeCnt) ∧ t.mem = s.mem)
    ∧ (∃ t, exec (.park w) s = .next t ∧ t.park = true ∧ t.mem = s.mem
      ∧ (s.pst.active = true → t.pst = .parked ∧ ∀ task g, s.group? task = some g → g.live = true →
          (t.group task).draining = true ∧ (t.group task).why = some (match g.why with
            | none | some (.shrink _) => .park
            | some w => w)))
    ∧ ∃ t, exec (.unpark w) s = .next t ∧ t.park = false ∧ t.mem = s.mem
      ∧ (s.pst = .parked → t.pst = .run ∧ ∀ task g, s.group? task = some g → g.why = some .park →
          (g.state = .halted → (t.group task).why = none ∧ (t.group task).state = (if g.fold = 1 then .running else .folded))
          ∧ (g.state ≠ .halted → (t.group task).why = some .park ∧ (t.group task).draining = g.draining))

/-- POWER_ON and PART_RESET boot; what fails verification leaves the part FAILED with its reason; a shock is logged; a spring
check is refused while a context is resident, and sets the grade when it ends (R28-R30, R512, R516-R519). The model's own
choices enter by log entries 65 and 66. -/
def Obligations.BringUp : Prop :=
  ∀ (s : State),
    (s.pst = .off → s.springing = false →
      ∃ t, exec .powerOn s = .next t ∧ t.mem = [] ∧ t.snow = 600000000000 ∧ t.causeCnt = 0
        ∧ (s.fwFault s.fw = 0 → t.sec = (if s.devFuse then .development else .production) ∧ t.badBoots = 0
            ∧ (s.shockPend = false → t.pst = .run ∧ ∀ n : Fin 8, (vget t.lnks n).st = .training)
            ∧ (s.shockPend = true → t.springing = true ∧ t.pst = .off))
        ∧ (s.fwFault s.fw ≠ 0 → t.sec = .failed ∧ t.bootReason = s.fwFault s.fw
            ∧ t.badBoots.toNat = min (2 ^ 32 - 1) (s.badBoots.toNat + 1)))
    ∧ (s.pst ≠ .off ∨ s.springing = true →
      ∃ t, exec .partReset s = .next t ∧ t.mem = [] ∧ t.groups = [] ∧ t.snow = s.snow ∧ t.oc = s.oc ∧ t.droop = s.droop
        ∧ t.supin = s.supin ∧ t.causeCnt = s.causeCnt ∧ t.draw = 0 ∧ t.shocks = s.shocks ∧ t.shockPeak = s.shockPeak
        ∧ (∀ n : Fin 8, (vget t.lnks n).retrn = (vget s.lnks n).retrn ∧ (vget t.lnks n).crcerr = (vget s.lnks n).crcerr)
        ∧ (∀ r, (t.region r).undr = (s.region r).undr)
        ∧ (s.fwFault s.fw = 0 → s.shockPend = false → t.pst = .run))
    ∧ (∀ g, 15 < g → ∃ t, exec (.shockEvent g) s = .next t ∧ t.shocks.toNat = min (2 ^ 32 - 1) (s.shocks.toNat + 1)
        ∧ t.mem = s.mem ∧ t.shockPend = true ∧ t.shockPeak.toNat = max s.shockPeak.toNat (min 65535 g)
        ∧ (s.springing = true → ∃ q, t.shockNew = some q ∧ q.toNat = max (s.shockNew.getD 0).toNat (min 65535 g)))
    ∧ (s.pst ≠ .off → s.sec ≠ .failed → s.springing = false → Safety.HostTurn s .pf →
      ((s.ctxsIn .resident = [] → ∃ t, exec .springCheck s = .next t ∧ t.springing = true ∧ t.hubStat = 7)
       ∧ (s.ctxsIn .resident ≠ [] → exec .springCheck s = .next { s with hubStat := 5 })))
    ∧ ∀ fenced router, s.springing = true →
      let n := goodOf fenced
      ∃ t, exec (.springCheckDone fenced router) s = .next t ∧ t.springing = false ∧ t.fenced = fenced ∧ t.good.toNat = n
        ∧ t.cls = (if router = true ∨ n < 56 then 3 else if n < 60 then 2 else if n < 64 then 1 else 0)
        ∧ t.sccount.toNat = min 65535 (s.sccount.toNat + 1) ∧ t.shockPend = s.shockNew.isSome ∧ t.shockPeak = s.shockNew.getD 0
        ∧ (s.pst ≠ .off → t.pst = s.pst) ∧ (s.pst = .off → t.pst = .run)

/-! ### The host's windows (15 R400-R402; 16 R426; 18 R458, R467-R469; 11 R331; 12 R347; 13 R368; 21 R509-R511) -/

/-- LAUNCH accepts a record or refuses it with its code; QDESC_WRITE opens and closes a queue; ACCADD clamps and saturates; a
write to SEMm is a request to the semaphore's unit, which takes it; FQIDX takes what is written (R400, R402, R426, R458,
R468). The model's own choices enter by log entries 58, 59 and 103. -/
def Obligations.HostTasks : Prop :=
  (∀ (s : State) (r id ctx : Nat) (q : List Nat) (a : Acc) (m : Fin 64) (c : Ctx) (v : Word) (sat : Bool), s.fenced.getLsbD r = false →
    (s.region r).sq = id :: q →
    s.accs.get? id = some a → a.task = none → a.staged = false → s.ctxs.get? ctx = some c → a.req = .sem ctx m (.host v sat) →
      ∃ u : State, exec (.syncUnitServe r []) s = .next u.hubWork ∧ u.sem ctx m = ⟨v, sat⟩)
  ∧ ∀ (s : State) (h : HostAt) (c : Ctx), s.window? h = some c → c.state ≠ .resetting → Safety.HostTurn s h.via →
    (∀ b r, b.length = 64 → TaskRec.parse (leNat b) = some r → s.launchCode h.ctx r = 0 →
      ∃ t j d, exec (.launch h b) s = .next t ∧ t.tasks.get? (s.lastTask + 1).toNat = some j ∧ j.trec = r ∧ j.ctx = h.ctx
        ∧ j.inst = 0 ∧ t.lastTask = s.lastTask + BitVec.ofNat 32 (r.sprm1 + 1) ∧ t.ctxs.get? h.ctx = some d ∧ d.acc = c.acc + 1
        ∧ (vget d.queues r.queue).count = (vget c.queues r.queue).count + (r.sprm1 + 1))
    ∧ (∀ b r, b.length = 64 → TaskRec.parse (leNat b) = some r → s.launchCode h.ctx r ≠ 0 →
      ∃ t d, exec (.launch h b) s = .next t ∧ t.tasks = s.tasks ∧ t.ctxs.get? h.ctx = some d ∧ d.ref = min 65535 (c.ref + 1)
        ∧ d.last = s.launchCode h.ctx r)
    ∧ (∀ q w, let old := vget c.queues q
      let state := field w.toNat 63 62
      ∃ t d, exec (.qdescWrite h q w) s = .next t ∧ t.mem = s.mem ∧ t.ctxs.get? h.ctx = some d
        ∧ (∀ p, p ≠ q → vget d.queues p = vget c.queues p)
        ∧ let new := vget d.queues q
          let taken : Prop := new.st = 1 ∧ new.alim = field w.toNat 48 32 ∧ new.rmax = field w.toNat 7 6 ∧ new.wm1 = field w.toNat 5 4
            ∧ new.pmax = field w.toNat 3 0
          (old.st = 0 → state = 1 → 1 ≤ field w.toNat 48 32 → taken ∧ new.count = 0)
            ∧ (old.st = 1 → state = 1 → 1 ≤ field w.toNat 48 32 → taken ∧ new.count = old.count)
            ∧ (old.st = 1 → state = 1 → field w.toNat 48 32 = 0 → new = old)
            ∧ (old.st = 1 → state = 2 → new = { old with st := 2 })
            ∧ (old.st = 2 → state = 1 → new.st = 1 ∧ new.count = old.count)
            ∧ (old.st = 2 → state = 0 → old.count = 0 → new.st = 0)
            ∧ (old.st = 0 → state ≠ 1 → new = old) ∧ (old.st = 1 → state ≠ 1 → state ≠ 2 → new = old)
            ∧ (old.st = 2 → state ≠ 1 → (state ≠ 0 ∨ old.count ≠ 0) → new = old))
    ∧ (∀ w, ∃ t d, exec (.accadd h w) s = .next t ∧ t.ctxs.get? h.ctx = some d
        ∧ (d.acct : Int) = min (2 ^ 48 - 1) (max 0 ((c.acct : Int) + w.toInt)))
    ∧ (∀ m w, ∃ t a, exec (.hostSemWrite h m w) s = .next t ∧ t.accs.get? s.nextId = some a
        ∧ a.req = .sem h.ctx m (.host (w.setWidth 32) (w.getLsbD 63)) ∧ a.slot = 1032 ∧ a.order = .rel ∧ t.ctxs = s.ctxs)
    ∧ ∀ w, ∃ t, exec (.fqidxWrite h w) s = .next t
        ∧ t.ctxs.get? h.ctx = some { c with cons := BitVec.ofNat 8 (field w.toNat 15 8) }

/-- RESUME restarts a group that waits for its host, REQUEUE takes one that a page fault or HALT has halted out of its rectangle,
ABORT ends it, HALT and PREEMPT ask a running group to halt; GRPSTAT tells (R351, R467, R469). The model's own choices enter
by log entry 60. -/
def Obligations.HostGroups : Prop :=
  ∀ (s : State) (h : HostAt) (c : Ctx) (task : Word) (g : Group), s.window? h = some c → c.state ≠ .resetting →
    s.group? task.toNat = some g → g.ctx = h.ctx → Safety.HostTurn s h.via →
    (g.waitsHost = true → s.pst ≠ .parked →
      ∃ t, exec (.resume h task) s = .next t ∧ (t.group task.toNat).state = (if g.fold = 1 then .running else .folded)
        ∧ (t.group task.toNat).why = none ∧ (t.ctx h.ctx).grpstat = 0 ∧ t.mem = s.mem)
    ∧ (g.waitsHost = true → g.why = some .page ∨ g.why = some .halt →
      ∃ t, exec (.requeue h task) s = .next t ∧ (t.group task.toNat).saved = true ∧ (t.group task.toNat).state = .halted
        ∧ (t.ctx h.ctx).grpstat = 0 ∧ (∀ n, (s.tile n).owner = some task.toNat → (t.tile n).owner = none))
    ∧ (g.state = .halted → g.saved = false → s.quiet task.toNat = true →
      ∃ t, exec (.abort h task) s = .next t ∧ t.group? task.toNat = none ∧ (t.ctx h.ctx).grpstat = 0)
    ∧ (g.live = true → g.why = none → s.invasive g.ctx = true → s.pst ≠ .emergency →
      ∃ t, exec (.halt h task) s = .next t ∧ (t.group task.toNat).why = some .halt ∧ (t.group task.toNat).asked = some .halt
        ∧ (t.ctx h.ctx).grpstat = 7 ∧ t.mem = s.mem)
    ∧ (s.invasive g.ctx = false →
      ∃ t, exec (.halt h task) s = .next t ∧ t.groups = s.groups ∧ (t.ctx h.ctx).grpstat = 6)
    ∧ (g.live = true → g.why = none →
      ∃ t, exec (.preempt h task) s = .next t ∧ (t.group task.toNat).why = some .preempt
        ∧ (t.group task.toNat).asked = some .preempt ∧ (t.ctx h.ctx).grpstat = 7 ∧ t.mem = s.mem)

/-- The directory's window: each operation has its effect and DIRSTAT its result and status (R331, R509, R510). The model's own
choices enter by log entry 57. -/
def Obligations.HostDirectory : Prop :=
  ∀ (s : State) (h : HostAt) (c : Ctx) (w : Dword), s.window? h = some c → c.state ≠ .resetting → Safety.HostTurn s h.via →
    let op := field w.toNat 63 60
    let name : Word := w.setWidth 32
    let at0 := field w.toNat 55 44
    let arg := field w.toNat 59 56
    let stat (t : State) (v : Nat) : Prop := (t.ctx h.ctx).dirstat = BitVec.ofNat 64 (v % 2 ^ 32 * 2 ^ 32)
    (∀ o n, op = 1 → nameWait name = false → nameId name ≠ 0 → (s.name h.ctx (nameId name)).obj = some o →
      s.freeSlot h.ctx = some n →
        ∃ t, exec (.hostOpen h w) s = .next t ∧ stat t n ∧ t.slots.get? (slotKey h.ctx n) = some { obj := o } ∧ t.mem = s.mem)
    ∧ (∀ y, op = 2 → s.slot? h.ctx at0 = some y → y.st = .opened →
        ∃ t, exec (.hostClose h w) s = .next t ∧ stat t 0 ∧ t.slots.get? (slotKey h.ctx at0) = none ∧ t.mem = s.mem)
    ∧ (∀ b, op = 3 → bindEntry (s.hostClosable h.ctx) name (BitVec.ofNat 32 at0) false = .ok b → s.bindsFull h.ctx [b] = false →
        ∃ t, exec (.hostBind h w) s = .next t ∧ stat t 0 ∧ (t.name h.ctx b.name).obj = b.obj ∧ t.mem = s.mem)
    ∧ (∀ b, op = 4 → bindEntry (s.hostClosable h.ctx) name 0 true = .ok b → s.hasName h.ctx b.name = true →
        ∃ t, exec (.hostUnbind h w) s = .next t ∧ stat t 0 ∧ (t.name h.ctx b.name).obj = none ∧ t.mem = s.mem)
    ∧ (∀ l, op = 5 → arg < 8 → bindList (s.hostClosable h.ctx) c.dirBytes (arg + 1) = .ok l → sameName l = false →
      s.bindsFull h.ctx (l.filter fun b => b.obj.isSome || s.hasName h.ctx b.name) = false →
        ∃ t, exec (.hostRebind h w) s = .next t ∧ stat t 0 ∧ (∀ b ∈ l, (t.name h.ctx b.name).obj = b.obj) ∧ t.mem = s.mem)
    ∧ (∀ y, op = 6 → arg ≤ 12 → s.hostSlot h.ctx at0 = some y →
        ∃ t, exec (.hostQuery h w) s = .next t ∧ stat t (s.queryVal y.obj arg) ∧ t.objs = s.objs ∧ t.mem = s.mem)
    ∧ (op = 7 →
      let d := leNat (c.dirBytes.take 32)
      descInvalid d = false → s.keyLoaded h.ctx d = true → s.canMake h.ctx d 0 (s.home h.ctx) = true →
        ∃ t n id o, exec (.hostMkobj h w) s = .next t ∧ s.freeSlot h.ctx = some n ∧ stat t n
          ∧ t.slots.get? (slotKey h.ctx n) = some { obj := id } ∧ t.objs.get? id = some o ∧ o.desc = d ∧ o.ctx = h.ctx
          ∧ o.st = .shared ∧ s.objs.get? id = none)
    ∧ (s.observes = true → ∃ t, exec (.direntRead h) s = .next t
        ∧ t.readData = BitVec.ofNat 64 (slotEntry (s.slot? h.ctx (c.dirsel.toNat % 4096))) ∧ t.ctxs = s.ctxs)
    ∧ (s.observes = false → ∃ t, exec (.direntRead h) s = .next t ∧ t.readData = 0
        ∧ (t.ctx h.ctx).dirstat.toNat = c.dirstat.toNat / 8 * 8 + 6)

/-- The page window, the kernel window and the data aperture: PGIN and PGOUT move a page's bytes between its frame and host
memory, at once when no operation is in progress and no other die can be reached; with other dies PGIN first asks them (R339);
PGUNPIN clears PIN and MIG; PGREAD reads the entry; a kernel is registered where its context's area has room, and unloaded;
the aperture reads and stores the word, half word or byte at its offset (R346, R347, R368, R510, R511). The model's own
choices enter by log entries 56, 57, 61, 121 and 125. -/
def Obligations.HostPagesAndKernels : Prop :=
  ∀ (s : State) (h : HostAt) (c : Ctx), s.window? h = some c → c.state ≠ .resetting → Safety.HostTurn s h.via →
    (∀ (w : Dword) (o : Obj) (p : Page), s.pgops = [] →
      let op := field w.toNat 63 60
      let obj := field w.toNat 31 16
      let j := field w.toNat 51 32
      let page (t : State) : Option Page := (t.objs.get? obj).bind fun o => o.pages.get? j
      s.objs.get? obj = some o → o.ctx = h.ctx → j < descPages o.desc → o.pages.get? j = some p →
      (∀ loc frame, op = 1 → p.v = false → s.placePage s.usedFrames (descPlace o.desc) o.tile o.region j = some (loc, frame) →
        (∀ x ∈ s.tasks, x.2.ended = false ∧ x.2.openSlots = 0) → s.others.filter s.reaches = [] →
          ∃ t q, exec (.pgin h w) s = .next t ∧ page t = some q ∧ q.v = true ∧ q.drt = false ∧ q.die = s.die.toNat ∧ q.loc = loc
            ∧ q.frame = frame ∧ (t.ctx h.ctx).pgst = 0
            ∧ ∀ a, p.dead = false → frameAddr loc frame = some a →
                ∀ i, i < 65536 → t.mem.read (a + i) = s.hostMem.read (c.pgaddr.toNat + i))
      ∧ (∀ x : Nat × Nat, op = 1 → p.v = false → s.placePage s.usedFrames (descPlace o.desc) o.tile o.region j = some x →
        s.others.filter s.reaches ≠ [] →
          ∃ t, exec (.pgin h w) s = .next t ∧ page t = some p ∧ (t.ctx h.ctx).pgst = 7 ∧ t.mem = s.mem
            ∧ t.pgops = [{ ctx := h.ctx, pf := h.via == .pf, op := .pgin, obj := obj, page := j,
                           stage := .asked (s.others.filter s.reaches) }])
      ∧ (∀ a, op = 2 → p.moving = none → p.pin = false → o.isFresh = false → p.v = true → s.pageBusy obj j = false →
        s.nodeBusy obj j = false → s.others.filter s.reaches = [] → p.die = s.die.toNat → p.dead = false → frameAddr p.loc p.frame = some a →
          ∃ t q, exec (.pgout h w) s = .next t ∧ page t = some q ∧ q.v = false ∧ (t.ctx h.ctx).pgst = 0
            ∧ frameNo p.loc p.frame ∉ t.usedFrames ∧ ∀ i, i < 65536 → t.hostMem.read (c.pgaddr.toNat + i) = s.mem.read (a + i))
      ∧ (op = 3 → h.via = .pf →
          ∃ t, exec (.pgunpin h w) s = .next t ∧ page t = some { p with pin := false, mig := 0 } ∧ (t.ctx h.ctx).pgst = 0
            ∧ t.mem = s.mem)
      ∧ (op = 4 → ∃ t, exec (.pgread h w) s = .next t ∧ (t.ctx h.ctx).pgstat = BitVec.ofNat 64 (pageEntry o.desc s.die.toNat p)
            ∧ (t.ctx h.ctx).pgst = 0 ∧ t.objs = s.objs))
    ∧ (∀ kid, kid < 4096 → c.kernels.get? kid = none →
      let at0 := c.kaddr.toNat
      let size := leNat (s.hostMem.reads (at0 + 4) 4)
      64 ≤ size → size ≤ 196608 → imageStep1 (s.hostMem.reads at0 size) = 0 →
        let held := (c.kernels.map fun k => k.2.bytes.length).sum
        ∃ t, exec (.kernelRegister h kid) s = .next t ∧ t.mem = s.mem
          ∧ (held + size ≤ Config.kernelArea → (t.ctx h.ctx).kstat = 0
            ∧ (t.ctx h.ctx).kernels.get? kid = some { bytes := s.hostMem.reads at0 size })
          ∧ (Config.kernelArea < held + size → (t.ctx h.ctx).kstat = 2 ∧ (t.ctx h.ctx).kernels = c.kernels))
    ∧ (∀ kid k, c.kernels.get? kid = some k → k.st = .loaded →
      ∃ t, exec (.kernelUnload h kid) s = .next t ∧ (t.ctx h.ctx).kstat = 0
        ∧ (t.ctx h.ctx).kernels.get? kid =
            (if s.tasks.any (fun x => x.2.ctx == h.ctx && x.2.trec.kid == kid) then some { k with st := .retiring } else none))
    ∧ ∀ off, (s.aperture c h.ctx off = none → exec (.apertureRead h off) s = .next { s with readData := 0xFFFFFFFF })
      ∧ ∀ obj o byte, s.aperture c h.ctx off = some (obj, o, byte) → (o.page byte).moving = none → (o.page byte).die = s.die.toNat →
        s.isHot obj byte = false → (∀ x ∈ s.accs, x.2.slot ≠ 1032) →
        let n := apertureSize off
        ((∃ t, exec (.apertureRead h off) s = .next t ∧ t.readData = BitVec.ofNat 64 (s.readObj none obj o byte n).1 ∧ t.mem = s.mem)
        ∧ ∀ w a, descWr o.desc = true → descFe o.desc = false → (o.page byte).dead = false →
          (∀ i, i < n → o.addr (byte + i) = some (a + i)) →
            ∃ t, exec (.apertureWrite h off w) s = .next t ∧ (∀ i, i < n → t.mem.read (a + i) = BitVec.ofNat 8 (w.toNat / 2 ^ (8 * i)))
              ∧ ∀ b, b < a ∨ a + n ≤ b → t.mem.read b = s.mem.read b)

/-! ### Contexts, security, registers (18 R454, R457, R472; 21 R513-R516; 20 R503, R504; 19 R478) -/

/-- A context is defined and undefined; a function-level reset takes its contexts to RESETTING and ends their groups, and when
what was accepted for it has been served leaves them DEFINED with nothing in their account (R454, R472, R529). The model's own
choices enter by log entries 59 and 62. -/
def Obligations.Contexts : Prop :=
  ∀ (s : State),
    (s.pst ≠ .off → s.sec ≠ .failed → Safety.HostTurn s .pf →
      (∀ ctx fn, ctx < 4096 → (s.ctx ctx).state = .free →
        ∃ t, exec (.defineContext ctx fn) s = .next t ∧ t.ctxs.get? ctx = some { state := .defined, vf := fn.val } ∧ t.hubStat = 0
          ∧ t.mem = s.mem)
      ∧ (∀ ctx, (s.ctx ctx).state = .defined → (∀ q ∈ (s.ctx ctx).queues.toList, q.st = 0) → (s.ctx ctx).kernels = [] →
        ∃ t, exec (.undefineContext ctx) s = .next t ∧ t.ctxs.get? ctx = none ∧ t.hubStat = 0
          ∧ (∀ x ∈ t.objs, x.2.ctx ≠ ctx) ∧ t.mem = s.mem)
      ∧ ∀ fn : Fin 64, (∀ f ∈ s.flrs, f.fn ≠ fn.val) →
        ∃ t, exec (.resetFunction fn) s = .next t ∧ t.hubStat = 7 ∧ t.mem = s.mem
          ∧ (∀ c ∈ s.ctxsOf fn.val, (t.ctx c).state = .resetting)
          ∧ ∀ x ∈ t.groups, x.2.ctx ∉ s.ctxsOf fn.val)
    ∧ ∀ fn : Fin 64,
      (s.pst ≠ .off → (∀ f ∈ s.flrs, f.fn ≠ fn.val) →
        ∃ t, exec (.initiateFunctionLevelReset fn) s = .next t ∧ t.mem = s.mem
          ∧ (∀ c ∈ s.ctxsOf fn.val, (t.ctx c).state = .resetting)
          ∧ ∀ x ∈ t.groups, x.2.ctx ∉ s.ctxsOf fn.val)
      ∧ ∀ f, s.flrs.find? (fun f => f.fn == fn.val) = some f → (∀ i ∈ f.accs, s.accs.get? i = none) →
        s.rxOwes fn.val = false →
        ∃ t, exec (.functionLevelResetComplete fn) s = .next t ∧ f ∉ t.flrs
          ∧ (∀ c ∈ s.ctxsOf fn.val, (t.ctx c).state = .defined ∧ (t.ctx c).acct = 0 ∧ (t.ctx c).kernels = []
              ∧ ∀ n k, t.keys.get? n = some k → k.ctx ≠ c)
          ∧ ∀ x ∈ t.objs, x.2.ctx ∉ s.ctxsOf fn.val

/-- The security mailbox's commands complete with status 0, and in the FAILED state all but BOOTST and RECOVER with status 6; a
pair that KEYLOAD puts into a slot in the place of another is the pair that the slot's pages decrypt under (R342, R513-R516).
The model's own choices enter by log entries 7 and 67. -/
def Obligations.Security : Prop :=
  ∀ (s : State), s.pst ≠ .off → Safety.HostTurn s .pf →
    (s.sec = .failed → ∀ w, exec .attest s = .next { s with mbStat := 6 } ∧ exec (.keyload w) s = .next { s with mbStat := 6 }
      ∧ exec (.keydrop w) s = .next { s with mbStat := 6 } ∧ exec .span s = .next { s with mbStat := 6 })
    ∧ (s.sec ≠ .failed →
      (∃ t, exec .attest s = .next t ∧ t.mbStat = 0 ∧ t.mbBuf.reads 0 192 = s.reportHead ∧ t.mem = s.mem)
      ∧ (∀ w : Dword,
        let c := field w.toNat 55 44
        let n := field w.toNat 43 31
        (s.keys.get? n = none ∨ ∃ k, s.keys.get? n = some k ∧ k.ctx = c) →
        (field w.toNat 63 56 = 2 → ((s.ctx c).state = .defined ∨ s.ctxsIn .resident = []) →
          let pair := Config.keyPair (s.mbBuf.reads 0 144)
          (Config.unwraps (s.mbBuf.reads 0 144) = false → exec (.keyload w) s = .next { s with mbStat := 3 })
          ∧ (Config.unwraps (s.mbBuf.reads 0 144) = true →
            ∃ t, exec (.keyload w) s = .next t ∧ t.mbStat = 0 ∧ t.keys.get? n = some ⟨c, pair⟩
              ∧ (∀ m, m ≠ n → t.keys.get? m = s.keys.get? m) ∧ t.mem = (s.rekey c n pair).mem ∧ t.objs = s.objs
              ∧ ((s.pairs.get? (c * 8192 + n) = none ∨ s.pairs.get? (c * 8192 + n) = some pair) → t.mem = s.mem)))
        ∧ (field w.toNat 63 56 = 3 → ∃ t, exec (.keydrop w) s = .next t ∧ t.mbStat = 0 ∧ t.keys.get? n = none ∧ t.mem = s.mem))
      ∧ (s.ctxsIn .resident = [] →
        let b := s.mbBuf.reads 0 4096
        ∃ t, exec .span s = .next t ∧ t.mbStat = 0 ∧ t.die = Config.spanDie b ∧ t.spm1 = Config.spanSize b
          ∧ ∀ n : Fin 8, (vget t.lnks n).epoch = Config.spanEpoch b n.val
            ∧ (vget t.lnks n).st = (if Config.spanAttests b n.val then (vget s.lnks n).st else .failed)))
    ∧ (let at0 := leNat (s.mbBuf.reads 0 8)
       let len := leNat (s.mbBuf.reads 8 4)
       s.sec ≠ .failed → s.ctxsIn .resident = [] → at0 % 4096 = 0 → len % 4096 = 0 → 4096 ≤ len → len ≤ 16777216 →
       leNat (s.mbBuf.reads 12 4) = 0 →
         exec .recover s = .next (if s.fwFault (s.hostMem.reads at0 len) = 0 then
           { s with fw := s.hostMem.reads at0 len, mbStat := 0 } else { s with mbStat := 3 }))
    ∧ ∃ t, exec .bootst s = .next t ∧ t.mbStat = 0
        ∧ t.mbBuf.reads 0 48 = leBytes 4 s.bootReason ++ leBytes 4 s.badBoots.toNat ++ List.replicate 8 0 ++ leBytes 32 s.badHash

/-- REGISTER_WRITE: a register takes the fields that it has, through the functions that may write it: PGADDR, KADDR, DIRSEL,
DWSEL, DIRARG, CTXCTL and CTXQUOTA of a window (R457, R509-R511), the routes while no context is resident (R478), PWCTL
(R503), DBG of HUBST (R517), RTB of LNKCTL (R485), the mailbox buffer, and EVSEL and EVVAL of the regions and the hub, at
debug level OBSERVE or higher (R504). A host write of a function of which an earlier write waits, waits behind it; a write
that releases waits too while what the function has written has not performed (R426, R511). The model's own choices enter by
log entries 19, 63 and 103. -/
def Obligations.RegisterWrites : Prop :=
  (∀ (s : State) (h : HostAt) (w : Dword) (v task : Word) (b : List Byte) (q : Fin 16) (m fn : Fin 64) (n : Fin 8) (k : Nat) (r : HostReg),
    let put (c : HostCmd) : Host.Outcome State Fault Refusal := .next { s with hostQ := s.hostQ ++ [(Via.fn h.via, c)] }
    let waits : Prop := ∃ x ∈ s.hostQ, x.1 = Via.fn h.via
    (waits ∨ s.hostWrites (Via.fn h.via) ≠ [] →
      exec (.launch h b) s = put (.launch h b) ∧ exec (.hostSemWrite h m w) s = put (.hostSemWrite h m w)
      ∧ exec (.hostBind h w) s = put (.hostBind h w) ∧ exec (.hostUnbind h w) s = put (.hostUnbind h w)
      ∧ exec (.hostRebind h w) s = put (.hostRebind h w))
    ∧ (waits →
      exec (.qdescWrite h q w) s = put (.qdescWrite h q w) ∧ exec (.accadd h w) s = put (.accadd h w)
      ∧ exec (.fqidxWrite h w) s = put (.fqidxWrite h w) ∧ exec (.resume h task) s = put (.resume h task)
      ∧ exec (.requeue h task) s = put (.requeue h task) ∧ exec (.abort h task) s = put (.abort h task)
      ∧ exec (.halt h task) s = put (.halt h task) ∧ exec (.preempt h task) s = put (.preempt h task)
      ∧ exec (.pgin h w) s = put (.pgin h w) ∧ exec (.pgout h w) s = put (.pgout h w) ∧ exec (.pgunpin h w) s = put (.pgunpin h w)
      ∧ exec (.pgread h w) s = put (.pgread h w) ∧ exec (.hostOpen h w) s = put (.hostOpen h w)
      ∧ exec (.hostClose h w) s = put (.hostClose h w) ∧ exec (.hostQuery h w) s = put (.hostQuery h w)
      ∧ exec (.hostMkobj h w) s = put (.hostMkobj h w) ∧ exec (.kernelRegister h k) s = put (.kernelRegister h k)
      ∧ exec (.kernelUnload h k) s = put (.kernelUnload h k) ∧ exec (.apertureWrite h k v) s = put (.apertureWrite h k v)
      ∧ exec (.registerWrite h.via r w) s = put (.registerWrite h.via r w))
    ∧ (waits → h.via = .pf →
      exec (.defineContext k fn) s = put (.defineContext k fn) ∧ exec (.undefineContext k) s = put (.undefineContext k)
      ∧ exec (.resetFunction fn) s = put (.resetFunction fn) ∧ exec .springCheck s = put .springCheck ∧ exec .attest s = put .attest
      ∧ exec (.keyload w) s = put (.keyload w) ∧ exec (.keydrop w) s = put (.keydrop w) ∧ exec .span s = put .span
      ∧ exec .recover s = put .recover ∧ exec .bootst s = put .bootst ∧ exec (.linkRetrain n) s = put (.linkRetrain n)
      ∧ exec (.linkReset n) s = put (.linkReset n) ∧ exec (.park w) s = put (.park w) ∧ exec (.unpark w) s = put (.unpark w)
      ∧ exec (.pwcauseClear w) s = put (.pwcauseClear w)))
  ∧ ∀ (s : State) (w : Dword), s.pst ≠ .off → s.sec ≠ .failed → s.hostQ = [] →
    (∀ via ctx c, s.window? ⟨via, ctx⟩ = some c → c.state ≠ .resetting →
      let after (r : HostReg) (d : Ctx) : Prop := ∃ t, exec (.registerWrite via r w) s = .next t ∧ t.ctxs.get? ctx = some d
      after (.pgaddr ctx) { c with pgaddr := BitVec.ofNat 64 (w.toNat / 4096 * 4096) }
      ∧ after (.kaddr ctx) { c with kaddr := BitVec.ofNat 64 (w.toNat / 4096 * 4096) }
      ∧ after (.dirsel ctx) { c with dirsel := w &&& 0xFFF }
      ∧ after (.dwsel ctx) { c with dwsel := BitVec.ofNat 64 (w.toNat / 2 ^ 32 * 2 ^ 32) }
      ∧ (∀ i, after (.dirarg ctx i) { c with dirarg := vset c.dirarg i w })
      ∧ after (.ctxctl ctx) { c with
          dbgok := if via = .pf then w.getLsbD 61 else c.dbgok, fhold := w.getLsbD 60, wdlim := w.setWidth 32 }
      ∧ (via = .pf → after (.ctxquota ctx) { c with
          names := field w.toNat 63 48, objs := field w.toNat 47 32, savefr := field w.toNat 31 16 }))
    ∧ (s.ctxsIn .resident = [] →
      (∃ t, exec (.registerWrite .pf .routelo w) s = .next t ∧ t.routeLo = w ∧ t.routeHi = s.routeHi)
      ∧ ∃ t, exec (.registerWrite .pf .routehi w) s = .next t ∧ t.routeHi = w ∧ t.routeLo = s.routeLo)
    ∧ (s.ctxsIn .resident ≠ [] → exec (.registerWrite .pf .routelo w) s = .next s ∧ exec (.registerWrite .pf .routehi w) s = .next s)
    ∧ (∀ f r, (r = .pwctl ∨ r = .routelo ∨ r = .routehi ∨ r = .hubst) → exec (.registerWrite (.vf f) r w) s = .next s)
    ∧ (∃ t, exec (.registerWrite .pf .pwctl w) s = .next t ∧ t.boosten = w.getLsbD 63 ∧ t.park = w.getLsbD 62
        ∧ t.plim.toNat = field w.toNat 47 32
        ∧ t.pbst.toNat = max (min (field w.toNat 47 32) 1500) (min 1800 (field w.toNat 31 16)))
    ∧ (∃ t, exec (.registerWrite .pf .hubst w) s = .next t ∧ t.mem = s.mem
        ∧ t.dbg = (match field w.toNat 61 60 with | 0 => .off | 1 => .observe | 2 => .invasive | _ => s.dbg))
    ∧ (∀ f r, (∃ n k m, r = .evsel n k ∨ r = .evval n k ∨ r = .evselH m ∨ r = .evvalH m) →
        exec (.registerWrite (.vf f) r w) s = .next s ∧ (s.dbg = .off → exec (.registerWrite .pf r w) s = .next s))
    ∧ (s.dbg ≠ .off →
      let sel (c : Ctr) : Ctr := { c with sel := w &&& 0xE000FFFF000000FF }
      let val (c : Ctr) : Ctr := if w = 0 then { c with val := 0 } else c
      (∀ (n : Fin 64) (k : Fin 8),
        (∃ t, exec (.registerWrite .pf (.evsel n k) w) s = .next t ∧ t.mem = s.mem
          ∧ vget (t.region n.val).ctrs k = sel (vget (s.region n.val).ctrs k))
        ∧ ∃ t, exec (.registerWrite .pf (.evval n k) w) s = .next t ∧ t.mem = s.mem
          ∧ vget (t.region n.val).ctrs k = val (vget (s.region n.val).ctrs k))
      ∧ ∀ k : Fin 16,
        (∃ t, exec (.registerWrite .pf (.evselH k) w) s = .next t ∧ vget t.hubCtrs k = sel (vget s.hubCtrs k) ∧ t.mem = s.mem)
        ∧ ∃ t, exec (.registerWrite .pf (.evvalH k) w) s = .next t ∧ vget t.hubCtrs k = val (vget s.hubCtrs k) ∧ t.mem = s.mem)
    ∧ (∀ n, ∃ t, exec (.registerWrite .pf (.lnkctl n) w) s = .next t ∧ (vget t.lnks n).rtb.toNat = field w.toNat 47 32)
    ∧ ∀ i : Fin 512, ∃ t, exec (.registerWrite .pf (.mbbuf i) w) s = .next t ∧ t.mbBuf.reads (8 * i.val) 8 = leBytes 8 w.toNat

/-! ### Links (19 R477-R491) -/

/-- The states of a link (R483): a link that is DOWN or FAILED trains on command, an open one retrains; a training ends UP,
DEGRADED or FAILED by its lanes; a lost lane retrains; the retrain bound fails a link; CMD 2 takes it DOWN; no command moves a
link whose peer is not of the span (R515). The model's own choices enter by log entry 78. -/
def Obligations.LinkStates : Prop :=
  ∀ (s : State) (n : Fin 8),
    let l := vget s.lnks n
    let st (t : State) : LSt := (vget t.lnks n).st
    (s.pst ≠ .off → l.barred = false → Safety.HostTurn s .pf → ∃ t, exec (.linkRetrain n) s = .next t ∧ t.mem = s.mem
      ∧ ((l.st = .down ∨ l.st = .failed) → st t = .training)
      ∧ ((l.st = .up ∨ l.st = .degraded) → st t = .retraining ∧ (vget t.lnks n).retrn = min 65535 (l.retrn + 1)))
    ∧ (l.barred = true → Safety.HostTurn s .pf →
        exec (.linkReset n) s = .next s ∧ ∀ k, exec (.linkTrainingDone n k) s = .next s)
    ∧ (l.st ≠ .down → l.barred = false → Safety.HostTurn s .pf → ∃ t, exec (.linkReset n) s = .next t ∧ st t = .down)
    ∧ ((l.st = .training ∨ l.st = .retraining) → l.barred = false → ∀ k, ∃ u : State, exec (.linkTrainingDone n k) s = .next u.hubWork
      ∧ st u = (if k.val = 8 then .up else if 4 ≤ k.val then .degraded else .failed)
      ∧ (vget u.lnks n).lanes = (if k.val = 8 then 8 else if 4 ≤ k.val then 4 else 0))
    ∧ ((l.st = .up ∨ l.st = .degraded) → ∃ t, exec (.laneLost n) s = .next t ∧ st t = .retraining ∧ t.mem = s.mem)
    ∧ (l.st = .retraining → ∃ u : State, exec (.linkRetrainTimeout n) s = .next u.hubWork ∧ st u = .failed)

/-- A flit whose CRC fails is discarded and counted; one that passes R481 and R482 is accepted and, for this die, waits to be
served; it is served when its clock allows; a probe is answered with SEEN; a write that its home has applied has performed at
SPAN (R481, R482, R486, R488-R491). The model's own choices enter by log entries 68, 70, 71, 75 and 76. -/
def Obligations.Flits : Prop :=
  ∀ (s : State),
    (∀ (n : Fin 8) (b : List Byte), b.length = 256 → (vget s.lnks n).open_ = true →
      let l := vget s.lnks n
      let h := leNat (b.take 4)
      let crc := leNat (b.drop 252) = (crc32 (b.take 252)).toNat
      let body := flitBody n l.epoch l.rcvd.toNat b
      let m := Config.message (field h 31 28) (body.take (leNat ((b.drop 4).take 1)))
      (¬crc → exec (.flitReceive n b) s = .next (State.sendIdle { s with
        lnks := vset s.lnks n { l with crcerr := min 65535 (l.crcerr + 1), nak := true } } n))
      ∧ (crc → field h 31 28 < 12 → field h 2 0 < 4 → BitVec.ofNat 8 (field h 19 12) = l.rxSeq →
        field h 27 24 ≤ s.spm1.toNat → field h 23 20 = s.die.toNat →
          ∃ t, exec (.flitReceive n b) s = .next t
            ∧ (flitSealed n l.epoch l.rcvd.toNat b = true →
              m.type = field h 31 28 → m.needsService = true →
                t.mem = s.mem ∧ (vget t.lnks n).rxSeq = l.rxSeq + 1 ∧ (vget t.lnks n).rcvd = l.rcvd + 1
                ∧ ∃ x, t.rx = s.rx ++ [x] ∧ x.msg = m ∧ x.src = field h 27 24 ∧ x.link = n.val ∧ x.acc = none)))
    ∧ (∀ (src : Fin 16) before x after id r, firstRx src.val s.rx = some (before, x, after) →
      (before.any fun y => y.src == src.val && y.msg.needsService && !s.rxDone y) = false → s.unseen x.clock = [] →
      s.coveredServed before after x.clock = true → x.msg.asReq = some (id, r) → (∃ y, r.target = some y ∧ (s.objs.get? y.1).isSome = true) → s.keyMissing r = false →
        exec (.flitApply src) s = .next (State.hubWork (State.addAcc
          { s with rx := before ++ { x with acc := some s.nextId } :: after }
          { req := r.from x.src, slot := 1024 + x.link % 8, rule := x.src, opc := x.msg.origin x.src, tokVal := BitVec.ofNat 32 id,
            clock := x.clock })))
    ∧ (∀ (src : Fin 16) x, s.rx.find? (fun x => x.src == src.val && x.msg == .probe) = some x →
        exec (.clockProbe src) s = .next (State.transmit { s with
          rx := s.rx.erase x, tx := Tx.before { dst := src.val, msg := .probeAns (vget s.seen src) } s.tx }))
    ∧ (∀ (src : Fin 16) x v, s.rx.find? (fun x => x.src == src.val && x.msg.type == 8) = some x → x.msg = .probeAns v →
        ∃ t, exec (.probeAnswer src) s = .next t ∧ vget t.seenBy src = v ∧ t.mem = s.mem)
    ∧ ∀ (src : Fin 16) x id a, s.rx.find? (fun x => x.src == src.val && x.msg.type == 4) = some x → x.msg = .applied id →
        s.accs.get? id = some a → a.remote = true → a.staged = false → a.acks = [] → (∀ p y l, a.req ≠ .put p (y :: l)) →
          exec (.writeApplied src) s = .next (State.hubWork (State.answer { s with rx := s.rx.erase x } id 0 .span))

/-! ### Frames, the step, the encodings, the memory -/

/-- The DST of an instruction that writes a result and leaves everything else of the machine alone. -/
def Claims.dstOf (i : Instr) : Option Dst :=
  match i with
  | .add x | .sub x | .mul x | .mulh x | .mulhu x | .min x | .max x | .minu x | .maxu x | .addsh x | .absd x | .adds x | .subs x
  | .and x | .or x | .xor x | .andn x | .shl x | .shr x | .sar x | .ceq x | .cne x | .clt x | .cle x | .cltu x | .cleu x
  | .tagw x | .steer x | .fadd x | .fsub x | .fmul x | .fmax x | .fmin x | .fclt x => some x.dst
  | .neg x | .abs x | .clz x | .popc x | .mov x | .tagr x | .dimr x => some x.dst
  | .addi x | .andi x | .ori x | .xori x => some x.dst
  | .ceqi x | .clti x | .cgti x => some x.dst
  | .shli x | .shri x | .sari x => some x.dst
  | .bfx x => some x.dst
  | .fma x => some (.d x.d)
  | .fcvt x => some x.dst
  | .movi x | .movhi x => some x.dst
  | .movk x => some x.dst
  | .gets x => some x.dst
  | .sel x => some x.dst
  | .merge x | .carry x | .cntup x => some x.dst
  | .drop _ | .req _ => some .none
  | .endt x => some (.o x.o)
  | _ => none

/-- The counter register of CNTUP: the register that its SA names (R142). -/
def Claims.counterOf (i : Instr) : Option (Fin 8) :=
  match i with
  | .cntup x => (match x.sa with
    | .d n => some n
    | _ => none)
  | _ => none

/-- The predicate that an instruction with PW writes (R113). -/
def Claims.predOf (i : Instr) : Option (Fin 8) :=
  let w (pw : Bool) (pd : Fin 8) : Option (Fin 8) := if pw then some pd else none
  match i with
  | .add x | .sub x | .mul x | .mulh x | .mulhu x | .min x | .max x | .minu x | .maxu x | .addsh x | .absd x | .adds x | .subs x
  | .and x | .or x | .xor x | .andn x | .shl x | .shr x | .sar x | .ceq x | .cne x | .clt x | .cle x | .cltu x | .cleu x
  | .tagw x | .steer x | .fadd x | .fsub x | .fmul x | .fmax x | .fmin x | .fclt x | .merge x | .carry x | .cntup x => w x.pw x.pd
  | .neg x | .abs x | .clz x | .popc x | .mov x | .tagr x | .dimr x => w x.pw x.pd
  | .ceqi x | .clti x | .cgti x => w x.pw x.pd
  | .fma x => w x.pw x.pd
  | .movk x => w x.pw x.pd
  | _ => none

/-- The frame of those instructions: whatever they come to, other elements and copies, the element's other registers (for CNTUP
beside its counter) and other predicates, its constants, its arrival counters and its esw, requests, objects, tasks and
contexts stay; memory stays when DST is a register, a predicate or nothing, and when it is a channel every byte that is no
byte of the tile's own pad stays. -/
def Obligations.ResultFrame : Prop :=
  ∀ (i : Instr) (dst : Dst) (s t : State) (h : Here), Claims.dstOf i = some dst → s.here = some h → exec i s = .next t →
    t.accs = s.accs ∧ t.objs = s.objs ∧ t.tasks = s.tasks ∧ t.ctxs = s.ctxs ∧ t.hostMem = s.hostMem
    ∧ (∀ n, dst ≠ .d n → Claims.counterOf i ≠ some n → vget (t.elem s.cur.task s.cur.vt h.e).d n = vget h.el.d n)
    ∧ (∀ n, Claims.predOf i ≠ some n → (t.elem s.cur.task s.cur.vt h.e).pred n = h.el.pred n)
    ∧ (t.elem s.cur.task s.cur.vt h.e).k = h.el.k ∧ (t.elem s.cur.task s.cur.vt h.e).ac = h.el.ac
    ∧ (t.elem s.cur.task s.cur.vt h.e).esw = h.el.esw ∧ (t.elem s.cur.task s.cur.vt h.e).done = h.el.done
    ∧ (t.elem s.cur.task s.cur.vt h.e).slots = h.el.slots
    ∧ (∀ task vt, ikey task vt ≠ ikey s.cur.task s.cur.vt → t.inst? task vt = s.inst? task vt)
    ∧ (∀ e, e ≠ h.e → (t.elem s.cur.task s.cur.vt e).d = (s.elem s.cur.task s.cur.vt e).d
        ∧ (t.elem s.cur.task s.cur.vt e).p = (s.elem s.cur.task s.cur.vt e).p)
    ∧ ((∀ o, dst ≠ .o o) → t.mem = s.mem)
    ∧ ∀ a, (∀ off, a ≠ s.padAddr h.g h.x s.cur.vt off) → t.mem.read a = s.mem.read a

/-- A step runs the decoded instruction: the next deed of the plan that is a firing runs the instruction that its slot's word
decodes to, at its element and slot; one that is an advance runs the instruction that the word of the lane's command decodes
to; with the last deed the step of the group ends (the slots that it closed are CLOSING, a page fault that it raised stops the
group: R325, R348). With no deed planned, a turn of tiles plans their deeds and does the first, and the turn of an event runs
the event. The model's own choices enter by log entries 3, 80 and 87. -/
def Obligations.StepRunsDecoded : Prop :=
  ∀ (s : State),
    (∀ p ps e k i (o : Host.Outcome State Fault Refusal), s.plan = p :: ps → p.deed = .fire e k →
      decodeRule (vget (s.elem p.l.task p.l.vt e).slots k) = .ok i →
      exec i { s with plan := ps, cur := ⟨p.l.task, p.l.vt, .elem e, k⟩, fired := false } = o →
        (∀ t, o = .next t → step s = .next (if ps = [] then (s.acted t p).endStep p.l.task else s.acted t p))
        ∧ ((∀ t, o ≠ .next t) → step s = o))
    ∧ (∀ p ps n lane i (o : Host.Outcome State Fault Refusal), s.plan = p :: ps → p.deed = .advance n lane →
      (s.inst p.l.task p.l.vt).laneInstr n lane = some i →
      exec i { s with plan := ps, cur := ⟨p.l.task, p.l.vt, n, ⟨lane % 40, Nat.mod_lt _ (by decide)⟩⟩, fired := false } = o →
        (∀ t, o = .next t → step s = .next (if ps = [] then (s.acted t p).endStep p.l.task else s.acted t p))
        ∧ ((∀ t, o ≠ .next t) → step s = o))
    ∧ (∀ i is, s.plan = [] → s.agenda = .event i :: is → step s = exec i { s with agenda := is, fired := false })
    ∧ (∀ task vts engs is, s.plan = [] → s.agenda = .tiles task vts engs :: is →
        step s = (State.stepTiles { s with agenda := is } task vts engs).runPlan)
    ∧ ∀ t p, (s.acted t p).mem = t.mem ∧ (s.acted t p).accs = t.accs ∧ (t.endStep p.l.task).mem = t.mem ∧ (t.endStep p.l.task).accs = t.accs

/-- Decoding an encoded well-formed instruction gives it back, with every operand at every value that the encoding admits. -/
def Obligations.RoundTrip : Prop :=
  ∀ (i : Instr) (c : Coded), i.wf = true → encode i = some c → decodeIn c.space c.word = .ok i

/-- Every step keeps the canonical form of the memories. The model's own choices enter by log entry 1. -/
def Obligations.StepKeepsMemory : Prop :=
  ∀ (s t : State), Safety.memOk s → step s = .next t → Safety.memOk t
end

