-- ==== Sys2Proof/Laws/Encoding.lean ====
section
/-! SUPPORT. The fields of a word are read back as they were put in, and each form of rule and of command word decodes to the
operands it was encoded from. -/

namespace Sys2Proof

/-! ### The words -/

theorem fieldsOf_word (f : RuleFields) : fieldsOf f.word = f := by
  obtain ⟨a, b, c, d, e, g⟩ := f
  simp only [fieldsOf, RuleFields.word, RuleFields.mk.injEq]
  refine ⟨?_, ?_, ?_, ?_, ?_, ?_⟩ <;>
    (apply BitVec.eq_of_getLsbD_eq; intro i hi; simp only [BitVec.getLsbD_extractLsb', BitVec.getLsbD_append]; interval_cases i <;> simp)

/-! ### The fields of a rule word -/

@[simp] theorem decTrig_encTrig (t : Trig) : decTrig (encTrig t) = some t := by
  cases t with
  | alw => rfl
  | pt n | pf n => revert n; decide
  | tok c | ctl c | dend c | endc c | tag c | null c | rdy c => revert c; decide

@[simp] theorem decDst_encDst (d : Dst) : decDst (encDst d) = some d := by
  cases d with
  | d n => revert n; decide
  | o n => revert n; decide
  | pred => rfl
  | none => rfl

@[simp] theorem decSa_encSa (a : SrcA) : decSa (encSa a) = a := by
  cases a with
  | d n => revert n; decide
  | deq c | peek c => revert c; decide

@[simp] theorem decSb_encSb (b : SrcB) : decSb (encSb b) = b := by
  cases b with
  | d n => revert n; decide
  | deq c | k c => revert c; decide

@[simp] theorem decBit_encBit (b : Bool) : decBit (encBit b) = b := by cases b <;> rfl

@[simp] theorem decOut_encOut (o : Fin 4) : decOut (encOut o) = some o := by revert o; decide

@[simp] theorem decDreg_encDreg (d : Fin 8) : decDreg (encDreg d) = some d := by revert d; decide

@[simp] theorem decFmt_encFmt (d : Fin 8) : decFmt (encFmt d) = some d := by revert d; decide

@[simp] theorem mdPd_encMdEa (pd : Fin 8) (pw ct : Bool) (m : DimC) : mdPd (encMdEa pd pw ct m) = pd := by
  cases m <;> revert pd pw ct <;> decide

@[simp] theorem mdPw_encMdEa (pd : Fin 8) (pw ct : Bool) (m : DimC) : mdPw (encMdEa pd pw ct m) = pw := by
  cases m <;> revert pd pw ct <;> decide

@[simp] theorem mdCtag_encMdEa (pd : Fin 8) (pw ct : Bool) (m : DimC) : mdCtag (encMdEa pd pw ct m) = ct := by
  cases m <;> revert pd pw ct <;> decide

@[simp] theorem mdDim_encMdEa (pd : Fin 8) (pw ct : Bool) (m : DimC) : mdDim (encMdEa pd pw ct m) = m := by
  cases m <;> revert pd pw ct <;> decide

@[simp] theorem mdScope_encMdEm (s : Scope) (o : Order) (z : BitVec 2) : mdScope (encMdEm s o z) = some s := by
  cases s <;> cases o <;> revert z <;> decide

@[simp] theorem mdOrder_encMdEm (s : Scope) (o : Order) (z : BitVec 2) : mdOrder (encMdEm s o z) = o := by
  cases s <;> cases o <;> revert z <;> decide

@[simp] theorem mdSize_encMdEm (s : Scope) (o : Order) (z : Size) : mdSize (encMdEm s o (encSize z)) = some z := by
  cases s <;> cases o <;> cases z <;> rfl

@[simp] theorem mdSize_encMdEm_word (s : Scope) (o : Order) : mdSize (encMdEm s o 2) = some .word :=
  mdSize_encMdEm s o .word

/-- IMM11 in its two fields. -/
theorem imm11 (x : BitVec 11) : x.extractLsb' 7 4 ++ x.extractLsb' 0 7 = x := by
  apply BitVec.eq_of_getLsbD_eq; intro i hi
  simp only [BitVec.getLsbD_extractLsb', BitVec.getLsbD_append]; interval_cases i <;> simp

/-- IMM15 in its three fields. -/
theorem imm15 (x : BitVec 15) : x.extractLsb' 11 4 ++ x.extractLsb' 7 4 ++ x.extractLsb' 0 7 = x := by
  apply BitVec.eq_of_getLsbD_eq; intro i hi
  simp only [BitVec.getLsbD_extractLsb', BitVec.getLsbD_append]; interval_cases i <;> simp

/-! ### The forms of rule words -/

theorem dstPw_of {f : RuleFields} {d : Dst} {pw : Bool} (e : f.dst = encDst d) (w : d.okWith pw = true) :
    dstPw f pw = .ok d := by simp [dstPw, e, w]

theorem dstIn_of {f : RuleFields} {d : Dst} {p : Dst → Bool} (e : f.dst = encDst d) (w : p d = true) :
    dstIn f p = .ok d := by simp [dstIn, e, w]

theorem decEa2_enc (op : BitVec 7) (x : Ea2) (mk : Ea2 → Instr) (w : x.dst.okWith x.pw = true) :
    decEa2 x.trig (encEa2 op x) mk = .ok (mk x) := by
  simp [decEa2, encEa2, dstPw, w]

theorem decEa1_enc (op : BitVec 7) (x : Ea1) (mk : Ea1 → Instr) (w : x.dst.okWith x.pw = true) :
    decEa1 x.trig (encEa1 op x) mk = .ok (mk x) := by
  simp [decEa1, encEa1, dstPw, w]

theorem decEi_enc (op : BitVec 7) (x : Ei) (mk : Ei → Instr) (w : x.dst.notPred = true) :
    decEi x.trig (encEi op x) mk = .ok (mk x) := by
  simp [decEi, encEi, dstIn, w, imm11]

theorem decEiShift_enc (op : BitVec 7) (x : EiShift) (mk : EiShift → Instr) (w : x.dst.notPred = true) :
    decEiShift x.trig (encEiShift op x) mk = .ok (mk x) := by
  obtain ⟨t, d, a, n⟩ := x
  have h : ∀ n : BitVec 5, ((0 : BitVec 2) ++ n).extractLsb' 5 2 = 0 ∧ ((0 : BitVec 2) ++ n).extractLsb' 0 5 = n := by decide
  have h := h n
  simp only [decEiShift, encEiShift, dstIn, decDst_encDst, decSa_encSa] at w ⊢
  simp only [w, if_true, h, and_self]

theorem decEiBfx_enc (op : BitVec 7) (x : EiBfx) (mk : EiBfx → Instr) (w : (x.dst.notPred && bfxLegal x.lo x.wm1) = true) :
    decEiBfx x.trig (encEiBfx op x) mk = .ok (mk x) := by
  obtain ⟨t, d, a, lo, wm, sx⟩ := x
  simp only [Bool.and_eq_true] at w
  have h : ∀ (s : BitVec 1) (lo wm : BitVec 5), (s ++ wm ++ lo).extractLsb' 0 5 = lo ∧ (s ++ wm ++ lo).extractLsb' 5 5 = wm
      ∧ (s ++ wm ++ lo).extractLsb' 10 1 = s := by decide +kernel
  have h := h (encBit sx) lo wm
  simp only [decEiBfx, encEiBfx, dstIn, decDst_encDst, decSa_encSa, w.1, if_true, imm11, h, w.2, decBit_encBit]

theorem decEiCmp_enc (op : BitVec 7) (x : EiCmp) (mk : EiCmp → Instr) (w : x.dst.okWith x.pw = true) :
    decEiCmp x.trig (encEiCmp op x) mk = .ok (mk x) := by
  obtain ⟨t, d, a, imm, pd, pw⟩ := x
  have h : ∀ (pd : Fin 8) (pw : Bool) (i : BitVec 3), mdPd (BitVec.ofFin (w := 3) pd ++ encBit pw ++ i) = pd
      ∧ mdPw (BitVec.ofFin (w := 3) pd ++ encBit pw ++ i) = pw ∧ (BitVec.ofFin (w := 3) pd ++ encBit pw ++ i).extractLsb' 0 3 = i := by
    decide
  have h := h pd pw (imm.extractLsb' 0 3)
  have j : ∀ i : BitVec 7, i.extractLsb' 3 4 ++ i.extractLsb' 0 3 = i := by decide
  simp only [decEiCmp, encEiCmp, dstPw, decDst_encDst, decSa_encSa, h] at w ⊢
  simp only [w, if_true, j]

theorem sel3 (p : Fin 8) : ((0 : BitVec 1) ++ BitVec.ofFin (w := 3) p).toNat < 8
    ∧ (((0 : BitVec 1) ++ BitVec.ofFin (w := 3) p).extractLsb' 0 3).toFin = p := by revert p; decide

theorem decPr2_enc (op : BitVec 7) (x : Pr2) (mk : Pr2 → Instr) : decPr2 x.trig (encPr2 op x) mk = .ok (mk x) := by
  simp only [decPr2, encPr2, mdPw_encMdEa, mdPd_encMdEa, (sel3 x.pa).1, (sel3 x.pb).1, (sel3 x.pa).2, (sel3 x.pb).2, and_self,
    if_true]

theorem decPr1_enc (op : BitVec 7) (x : Pr1) (mk : Pr1 → Instr) : decPr1 x.trig (encPr1 op x) mk = .ok (mk x) := by
  simp only [decPr1, encPr1, mdPw_encMdEa, mdPd_encMdEa, (sel3 x.pa).1, (sel3 x.pa).2, and_self, if_true]

theorem decPr0_enc (op : BitVec 7) (x : Pr0) (mk : Pr0 → Instr) : decPr0 x.trig (encPr0 op x) mk = .ok (mk x) := by
  simp only [decPr0, encPr0, mdPw_encMdEa, mdPd_encMdEa, and_self, if_true]

theorem decEiMov_enc (op : BitVec 7) (x : EiMov) (mk : EiMov → Instr) (w : x.dst.notPred = true) :
    decEiMov x.trig (encEiMov op x) mk = .ok (mk x) := by
  simp [decEiMov, encEiMov, dstIn, w, imm15]

theorem sel2 (p : Fin 4) : 12 ≤ ((3 : BitVec 2) ++ BitVec.ofFin (w := 2) p).toNat
    ∧ (((3 : BitVec 2) ++ BitVec.ofFin (w := 2) p).extractLsb' 0 2).toFin = p := by revert p; decide

theorem decEaMovk_enc (op : BitVec 7) (x : EaMovk) (mk : EaMovk → Instr) (w : x.dst.okWith x.pw = true) :
    decEaMovk x.trig (encEaMovk op x) mk = .ok (mk x) := by
  simp only [decEaMovk, encEaMovk, dstPw, decDst_encDst, mdPw_encMdEa, mdPd_encMdEa, mdDim_encMdEa, w, if_true, sel2]

theorem selc (c : Fin 4) : (8 ≤ ((2 : BitVec 2) ++ BitVec.ofFin (w := 2) c).toNat ∧ ((2 : BitVec 2) ++ BitVec.ofFin (w := 2) c).toNat < 12)
    ∧ (((2 : BitVec 2) ++ BitVec.ofFin (w := 2) c).extractLsb' 0 2).toFin = c := by revert c; decide

theorem decEaChan_enc (op : BitVec 7) (x : EaChan) (mk : EaChan → Instr) : decEaChan x.trig (encEaChan op x) mk = .ok (mk x) := by
  simp only [decEaChan, encEaChan, selc, and_self, if_true]

theorem decEiEndt_enc (op : BitVec 7) (x : EiEndt) (mk : EiEndt → Instr) : decEiEndt x.trig (encEiEndt op x) mk = .ok (mk x) := by
  have h : ∀ l : Fin 5, (BitVec.ofNat 7 l.val).extractLsb' 4 3 = 0 ∧ decLevel ((BitVec.ofNat 7 l.val).extractLsb' 0 4) = some l := by
    decide
  simp only [decEiEndt, encEiEndt, decOut_encOut, h x.level, and_self, if_true]

theorem decEaSel_enc (op : BitVec 7) (x : EaSel) (mk : EaSel → Instr) (w : x.dst.notPred = true) :
    decEaSel x.trig (encEaSel op x) mk = .ok (mk x) := by
  simp [decEaSel, encEaSel, dstIn, w]

theorem decEiGets_enc (op : BitVec 7) (x : EiGets) (mk : EiGets → Instr) (w : x.dst.isReg = true) :
    decEiGets x.trig (encEiGets op x) mk = .ok (mk x) := by
  have h : ∀ l : Fin 19, (BitVec.ofNat 7 l.val).extractLsb' 5 2 = 0 ∧ decSel ((BitVec.ofNat 7 l.val).extractLsb' 0 5) = some l := by
    decide
  simp only [decEiGets, encEiGets, dstIn, decDst_encDst, w, if_true, h x.sel, and_self]

theorem decEaFma_enc (op : BitVec 7) (x : EaFma) (mk : EaFma → Instr) : decEaFma x.trig (encEaFma op x) mk = .ok (mk x) := by
  simp [decEaFma, encEaFma]

theorem decEiFcvt_enc (op : BitVec 7) (x : EiFcvt) (mk : EiFcvt → Instr) (w : (x.dst.notPred && fcvtLegal x.src x.tgt) = true) :
    decEiFcvt x.trig (encEiFcvt op x) mk = .ok (mk x) := by
  obtain ⟨t, d, a, src, dest, r⟩ := x
  simp only [Bool.and_eq_true] at w
  have h : ∀ (dest : Fin 8) (r : Fin 3), (encFmt dest ++ BitVec.ofNat 2 r.val ++ (0 : BitVec 1)).extractLsb' 3 4 = encFmt dest
      ∧ decRnd3 ((encFmt dest ++ BitVec.ofNat 2 r.val ++ (0 : BitVec 1)).extractLsb' 1 2) = some r
      ∧ (encFmt dest ++ BitVec.ofNat 2 r.val ++ (0 : BitVec 1)).extractLsb' 0 1 = 0 := by decide
  have h := h dest r
  simp only [decEiFcvt, encEiFcvt, dstIn, decDst_encDst, decSa_encSa, w, if_true, decFmt_encFmt, h, and_self]

theorem decEmLdp_enc (op : BitVec 7) (x : EmLdp) (mk : EmLdp → Instr) (w : x.dst.isReg = true) :
    decEmLdp x.trig (encEmLdp op x) mk = .ok (mk x) := by
  simp only [decEmLdp, encEmLdp, dstIn, decDst_encDst, w, if_true, mdScope_encMdEm, mdSize_encMdEm, mdOrder_encMdEm, decSa_encSa]

theorem decEmStp_enc (op : BitVec 7) (x : EmStp) (mk : EmStp → Instr) (w : x.dst.isDone = true) :
    decEmStp x.trig (encEmStp op x) mk = .ok (mk x) := by
  simp only [decEmStp, encEmStp, dstIn, decDst_encDst, w, if_true, mdScope_encMdEm, mdSize_encMdEm, mdOrder_encMdEm, decSa_encSa,
    decSb_encSb]

theorem decEmLd_enc (op : BitVec 7) (x : EmLd) (mk : EmLd → Instr) (w : x.dst.isReg = true) :
    decEmLd x.trig (encEmLd op x) mk = .ok (mk x) := by
  simp only [decEmLd, encEmLd, dstIn, decDst_encDst, w, if_true, mdScope_encMdEm, mdSize_encMdEm_word, mdOrder_encMdEm, decSa_encSa]

theorem decEmSt_enc (p : Dst → Bool) (op : BitVec 7) (x : EmSt) (mk : EmSt → Instr) (w : p x.dst = true) :
    decEmSt p x.trig (encEmSt op x) mk = .ok (mk x) := by
  simp only [decEmSt, encEmSt, dstIn, decDst_encDst, w, if_true, mdScope_encMdEm, mdSize_encMdEm_word, mdOrder_encMdEm, decSa_encSa,
    decSb_encSb]

theorem decEmDisc_enc (op : BitVec 7) (x : EmSt) (mk : EmSt → Instr) (w : x.dst.isDone = true) :
    decEmDisc x.trig (encEmDisc op x) mk = .ok (mk x) := by
  simp only [decEmDisc, encEmDisc, dstIn, decDst_encDst, w, if_true, mdScope_encMdEm, mdOrder_encMdEm, decSa_encSa, decSb_encSb]

theorem decEmCas_enc (op : BitVec 7) (x : EmCas) (mk : EmCas → Instr) : decEmCas x.trig (encEmCas op x) mk = .ok (mk x) := by
  simp only [decEmCas, encEmCas, decDreg_encDreg, mdScope_encMdEm, mdSize_encMdEm_word, mdOrder_encMdEm, decSa_encSa, decSb_encSb]

theorem decEmFence_enc (op : BitVec 7) (x : EmFence) (mk : EmFence → Instr) (w : x.dst.isDone = true) :
    decEmFence x.trig (encEmFence op x) mk = .ok (mk x) := by
  simp only [decEmFence, encEmFence, dstIn, decDst_encDst, w, if_true, mdScope_encMdEm, mdOrder_encMdEm]

theorem decEmPref_enc (op : BitVec 7) (x : EmPref) (mk : EmPref → Instr) : decEmPref x.trig (encEmPref op x) mk = .ok (mk x) := by
  simp only [decEmPref, encEmPref, mdScope_encMdEm, decSa_encSa]

theorem semOf_enc (f : RuleFields) (m : Fin 64) (a : f.sb = 0) (b : f.md = encSem m) : semOf f = some m := by
  have h : ∀ m : Fin 64, (encSem m).extractLsb' 6 1 = 0 ∧ ((encSem m).extractLsb' 0 6).toFin = m := by decide
  simp only [semOf, a, b, h m, and_self, if_true]

theorem decEiSem_enc (op : BitVec 7) (x : EiSem) (mk : EiSem → Instr) : decEiSem x.trig (encEiSem op x) mk = .ok (mk x) := by
  unfold decEiSem
  rw [semOf_enc (encEiSem op x) x.m rfl rfl]
  simp only [encEiSem, decSa_encSa]

theorem decEiSemw_enc (op : BitVec 7) (x : EiSemw) (mk : EiSemw → Instr) : decEiSemw x.trig (encEiSemw op x) mk = .ok (mk x) := by
  unfold decEiSemw
  rw [semOf_enc (encEiSemw op x) x.m rfl rfl]
  simp only [encEiSemw, decSa_encSa, decOut_encOut]

theorem decEiSemr_enc (op : BitVec 7) (x : EiSemr) (mk : EiSemr → Instr) (w : x.dst.isReg = true) :
    decEiSemr x.trig (encEiSemr op x) mk = .ok (mk x) := by
  unfold decEiSemr
  rw [semOf_enc (encEiSemr op x) x.m rfl rfl, dstIn_of (d := x.dst) rfl w]

theorem barOf_enc (f : RuleFields) (m : Fin 16) (a : f.sb = 0) (b : f.md = encBar m) : barOf f = some m := by
  have h : ∀ m : Fin 16, (encBar m).extractLsb' 4 3 = 0 ∧ ((encBar m).extractLsb' 0 4).toFin = m := by decide
  simp only [barOf, a, b, h m, and_self, if_true]

theorem decEiBar_enc (op : BitVec 7) (x : EiBar) (mk : EiBar → Instr) : decEiBar x.trig (encEiBar op x) mk = .ok (mk x) := by
  unfold decEiBar
  rw [barOf_enc (encEiBar op x) x.g rfl rfl]

theorem decEiBarw_enc (op : BitVec 7) (x : EiBarw) (mk : EiBarw → Instr) : decEiBarw x.trig (encEiBarw op x) mk = .ok (mk x) := by
  unfold decEiBarw
  rw [barOf_enc (encEiBarw op x) x.g rfl rfl]
  simp only [encEiBarw, decOut_encOut]

theorem decEaDa_enc (op : BitVec 7) (x : EaDa) (mk : EaDa → Instr) (w : x.dst.notPred = true) :
    decEaDa x.trig (encEaDa op x) mk = .ok (mk x) := by
  simp [decEaDa, encEaDa, dstIn, w]

theorem decEaAb_enc (op : BitVec 7) (x : EaAb) (mk : EaAb → Instr) : decEaAb x.trig (encEaAb op x) mk = .ok (mk x) := by
  simp [decEaAb, encEaAb]

theorem decEaA_enc (op : BitVec 7) (x : EaA) (mk : EaA → Instr) : decEaA x.trig (encEaA op x) mk = .ok (mk x) := by
  simp [decEaA, encEaA]

theorem decSets_enc (op : BitVec 7) (x : EaA) (mk : EaA → Instr) : decSets x.trig (encSets op x) mk = .ok (mk x) := by
  simp [decSets, encSets]

theorem decEaDap_enc (op : BitVec 7) (x : EaDap) (mk : EaDap → Instr) (w : x.dst.okWith x.pw = true) :
    decEaDap x.trig (encEaDap op x) mk = .ok (mk x) := by
  simp [decEaDap, encEaDap, dstPw, w]

theorem decFill_enc (op : BitVec 7) (x : EaDap) (mk : EaDap → Instr) (w : x.dst.notPred = true) :
    decFill x.trig (encEaDap op x) mk = .ok (mk x) := by
  simp [decFill, encEaDap, dstIn, w]

theorem decEaQuery_enc (op : BitVec 7) (x : EaQuery) (mk : EaQuery → Instr) (w : x.dst.okWith x.pw = true) :
    decEaQuery x.trig (encEaQuery op x) mk = .ok (mk x) := by
  simp [decEaQuery, encEaQuery, dstPw, w]

theorem decEaDp_enc (op : BitVec 7) (x : EaDp) (mk : EaDp → Instr) (w : x.dst.okWith x.pw = true) :
    decEaDp x.trig (encEaDp op x) mk = .ok (mk x) := by
  simp [decEaDp, encEaDp, dstPw, w]

theorem decEaT_enc (op : BitVec 7) (x : EaT) (mk : EaT → Instr) : decEaT x.trig (encEaT op x) mk = .ok (mk x) := rfl

theorem engFields (e : Fin 5) (i : BitVec 2) (n : BitVec 2) :
    decEng ((BitVec.ofNat 3 e.val ++ i ++ n).extractLsb' 4 3) = some e ∧ (BitVec.ofNat 3 e.val ++ i ++ n).extractLsb' 2 2 = i
      ∧ (BitVec.ofNat 3 e.val ++ i ++ n).extractLsb' 0 2 = n := by
  revert e i n; decide

theorem idxFields (i : Fin 64) :
    ((BitVec.ofFin (w := 6) i).extractLsb' 4 2 ++ (BitVec.ofFin (w := 6) i).extractLsb' 0 4).toFin = i := by
  revert i; decide

theorem decIssue_enc (op : BitVec 7) (x : ExIssue) (mk : ExIssue → Instr) : decIssue x.trig (encIssue op x) mk = .ok (mk x) := by
  obtain ⟨t, e, i, a⟩ := x
  cases a <;> simp only [decIssue, encIssue, engFields, idxFields, decSa_encSa, decSb_encSb] <;> rfl

theorem decIssuev_enc (op : BitVec 7) (x : ExIssuev) (mk : ExIssuev → Instr) : decIssuev x.trig (encIssuev op x) mk = .ok (mk x) := by
  obtain ⟨t, e, w, a⟩ := x
  cases a <;> simp only [decIssuev, encIssuev, engFields, decSa_encSa, decSb_encSb, decDreg_encDreg] <;> rfl

theorem decEiTrap_enc (op : BitVec 7) (x : EiTrap) (mk : EiTrap → Instr) (w : decide (0x80 ≤ x.cause.toNat) = true) :
    decEiTrap x.trig (encEiTrap op x) mk = .ok (mk x) := by
  have h : ∀ c : BitVec 8, ((0 : BitVec 3) ++ c).extractLsb' 8 3 = 0 ∧ ((0 : BitVec 3) ++ c).extractLsb' 0 8 = c := by decide
  have h := h x.cause
  simp only [decEiTrap, encEiTrap, imm11, h, of_decide_eq_true w, and_self, if_true]

theorem decEiEvcnt_enc (op : BitVec 7) (x : EiEvcnt) (mk : EiEvcnt → Instr) : decEiEvcnt x.trig (encEiEvcnt op x) mk = .ok (mk x) := by
  have h : ∀ n : Fin 4, ((0 : BitVec 5) ++ BitVec.ofFin (w := 2) n).extractLsb' 2 5 = 0
      ∧ (((0 : BitVec 5) ++ BitVec.ofFin (w := 2) n).extractLsb' 0 2).toFin = n := by decide
  have h := h x.n
  simp only [decEiEvcnt, encEiEvcnt, h, decSa_encSa, and_self, if_true]

/-- A word of six fields whose trigger stands decodes by its opcode. -/
theorem decodeRule_word {f : RuleFields} {t : Trig} (h : f.trig = encTrig t) : decodeRule f.word = decodeOp t f := by
  have n : f.word ≠ 0xFFFFFFFF := by
    intro e
    have a : f.trig = 63 := by rw [← fieldsOf_word f, e]; rfl
    have d := decTrig_encTrig t
    rw [← h, a] at d
    cases d
  simp only [decodeRule, if_neg n, fieldsOf_word, decodeFields, h, decTrig_encTrig]

/-! ### Command words -/

theorem decV_enc (op : BitVec 8) (x : VCmd) (mk : VCmd → Instr) (w : vFmtLegal op.toNat x.fmt = true) :
    cmdOp (encV op x) = op.toNat ∧ decV op.toNat (encV op x) mk = .ok (mk x) := by
  obtain ⟨ba, bb, bo, fmt, rnd, half, cnt⟩ := x
  have f (s l : Nat) (v : BitVec l) (h : ∀ i < l, ((encV op ⟨ba, bb, bo, fmt, rnd, half, cnt⟩).extractLsb' s l).getLsbD i = v.getLsbD i) :
      (encV op ⟨ba, bb, bo, fmt, rnd, half, cnt⟩).extractLsb' s l = v := BitVec.eq_of_getLsbD_eq h
  have h0 := f 24 8 op (by intro i hi; simp only [encV, BitVec.getLsbD_extractLsb', BitVec.getLsbD_append]; interval_cases i <;> simp)
  have h1 := f 21 3 (BitVec.ofFin (w := 3) ba)
    (by intro i hi; simp only [encV, BitVec.getLsbD_extractLsb', BitVec.getLsbD_append]; interval_cases i <;> simp)
  have h2 := f 18 3 (BitVec.ofFin (w := 3) bb)
    (by intro i hi; simp only [encV, BitVec.getLsbD_extractLsb', BitVec.getLsbD_append]; interval_cases i <;> simp)
  have h3 := f 15 3 (BitVec.ofFin (w := 3) bo)
    (by intro i hi; simp only [encV, BitVec.getLsbD_extractLsb', BitVec.getLsbD_append]; interval_cases i <;> simp)
  have h4 := f 12 3 (BitVec.ofFin (w := 3) fmt)
    (by intro i hi; simp only [encV, BitVec.getLsbD_extractLsb', BitVec.getLsbD_append]; interval_cases i <;> simp)
  have h5 := f 10 2 (BitVec.ofFin (w := 2) rnd)
    (by intro i hi; simp only [encV, BitVec.getLsbD_extractLsb', BitVec.getLsbD_append]; interval_cases i <;> simp)
  have h6 := f 9 1 0 (by intro i hi; simp only [encV, BitVec.getLsbD_extractLsb', BitVec.getLsbD_append]; interval_cases i; simp)
  have h7 := f 8 1 (encBit half)
    (by intro i hi; simp only [encV, BitVec.getLsbD_extractLsb', BitVec.getLsbD_append]; interval_cases i; simp)
  have h8 := f 0 8 cnt (by intro i hi; simp only [encV, BitVec.getLsbD_extractLsb', BitVec.getLsbD_append]; interval_cases i <;> simp)
  simp only [cmdOp, decV, h0, h1, h2, h3, h4, h5, h6, h7, h8, if_true, decBit_encBit, w, true_and]

theorem mFieldsOf_word (op : BitVec 8) (f : MFields) : cmdOp (f.word op) = op.toNat ∧ mFieldsOf (f.word op) = f := by
  obtain ⟨a, b, c, d, e, g, h, i, j, k⟩ := f
  have o : (MFields.word op ⟨a, b, c, d, e, g, h, i, j, k⟩).extractLsb' 24 8 = op := by
    apply BitVec.eq_of_getLsbD_eq; intro n hn
    simp only [MFields.word, BitVec.getLsbD_extractLsb', BitVec.getLsbD_append]; interval_cases n <;> simp
  refine ⟨congrArg BitVec.toNat o, ?_⟩
  simp only [mFieldsOf, MFields.word, MFields.mk.injEq]
  refine ⟨?_, ?_, ?_, ?_, ?_, ?_, ?_, ?_, ?_, ?_⟩ <;>
    (apply BitVec.eq_of_getLsbD_eq; intro n hn; simp only [BitVec.getLsbD_extractLsb', BitVec.getLsbD_append]; interval_cases n <;> simp)

theorem wFieldsOf_word (op : BitVec 8) (f : WFields) : cmdOp (f.word op) = op.toNat ∧ wFieldsOf (f.word op) = f := by
  obtain ⟨a, b, c, d, e⟩ := f
  have o : (WFields.word op ⟨a, b, c, d, e⟩).extractLsb' 24 8 = op := by
    apply BitVec.eq_of_getLsbD_eq; intro n hn
    simp only [WFields.word, BitVec.getLsbD_extractLsb', BitVec.getLsbD_append]; interval_cases n <;> simp
  refine ⟨congrArg BitVec.toNat o, ?_⟩
  simp only [wFieldsOf, WFields.word, WFields.mk.injEq]
  refine ⟨?_, ?_, ?_, ?_, ?_⟩ <;>
    (apply BitVec.eq_of_getLsbD_eq; intro n hn; simp only [BitVec.getLsbD_extractLsb', BitVec.getLsbD_append]; interval_cases n <;> simp)

theorem yFieldsOf_word (op : BitVec 8) (f : YFields) : cmdOp (f.word op) = op.toNat ∧ yFieldsOf (f.word op) = f := by
  obtain ⟨a, b, c, d, e, g, h⟩ := f
  have o : (YFields.word op ⟨a, b, c, d, e, g, h⟩).extractLsb' 24 8 = op := by
    apply BitVec.eq_of_getLsbD_eq; intro n hn
    simp only [YFields.word, BitVec.getLsbD_extractLsb', BitVec.getLsbD_append]; interval_cases n <;> simp
  refine ⟨congrArg BitVec.toNat o, ?_⟩
  simp only [yFieldsOf, YFields.word, YFields.mk.injEq]
  refine ⟨?_, ?_, ?_, ?_, ?_, ?_, ?_⟩ <;>
    (apply BitVec.eq_of_getLsbD_eq; intro n hn; simp only [BitVec.getLsbD_extractLsb', BitVec.getLsbD_append]; interval_cases n <;> simp)

theorem decSrc_enc5 (n : Fin 5) : decSrc 5 (BitVec.ofNat 3 n.val) = some n := by revert n; decide
theorem decSrc_enc6 (n : Fin 6) : decSrc 6 (BitVec.ofNat 3 n.val) = some n := by revert n; decide
theorem decSrc_enc7 (n : Fin 7) : decSrc 7 (BitVec.ofNat 3 n.val) = some n := by revert n; decide

theorem decMxLd_enc (x : MxLd) (mk : MxLd → Instr) : decMxLd (encMxLd x) mk = .ok (mk x) := by
  simp only [decMxLd, encMxLd, decSrc_enc6]; rfl

theorem decMxBank_enc (x : MxBank) (mk : MxBank → Instr) : decMxBank (encMxBank x) mk = .ok (mk x) := by
  simp only [decMxBank, encMxBank]; rfl

theorem decMxMul_enc (x : MxMul) (mk : MxMul → Instr) (w : x.fmts.legal = true) : decMxMul (encMxMul x) mk = .ok (mk x) := by
  simp only [decMxMul, encMxMul, decSrc_enc7, decBit_encBit, MFields.pair, MFields.zero]
  simp only [and_self, if_true]
  exact if_pos w

theorem decMxMult_enc (x : MxMult) (mk : MxMult → Instr) (w : x.fmts.legal = true) : decMxMult (encMxMult x) mk = .ok (mk x) := by
  simp only [decMxMult, encMxMult, decSrc_enc6, decBit_encBit, MFields.pair, MFields.zero]
  simp only [and_self, if_true]
  exact if_pos w

theorem decMxMuls_enc (x : MxMuls) (mk : MxMuls → Instr)
    (w : (x.fmts.legal && (match x.sel with | .bank _ => true | .tag _ => decide (x.src.val ≤ 5))) = true) :
    decMxMuls (encMxMuls x) mk = .ok (mk x) := by
  obtain ⟨acc, sel, src, fm, rows, s8⟩ := x
  simp only [Bool.and_eq_true] at w
  cases sel with
  | bank b =>
    simp only [decMxMuls, encMxMuls, encSel, decSrc_enc7, decBit_encBit, MFields.sel, MFields.pair, MFields.zero]
    simp only [if_true, and_self]
    exact if_pos w.1
  | tag m =>
    simp only [decMxMuls, encMxMuls, encSel, decSrc_enc7, decBit_encBit, MFields.sel, MFields.pair, MFields.zero]
    have v : decide (src.val ≤ 5) = true := w.2
    have u : ¬ (1 : BitVec 1) = 0 := by decide
    simp only [if_true, if_neg u, v, and_self]
    exact if_pos w.1

theorem decMxGrad_enc (x : MxGrad) (mk : MxGrad → Instr) : decMxGrad (encMxGrad x) mk = .ok (mk x) := by
  obtain ⟨sel, src, rows⟩ := x
  cases sel with
  | bank b =>
    simp only [decMxGrad, encMxGrad, encSel, decSrc_enc5, MFields.sel, MFields.zero]
    simp only [if_true, and_self]
  | tag m =>
    simp only [decMxGrad, encMxGrad, encSel, decSrc_enc5, decBit_encBit, MFields.sel, MFields.zero]
    rfl

theorem decMxGdrn_enc (x : MxGdrn) (mk : MxGdrn → Instr) : decMxGdrn (encMxGdrn x) mk = .ok (mk x) := by
  simp only [decMxGdrn, encMxGdrn, decBit_encBit]; rfl

theorem decMxDrn_enc (x : MxDrn) (mk : MxDrn → Instr) : decMxDrn (encMxDrn x) mk = .ok (mk x) := by
  obtain ⟨keep, src, int, rows⟩ := x
  cases int <;> simp only [decMxDrn, encMxDrn, decSrc_enc7, decBit_encBit] <;> rfl

theorem decMxZero_enc (x : MxZero) (mk : MxZero → Instr) : decMxZero (encMxZero x) mk = .ok (mk x) := by
  simp only [decMxZero, encMxZero, decBit_encBit]; rfl

theorem decEng_enc (n : Fin 5) : decEng (BitVec.ofNat 3 n.val) = some n := by revert n; decide

end Sys2Proof
end

