-- ==== Sys2Proof/Laws/State.lean ====
section
/-! SUPPORT. What each basic update of the state leaves in each field, by definition: one lemma for the field it writes,
and one, a rule for every other field, for those it leaves. -/

namespace Sys2Proof.Machine

@[simp] theorem State.setInst_insts (s : State) (task : Nat) (vt : Fin 16) (x : Inst) : (s.setInst task vt x).insts = s.insts.put (ikey task vt) x := rfl

@[simp] theorem State.setInst_keeps (s : State) (task : Nat) (vt : Fin 16) (x : Inst) :
    (s.setInst task vt x).cur = s.cur ∧ (s.setInst task vt x).agenda = s.agenda ∧
    (s.setInst task vt x).turnNo = s.turnNo ∧ (s.setInst task vt x).plan = s.plan ∧
    (s.setInst task vt x).closes = s.closes ∧ (s.setInst task vt x).fired = s.fired ∧
    (s.setInst task vt x).freeNo = s.freeNo ∧ (s.setInst task vt x).nextId = s.nextId ∧
    (s.setInst task vt x).stageNo = s.stageNo ∧ (s.setInst task vt x).mem = s.mem ∧
    (s.setInst task vt x).hostMem = s.hostMem ∧ (s.setInst task vt x).usedFrames = s.usedFrames ∧
    (s.setInst task vt x).groups = s.groups ∧ (s.setInst task vt x).accs = s.accs ∧
    (s.setInst task vt x).tiles = s.tiles ∧ (s.setInst task vt x).regions = s.regions ∧
    (s.setInst task vt x).tasks = s.tasks ∧ (s.setInst task vt x).spreads = s.spreads ∧
    (s.setInst task vt x).waiters = s.waiters ∧ (s.setInst task vt x).spawns = s.spawns ∧
    (s.setInst task vt x).lastTask = s.lastTask ∧ (s.setInst task vt x).ptr = s.ptr ∧
    (s.setInst task vt x).names = s.names ∧ (s.setInst task vt x).objs = s.objs ∧
    (s.setInst task vt x).slots = s.slots ∧ (s.setInst task vt x).ctxs = s.ctxs ∧
    (s.setInst task vt x).sccount = s.sccount ∧ (s.setInst task vt x).cls = s.cls ∧
    (s.setInst task vt x).good = s.good ∧ (s.setInst task vt x).fenced = s.fenced ∧
    (s.setInst task vt x).shocks = s.shocks ∧ (s.setInst task vt x).shockPend = s.shockPend ∧
    (s.setInst task vt x).shockPeak = s.shockPeak ∧ (s.setInst task vt x).shockNew = s.shockNew ∧
    (s.setInst task vt x).sec = s.sec ∧ (s.setInst task vt x).dbg = s.dbg ∧
    (s.setInst task vt x).hubStat = s.hubStat ∧ (s.setInst task vt x).springing = s.springing ∧
    (s.setInst task vt x).flrs = s.flrs ∧ (s.setInst task vt x).hubCtrs = s.hubCtrs ∧
    (s.setInst task vt x).readData = s.readData ∧ (s.setInst task vt x).pgops = s.pgops ∧
    (s.setInst task vt x).hostQ = s.hostQ ∧ (s.setInst task vt x).boosten = s.boosten ∧
    (s.setInst task vt x).park = s.park ∧ (s.setInst task vt x).plim = s.plim ∧ (s.setInst task vt x).pbst = s.pbst ∧
    (s.setInst task vt x).pst = s.pst ∧ (s.setInst task vt x).snow = s.snow ∧ (s.setInst task vt x).draw = s.draw ∧
    (s.setInst task vt x).causeCnt = s.causeCnt ∧ (s.setInst task vt x).supin = s.supin ∧
    (s.setInst task vt x).droop = s.droop ∧ (s.setInst task vt x).oc = s.oc ∧ (s.setInst task vt x).holds = s.holds ∧
    (s.setInst task vt x).before = s.before ∧ (s.setInst task vt x).lastLeft = s.lastLeft ∧
    (s.setInst task vt x).die = s.die ∧ (s.setInst task vt x).spm1 = s.spm1 ∧
    (s.setInst task vt x).routeLo = s.routeLo ∧ (s.setInst task vt x).routeHi = s.routeHi ∧
    (s.setInst task vt x).lnks = s.lnks ∧ (s.setInst task vt x).clk = s.clk ∧ (s.setInst task vt x).seen = s.seen ∧
    (s.setInst task vt x).sentClk = s.sentClk ∧ (s.setInst task vt x).seenBy = s.seenBy ∧
    (s.setInst task vt x).srcClk = s.srcClk ∧ (s.setInst task vt x).probed = s.probed ∧
    (s.setInst task vt x).onAlt = s.onAlt ∧ (s.setInst task vt x).rx = s.rx ∧ (s.setInst task vt x).tx = s.tx ∧
    (s.setInst task vt x).gone = s.gone ∧ (s.setInst task vt x).devFuse = s.devFuse ∧
    (s.setInst task vt x).minVer = s.minVer ∧ (s.setInst task vt x).fw = s.fw ∧
    (s.setInst task vt x).measured = s.measured ∧ (s.setInst task vt x).bootReason = s.bootReason ∧
    (s.setInst task vt x).badBoots = s.badBoots ∧ (s.setInst task vt x).badHash = s.badHash ∧
    (s.setInst task vt x).mbStat = s.mbStat ∧ (s.setInst task vt x).mbBuf = s.mbBuf ∧
    (s.setInst task vt x).keys = s.keys ∧ (s.setInst task vt x).pairs = s.pairs :=
  by and_intros <;> rfl

@[simp] theorem State.updInst_insts (s : State) (task : Nat) (vt : Fin 16) (f : Inst → Inst) : (s.updInst task vt f).insts = s.insts.modify (ikey task vt) f := rfl

@[simp] theorem State.updInst_keeps (s : State) (task : Nat) (vt : Fin 16) (f : Inst → Inst) :
    (s.updInst task vt f).cur = s.cur ∧ (s.updInst task vt f).agenda = s.agenda ∧
    (s.updInst task vt f).turnNo = s.turnNo ∧ (s.updInst task vt f).plan = s.plan ∧
    (s.updInst task vt f).closes = s.closes ∧ (s.updInst task vt f).fired = s.fired ∧
    (s.updInst task vt f).freeNo = s.freeNo ∧ (s.updInst task vt f).nextId = s.nextId ∧
    (s.updInst task vt f).stageNo = s.stageNo ∧ (s.updInst task vt f).mem = s.mem ∧
    (s.updInst task vt f).hostMem = s.hostMem ∧ (s.updInst task vt f).usedFrames = s.usedFrames ∧
    (s.updInst task vt f).groups = s.groups ∧ (s.updInst task vt f).accs = s.accs ∧
    (s.updInst task vt f).tiles = s.tiles ∧ (s.updInst task vt f).regions = s.regions ∧
    (s.updInst task vt f).tasks = s.tasks ∧ (s.updInst task vt f).spreads = s.spreads ∧
    (s.updInst task vt f).waiters = s.waiters ∧ (s.updInst task vt f).spawns = s.spawns ∧
    (s.updInst task vt f).lastTask = s.lastTask ∧ (s.updInst task vt f).ptr = s.ptr ∧
    (s.updInst task vt f).names = s.names ∧ (s.updInst task vt f).objs = s.objs ∧
    (s.updInst task vt f).slots = s.slots ∧ (s.updInst task vt f).ctxs = s.ctxs ∧
    (s.updInst task vt f).sccount = s.sccount ∧ (s.updInst task vt f).cls = s.cls ∧
    (s.updInst task vt f).good = s.good ∧ (s.updInst task vt f).fenced = s.fenced ∧
    (s.updInst task vt f).shocks = s.shocks ∧ (s.updInst task vt f).shockPend = s.shockPend ∧
    (s.updInst task vt f).shockPeak = s.shockPeak ∧ (s.updInst task vt f).shockNew = s.shockNew ∧
    (s.updInst task vt f).sec = s.sec ∧ (s.updInst task vt f).dbg = s.dbg ∧
    (s.updInst task vt f).hubStat = s.hubStat ∧ (s.updInst task vt f).springing = s.springing ∧
    (s.updInst task vt f).flrs = s.flrs ∧ (s.updInst task vt f).hubCtrs = s.hubCtrs ∧
    (s.updInst task vt f).readData = s.readData ∧ (s.updInst task vt f).pgops = s.pgops ∧
    (s.updInst task vt f).hostQ = s.hostQ ∧ (s.updInst task vt f).boosten = s.boosten ∧
    (s.updInst task vt f).park = s.park ∧ (s.updInst task vt f).plim = s.plim ∧ (s.updInst task vt f).pbst = s.pbst ∧
    (s.updInst task vt f).pst = s.pst ∧ (s.updInst task vt f).snow = s.snow ∧ (s.updInst task vt f).draw = s.draw ∧
    (s.updInst task vt f).causeCnt = s.causeCnt ∧ (s.updInst task vt f).supin = s.supin ∧
    (s.updInst task vt f).droop = s.droop ∧ (s.updInst task vt f).oc = s.oc ∧ (s.updInst task vt f).holds = s.holds ∧
    (s.updInst task vt f).before = s.before ∧ (s.updInst task vt f).lastLeft = s.lastLeft ∧
    (s.updInst task vt f).die = s.die ∧ (s.updInst task vt f).spm1 = s.spm1 ∧
    (s.updInst task vt f).routeLo = s.routeLo ∧ (s.updInst task vt f).routeHi = s.routeHi ∧
    (s.updInst task vt f).lnks = s.lnks ∧ (s.updInst task vt f).clk = s.clk ∧ (s.updInst task vt f).seen = s.seen ∧
    (s.updInst task vt f).sentClk = s.sentClk ∧ (s.updInst task vt f).seenBy = s.seenBy ∧
    (s.updInst task vt f).srcClk = s.srcClk ∧ (s.updInst task vt f).probed = s.probed ∧
    (s.updInst task vt f).onAlt = s.onAlt ∧ (s.updInst task vt f).rx = s.rx ∧ (s.updInst task vt f).tx = s.tx ∧
    (s.updInst task vt f).gone = s.gone ∧ (s.updInst task vt f).devFuse = s.devFuse ∧
    (s.updInst task vt f).minVer = s.minVer ∧ (s.updInst task vt f).fw = s.fw ∧
    (s.updInst task vt f).measured = s.measured ∧ (s.updInst task vt f).bootReason = s.bootReason ∧
    (s.updInst task vt f).badBoots = s.badBoots ∧ (s.updInst task vt f).badHash = s.badHash ∧
    (s.updInst task vt f).mbStat = s.mbStat ∧ (s.updInst task vt f).mbBuf = s.mbBuf ∧
    (s.updInst task vt f).keys = s.keys ∧ (s.updInst task vt f).pairs = s.pairs :=
  by and_intros <;> rfl

@[simp] theorem State.updElem_insts (s : State) (task : Nat) (vt e : Fin 16) (f : Elem → Elem) : (s.updElem task vt e f).insts = s.insts.modify (ikey task vt) (fun x => x.setElem e (f (x.elem e))) := rfl

@[simp] theorem State.updElem_keeps (s : State) (task : Nat) (vt e : Fin 16) (f : Elem → Elem) :
    (s.updElem task vt e f).cur = s.cur ∧ (s.updElem task vt e f).agenda = s.agenda ∧
    (s.updElem task vt e f).turnNo = s.turnNo ∧ (s.updElem task vt e f).plan = s.plan ∧
    (s.updElem task vt e f).closes = s.closes ∧ (s.updElem task vt e f).fired = s.fired ∧
    (s.updElem task vt e f).freeNo = s.freeNo ∧ (s.updElem task vt e f).nextId = s.nextId ∧
    (s.updElem task vt e f).stageNo = s.stageNo ∧ (s.updElem task vt e f).mem = s.mem ∧
    (s.updElem task vt e f).hostMem = s.hostMem ∧ (s.updElem task vt e f).usedFrames = s.usedFrames ∧
    (s.updElem task vt e f).groups = s.groups ∧ (s.updElem task vt e f).accs = s.accs ∧
    (s.updElem task vt e f).tiles = s.tiles ∧ (s.updElem task vt e f).regions = s.regions ∧
    (s.updElem task vt e f).tasks = s.tasks ∧ (s.updElem task vt e f).spreads = s.spreads ∧
    (s.updElem task vt e f).waiters = s.waiters ∧ (s.updElem task vt e f).spawns = s.spawns ∧
    (s.updElem task vt e f).lastTask = s.lastTask ∧ (s.updElem task vt e f).ptr = s.ptr ∧
    (s.updElem task vt e f).names = s.names ∧ (s.updElem task vt e f).objs = s.objs ∧
    (s.updElem task vt e f).slots = s.slots ∧ (s.updElem task vt e f).ctxs = s.ctxs ∧
    (s.updElem task vt e f).sccount = s.sccount ∧ (s.updElem task vt e f).cls = s.cls ∧
    (s.updElem task vt e f).good = s.good ∧ (s.updElem task vt e f).fenced = s.fenced ∧
    (s.updElem task vt e f).shocks = s.shocks ∧ (s.updElem task vt e f).shockPend = s.shockPend ∧
    (s.updElem task vt e f).shockPeak = s.shockPeak ∧ (s.updElem task vt e f).shockNew = s.shockNew ∧
    (s.updElem task vt e f).sec = s.sec ∧ (s.updElem task vt e f).dbg = s.dbg ∧
    (s.updElem task vt e f).hubStat = s.hubStat ∧ (s.updElem task vt e f).springing = s.springing ∧
    (s.updElem task vt e f).flrs = s.flrs ∧ (s.updElem task vt e f).hubCtrs = s.hubCtrs ∧
    (s.updElem task vt e f).readData = s.readData ∧ (s.updElem task vt e f).pgops = s.pgops ∧
    (s.updElem task vt e f).hostQ = s.hostQ ∧ (s.updElem task vt e f).boosten = s.boosten ∧
    (s.updElem task vt e f).park = s.park ∧ (s.updElem task vt e f).plim = s.plim ∧
    (s.updElem task vt e f).pbst = s.pbst ∧ (s.updElem task vt e f).pst = s.pst ∧
    (s.updElem task vt e f).snow = s.snow ∧ (s.updElem task vt e f).draw = s.draw ∧
    (s.updElem task vt e f).causeCnt = s.causeCnt ∧ (s.updElem task vt e f).supin = s.supin ∧
    (s.updElem task vt e f).droop = s.droop ∧ (s.updElem task vt e f).oc = s.oc ∧
    (s.updElem task vt e f).holds = s.holds ∧ (s.updElem task vt e f).before = s.before ∧
    (s.updElem task vt e f).lastLeft = s.lastLeft ∧ (s.updElem task vt e f).die = s.die ∧
    (s.updElem task vt e f).spm1 = s.spm1 ∧ (s.updElem task vt e f).routeLo = s.routeLo ∧
    (s.updElem task vt e f).routeHi = s.routeHi ∧ (s.updElem task vt e f).lnks = s.lnks ∧
    (s.updElem task vt e f).clk = s.clk ∧ (s.updElem task vt e f).seen = s.seen ∧
    (s.updElem task vt e f).sentClk = s.sentClk ∧ (s.updElem task vt e f).seenBy = s.seenBy ∧
    (s.updElem task vt e f).srcClk = s.srcClk ∧ (s.updElem task vt e f).probed = s.probed ∧
    (s.updElem task vt e f).onAlt = s.onAlt ∧ (s.updElem task vt e f).rx = s.rx ∧ (s.updElem task vt e f).tx = s.tx ∧
    (s.updElem task vt e f).gone = s.gone ∧ (s.updElem task vt e f).devFuse = s.devFuse ∧
    (s.updElem task vt e f).minVer = s.minVer ∧ (s.updElem task vt e f).fw = s.fw ∧
    (s.updElem task vt e f).measured = s.measured ∧ (s.updElem task vt e f).bootReason = s.bootReason ∧
    (s.updElem task vt e f).badBoots = s.badBoots ∧ (s.updElem task vt e f).badHash = s.badHash ∧
    (s.updElem task vt e f).mbStat = s.mbStat ∧ (s.updElem task vt e f).mbBuf = s.mbBuf ∧
    (s.updElem task vt e f).keys = s.keys ∧ (s.updElem task vt e f).pairs = s.pairs :=
  by and_intros <;> rfl

@[simp] theorem State.setGroup_groups (s : State) (task : Nat) (g : Group) : (s.setGroup task g).groups = s.groups.put task g := rfl

@[simp] theorem State.setGroup_keeps (s : State) (task : Nat) (g : Group) :
    (s.setGroup task g).cur = s.cur ∧ (s.setGroup task g).agenda = s.agenda ∧ (s.setGroup task g).turnNo = s.turnNo ∧
    (s.setGroup task g).plan = s.plan ∧ (s.setGroup task g).closes = s.closes ∧ (s.setGroup task g).fired = s.fired ∧
    (s.setGroup task g).freeNo = s.freeNo ∧ (s.setGroup task g).nextId = s.nextId ∧
    (s.setGroup task g).stageNo = s.stageNo ∧ (s.setGroup task g).mem = s.mem ∧
    (s.setGroup task g).hostMem = s.hostMem ∧ (s.setGroup task g).usedFrames = s.usedFrames ∧
    (s.setGroup task g).insts = s.insts ∧ (s.setGroup task g).accs = s.accs ∧ (s.setGroup task g).tiles = s.tiles ∧
    (s.setGroup task g).regions = s.regions ∧ (s.setGroup task g).tasks = s.tasks ∧
    (s.setGroup task g).spreads = s.spreads ∧ (s.setGroup task g).waiters = s.waiters ∧
    (s.setGroup task g).spawns = s.spawns ∧ (s.setGroup task g).lastTask = s.lastTask ∧
    (s.setGroup task g).ptr = s.ptr ∧ (s.setGroup task g).names = s.names ∧ (s.setGroup task g).objs = s.objs ∧
    (s.setGroup task g).slots = s.slots ∧ (s.setGroup task g).ctxs = s.ctxs ∧
    (s.setGroup task g).sccount = s.sccount ∧ (s.setGroup task g).cls = s.cls ∧ (s.setGroup task g).good = s.good ∧
    (s.setGroup task g).fenced = s.fenced ∧ (s.setGroup task g).shocks = s.shocks ∧
    (s.setGroup task g).shockPend = s.shockPend ∧ (s.setGroup task g).shockPeak = s.shockPeak ∧
    (s.setGroup task g).shockNew = s.shockNew ∧ (s.setGroup task g).sec = s.sec ∧ (s.setGroup task g).dbg = s.dbg ∧
    (s.setGroup task g).hubStat = s.hubStat ∧ (s.setGroup task g).springing = s.springing ∧
    (s.setGroup task g).flrs = s.flrs ∧ (s.setGroup task g).hubCtrs = s.hubCtrs ∧
    (s.setGroup task g).readData = s.readData ∧ (s.setGroup task g).pgops = s.pgops ∧
    (s.setGroup task g).hostQ = s.hostQ ∧ (s.setGroup task g).boosten = s.boosten ∧
    (s.setGroup task g).park = s.park ∧ (s.setGroup task g).plim = s.plim ∧ (s.setGroup task g).pbst = s.pbst ∧
    (s.setGroup task g).pst = s.pst ∧ (s.setGroup task g).snow = s.snow ∧ (s.setGroup task g).draw = s.draw ∧
    (s.setGroup task g).causeCnt = s.causeCnt ∧ (s.setGroup task g).supin = s.supin ∧
    (s.setGroup task g).droop = s.droop ∧ (s.setGroup task g).oc = s.oc ∧ (s.setGroup task g).holds = s.holds ∧
    (s.setGroup task g).before = s.before ∧ (s.setGroup task g).lastLeft = s.lastLeft ∧
    (s.setGroup task g).die = s.die ∧ (s.setGroup task g).spm1 = s.spm1 ∧ (s.setGroup task g).routeLo = s.routeLo ∧
    (s.setGroup task g).routeHi = s.routeHi ∧ (s.setGroup task g).lnks = s.lnks ∧ (s.setGroup task g).clk = s.clk ∧
    (s.setGroup task g).seen = s.seen ∧ (s.setGroup task g).sentClk = s.sentClk ∧
    (s.setGroup task g).seenBy = s.seenBy ∧ (s.setGroup task g).srcClk = s.srcClk ∧
    (s.setGroup task g).probed = s.probed ∧ (s.setGroup task g).onAlt = s.onAlt ∧ (s.setGroup task g).rx = s.rx ∧
    (s.setGroup task g).tx = s.tx ∧ (s.setGroup task g).gone = s.gone ∧ (s.setGroup task g).devFuse = s.devFuse ∧
    (s.setGroup task g).minVer = s.minVer ∧ (s.setGroup task g).fw = s.fw ∧
    (s.setGroup task g).measured = s.measured ∧ (s.setGroup task g).bootReason = s.bootReason ∧
    (s.setGroup task g).badBoots = s.badBoots ∧ (s.setGroup task g).badHash = s.badHash ∧
    (s.setGroup task g).mbStat = s.mbStat ∧ (s.setGroup task g).mbBuf = s.mbBuf ∧ (s.setGroup task g).keys = s.keys ∧
    (s.setGroup task g).pairs = s.pairs :=
  by and_intros <;> rfl

@[simp] theorem State.updGroup_groups (s : State) (task : Nat) (f : Group → Group) : (s.updGroup task f).groups = s.groups.modify task f := rfl

@[simp] theorem State.updGroup_keeps (s : State) (task : Nat) (f : Group → Group) :
    (s.updGroup task f).cur = s.cur ∧ (s.updGroup task f).agenda = s.agenda ∧ (s.updGroup task f).turnNo = s.turnNo ∧
    (s.updGroup task f).plan = s.plan ∧ (s.updGroup task f).closes = s.closes ∧ (s.updGroup task f).fired = s.fired ∧
    (s.updGroup task f).freeNo = s.freeNo ∧ (s.updGroup task f).nextId = s.nextId ∧
    (s.updGroup task f).stageNo = s.stageNo ∧ (s.updGroup task f).mem = s.mem ∧
    (s.updGroup task f).hostMem = s.hostMem ∧ (s.updGroup task f).usedFrames = s.usedFrames ∧
    (s.updGroup task f).insts = s.insts ∧ (s.updGroup task f).accs = s.accs ∧ (s.updGroup task f).tiles = s.tiles ∧
    (s.updGroup task f).regions = s.regions ∧ (s.updGroup task f).tasks = s.tasks ∧
    (s.updGroup task f).spreads = s.spreads ∧ (s.updGroup task f).waiters = s.waiters ∧
    (s.updGroup task f).spawns = s.spawns ∧ (s.updGroup task f).lastTask = s.lastTask ∧
    (s.updGroup task f).ptr = s.ptr ∧ (s.updGroup task f).names = s.names ∧ (s.updGroup task f).objs = s.objs ∧
    (s.updGroup task f).slots = s.slots ∧ (s.updGroup task f).ctxs = s.ctxs ∧
    (s.updGroup task f).sccount = s.sccount ∧ (s.updGroup task f).cls = s.cls ∧ (s.updGroup task f).good = s.good ∧
    (s.updGroup task f).fenced = s.fenced ∧ (s.updGroup task f).shocks = s.shocks ∧
    (s.updGroup task f).shockPend = s.shockPend ∧ (s.updGroup task f).shockPeak = s.shockPeak ∧
    (s.updGroup task f).shockNew = s.shockNew ∧ (s.updGroup task f).sec = s.sec ∧ (s.updGroup task f).dbg = s.dbg ∧
    (s.updGroup task f).hubStat = s.hubStat ∧ (s.updGroup task f).springing = s.springing ∧
    (s.updGroup task f).flrs = s.flrs ∧ (s.updGroup task f).hubCtrs = s.hubCtrs ∧
    (s.updGroup task f).readData = s.readData ∧ (s.updGroup task f).pgops = s.pgops ∧
    (s.updGroup task f).hostQ = s.hostQ ∧ (s.updGroup task f).boosten = s.boosten ∧
    (s.updGroup task f).park = s.park ∧ (s.updGroup task f).plim = s.plim ∧ (s.updGroup task f).pbst = s.pbst ∧
    (s.updGroup task f).pst = s.pst ∧ (s.updGroup task f).snow = s.snow ∧ (s.updGroup task f).draw = s.draw ∧
    (s.updGroup task f).causeCnt = s.causeCnt ∧ (s.updGroup task f).supin = s.supin ∧
    (s.updGroup task f).droop = s.droop ∧ (s.updGroup task f).oc = s.oc ∧ (s.updGroup task f).holds = s.holds ∧
    (s.updGroup task f).before = s.before ∧ (s.updGroup task f).lastLeft = s.lastLeft ∧
    (s.updGroup task f).die = s.die ∧ (s.updGroup task f).spm1 = s.spm1 ∧ (s.updGroup task f).routeLo = s.routeLo ∧
    (s.updGroup task f).routeHi = s.routeHi ∧ (s.updGroup task f).lnks = s.lnks ∧ (s.updGroup task f).clk = s.clk ∧
    (s.updGroup task f).seen = s.seen ∧ (s.updGroup task f).sentClk = s.sentClk ∧
    (s.updGroup task f).seenBy = s.seenBy ∧ (s.updGroup task f).srcClk = s.srcClk ∧
    (s.updGroup task f).probed = s.probed ∧ (s.updGroup task f).onAlt = s.onAlt ∧ (s.updGroup task f).rx = s.rx ∧
    (s.updGroup task f).tx = s.tx ∧ (s.updGroup task f).gone = s.gone ∧ (s.updGroup task f).devFuse = s.devFuse ∧
    (s.updGroup task f).minVer = s.minVer ∧ (s.updGroup task f).fw = s.fw ∧
    (s.updGroup task f).measured = s.measured ∧ (s.updGroup task f).bootReason = s.bootReason ∧
    (s.updGroup task f).badBoots = s.badBoots ∧ (s.updGroup task f).badHash = s.badHash ∧
    (s.updGroup task f).mbStat = s.mbStat ∧ (s.updGroup task f).mbBuf = s.mbBuf ∧ (s.updGroup task f).keys = s.keys ∧
    (s.updGroup task f).pairs = s.pairs :=
  by and_intros <;> rfl

@[simp] theorem State.progress_groups (s : State) (task : Nat) : (s.progress task).groups = s.groups.modify task (fun g => { g with wd := 0, episode := none }) := rfl

@[simp] theorem State.progress_keeps (s : State) (task : Nat) :
    (s.progress task).cur = s.cur ∧ (s.progress task).agenda = s.agenda ∧ (s.progress task).turnNo = s.turnNo ∧
    (s.progress task).plan = s.plan ∧ (s.progress task).closes = s.closes ∧ (s.progress task).fired = s.fired ∧
    (s.progress task).freeNo = s.freeNo ∧ (s.progress task).nextId = s.nextId ∧
    (s.progress task).stageNo = s.stageNo ∧ (s.progress task).mem = s.mem ∧ (s.progress task).hostMem = s.hostMem ∧
    (s.progress task).usedFrames = s.usedFrames ∧ (s.progress task).insts = s.insts ∧
    (s.progress task).accs = s.accs ∧ (s.progress task).tiles = s.tiles ∧ (s.progress task).regions = s.regions ∧
    (s.progress task).tasks = s.tasks ∧ (s.progress task).spreads = s.spreads ∧
    (s.progress task).waiters = s.waiters ∧ (s.progress task).spawns = s.spawns ∧
    (s.progress task).lastTask = s.lastTask ∧ (s.progress task).ptr = s.ptr ∧ (s.progress task).names = s.names ∧
    (s.progress task).objs = s.objs ∧ (s.progress task).slots = s.slots ∧ (s.progress task).ctxs = s.ctxs ∧
    (s.progress task).sccount = s.sccount ∧ (s.progress task).cls = s.cls ∧ (s.progress task).good = s.good ∧
    (s.progress task).fenced = s.fenced ∧ (s.progress task).shocks = s.shocks ∧
    (s.progress task).shockPend = s.shockPend ∧ (s.progress task).shockPeak = s.shockPeak ∧
    (s.progress task).shockNew = s.shockNew ∧ (s.progress task).sec = s.sec ∧ (s.progress task).dbg = s.dbg ∧
    (s.progress task).hubStat = s.hubStat ∧ (s.progress task).springing = s.springing ∧
    (s.progress task).flrs = s.flrs ∧ (s.progress task).hubCtrs = s.hubCtrs ∧
    (s.progress task).readData = s.readData ∧ (s.progress task).pgops = s.pgops ∧ (s.progress task).hostQ = s.hostQ ∧
    (s.progress task).boosten = s.boosten ∧ (s.progress task).park = s.park ∧ (s.progress task).plim = s.plim ∧
    (s.progress task).pbst = s.pbst ∧ (s.progress task).pst = s.pst ∧ (s.progress task).snow = s.snow ∧
    (s.progress task).draw = s.draw ∧ (s.progress task).causeCnt = s.causeCnt ∧ (s.progress task).supin = s.supin ∧
    (s.progress task).droop = s.droop ∧ (s.progress task).oc = s.oc ∧ (s.progress task).holds = s.holds ∧
    (s.progress task).before = s.before ∧ (s.progress task).lastLeft = s.lastLeft ∧ (s.progress task).die = s.die ∧
    (s.progress task).spm1 = s.spm1 ∧ (s.progress task).routeLo = s.routeLo ∧ (s.progress task).routeHi = s.routeHi ∧
    (s.progress task).lnks = s.lnks ∧ (s.progress task).clk = s.clk ∧ (s.progress task).seen = s.seen ∧
    (s.progress task).sentClk = s.sentClk ∧ (s.progress task).seenBy = s.seenBy ∧
    (s.progress task).srcClk = s.srcClk ∧ (s.progress task).probed = s.probed ∧ (s.progress task).onAlt = s.onAlt ∧
    (s.progress task).rx = s.rx ∧ (s.progress task).tx = s.tx ∧ (s.progress task).gone = s.gone ∧
    (s.progress task).devFuse = s.devFuse ∧ (s.progress task).minVer = s.minVer ∧ (s.progress task).fw = s.fw ∧
    (s.progress task).measured = s.measured ∧ (s.progress task).bootReason = s.bootReason ∧
    (s.progress task).badBoots = s.badBoots ∧ (s.progress task).badHash = s.badHash ∧
    (s.progress task).mbStat = s.mbStat ∧ (s.progress task).mbBuf = s.mbBuf ∧ (s.progress task).keys = s.keys ∧
    (s.progress task).pairs = s.pairs :=
  by and_intros <;> rfl

@[simp] theorem State.updCtx_ctxs (s : State) (c : Nat) (f : Ctx → Ctx) : (s.updCtx c f).ctxs = s.ctxs.modify c f := rfl

@[simp] theorem State.updCtx_keeps (s : State) (c : Nat) (f : Ctx → Ctx) :
    (s.updCtx c f).cur = s.cur ∧ (s.updCtx c f).agenda = s.agenda ∧ (s.updCtx c f).turnNo = s.turnNo ∧
    (s.updCtx c f).plan = s.plan ∧ (s.updCtx c f).closes = s.closes ∧ (s.updCtx c f).fired = s.fired ∧
    (s.updCtx c f).freeNo = s.freeNo ∧ (s.updCtx c f).nextId = s.nextId ∧ (s.updCtx c f).stageNo = s.stageNo ∧
    (s.updCtx c f).mem = s.mem ∧ (s.updCtx c f).hostMem = s.hostMem ∧ (s.updCtx c f).usedFrames = s.usedFrames ∧
    (s.updCtx c f).insts = s.insts ∧ (s.updCtx c f).groups = s.groups ∧ (s.updCtx c f).accs = s.accs ∧
    (s.updCtx c f).tiles = s.tiles ∧ (s.updCtx c f).regions = s.regions ∧ (s.updCtx c f).tasks = s.tasks ∧
    (s.updCtx c f).spreads = s.spreads ∧ (s.updCtx c f).waiters = s.waiters ∧ (s.updCtx c f).spawns = s.spawns ∧
    (s.updCtx c f).lastTask = s.lastTask ∧ (s.updCtx c f).ptr = s.ptr ∧ (s.updCtx c f).names = s.names ∧
    (s.updCtx c f).objs = s.objs ∧ (s.updCtx c f).slots = s.slots ∧ (s.updCtx c f).sccount = s.sccount ∧
    (s.updCtx c f).cls = s.cls ∧ (s.updCtx c f).good = s.good ∧ (s.updCtx c f).fenced = s.fenced ∧
    (s.updCtx c f).shocks = s.shocks ∧ (s.updCtx c f).shockPend = s.shockPend ∧
    (s.updCtx c f).shockPeak = s.shockPeak ∧ (s.updCtx c f).shockNew = s.shockNew ∧ (s.updCtx c f).sec = s.sec ∧
    (s.updCtx c f).dbg = s.dbg ∧ (s.updCtx c f).hubStat = s.hubStat ∧ (s.updCtx c f).springing = s.springing ∧
    (s.updCtx c f).flrs = s.flrs ∧ (s.updCtx c f).hubCtrs = s.hubCtrs ∧ (s.updCtx c f).readData = s.readData ∧
    (s.updCtx c f).pgops = s.pgops ∧ (s.updCtx c f).hostQ = s.hostQ ∧ (s.updCtx c f).boosten = s.boosten ∧
    (s.updCtx c f).park = s.park ∧ (s.updCtx c f).plim = s.plim ∧ (s.updCtx c f).pbst = s.pbst ∧
    (s.updCtx c f).pst = s.pst ∧ (s.updCtx c f).snow = s.snow ∧ (s.updCtx c f).draw = s.draw ∧
    (s.updCtx c f).causeCnt = s.causeCnt ∧ (s.updCtx c f).supin = s.supin ∧ (s.updCtx c f).droop = s.droop ∧
    (s.updCtx c f).oc = s.oc ∧ (s.updCtx c f).holds = s.holds ∧ (s.updCtx c f).before = s.before ∧
    (s.updCtx c f).lastLeft = s.lastLeft ∧ (s.updCtx c f).die = s.die ∧ (s.updCtx c f).spm1 = s.spm1 ∧
    (s.updCtx c f).routeLo = s.routeLo ∧ (s.updCtx c f).routeHi = s.routeHi ∧ (s.updCtx c f).lnks = s.lnks ∧
    (s.updCtx c f).clk = s.clk ∧ (s.updCtx c f).seen = s.seen ∧ (s.updCtx c f).sentClk = s.sentClk ∧
    (s.updCtx c f).seenBy = s.seenBy ∧ (s.updCtx c f).srcClk = s.srcClk ∧ (s.updCtx c f).probed = s.probed ∧
    (s.updCtx c f).onAlt = s.onAlt ∧ (s.updCtx c f).rx = s.rx ∧ (s.updCtx c f).tx = s.tx ∧
    (s.updCtx c f).gone = s.gone ∧ (s.updCtx c f).devFuse = s.devFuse ∧ (s.updCtx c f).minVer = s.minVer ∧
    (s.updCtx c f).fw = s.fw ∧ (s.updCtx c f).measured = s.measured ∧ (s.updCtx c f).bootReason = s.bootReason ∧
    (s.updCtx c f).badBoots = s.badBoots ∧ (s.updCtx c f).badHash = s.badHash ∧ (s.updCtx c f).mbStat = s.mbStat ∧
    (s.updCtx c f).mbBuf = s.mbBuf ∧ (s.updCtx c f).keys = s.keys ∧ (s.updCtx c f).pairs = s.pairs :=
  by and_intros <;> rfl

@[simp] theorem State.updTask_tasks (s : State) (k : Nat) (f : Task → Task) : (s.updTask k f).tasks = s.tasks.modify k f := rfl

@[simp] theorem State.updTask_keeps (s : State) (k : Nat) (f : Task → Task) :
    (s.updTask k f).cur = s.cur ∧ (s.updTask k f).agenda = s.agenda ∧ (s.updTask k f).turnNo = s.turnNo ∧
    (s.updTask k f).plan = s.plan ∧ (s.updTask k f).closes = s.closes ∧ (s.updTask k f).fired = s.fired ∧
    (s.updTask k f).freeNo = s.freeNo ∧ (s.updTask k f).nextId = s.nextId ∧ (s.updTask k f).stageNo = s.stageNo ∧
    (s.updTask k f).mem = s.mem ∧ (s.updTask k f).hostMem = s.hostMem ∧ (s.updTask k f).usedFrames = s.usedFrames ∧
    (s.updTask k f).insts = s.insts ∧ (s.updTask k f).groups = s.groups ∧ (s.updTask k f).accs = s.accs ∧
    (s.updTask k f).tiles = s.tiles ∧ (s.updTask k f).regions = s.regions ∧ (s.updTask k f).spreads = s.spreads ∧
    (s.updTask k f).waiters = s.waiters ∧ (s.updTask k f).spawns = s.spawns ∧ (s.updTask k f).lastTask = s.lastTask ∧
    (s.updTask k f).ptr = s.ptr ∧ (s.updTask k f).names = s.names ∧ (s.updTask k f).objs = s.objs ∧
    (s.updTask k f).slots = s.slots ∧ (s.updTask k f).ctxs = s.ctxs ∧ (s.updTask k f).sccount = s.sccount ∧
    (s.updTask k f).cls = s.cls ∧ (s.updTask k f).good = s.good ∧ (s.updTask k f).fenced = s.fenced ∧
    (s.updTask k f).shocks = s.shocks ∧ (s.updTask k f).shockPend = s.shockPend ∧
    (s.updTask k f).shockPeak = s.shockPeak ∧ (s.updTask k f).shockNew = s.shockNew ∧ (s.updTask k f).sec = s.sec ∧
    (s.updTask k f).dbg = s.dbg ∧ (s.updTask k f).hubStat = s.hubStat ∧ (s.updTask k f).springing = s.springing ∧
    (s.updTask k f).flrs = s.flrs ∧ (s.updTask k f).hubCtrs = s.hubCtrs ∧ (s.updTask k f).readData = s.readData ∧
    (s.updTask k f).pgops = s.pgops ∧ (s.updTask k f).hostQ = s.hostQ ∧ (s.updTask k f).boosten = s.boosten ∧
    (s.updTask k f).park = s.park ∧ (s.updTask k f).plim = s.plim ∧ (s.updTask k f).pbst = s.pbst ∧
    (s.updTask k f).pst = s.pst ∧ (s.updTask k f).snow = s.snow ∧ (s.updTask k f).draw = s.draw ∧
    (s.updTask k f).causeCnt = s.causeCnt ∧ (s.updTask k f).supin = s.supin ∧ (s.updTask k f).droop = s.droop ∧
    (s.updTask k f).oc = s.oc ∧ (s.updTask k f).holds = s.holds ∧ (s.updTask k f).before = s.before ∧
    (s.updTask k f).lastLeft = s.lastLeft ∧ (s.updTask k f).die = s.die ∧ (s.updTask k f).spm1 = s.spm1 ∧
    (s.updTask k f).routeLo = s.routeLo ∧ (s.updTask k f).routeHi = s.routeHi ∧ (s.updTask k f).lnks = s.lnks ∧
    (s.updTask k f).clk = s.clk ∧ (s.updTask k f).seen = s.seen ∧ (s.updTask k f).sentClk = s.sentClk ∧
    (s.updTask k f).seenBy = s.seenBy ∧ (s.updTask k f).srcClk = s.srcClk ∧ (s.updTask k f).probed = s.probed ∧
    (s.updTask k f).onAlt = s.onAlt ∧ (s.updTask k f).rx = s.rx ∧ (s.updTask k f).tx = s.tx ∧
    (s.updTask k f).gone = s.gone ∧ (s.updTask k f).devFuse = s.devFuse ∧ (s.updTask k f).minVer = s.minVer ∧
    (s.updTask k f).fw = s.fw ∧ (s.updTask k f).measured = s.measured ∧ (s.updTask k f).bootReason = s.bootReason ∧
    (s.updTask k f).badBoots = s.badBoots ∧ (s.updTask k f).badHash = s.badHash ∧ (s.updTask k f).mbStat = s.mbStat ∧
    (s.updTask k f).mbBuf = s.mbBuf ∧ (s.updTask k f).keys = s.keys ∧ (s.updTask k f).pairs = s.pairs :=
  by and_intros <;> rfl

@[simp] theorem State.updAcc_accs (s : State) (i : Nat) (f : Acc → Acc) : (s.updAcc i f).accs = s.accs.modify i f := rfl

@[simp] theorem State.updAcc_keeps (s : State) (i : Nat) (f : Acc → Acc) :
    (s.updAcc i f).cur = s.cur ∧ (s.updAcc i f).agenda = s.agenda ∧ (s.updAcc i f).turnNo = s.turnNo ∧
    (s.updAcc i f).plan = s.plan ∧ (s.updAcc i f).closes = s.closes ∧ (s.updAcc i f).fired = s.fired ∧
    (s.updAcc i f).freeNo = s.freeNo ∧ (s.updAcc i f).nextId = s.nextId ∧ (s.updAcc i f).stageNo = s.stageNo ∧
    (s.updAcc i f).mem = s.mem ∧ (s.updAcc i f).hostMem = s.hostMem ∧ (s.updAcc i f).usedFrames = s.usedFrames ∧
    (s.updAcc i f).insts = s.insts ∧ (s.updAcc i f).groups = s.groups ∧ (s.updAcc i f).tiles = s.tiles ∧
    (s.updAcc i f).regions = s.regions ∧ (s.updAcc i f).tasks = s.tasks ∧ (s.updAcc i f).spreads = s.spreads ∧
    (s.updAcc i f).waiters = s.waiters ∧ (s.updAcc i f).spawns = s.spawns ∧ (s.updAcc i f).lastTask = s.lastTask ∧
    (s.updAcc i f).ptr = s.ptr ∧ (s.updAcc i f).names = s.names ∧ (s.updAcc i f).objs = s.objs ∧
    (s.updAcc i f).slots = s.slots ∧ (s.updAcc i f).ctxs = s.ctxs ∧ (s.updAcc i f).sccount = s.sccount ∧
    (s.updAcc i f).cls = s.cls ∧ (s.updAcc i f).good = s.good ∧ (s.updAcc i f).fenced = s.fenced ∧
    (s.updAcc i f).shocks = s.shocks ∧ (s.updAcc i f).shockPend = s.shockPend ∧
    (s.updAcc i f).shockPeak = s.shockPeak ∧ (s.updAcc i f).shockNew = s.shockNew ∧ (s.updAcc i f).sec = s.sec ∧
    (s.updAcc i f).dbg = s.dbg ∧ (s.updAcc i f).hubStat = s.hubStat ∧ (s.updAcc i f).springing = s.springing ∧
    (s.updAcc i f).flrs = s.flrs ∧ (s.updAcc i f).hubCtrs = s.hubCtrs ∧ (s.updAcc i f).readData = s.readData ∧
    (s.updAcc i f).pgops = s.pgops ∧ (s.updAcc i f).hostQ = s.hostQ ∧ (s.updAcc i f).boosten = s.boosten ∧
    (s.updAcc i f).park = s.park ∧ (s.updAcc i f).plim = s.plim ∧ (s.updAcc i f).pbst = s.pbst ∧
    (s.updAcc i f).pst = s.pst ∧ (s.updAcc i f).snow = s.snow ∧ (s.updAcc i f).draw = s.draw ∧
    (s.updAcc i f).causeCnt = s.causeCnt ∧ (s.updAcc i f).supin = s.supin ∧ (s.updAcc i f).droop = s.droop ∧
    (s.updAcc i f).oc = s.oc ∧ (s.updAcc i f).holds = s.holds ∧ (s.updAcc i f).before = s.before ∧
    (s.updAcc i f).lastLeft = s.lastLeft ∧ (s.updAcc i f).die = s.die ∧ (s.updAcc i f).spm1 = s.spm1 ∧
    (s.updAcc i f).routeLo = s.routeLo ∧ (s.updAcc i f).routeHi = s.routeHi ∧ (s.updAcc i f).lnks = s.lnks ∧
    (s.updAcc i f).clk = s.clk ∧ (s.updAcc i f).seen = s.seen ∧ (s.updAcc i f).sentClk = s.sentClk ∧
    (s.updAcc i f).seenBy = s.seenBy ∧ (s.updAcc i f).srcClk = s.srcClk ∧ (s.updAcc i f).probed = s.probed ∧
    (s.updAcc i f).onAlt = s.onAlt ∧ (s.updAcc i f).rx = s.rx ∧ (s.updAcc i f).tx = s.tx ∧
    (s.updAcc i f).gone = s.gone ∧ (s.updAcc i f).devFuse = s.devFuse ∧ (s.updAcc i f).minVer = s.minVer ∧
    (s.updAcc i f).fw = s.fw ∧ (s.updAcc i f).measured = s.measured ∧ (s.updAcc i f).bootReason = s.bootReason ∧
    (s.updAcc i f).badBoots = s.badBoots ∧ (s.updAcc i f).badHash = s.badHash ∧ (s.updAcc i f).mbStat = s.mbStat ∧
    (s.updAcc i f).mbBuf = s.mbBuf ∧ (s.updAcc i f).keys = s.keys ∧ (s.updAcc i f).pairs = s.pairs :=
  by and_intros <;> rfl

@[simp] theorem State.setTile_tiles (s : State) (t : Nat) (x : Tile) : (s.setTile t x).tiles = s.tiles.put t x := rfl

@[simp] theorem State.setTile_keeps (s : State) (t : Nat) (x : Tile) :
    (s.setTile t x).cur = s.cur ∧ (s.setTile t x).agenda = s.agenda ∧ (s.setTile t x).turnNo = s.turnNo ∧
    (s.setTile t x).plan = s.plan ∧ (s.setTile t x).closes = s.closes ∧ (s.setTile t x).fired = s.fired ∧
    (s.setTile t x).freeNo = s.freeNo ∧ (s.setTile t x).nextId = s.nextId ∧ (s.setTile t x).stageNo = s.stageNo ∧
    (s.setTile t x).mem = s.mem ∧ (s.setTile t x).hostMem = s.hostMem ∧ (s.setTile t x).usedFrames = s.usedFrames ∧
    (s.setTile t x).insts = s.insts ∧ (s.setTile t x).groups = s.groups ∧ (s.setTile t x).accs = s.accs ∧
    (s.setTile t x).regions = s.regions ∧ (s.setTile t x).tasks = s.tasks ∧ (s.setTile t x).spreads = s.spreads ∧
    (s.setTile t x).waiters = s.waiters ∧ (s.setTile t x).spawns = s.spawns ∧ (s.setTile t x).lastTask = s.lastTask ∧
    (s.setTile t x).ptr = s.ptr ∧ (s.setTile t x).names = s.names ∧ (s.setTile t x).objs = s.objs ∧
    (s.setTile t x).slots = s.slots ∧ (s.setTile t x).ctxs = s.ctxs ∧ (s.setTile t x).sccount = s.sccount ∧
    (s.setTile t x).cls = s.cls ∧ (s.setTile t x).good = s.good ∧ (s.setTile t x).fenced = s.fenced ∧
    (s.setTile t x).shocks = s.shocks ∧ (s.setTile t x).shockPend = s.shockPend ∧
    (s.setTile t x).shockPeak = s.shockPeak ∧ (s.setTile t x).shockNew = s.shockNew ∧ (s.setTile t x).sec = s.sec ∧
    (s.setTile t x).dbg = s.dbg ∧ (s.setTile t x).hubStat = s.hubStat ∧ (s.setTile t x).springing = s.springing ∧
    (s.setTile t x).flrs = s.flrs ∧ (s.setTile t x).hubCtrs = s.hubCtrs ∧ (s.setTile t x).readData = s.readData ∧
    (s.setTile t x).pgops = s.pgops ∧ (s.setTile t x).hostQ = s.hostQ ∧ (s.setTile t x).boosten = s.boosten ∧
    (s.setTile t x).park = s.park ∧ (s.setTile t x).plim = s.plim ∧ (s.setTile t x).pbst = s.pbst ∧
    (s.setTile t x).pst = s.pst ∧ (s.setTile t x).snow = s.snow ∧ (s.setTile t x).draw = s.draw ∧
    (s.setTile t x).causeCnt = s.causeCnt ∧ (s.setTile t x).supin = s.supin ∧ (s.setTile t x).droop = s.droop ∧
    (s.setTile t x).oc = s.oc ∧ (s.setTile t x).holds = s.holds ∧ (s.setTile t x).before = s.before ∧
    (s.setTile t x).lastLeft = s.lastLeft ∧ (s.setTile t x).die = s.die ∧ (s.setTile t x).spm1 = s.spm1 ∧
    (s.setTile t x).routeLo = s.routeLo ∧ (s.setTile t x).routeHi = s.routeHi ∧ (s.setTile t x).lnks = s.lnks ∧
    (s.setTile t x).clk = s.clk ∧ (s.setTile t x).seen = s.seen ∧ (s.setTile t x).sentClk = s.sentClk ∧
    (s.setTile t x).seenBy = s.seenBy ∧ (s.setTile t x).srcClk = s.srcClk ∧ (s.setTile t x).probed = s.probed ∧
    (s.setTile t x).onAlt = s.onAlt ∧ (s.setTile t x).rx = s.rx ∧ (s.setTile t x).tx = s.tx ∧
    (s.setTile t x).gone = s.gone ∧ (s.setTile t x).devFuse = s.devFuse ∧ (s.setTile t x).minVer = s.minVer ∧
    (s.setTile t x).fw = s.fw ∧ (s.setTile t x).measured = s.measured ∧ (s.setTile t x).bootReason = s.bootReason ∧
    (s.setTile t x).badBoots = s.badBoots ∧ (s.setTile t x).badHash = s.badHash ∧ (s.setTile t x).mbStat = s.mbStat ∧
    (s.setTile t x).mbBuf = s.mbBuf ∧ (s.setTile t x).keys = s.keys ∧ (s.setTile t x).pairs = s.pairs :=
  by and_intros <;> rfl

@[simp] theorem State.updRegion_keeps (s : State) (r : Nat) (f : Region → Region) :
    (s.updRegion r f).cur = s.cur ∧ (s.updRegion r f).agenda = s.agenda ∧ (s.updRegion r f).turnNo = s.turnNo ∧
    (s.updRegion r f).plan = s.plan ∧ (s.updRegion r f).closes = s.closes ∧ (s.updRegion r f).fired = s.fired ∧
    (s.updRegion r f).freeNo = s.freeNo ∧ (s.updRegion r f).nextId = s.nextId ∧
    (s.updRegion r f).stageNo = s.stageNo ∧ (s.updRegion r f).mem = s.mem ∧ (s.updRegion r f).hostMem = s.hostMem ∧
    (s.updRegion r f).usedFrames = s.usedFrames ∧ (s.updRegion r f).insts = s.insts ∧
    (s.updRegion r f).groups = s.groups ∧ (s.updRegion r f).accs = s.accs ∧ (s.updRegion r f).tiles = s.tiles ∧
    (s.updRegion r f).tasks = s.tasks ∧ (s.updRegion r f).spreads = s.spreads ∧
    (s.updRegion r f).waiters = s.waiters ∧ (s.updRegion r f).spawns = s.spawns ∧
    (s.updRegion r f).lastTask = s.lastTask ∧ (s.updRegion r f).ptr = s.ptr ∧ (s.updRegion r f).names = s.names ∧
    (s.updRegion r f).objs = s.objs ∧ (s.updRegion r f).slots = s.slots ∧ (s.updRegion r f).ctxs = s.ctxs ∧
    (s.updRegion r f).sccount = s.sccount ∧ (s.updRegion r f).cls = s.cls ∧ (s.updRegion r f).good = s.good ∧
    (s.updRegion r f).fenced = s.fenced ∧ (s.updRegion r f).shocks = s.shocks ∧
    (s.updRegion r f).shockPend = s.shockPend ∧ (s.updRegion r f).shockPeak = s.shockPeak ∧
    (s.updRegion r f).shockNew = s.shockNew ∧ (s.updRegion r f).sec = s.sec ∧ (s.updRegion r f).dbg = s.dbg ∧
    (s.updRegion r f).hubStat = s.hubStat ∧ (s.updRegion r f).springing = s.springing ∧
    (s.updRegion r f).flrs = s.flrs ∧ (s.updRegion r f).hubCtrs = s.hubCtrs ∧
    (s.updRegion r f).readData = s.readData ∧ (s.updRegion r f).pgops = s.pgops ∧ (s.updRegion r f).hostQ = s.hostQ ∧
    (s.updRegion r f).boosten = s.boosten ∧ (s.updRegion r f).park = s.park ∧ (s.updRegion r f).plim = s.plim ∧
    (s.updRegion r f).pbst = s.pbst ∧ (s.updRegion r f).pst = s.pst ∧ (s.updRegion r f).snow = s.snow ∧
    (s.updRegion r f).draw = s.draw ∧ (s.updRegion r f).causeCnt = s.causeCnt ∧ (s.updRegion r f).supin = s.supin ∧
    (s.updRegion r f).droop = s.droop ∧ (s.updRegion r f).oc = s.oc ∧ (s.updRegion r f).holds = s.holds ∧
    (s.updRegion r f).before = s.before ∧ (s.updRegion r f).lastLeft = s.lastLeft ∧ (s.updRegion r f).die = s.die ∧
    (s.updRegion r f).spm1 = s.spm1 ∧ (s.updRegion r f).routeLo = s.routeLo ∧ (s.updRegion r f).routeHi = s.routeHi ∧
    (s.updRegion r f).lnks = s.lnks ∧ (s.updRegion r f).clk = s.clk ∧ (s.updRegion r f).seen = s.seen ∧
    (s.updRegion r f).sentClk = s.sentClk ∧ (s.updRegion r f).seenBy = s.seenBy ∧
    (s.updRegion r f).srcClk = s.srcClk ∧ (s.updRegion r f).probed = s.probed ∧ (s.updRegion r f).onAlt = s.onAlt ∧
    (s.updRegion r f).rx = s.rx ∧ (s.updRegion r f).tx = s.tx ∧ (s.updRegion r f).gone = s.gone ∧
    (s.updRegion r f).devFuse = s.devFuse ∧ (s.updRegion r f).minVer = s.minVer ∧ (s.updRegion r f).fw = s.fw ∧
    (s.updRegion r f).measured = s.measured ∧ (s.updRegion r f).bootReason = s.bootReason ∧
    (s.updRegion r f).badBoots = s.badBoots ∧ (s.updRegion r f).badHash = s.badHash ∧
    (s.updRegion r f).mbStat = s.mbStat ∧ (s.updRegion r f).mbBuf = s.mbBuf ∧ (s.updRegion r f).keys = s.keys ∧
    (s.updRegion r f).pairs = s.pairs :=
  by and_intros <;> rfl

@[simp] theorem State.mark_fired (s : State) : s.mark.fired = true := rfl

@[simp] theorem State.mark_keeps (s : State) :
    s.mark.cur = s.cur ∧ s.mark.agenda = s.agenda ∧ s.mark.turnNo = s.turnNo ∧ s.mark.plan = s.plan ∧
    s.mark.closes = s.closes ∧ s.mark.freeNo = s.freeNo ∧ s.mark.nextId = s.nextId ∧ s.mark.stageNo = s.stageNo ∧
    s.mark.mem = s.mem ∧ s.mark.hostMem = s.hostMem ∧ s.mark.usedFrames = s.usedFrames ∧ s.mark.insts = s.insts ∧
    s.mark.groups = s.groups ∧ s.mark.accs = s.accs ∧ s.mark.tiles = s.tiles ∧ s.mark.regions = s.regions ∧
    s.mark.tasks = s.tasks ∧ s.mark.spreads = s.spreads ∧ s.mark.waiters = s.waiters ∧ s.mark.spawns = s.spawns ∧
    s.mark.lastTask = s.lastTask ∧ s.mark.ptr = s.ptr ∧ s.mark.names = s.names ∧ s.mark.objs = s.objs ∧
    s.mark.slots = s.slots ∧ s.mark.ctxs = s.ctxs ∧ s.mark.sccount = s.sccount ∧ s.mark.cls = s.cls ∧
    s.mark.good = s.good ∧ s.mark.fenced = s.fenced ∧ s.mark.shocks = s.shocks ∧ s.mark.shockPend = s.shockPend ∧
    s.mark.shockPeak = s.shockPeak ∧ s.mark.shockNew = s.shockNew ∧ s.mark.sec = s.sec ∧ s.mark.dbg = s.dbg ∧
    s.mark.hubStat = s.hubStat ∧ s.mark.springing = s.springing ∧ s.mark.flrs = s.flrs ∧ s.mark.hubCtrs = s.hubCtrs ∧
    s.mark.readData = s.readData ∧ s.mark.pgops = s.pgops ∧ s.mark.hostQ = s.hostQ ∧ s.mark.boosten = s.boosten ∧
    s.mark.park = s.park ∧ s.mark.plim = s.plim ∧ s.mark.pbst = s.pbst ∧ s.mark.pst = s.pst ∧ s.mark.snow = s.snow ∧
    s.mark.draw = s.draw ∧ s.mark.causeCnt = s.causeCnt ∧ s.mark.supin = s.supin ∧ s.mark.droop = s.droop ∧
    s.mark.oc = s.oc ∧ s.mark.holds = s.holds ∧ s.mark.before = s.before ∧ s.mark.lastLeft = s.lastLeft ∧
    s.mark.die = s.die ∧ s.mark.spm1 = s.spm1 ∧ s.mark.routeLo = s.routeLo ∧ s.mark.routeHi = s.routeHi ∧
    s.mark.lnks = s.lnks ∧ s.mark.clk = s.clk ∧ s.mark.seen = s.seen ∧ s.mark.sentClk = s.sentClk ∧
    s.mark.seenBy = s.seenBy ∧ s.mark.srcClk = s.srcClk ∧ s.mark.probed = s.probed ∧ s.mark.onAlt = s.onAlt ∧
    s.mark.rx = s.rx ∧ s.mark.tx = s.tx ∧ s.mark.gone = s.gone ∧ s.mark.devFuse = s.devFuse ∧
    s.mark.minVer = s.minVer ∧ s.mark.fw = s.fw ∧ s.mark.measured = s.measured ∧ s.mark.bootReason = s.bootReason ∧
    s.mark.badBoots = s.badBoots ∧ s.mark.badHash = s.badHash ∧ s.mark.mbStat = s.mbStat ∧ s.mark.mbBuf = s.mbBuf ∧
    s.mark.keys = s.keys ∧ s.mark.pairs = s.pairs :=
  by and_intros <;> rfl

@[simp] theorem State.raise_fired (s : State) (task : Nat) (st : Stop) : (s.raise task st).fired = true := rfl

@[simp] theorem State.raise_keeps (s : State) (task : Nat) (st : Stop) :
    (s.raise task st).cur = s.cur ∧ (s.raise task st).agenda = s.agenda ∧ (s.raise task st).turnNo = s.turnNo ∧
    (s.raise task st).plan = s.plan ∧ (s.raise task st).closes = s.closes ∧ (s.raise task st).freeNo = s.freeNo ∧
    (s.raise task st).nextId = s.nextId ∧ (s.raise task st).stageNo = s.stageNo ∧ (s.raise task st).mem = s.mem ∧
    (s.raise task st).hostMem = s.hostMem ∧ (s.raise task st).usedFrames = s.usedFrames ∧
    (s.raise task st).insts = s.insts ∧ (s.raise task st).accs = s.accs ∧ (s.raise task st).tiles = s.tiles ∧
    (s.raise task st).regions = s.regions ∧ (s.raise task st).tasks = s.tasks ∧
    (s.raise task st).spreads = s.spreads ∧ (s.raise task st).waiters = s.waiters ∧
    (s.raise task st).spawns = s.spawns ∧ (s.raise task st).lastTask = s.lastTask ∧ (s.raise task st).ptr = s.ptr ∧
    (s.raise task st).names = s.names ∧ (s.raise task st).objs = s.objs ∧ (s.raise task st).slots = s.slots ∧
    (s.raise task st).ctxs = s.ctxs ∧ (s.raise task st).sccount = s.sccount ∧ (s.raise task st).cls = s.cls ∧
    (s.raise task st).good = s.good ∧ (s.raise task st).fenced = s.fenced ∧ (s.raise task st).shocks = s.shocks ∧
    (s.raise task st).shockPend = s.shockPend ∧ (s.raise task st).shockPeak = s.shockPeak ∧
    (s.raise task st).shockNew = s.shockNew ∧ (s.raise task st).sec = s.sec ∧ (s.raise task st).dbg = s.dbg ∧
    (s.raise task st).hubStat = s.hubStat ∧ (s.raise task st).springing = s.springing ∧
    (s.raise task st).flrs = s.flrs ∧ (s.raise task st).hubCtrs = s.hubCtrs ∧
    (s.raise task st).readData = s.readData ∧ (s.raise task st).pgops = s.pgops ∧ (s.raise task st).hostQ = s.hostQ ∧
    (s.raise task st).boosten = s.boosten ∧ (s.raise task st).park = s.park ∧ (s.raise task st).plim = s.plim ∧
    (s.raise task st).pbst = s.pbst ∧ (s.raise task st).pst = s.pst ∧ (s.raise task st).snow = s.snow ∧
    (s.raise task st).draw = s.draw ∧ (s.raise task st).causeCnt = s.causeCnt ∧ (s.raise task st).supin = s.supin ∧
    (s.raise task st).droop = s.droop ∧ (s.raise task st).oc = s.oc ∧ (s.raise task st).holds = s.holds ∧
    (s.raise task st).before = s.before ∧ (s.raise task st).lastLeft = s.lastLeft ∧ (s.raise task st).die = s.die ∧
    (s.raise task st).spm1 = s.spm1 ∧ (s.raise task st).routeLo = s.routeLo ∧ (s.raise task st).routeHi = s.routeHi ∧
    (s.raise task st).lnks = s.lnks ∧ (s.raise task st).clk = s.clk ∧ (s.raise task st).seen = s.seen ∧
    (s.raise task st).sentClk = s.sentClk ∧ (s.raise task st).seenBy = s.seenBy ∧
    (s.raise task st).srcClk = s.srcClk ∧ (s.raise task st).probed = s.probed ∧ (s.raise task st).onAlt = s.onAlt ∧
    (s.raise task st).rx = s.rx ∧ (s.raise task st).tx = s.tx ∧ (s.raise task st).gone = s.gone ∧
    (s.raise task st).devFuse = s.devFuse ∧ (s.raise task st).minVer = s.minVer ∧ (s.raise task st).fw = s.fw ∧
    (s.raise task st).measured = s.measured ∧ (s.raise task st).bootReason = s.bootReason ∧
    (s.raise task st).badBoots = s.badBoots ∧ (s.raise task st).badHash = s.badHash ∧
    (s.raise task st).mbStat = s.mbStat ∧ (s.raise task st).mbBuf = s.mbBuf ∧ (s.raise task st).keys = s.keys ∧
    (s.raise task st).pairs = s.pairs :=
  by and_intros <;> rfl

@[simp] theorem State.waitStore_fired (s : State) (task : Nat) (vt : Fin 16) : (s.waitStore task vt).fired = true := rfl

@[simp] theorem State.waitStore_keeps (s : State) (task : Nat) (vt : Fin 16) :
    (s.waitStore task vt).cur = s.cur ∧ (s.waitStore task vt).agenda = s.agenda ∧
    (s.waitStore task vt).turnNo = s.turnNo ∧ (s.waitStore task vt).plan = s.plan ∧
    (s.waitStore task vt).closes = s.closes ∧ (s.waitStore task vt).freeNo = s.freeNo ∧
    (s.waitStore task vt).nextId = s.nextId ∧ (s.waitStore task vt).stageNo = s.stageNo ∧
    (s.waitStore task vt).mem = s.mem ∧ (s.waitStore task vt).hostMem = s.hostMem ∧
    (s.waitStore task vt).usedFrames = s.usedFrames ∧ (s.waitStore task vt).groups = s.groups ∧
    (s.waitStore task vt).accs = s.accs ∧ (s.waitStore task vt).tiles = s.tiles ∧
    (s.waitStore task vt).regions = s.regions ∧ (s.waitStore task vt).tasks = s.tasks ∧
    (s.waitStore task vt).spreads = s.spreads ∧ (s.waitStore task vt).waiters = s.waiters ∧
    (s.waitStore task vt).spawns = s.spawns ∧ (s.waitStore task vt).lastTask = s.lastTask ∧
    (s.waitStore task vt).ptr = s.ptr ∧ (s.waitStore task vt).names = s.names ∧ (s.waitStore task vt).objs = s.objs ∧
    (s.waitStore task vt).slots = s.slots ∧ (s.waitStore task vt).ctxs = s.ctxs ∧
    (s.waitStore task vt).sccount = s.sccount ∧ (s.waitStore task vt).cls = s.cls ∧
    (s.waitStore task vt).good = s.good ∧ (s.waitStore task vt).fenced = s.fenced ∧
    (s.waitStore task vt).shocks = s.shocks ∧ (s.waitStore task vt).shockPend = s.shockPend ∧
    (s.waitStore task vt).shockPeak = s.shockPeak ∧ (s.waitStore task vt).shockNew = s.shockNew ∧
    (s.waitStore task vt).sec = s.sec ∧ (s.waitStore task vt).dbg = s.dbg ∧
    (s.waitStore task vt).hubStat = s.hubStat ∧ (s.waitStore task vt).springing = s.springing ∧
    (s.waitStore task vt).flrs = s.flrs ∧ (s.waitStore task vt).hubCtrs = s.hubCtrs ∧
    (s.waitStore task vt).readData = s.readData ∧ (s.waitStore task vt).pgops = s.pgops ∧
    (s.waitStore task vt).hostQ = s.hostQ ∧ (s.waitStore task vt).boosten = s.boosten ∧
    (s.waitStore task vt).park = s.park ∧ (s.waitStore task vt).plim = s.plim ∧ (s.waitStore task vt).pbst = s.pbst ∧
    (s.waitStore task vt).pst = s.pst ∧ (s.waitStore task vt).snow = s.snow ∧ (s.waitStore task vt).draw = s.draw ∧
    (s.waitStore task vt).causeCnt = s.causeCnt ∧ (s.waitStore task vt).supin = s.supin ∧
    (s.waitStore task vt).droop = s.droop ∧ (s.waitStore task vt).oc = s.oc ∧ (s.waitStore task vt).holds = s.holds ∧
    (s.waitStore task vt).before = s.before ∧ (s.waitStore task vt).lastLeft = s.lastLeft ∧
    (s.waitStore task vt).die = s.die ∧ (s.waitStore task vt).spm1 = s.spm1 ∧
    (s.waitStore task vt).routeLo = s.routeLo ∧ (s.waitStore task vt).routeHi = s.routeHi ∧
    (s.waitStore task vt).lnks = s.lnks ∧ (s.waitStore task vt).clk = s.clk ∧ (s.waitStore task vt).seen = s.seen ∧
    (s.waitStore task vt).sentClk = s.sentClk ∧ (s.waitStore task vt).seenBy = s.seenBy ∧
    (s.waitStore task vt).srcClk = s.srcClk ∧ (s.waitStore task vt).probed = s.probed ∧
    (s.waitStore task vt).onAlt = s.onAlt ∧ (s.waitStore task vt).rx = s.rx ∧ (s.waitStore task vt).tx = s.tx ∧
    (s.waitStore task vt).gone = s.gone ∧ (s.waitStore task vt).devFuse = s.devFuse ∧
    (s.waitStore task vt).minVer = s.minVer ∧ (s.waitStore task vt).fw = s.fw ∧
    (s.waitStore task vt).measured = s.measured ∧ (s.waitStore task vt).bootReason = s.bootReason ∧
    (s.waitStore task vt).badBoots = s.badBoots ∧ (s.waitStore task vt).badHash = s.badHash ∧
    (s.waitStore task vt).mbStat = s.mbStat ∧ (s.waitStore task vt).mbBuf = s.mbBuf ∧
    (s.waitStore task vt).keys = s.keys ∧ (s.waitStore task vt).pairs = s.pairs :=
  by and_intros <;> rfl

@[simp] theorem State.addAcc_accs (s : State) (a : Acc) : (s.addAcc a).accs = s.accs.put s.nextId a := rfl

@[simp] theorem State.addAcc_nextId (s : State) (a : Acc) : (s.addAcc a).nextId = s.nextId + 1 := rfl

@[simp] theorem State.addAcc_keeps (s : State) (a : Acc) :
    (s.addAcc a).cur = s.cur ∧ (s.addAcc a).agenda = s.agenda ∧ (s.addAcc a).turnNo = s.turnNo ∧
    (s.addAcc a).plan = s.plan ∧ (s.addAcc a).closes = s.closes ∧ (s.addAcc a).fired = s.fired ∧
    (s.addAcc a).freeNo = s.freeNo ∧ (s.addAcc a).stageNo = s.stageNo ∧ (s.addAcc a).mem = s.mem ∧
    (s.addAcc a).hostMem = s.hostMem ∧ (s.addAcc a).usedFrames = s.usedFrames ∧ (s.addAcc a).insts = s.insts ∧
    (s.addAcc a).groups = s.groups ∧ (s.addAcc a).tiles = s.tiles ∧ (s.addAcc a).regions = s.regions ∧
    (s.addAcc a).tasks = s.tasks ∧ (s.addAcc a).spreads = s.spreads ∧ (s.addAcc a).waiters = s.waiters ∧
    (s.addAcc a).spawns = s.spawns ∧ (s.addAcc a).lastTask = s.lastTask ∧ (s.addAcc a).ptr = s.ptr ∧
    (s.addAcc a).names = s.names ∧ (s.addAcc a).objs = s.objs ∧ (s.addAcc a).slots = s.slots ∧
    (s.addAcc a).ctxs = s.ctxs ∧ (s.addAcc a).sccount = s.sccount ∧ (s.addAcc a).cls = s.cls ∧
    (s.addAcc a).good = s.good ∧ (s.addAcc a).fenced = s.fenced ∧ (s.addAcc a).shocks = s.shocks ∧
    (s.addAcc a).shockPend = s.shockPend ∧ (s.addAcc a).shockPeak = s.shockPeak ∧
    (s.addAcc a).shockNew = s.shockNew ∧ (s.addAcc a).sec = s.sec ∧ (s.addAcc a).dbg = s.dbg ∧
    (s.addAcc a).hubStat = s.hubStat ∧ (s.addAcc a).springing = s.springing ∧ (s.addAcc a).flrs = s.flrs ∧
    (s.addAcc a).hubCtrs = s.hubCtrs ∧ (s.addAcc a).readData = s.readData ∧ (s.addAcc a).pgops = s.pgops ∧
    (s.addAcc a).hostQ = s.hostQ ∧ (s.addAcc a).boosten = s.boosten ∧ (s.addAcc a).park = s.park ∧
    (s.addAcc a).plim = s.plim ∧ (s.addAcc a).pbst = s.pbst ∧ (s.addAcc a).pst = s.pst ∧ (s.addAcc a).snow = s.snow ∧
    (s.addAcc a).draw = s.draw ∧ (s.addAcc a).causeCnt = s.causeCnt ∧ (s.addAcc a).supin = s.supin ∧
    (s.addAcc a).droop = s.droop ∧ (s.addAcc a).oc = s.oc ∧ (s.addAcc a).holds = s.holds ∧
    (s.addAcc a).before = s.before ∧ (s.addAcc a).lastLeft = s.lastLeft ∧ (s.addAcc a).die = s.die ∧
    (s.addAcc a).spm1 = s.spm1 ∧ (s.addAcc a).routeLo = s.routeLo ∧ (s.addAcc a).routeHi = s.routeHi ∧
    (s.addAcc a).lnks = s.lnks ∧ (s.addAcc a).clk = s.clk ∧ (s.addAcc a).seen = s.seen ∧
    (s.addAcc a).sentClk = s.sentClk ∧ (s.addAcc a).seenBy = s.seenBy ∧ (s.addAcc a).srcClk = s.srcClk ∧
    (s.addAcc a).probed = s.probed ∧ (s.addAcc a).onAlt = s.onAlt ∧ (s.addAcc a).rx = s.rx ∧ (s.addAcc a).tx = s.tx ∧
    (s.addAcc a).gone = s.gone ∧ (s.addAcc a).devFuse = s.devFuse ∧ (s.addAcc a).minVer = s.minVer ∧
    (s.addAcc a).fw = s.fw ∧ (s.addAcc a).measured = s.measured ∧ (s.addAcc a).bootReason = s.bootReason ∧
    (s.addAcc a).badBoots = s.badBoots ∧ (s.addAcc a).badHash = s.badHash ∧ (s.addAcc a).mbStat = s.mbStat ∧
    (s.addAcc a).mbBuf = s.mbBuf ∧ (s.addAcc a).keys = s.keys ∧ (s.addAcc a).pairs = s.pairs :=
  by and_intros <;> rfl

@[simp] theorem State.sendTo_tx (s : State) (die : Nat) (m : Msg) : (s.sendTo die m).tx = s.tx ++ [{ dst := die, msg := m }] := rfl

@[simp] theorem State.sendTo_keeps (s : State) (die : Nat) (m : Msg) :
    (s.sendTo die m).cur = s.cur ∧ (s.sendTo die m).agenda = s.agenda ∧ (s.sendTo die m).turnNo = s.turnNo ∧
    (s.sendTo die m).plan = s.plan ∧ (s.sendTo die m).closes = s.closes ∧ (s.sendTo die m).fired = s.fired ∧
    (s.sendTo die m).freeNo = s.freeNo ∧ (s.sendTo die m).nextId = s.nextId ∧ (s.sendTo die m).stageNo = s.stageNo ∧
    (s.sendTo die m).mem = s.mem ∧ (s.sendTo die m).hostMem = s.hostMem ∧
    (s.sendTo die m).usedFrames = s.usedFrames ∧ (s.sendTo die m).insts = s.insts ∧
    (s.sendTo die m).groups = s.groups ∧ (s.sendTo die m).accs = s.accs ∧ (s.sendTo die m).tiles = s.tiles ∧
    (s.sendTo die m).regions = s.regions ∧ (s.sendTo die m).tasks = s.tasks ∧ (s.sendTo die m).spreads = s.spreads ∧
    (s.sendTo die m).waiters = s.waiters ∧ (s.sendTo die m).spawns = s.spawns ∧
    (s.sendTo die m).lastTask = s.lastTask ∧ (s.sendTo die m).ptr = s.ptr ∧ (s.sendTo die m).names = s.names ∧
    (s.sendTo die m).objs = s.objs ∧ (s.sendTo die m).slots = s.slots ∧ (s.sendTo die m).ctxs = s.ctxs ∧
    (s.sendTo die m).sccount = s.sccount ∧ (s.sendTo die m).cls = s.cls ∧ (s.sendTo die m).good = s.good ∧
    (s.sendTo die m).fenced = s.fenced ∧ (s.sendTo die m).shocks = s.shocks ∧
    (s.sendTo die m).shockPend = s.shockPend ∧ (s.sendTo die m).shockPeak = s.shockPeak ∧
    (s.sendTo die m).shockNew = s.shockNew ∧ (s.sendTo die m).sec = s.sec ∧ (s.sendTo die m).dbg = s.dbg ∧
    (s.sendTo die m).hubStat = s.hubStat ∧ (s.sendTo die m).springing = s.springing ∧
    (s.sendTo die m).flrs = s.flrs ∧ (s.sendTo die m).hubCtrs = s.hubCtrs ∧ (s.sendTo die m).readData = s.readData ∧
    (s.sendTo die m).pgops = s.pgops ∧ (s.sendTo die m).hostQ = s.hostQ ∧ (s.sendTo die m).boosten = s.boosten ∧
    (s.sendTo die m).park = s.park ∧ (s.sendTo die m).plim = s.plim ∧ (s.sendTo die m).pbst = s.pbst ∧
    (s.sendTo die m).pst = s.pst ∧ (s.sendTo die m).snow = s.snow ∧ (s.sendTo die m).draw = s.draw ∧
    (s.sendTo die m).causeCnt = s.causeCnt ∧ (s.sendTo die m).supin = s.supin ∧ (s.sendTo die m).droop = s.droop ∧
    (s.sendTo die m).oc = s.oc ∧ (s.sendTo die m).holds = s.holds ∧ (s.sendTo die m).before = s.before ∧
    (s.sendTo die m).lastLeft = s.lastLeft ∧ (s.sendTo die m).die = s.die ∧ (s.sendTo die m).spm1 = s.spm1 ∧
    (s.sendTo die m).routeLo = s.routeLo ∧ (s.sendTo die m).routeHi = s.routeHi ∧ (s.sendTo die m).lnks = s.lnks ∧
    (s.sendTo die m).clk = s.clk ∧ (s.sendTo die m).seen = s.seen ∧ (s.sendTo die m).sentClk = s.sentClk ∧
    (s.sendTo die m).seenBy = s.seenBy ∧ (s.sendTo die m).srcClk = s.srcClk ∧ (s.sendTo die m).probed = s.probed ∧
    (s.sendTo die m).onAlt = s.onAlt ∧ (s.sendTo die m).rx = s.rx ∧ (s.sendTo die m).gone = s.gone ∧
    (s.sendTo die m).devFuse = s.devFuse ∧ (s.sendTo die m).minVer = s.minVer ∧ (s.sendTo die m).fw = s.fw ∧
    (s.sendTo die m).measured = s.measured ∧ (s.sendTo die m).bootReason = s.bootReason ∧
    (s.sendTo die m).badBoots = s.badBoots ∧ (s.sendTo die m).badHash = s.badHash ∧
    (s.sendTo die m).mbStat = s.mbStat ∧ (s.sendTo die m).mbBuf = s.mbBuf ∧ (s.sendTo die m).keys = s.keys ∧
    (s.sendTo die m).pairs = s.pairs :=
  by and_intros <;> rfl

@[simp] theorem State.count_keeps (s : State) (r : Nat) (ctx task : Option Nat) (src n : Nat) :
    (s.count r ctx task src n).cur = s.cur ∧ (s.count r ctx task src n).agenda = s.agenda ∧
    (s.count r ctx task src n).turnNo = s.turnNo ∧ (s.count r ctx task src n).plan = s.plan ∧
    (s.count r ctx task src n).closes = s.closes ∧ (s.count r ctx task src n).fired = s.fired ∧
    (s.count r ctx task src n).freeNo = s.freeNo ∧ (s.count r ctx task src n).nextId = s.nextId ∧
    (s.count r ctx task src n).stageNo = s.stageNo ∧ (s.count r ctx task src n).mem = s.mem ∧
    (s.count r ctx task src n).hostMem = s.hostMem ∧ (s.count r ctx task src n).usedFrames = s.usedFrames ∧
    (s.count r ctx task src n).insts = s.insts ∧ (s.count r ctx task src n).groups = s.groups ∧
    (s.count r ctx task src n).accs = s.accs ∧ (s.count r ctx task src n).tiles = s.tiles ∧
    (s.count r ctx task src n).tasks = s.tasks ∧ (s.count r ctx task src n).spreads = s.spreads ∧
    (s.count r ctx task src n).waiters = s.waiters ∧ (s.count r ctx task src n).spawns = s.spawns ∧
    (s.count r ctx task src n).lastTask = s.lastTask ∧ (s.count r ctx task src n).ptr = s.ptr ∧
    (s.count r ctx task src n).names = s.names ∧ (s.count r ctx task src n).objs = s.objs ∧
    (s.count r ctx task src n).slots = s.slots ∧ (s.count r ctx task src n).ctxs = s.ctxs ∧
    (s.count r ctx task src n).sccount = s.sccount ∧ (s.count r ctx task src n).cls = s.cls ∧
    (s.count r ctx task src n).good = s.good ∧ (s.count r ctx task src n).fenced = s.fenced ∧
    (s.count r ctx task src n).shocks = s.shocks ∧ (s.count r ctx task src n).shockPend = s.shockPend ∧
    (s.count r ctx task src n).shockPeak = s.shockPeak ∧ (s.count r ctx task src n).shockNew = s.shockNew ∧
    (s.count r ctx task src n).sec = s.sec ∧ (s.count r ctx task src n).dbg = s.dbg ∧
    (s.count r ctx task src n).hubStat = s.hubStat ∧ (s.count r ctx task src n).springing = s.springing ∧
    (s.count r ctx task src n).flrs = s.flrs ∧ (s.count r ctx task src n).readData = s.readData ∧
    (s.count r ctx task src n).pgops = s.pgops ∧ (s.count r ctx task src n).hostQ = s.hostQ ∧
    (s.count r ctx task src n).boosten = s.boosten ∧ (s.count r ctx task src n).park = s.park ∧
    (s.count r ctx task src n).plim = s.plim ∧ (s.count r ctx task src n).pbst = s.pbst ∧
    (s.count r ctx task src n).pst = s.pst ∧ (s.count r ctx task src n).snow = s.snow ∧
    (s.count r ctx task src n).draw = s.draw ∧ (s.count r ctx task src n).causeCnt = s.causeCnt ∧
    (s.count r ctx task src n).supin = s.supin ∧ (s.count r ctx task src n).droop = s.droop ∧
    (s.count r ctx task src n).oc = s.oc ∧ (s.count r ctx task src n).holds = s.holds ∧
    (s.count r ctx task src n).before = s.before ∧ (s.count r ctx task src n).lastLeft = s.lastLeft ∧
    (s.count r ctx task src n).die = s.die ∧ (s.count r ctx task src n).spm1 = s.spm1 ∧
    (s.count r ctx task src n).routeLo = s.routeLo ∧ (s.count r ctx task src n).routeHi = s.routeHi ∧
    (s.count r ctx task src n).lnks = s.lnks ∧ (s.count r ctx task src n).clk = s.clk ∧
    (s.count r ctx task src n).seen = s.seen ∧ (s.count r ctx task src n).sentClk = s.sentClk ∧
    (s.count r ctx task src n).seenBy = s.seenBy ∧ (s.count r ctx task src n).srcClk = s.srcClk ∧
    (s.count r ctx task src n).probed = s.probed ∧ (s.count r ctx task src n).onAlt = s.onAlt ∧
    (s.count r ctx task src n).rx = s.rx ∧ (s.count r ctx task src n).tx = s.tx ∧
    (s.count r ctx task src n).gone = s.gone ∧ (s.count r ctx task src n).devFuse = s.devFuse ∧
    (s.count r ctx task src n).minVer = s.minVer ∧ (s.count r ctx task src n).fw = s.fw ∧
    (s.count r ctx task src n).measured = s.measured ∧ (s.count r ctx task src n).bootReason = s.bootReason ∧
    (s.count r ctx task src n).badBoots = s.badBoots ∧ (s.count r ctx task src n).badHash = s.badHash ∧
    (s.count r ctx task src n).mbStat = s.mbStat ∧ (s.count r ctx task src n).mbBuf = s.mbBuf ∧
    (s.count r ctx task src n).keys = s.keys ∧ (s.count r ctx task src n).pairs = s.pairs :=
  by and_intros <;> rfl

@[simp] theorem State.countHub_keeps (s : State) (src n : Nat) (ctx : Option Nat) :
    (s.countHub src n ctx).cur = s.cur ∧ (s.countHub src n ctx).agenda = s.agenda ∧
    (s.countHub src n ctx).turnNo = s.turnNo ∧ (s.countHub src n ctx).plan = s.plan ∧
    (s.countHub src n ctx).closes = s.closes ∧ (s.countHub src n ctx).fired = s.fired ∧
    (s.countHub src n ctx).freeNo = s.freeNo ∧ (s.countHub src n ctx).nextId = s.nextId ∧
    (s.countHub src n ctx).stageNo = s.stageNo ∧ (s.countHub src n ctx).mem = s.mem ∧
    (s.countHub src n ctx).hostMem = s.hostMem ∧ (s.countHub src n ctx).usedFrames = s.usedFrames ∧
    (s.countHub src n ctx).insts = s.insts ∧ (s.countHub src n ctx).groups = s.groups ∧
    (s.countHub src n ctx).accs = s.accs ∧ (s.countHub src n ctx).tiles = s.tiles ∧
    (s.countHub src n ctx).regions = s.regions ∧ (s.countHub src n ctx).tasks = s.tasks ∧
    (s.countHub src n ctx).spreads = s.spreads ∧ (s.countHub src n ctx).waiters = s.waiters ∧
    (s.countHub src n ctx).spawns = s.spawns ∧ (s.countHub src n ctx).lastTask = s.lastTask ∧
    (s.countHub src n ctx).ptr = s.ptr ∧ (s.countHub src n ctx).names = s.names ∧
    (s.countHub src n ctx).objs = s.objs ∧ (s.countHub src n ctx).slots = s.slots ∧
    (s.countHub src n ctx).ctxs = s.ctxs ∧ (s.countHub src n ctx).sccount = s.sccount ∧
    (s.countHub src n ctx).cls = s.cls ∧ (s.countHub src n ctx).good = s.good ∧
    (s.countHub src n ctx).fenced = s.fenced ∧ (s.countHub src n ctx).shocks = s.shocks ∧
    (s.countHub src n ctx).shockPend = s.shockPend ∧ (s.countHub src n ctx).shockPeak = s.shockPeak ∧
    (s.countHub src n ctx).shockNew = s.shockNew ∧ (s.countHub src n ctx).sec = s.sec ∧
    (s.countHub src n ctx).dbg = s.dbg ∧ (s.countHub src n ctx).hubStat = s.hubStat ∧
    (s.countHub src n ctx).springing = s.springing ∧ (s.countHub src n ctx).flrs = s.flrs ∧
    (s.countHub src n ctx).readData = s.readData ∧ (s.countHub src n ctx).pgops = s.pgops ∧
    (s.countHub src n ctx).hostQ = s.hostQ ∧ (s.countHub src n ctx).boosten = s.boosten ∧
    (s.countHub src n ctx).park = s.park ∧ (s.countHub src n ctx).plim = s.plim ∧
    (s.countHub src n ctx).pbst = s.pbst ∧ (s.countHub src n ctx).pst = s.pst ∧
    (s.countHub src n ctx).snow = s.snow ∧ (s.countHub src n ctx).draw = s.draw ∧
    (s.countHub src n ctx).causeCnt = s.causeCnt ∧ (s.countHub src n ctx).supin = s.supin ∧
    (s.countHub src n ctx).droop = s.droop ∧ (s.countHub src n ctx).oc = s.oc ∧
    (s.countHub src n ctx).holds = s.holds ∧ (s.countHub src n ctx).before = s.before ∧
    (s.countHub src n ctx).lastLeft = s.lastLeft ∧ (s.countHub src n ctx).die = s.die ∧
    (s.countHub src n ctx).spm1 = s.spm1 ∧ (s.countHub src n ctx).routeLo = s.routeLo ∧
    (s.countHub src n ctx).routeHi = s.routeHi ∧ (s.countHub src n ctx).lnks = s.lnks ∧
    (s.countHub src n ctx).clk = s.clk ∧ (s.countHub src n ctx).seen = s.seen ∧
    (s.countHub src n ctx).sentClk = s.sentClk ∧ (s.countHub src n ctx).seenBy = s.seenBy ∧
    (s.countHub src n ctx).srcClk = s.srcClk ∧ (s.countHub src n ctx).probed = s.probed ∧
    (s.countHub src n ctx).onAlt = s.onAlt ∧ (s.countHub src n ctx).rx = s.rx ∧ (s.countHub src n ctx).tx = s.tx ∧
    (s.countHub src n ctx).gone = s.gone ∧ (s.countHub src n ctx).devFuse = s.devFuse ∧
    (s.countHub src n ctx).minVer = s.minVer ∧ (s.countHub src n ctx).fw = s.fw ∧
    (s.countHub src n ctx).measured = s.measured ∧ (s.countHub src n ctx).bootReason = s.bootReason ∧
    (s.countHub src n ctx).badBoots = s.badBoots ∧ (s.countHub src n ctx).badHash = s.badHash ∧
    (s.countHub src n ctx).mbStat = s.mbStat ∧ (s.countHub src n ctx).mbBuf = s.mbBuf ∧
    (s.countHub src n ctx).keys = s.keys ∧ (s.countHub src n ctx).pairs = s.pairs :=
  by and_intros <;> rfl

end Sys2Proof.Machine
end

