-- ==== Sys2Proof/Laws/Fires.lean ====
section
/-! SUPPORT. What each shared form of a rule can do, once for all the rules of the form: it leaves the state, stops the group
for want of drops, or fires; and that it fires where its conditions hold. -/

namespace Sys2Proof.Machine

/-- A debit waits, is short, or is taken. -/
theorem Inst.pay_cases (x : Inst) (d : Nat) :
    (x.pay d = .short ∧ x.meter < d + 256) ∨ (x.pay d = .wait ∧ ¬ x.meter < d + 256 ∧ x.built < x.debited + d)
      ∨ (x.pay d = .ok (x.debit d) ∧ Safety.Covered x d) := by
  unfold Inst.pay
  by_cases a : x.meter < d + 256
  · exact .inl ⟨if_pos a, a⟩
  · rw [if_neg a]
    by_cases b : x.built < x.debited + d
    · exact .inr (.inl ⟨if_pos b, a, b⟩)
    · exact .inr (.inr ⟨if_neg b, by omega, by omega⟩)

/-- A firing makes its tile wait at handover, stops its group for want of drops, or happens after its debit (R282, R287). -/
theorem State.charge_cases (s : State) (h : Here) (opc d : Nat) (k : State → State) :
    s.charge h opc d k = s.waitStore s.cur.task s.cur.vt ∨ s.charge h opc d k = s.raise s.cur.task (.short s.cur.vt (.elem h.e) opc d)
      ∨ (s.charge h opc d k = k (Safety.paid s h d) ∧ Safety.Covered h.x d) := by
  unfold State.charge
  rcases Inst.pay_cases h.x d with ⟨e, _⟩ | ⟨e, _⟩ | ⟨e, c⟩ <;> rw [e]
  · exact .inr (.inl rfl)
  · exact .inl rfl
  · exact .inr (.inr ⟨rfl, c⟩)

/-- Where the debit is covered the firing happens. -/
theorem State.charge_of_covered (s : State) (h : Here) (opc d : Nat) (k : State → State) (c : Safety.Covered h.x d) :
    s.charge h opc d k = k (Safety.paid s h d) := by
  unfold State.charge
  rcases Inst.pay_cases h.x d with ⟨_, a⟩ | ⟨_, _, b⟩ | ⟨e, _⟩
  · exact absurd a (by have := c.1; omega)
  · exact absurd b (by have := c.2; omega)
  · rw [e]; rfl

theorem State.charge_of_fires {s : State} {h : Here} {t : Trig} {d : Nat} (H : Safety.Fires s h t d) (opc : Nat) (k : State → State) :
    s.charge h opc d k = k (Safety.paid s h d) :=
  State.charge_of_covered s h opc d k ⟨H.meter, H.built⟩

/-- A two-source register rule fires where its conditions hold (R113, R114). -/
theorem State.fireEa2_of {s : State} {h : Here} {x : Ea2} {d : Nat} (H : Safety.Fires s h x.trig d)
    (r : Safety.readable h x.sa x.sb) (q : Safety.takes s h x.dst) (opc : Nat) (f : Word → Word → Word × Ar) :
    s.fireEa2 x opc d f = Safety.after2 s h x d f := by
  unfold State.fireEa2
  rw [H.here]
  simp only [H.gate, r.1, r.2, q.1, q.2, Bool.and_self, if_true, State.charge_of_fires H]
  rfl

/-- A one-source register rule fires where its conditions hold. -/
theorem State.fireEa1_of {s : State} {h : Here} {x : Ea1} {d : Nat} (H : Safety.Fires s h x.trig d)
    (r : h.el.okA x.sa = true) (q : Safety.takes s h x.dst) (opc : Nat) (f : Tok → Word) :
    s.fireEa1 x opc d (fun a => (f a, {})) = Safety.after1 s h x d f := by
  unfold State.fireEa1
  rw [H.here]
  simp only [H.gate, r, q.1, q.2, Bool.and_self, if_true, State.charge_of_fires H]
  unfold Safety.after1
  split <;> simp_all [Safety.dequeued]

/-- An immediate rule fires where its conditions hold (R84, R115). -/
theorem State.fireEi_of {s : State} {h : Here} {t : Trig} {dst : Dst} {sa : SrcA} {pd : Fin 8} {pw : Bool} {d : Nat}
    (H : Safety.Fires s h t d) (r : h.el.okA sa = true) (q : Safety.takes s h dst) (opc : Nat) (f : Word → Word × Ar) :
    s.fireEi t dst sa pd pw opc d f = Safety.afterImm s h t dst sa pd pw d (f (h.el.readA sa).val) := by
  unfold State.fireEi
  rw [H.here]
  simp only [H.gate, r, q.1, q.2, Bool.and_self, if_true, State.charge_of_fires H]
  rfl

/-- A rule without a source fires where its conditions hold. -/
theorem State.fireNone_of {s : State} {h : Here} {t : Trig} {dst : Dst} {side : Side} {pd : Fin 8} {pw : Bool}
    (H : Safety.Fires s h t 1) (q : Safety.takes s h dst) (opc : Nat) (f : Here → Word) :
    s.fireNone t dst side pd pw opc 1 f = Safety.afterNone s h t dst side pd pw (f h) := by
  unfold State.fireNone
  rw [H.here]
  simp only [H.gate, q.1, q.2, Bool.and_self, if_true, State.charge_of_fires H]
  rfl

/-- A predicate instruction fires where its trigger's conditions hold (R133). -/
theorem State.firePred_of {s : State} {h : Here} {t : Trig} (H : Safety.Fires s h t 1) (pd : Fin 8) (opc : Nat)
    (reads : List (Fin 8)) (f : Elem → Bool) :
    s.firePred t pd opc reads f = (Safety.paid s h 1).putHere h
      (h.el.setPred pd (f h.el) ((Safety.paid s h 1).fireDeps h t (reads.flatMap fun n => vget h.el.pDeps n))) := by
  unfold State.firePred
  rw [H.here]
  simp only [H.gate, if_true, State.charge_of_fires H]

/-- All that a two-source register rule can do. -/
theorem State.fireEa2_cases (s : State) (x : Ea2) (opc d : Nat) (f : Word → Word → Word × Ar) :
    s.fireEa2 x opc d f = s
      ∨ ∃ h, s.here = some h ∧ s.gate h x.trig = true ∧ Safety.readable h x.sa x.sb ∧ Safety.takes s h x.dst
        ∧ (s.fireEa2 x opc d f = s.raise s.cur.task (.short s.cur.vt (.elem h.e) opc d)
          ∨ s.fireEa2 x opc d f = s.waitStore s.cur.task s.cur.vt
          ∨ (s.fireEa2 x opc d f = Safety.after2 s h x d f ∧ Safety.Covered h.x d)) := by
  unfold State.fireEa2
  split
  · exact .inl rfl
  · next h e =>
    split
    · next c =>
      simp only [Bool.and_eq_true] at c
      rcases State.charge_cases s h opc d _ with r | r | ⟨r, v⟩ <;> rw [r]
      · exact .inr ⟨h, e, c.1.1.1.1, ⟨c.1.1.1.2, c.1.1.2⟩, ⟨c.1.2, c.2⟩, .inr (.inl rfl)⟩
      · exact .inr ⟨h, e, c.1.1.1.1, ⟨c.1.1.1.2, c.1.1.2⟩, ⟨c.1.2, c.2⟩, .inl rfl⟩
      · exact .inr ⟨h, e, c.1.1.1.1, ⟨c.1.1.1.2, c.1.1.2⟩, ⟨c.1.2, c.2⟩, .inr (.inr ⟨rfl, v⟩)⟩
    · exact .inl rfl

/-- All that an immediate rule can do. -/
theorem State.fireEi_cases (s : State) (t : Trig) (dst : Dst) (sa : SrcA) (pd : Fin 8) (pw : Bool) (opc d : Nat)
    (f : Word → Word × Ar) :
    s.fireEi t dst sa pd pw opc d f = s
      ∨ ∃ h, s.here = some h ∧ s.gate h t = true ∧ h.el.okA sa = true ∧ Safety.takes s h dst
        ∧ (s.fireEi t dst sa pd pw opc d f = s.raise s.cur.task (.short s.cur.vt (.elem h.e) opc d)
          ∨ s.fireEi t dst sa pd pw opc d f = s.waitStore s.cur.task s.cur.vt
          ∨ (s.fireEi t dst sa pd pw opc d f = Safety.afterImm s h t dst sa pd pw d (f (h.el.readA sa).val)
            ∧ Safety.Covered h.x d)) := by
  unfold State.fireEi
  split
  · exact .inl rfl
  · next h e =>
    split
    · next c =>
      simp only [Bool.and_eq_true] at c
      rcases State.charge_cases s h opc d _ with r | r | ⟨r, v⟩ <;> rw [r]
      · exact .inr ⟨h, e, c.1.1.1, c.1.1.2, ⟨c.1.2, c.2⟩, .inr (.inl rfl)⟩
      · exact .inr ⟨h, e, c.1.1.1, c.1.1.2, ⟨c.1.2, c.2⟩, .inl rfl⟩
      · exact .inr ⟨h, e, c.1.1.1, c.1.1.2, ⟨c.1.2, c.2⟩, .inr (.inr ⟨rfl, v⟩)⟩
    · exact .inl rfl

end Sys2Proof.Machine
end

