-- ==== Sys2Proof/Laws/Memory.lean ====
section
/-! SUPPORT. Reads after writes of finite maps and of memory, and that every operation on a memory keeps its canonical
form, which the memories of the reset state have. -/

namespace Sys2Proof.Machine

/-! ### Finite maps -/

@[simp] theorem Assoc.get?_nil {α : Type} (k : Nat) : Assoc.get? ([] : Assoc α) k = none := rfl

theorem Assoc.get?_cons {α : Type} (j : Nat) (a : α) (r : Assoc α) (k : Nat) :
    Assoc.get? ((j, a) :: r) k = if j = k then some a else Assoc.get? r k := rfl

/-- A key set reads as set; every other key reads as before. -/
theorem Assoc.get?_put {α : Type} (m : Assoc α) (k : Nat) (a : α) (j : Nat) :
    Assoc.get? (Assoc.put m k a) j = if k = j then some a else Assoc.get? m j := by
  induction m with
  | nil => rfl
  | cons x r ih =>
    obtain ⟨i, b⟩ := x
    unfold Assoc.put
    split
    · rfl
    · split
      · next h => subst h; simp only [Assoc.get?_cons]; split <;> rfl
      · next h => simp only [Assoc.get?_cons, ih]; split <;> split <;> simp_all

@[simp] theorem Assoc.get?_put_same {α : Type} (m : Assoc α) (k : Nat) (a : α) : Assoc.get? (Assoc.put m k a) k = some a := by
  simp [Assoc.get?_put]

theorem Assoc.get?_put_other {α : Type} (m : Assoc α) {k j : Nat} (a : α) (h : j ≠ k) :
    Assoc.get? (Assoc.put m k a) j = Assoc.get? m j := by
  simp [Assoc.get?_put, Ne.symm h]

/-- A key dropped reads as absent; every other key reads as before. -/
theorem Assoc.get?_del {α : Type} (m : Assoc α) (k j : Nat) :
    Assoc.get? (Assoc.del m k) j = if k = j then none else Assoc.get? m j := by
  induction m with
  | nil => simp [Assoc.del]
  | cons x r ih =>
    obtain ⟨i, b⟩ := x
    by_cases h : i = k
    · subst h
      have : Assoc.del ((i, b) :: r) i = Assoc.del r i := by simp [Assoc.del]
      rw [this, ih, Assoc.get?_cons]
      split <;> rfl
    · have : Assoc.del ((i, b) :: r) k = (i, b) :: Assoc.del r k := by simp [Assoc.del, h]
      rw [this, Assoc.get?_cons, Assoc.get?_cons, ih]
      split <;> split <;> simp_all

/-- A value changed in place is changed at its key alone. -/
theorem Assoc.get?_modify {α : Type} (m : Assoc α) (k : Nat) (f : α → α) (j : Nat) :
    Assoc.get? (Assoc.modify m k f) j = if k = j then (Assoc.get? m j).map f else Assoc.get? m j := by
  induction m with
  | nil => simp [Assoc.modify]
  | cons x r ih =>
    obtain ⟨i, b⟩ := x
    have e : Assoc.modify ((i, b) :: r) k f = (if i = k then (i, f b) else (i, b)) :: Assoc.modify r k f := rfl
    rw [e]
    by_cases h : i = k
    · subst h; rw [if_pos rfl, Assoc.get?_cons, Assoc.get?_cons, ih]; split <;> rfl
    · rw [if_neg h, Assoc.get?_cons, Assoc.get?_cons, ih]; split <;> split <;> simp_all

/-! ### Bytes of memory -/

@[simp] theorem Memory.read_nil (a : Nat) : Memory.read [] a = 0 := rfl

/-- A byte written is read; every other address reads as before. -/
theorem Memory.read_write (m : Memory) (a : Nat) (b : Byte) (c : Nat) :
    Memory.read (Memory.write m a b) c = if a = c then b else Memory.read m c := by
  unfold Memory.write Memory.read Assoc.getD
  split
  · next h => rw [Assoc.get?_del]; split <;> simp [h]
  · rw [Assoc.get?_put]; split <;> simp

@[simp] theorem Memory.read_write_same (m : Memory) (a : Nat) (b : Byte) : Memory.read (Memory.write m a b) a = b := by
  simp [Memory.read_write]

theorem Memory.read_write_other (m : Memory) {a c : Nat} (b : Byte) (h : c ≠ a) :
    Memory.read (Memory.write m a b) c = Memory.read m c := by
  simp [Memory.read_write, Ne.symm h]

/-- Addresses outside the bytes written read as before. -/
theorem Memory.read_writes_other (l : List Byte) : ∀ (m : Memory) (a c : Nat), c < a ∨ a + l.length ≤ c →
    Memory.read (Memory.writes m a l) c = Memory.read m c := by
  induction l with
  | nil => intro m a c _; rfl
  | cons b r ih =>
    intro m a c h
    rw [List.length_cons] at h
    show Memory.read (Memory.writes (Memory.write m a b) (a + 1) r) c = _
    rw [ih _ _ _ (by omega), Memory.read_write_other _ _ (by omega)]

/-- Addresses that the placement gives no offset read as before. -/
theorem Memory.read_writesBy_other (l : List Byte) (f : Nat → Nat) : ∀ (m : Memory) (off c : Nat), (∀ i, c ≠ f i) →
    Memory.read (Memory.writesBy m f off l) c = Memory.read m c := by
  induction l with
  | nil => intro m off c _; rfl
  | cons b r ih =>
    intro m off c h
    show Memory.read (Memory.writesBy (Memory.write m (f off) b) f (off + 1) r) c = _
    rw [ih _ _ _ h, Memory.read_write_other _ _ (h off)]

/-- The bytes written are read back. -/
theorem Memory.reads_writes (l : List Byte) : ∀ (m : Memory) (a : Nat), Memory.reads (Memory.writes m a l) a l.length = l := by
  induction l with
  | nil => intro m a; rfl
  | cons b r ih =>
    intro m a
    show Memory.read (Memory.writes (Memory.write m a b) (a + 1) r) a :: Memory.reads _ (a + 1) r.length = _
    rw [Memory.read_writes_other _ _ _ _ (.inl (Nat.lt_succ_self a)), Memory.read_write_same]
    exact congrArg _ (ih _ _)

/-- The addresses cleared read as 0, every other address as before. -/
theorem Memory.read_clear (m : Memory) (a n c : Nat) :
    Memory.read (Memory.clear m a n) c = if a ≤ c ∧ c < a + n then 0 else Memory.read m c := by
  unfold Memory.read Assoc.getD
  induction m with
  | nil => simp [Memory.clear]
  | cons x r ih =>
    obtain ⟨i, b⟩ := x
    by_cases h : a ≤ i ∧ i < a + n
    · have e : Memory.clear ((i, b) :: r) a n = Memory.clear r a n := by simp [Memory.clear, h]
      rw [e, ih, Assoc.get?_cons]
      split
      · rfl
      · next g => rw [if_neg]; rintro rfl; exact g h
    · have e : Memory.clear ((i, b) :: r) a n = (i, b) :: Memory.clear r a n := by
        simp only [Memory.clear]
        rw [List.filter_cons_of_pos]
        simp only [Bool.not_eq_true', Bool.and_eq_false_iff, decide_eq_false_iff_not]
        omega
      rw [e, Assoc.get?_cons, Assoc.get?_cons]
      by_cases g : i = c
      · subst g; simp [h]
      · simp only [if_neg g]; exact ih

/-! ### The canonical form -/

theorem Memory.wfAbove_mono {m : Memory} {lo lo' : Nat} (h : lo' ≤ lo) (w : Memory.wfAbove lo m = true) :
    Memory.wfAbove lo' m = true := by
  cases m with
  | nil => rfl
  | cons x r =>
    obtain ⟨i, b⟩ := x
    simp only [Memory.wfAbove, Bool.and_eq_true, decide_eq_true_eq] at w ⊢
    exact ⟨⟨by omega, w.1.2⟩, w.2⟩

/-- Entries dropped leave a canonical memory canonical. -/
theorem Memory.wfAbove_filter (p : Host.Cell → Bool) : ∀ (m : Memory) (lo : Nat), Memory.wfAbove lo m = true →
    Memory.wfAbove lo (m.filter p) = true := by
  intro m
  induction m with
  | nil => intro _ _; rfl
  | cons x r ih =>
    obtain ⟨i, b⟩ := x
    intro lo w
    simp only [Memory.wfAbove, Bool.and_eq_true, decide_eq_true_eq] at w
    rw [List.filter_cons]
    split
    · simp only [Memory.wfAbove, Bool.and_eq_true, decide_eq_true_eq]
      exact ⟨w.1, ih _ w.2⟩
    · exact Memory.wfAbove_mono (by omega) (ih _ w.2)

/-- An entry other than 0 put into a canonical memory leaves it canonical. -/
theorem Memory.wfAbove_put (a : Nat) (b : Byte) (hb : b ≠ 0) : ∀ (m : Memory) (lo : Nat), lo ≤ a → Memory.wfAbove lo m = true →
    Memory.wfAbove lo (Assoc.put m a b) = true := by
  intro m
  induction m with
  | nil =>
    intro lo h _
    simp only [Assoc.put, Memory.wfAbove, Bool.and_true, Bool.and_eq_true, decide_eq_true_eq, bne_iff_ne]
    exact ⟨h, hb⟩
  | cons x r ih =>
    obtain ⟨i, c⟩ := x
    intro lo h w
    simp only [Memory.wfAbove, Bool.and_eq_true, decide_eq_true_eq] at w
    unfold Assoc.put
    split
    · simp only [Memory.wfAbove, Bool.and_eq_true, decide_eq_true_eq, bne_iff_ne]
      exact ⟨⟨h, hb⟩, ⟨by omega, by simpa using w.1.2⟩, w.2⟩
    · split
      · simp only [Memory.wfAbove, Bool.and_eq_true, decide_eq_true_eq, bne_iff_ne]
        exact ⟨⟨h, hb⟩, by simp_all⟩
      · simp only [Memory.wfAbove, Bool.and_eq_true, decide_eq_true_eq]
        exact ⟨w.1, ih _ (by omega) w.2⟩

theorem Memory.wf_write {m : Memory} (a : Nat) (b : Byte) (w : m.wf = true) : (Memory.write m a b).wf = true := by
  unfold Memory.write
  split
  · exact Memory.wfAbove_filter _ _ _ w
  · next h => exact Memory.wfAbove_put a b h m 0 (Nat.zero_le a) w

theorem Memory.wf_writes (l : List Byte) : ∀ {m : Memory} (a : Nat), m.wf = true → (Memory.writes m a l).wf = true := by
  induction l with
  | nil => intro _ _ w; exact w
  | cons b r ih => intro _ a w; exact ih (a + 1) (Memory.wf_write a b w)

theorem Memory.wf_writesBy (l : List Byte) (f : Nat → Nat) : ∀ {m : Memory} (off : Nat), m.wf = true →
    (Memory.writesBy m f off l).wf = true := by
  induction l with
  | nil => intro _ _ w; exact w
  | cons b r ih => intro _ off w; exact ih (off + 1) (Memory.wf_write _ b w)

theorem Memory.wf_clear {m : Memory} (a n : Nat) (w : m.wf = true) : (Memory.clear m a n).wf = true :=
  Memory.wfAbove_filter _ _ _ w

/-- A fold of writes keeps the canonical form. -/
theorem Memory.wf_foldl {α : Type} (f : Memory → α → Memory) (h : ∀ m x, Memory.wf m = true → Memory.wf (f m x) = true) :
    ∀ (l : List α) {m : Memory}, m.wf = true → Memory.wf (l.foldl f m) = true := by
  intro l
  induction l with
  | nil => intro _ w; exact w
  | cons x r ih => intro m w; exact ih (h m x w)

/-- Cells written one after the other, from an address on. -/
theorem Memory.wf_cells (l : List Host.Cell) (a : Nat) {m : Memory} (w : m.wf = true) :
    Memory.wf (l.foldl (fun (m : Memory) (c : Host.Cell) => m.write (a + c.1) c.2) m) = true :=
  Memory.wf_foldl _ (fun _ _ v => Memory.wf_write _ _ v) l w

/-- The memories of the reset state are in their canonical form. -/
theorem reset_memOk : Safety.memOk State.reset := ⟨rfl, rfl, rfl⟩

end Sys2Proof.Machine
end

