-- ==== Sys2Proof/Laws/PerInstr.lean ====
section
/-! SUPPORT. The families of statements about every instruction: RoundTrip, that decoding the word of a well-formed
instruction gives it back. An event has no word. -/

namespace Sys2Proof.Laws

/-- Decoding the word of a well-formed instruction gives it back. -/
def RoundTrip.Statement (i : Instr) : Prop := ∀ (c : Coded), i.wf = true → encode i = some c → decodeIn c.space c.word = .ok i

/-- An instruction whose fields a rule word holds. -/
theorem RoundTrip.ofRule {i : Instr} {f : RuleFields} {t : Trig} (h : ruleFields i = some f) (e : f.trig = encTrig t)
    (d : i.wf = true → decodeOp t f = .ok i) : Statement i := by
  intro c w k
  simp only [encode, h, Option.some.injEq] at k
  subst k
  exact (decodeRule_word e).trans (d w)

/-- An instruction whose word is a command. -/
theorem RoundTrip.ofCommand {i : Instr} {c : Coded} (h : encode i = some c) (d : i.wf = true → decodeIn c.space c.word = .ok i) :
    Statement i := by
  intro k w e
  rw [h] at e
  cases e
  exact d w

/-- An event has no word. -/
theorem RoundTrip.ofEvent {i : Instr} (h : encode i = none) : Statement i := by
  intro c _ e
  rw [h] at e
  cases e

/-- A vector command. -/
theorem RoundTrip.ofVector {i : Instr} {x : VCmd} {op : BitVec 8} {mk : VCmd → Instr} (e : mk x = i)
    (h : encode i = some ⟨.vector, encV op x⟩) (v : i.wf = true → vFmtLegal op.toNat x.fmt = true)
    (d : ∀ w, cmdOp w = op.toNat → decodeVec w = decV op.toNat w mk) : Statement i := by
  refine ofCommand h fun w => ?_
  subst e
  have k := decV_enc op x mk (v w)
  exact (d _ k.1).trans k.2

/-- A matrix command. -/
theorem RoundTrip.ofMatrix {i : Instr} {f : MFields} {op : BitVec 8} (dec : MFields → Except Reject Instr)
    (h : encode i = some ⟨.matrix, f.word op⟩) (d : ∀ w, cmdOp w = op.toNat → decodeMat w = dec (mFieldsOf w))
    (e : i.wf = true → dec f = .ok i) : Statement i := by
  refine ofCommand h fun w => ?_
  have k := mFieldsOf_word op f
  refine (d _ k.1).trans ?_
  rw [k.2]
  exact e w

theorem RoundTrip.add (x : Ea2) : Statement (.add x) :=
  ofRule rfl rfl fun w => decEa2_enc 0x00 x .add w

theorem RoundTrip.sub (x : Ea2) : Statement (.sub x) :=
  ofRule rfl rfl fun w => decEa2_enc 0x01 x .sub w

theorem RoundTrip.addi (x : Ei) : Statement (.addi x) :=
  ofRule rfl rfl fun w => decEi_enc 0x02 x .addi w

theorem RoundTrip.mul (x : Ea2) : Statement (.mul x) :=
  ofRule rfl rfl fun w => decEa2_enc 0x03 x .mul w

theorem RoundTrip.mulh (x : Ea2) : Statement (.mulh x) :=
  ofRule rfl rfl fun w => decEa2_enc 0x04 x .mulh w

theorem RoundTrip.mulhu (x : Ea2) : Statement (.mulhu x) :=
  ofRule rfl rfl fun w => decEa2_enc 0x05 x .mulhu w

theorem RoundTrip.min (x : Ea2) : Statement (.min x) :=
  ofRule rfl rfl fun w => decEa2_enc 0x06 x .min w

theorem RoundTrip.max (x : Ea2) : Statement (.max x) :=
  ofRule rfl rfl fun w => decEa2_enc 0x07 x .max w

theorem RoundTrip.minu (x : Ea2) : Statement (.minu x) :=
  ofRule rfl rfl fun w => decEa2_enc 0x08 x .minu w

theorem RoundTrip.maxu (x : Ea2) : Statement (.maxu x) :=
  ofRule rfl rfl fun w => decEa2_enc 0x09 x .maxu w

theorem RoundTrip.addsh (x : Ea2) : Statement (.addsh x) :=
  ofRule rfl rfl fun w => decEa2_enc 0x0A x .addsh w

theorem RoundTrip.absd (x : Ea2) : Statement (.absd x) :=
  ofRule rfl rfl fun w => decEa2_enc 0x0B x .absd w

theorem RoundTrip.adds (x : Ea2) : Statement (.adds x) :=
  ofRule rfl rfl fun w => decEa2_enc 0x0C x .adds w

theorem RoundTrip.subs (x : Ea2) : Statement (.subs x) :=
  ofRule rfl rfl fun w => decEa2_enc 0x0D x .subs w

theorem RoundTrip.neg (x : Ea1) : Statement (.neg x) :=
  ofRule rfl rfl fun w => decEa1_enc 0x0E x .neg w

theorem RoundTrip.abs (x : Ea1) : Statement (.abs x) :=
  ofRule rfl rfl fun w => decEa1_enc 0x0F x .abs w

theorem RoundTrip.and (x : Ea2) : Statement (.and x) :=
  ofRule rfl rfl fun w => decEa2_enc 0x10 x .and w

theorem RoundTrip.or (x : Ea2) : Statement (.or x) :=
  ofRule rfl rfl fun w => decEa2_enc 0x11 x .or w

theorem RoundTrip.xor (x : Ea2) : Statement (.xor x) :=
  ofRule rfl rfl fun w => decEa2_enc 0x12 x .xor w

theorem RoundTrip.andn (x : Ea2) : Statement (.andn x) :=
  ofRule rfl rfl fun w => decEa2_enc 0x13 x .andn w

theorem RoundTrip.andi (x : Ei) : Statement (.andi x) :=
  ofRule rfl rfl fun w => decEi_enc 0x14 x .andi w

theorem RoundTrip.ori (x : Ei) : Statement (.ori x) :=
  ofRule rfl rfl fun w => decEi_enc 0x15 x .ori w

theorem RoundTrip.xori (x : Ei) : Statement (.xori x) :=
  ofRule rfl rfl fun w => decEi_enc 0x16 x .xori w

theorem RoundTrip.shl (x : Ea2) : Statement (.shl x) :=
  ofRule rfl rfl fun w => decEa2_enc 0x17 x .shl w

theorem RoundTrip.shr (x : Ea2) : Statement (.shr x) :=
  ofRule rfl rfl fun w => decEa2_enc 0x18 x .shr w

theorem RoundTrip.sar (x : Ea2) : Statement (.sar x) :=
  ofRule rfl rfl fun w => decEa2_enc 0x19 x .sar w

theorem RoundTrip.shli (x : EiShift) : Statement (.shli x) :=
  ofRule rfl rfl fun w => decEiShift_enc 0x1A x .shli w

theorem RoundTrip.shri (x : EiShift) : Statement (.shri x) :=
  ofRule rfl rfl fun w => decEiShift_enc 0x1B x .shri w

theorem RoundTrip.sari (x : EiShift) : Statement (.sari x) :=
  ofRule rfl rfl fun w => decEiShift_enc 0x1C x .sari w

theorem RoundTrip.clz (x : Ea1) : Statement (.clz x) :=
  ofRule rfl rfl fun w => decEa1_enc 0x1D x .clz w

theorem RoundTrip.popc (x : Ea1) : Statement (.popc x) :=
  ofRule rfl rfl fun w => decEa1_enc 0x1E x .popc w

theorem RoundTrip.bfx (x : EiBfx) : Statement (.bfx x) :=
  ofRule rfl rfl fun w => decEiBfx_enc 0x1F x .bfx w

theorem RoundTrip.ceq (x : Ea2) : Statement (.ceq x) :=
  ofRule rfl rfl fun w => decEa2_enc 0x20 x .ceq w

theorem RoundTrip.cne (x : Ea2) : Statement (.cne x) :=
  ofRule rfl rfl fun w => decEa2_enc 0x21 x .cne w

theorem RoundTrip.clt (x : Ea2) : Statement (.clt x) :=
  ofRule rfl rfl fun w => decEa2_enc 0x22 x .clt w

theorem RoundTrip.cle (x : Ea2) : Statement (.cle x) :=
  ofRule rfl rfl fun w => decEa2_enc 0x23 x .cle w

theorem RoundTrip.cltu (x : Ea2) : Statement (.cltu x) :=
  ofRule rfl rfl fun w => decEa2_enc 0x24 x .cltu w

theorem RoundTrip.cleu (x : Ea2) : Statement (.cleu x) :=
  ofRule rfl rfl fun w => decEa2_enc 0x25 x .cleu w

theorem RoundTrip.ceqi (x : EiCmp) : Statement (.ceqi x) :=
  ofRule rfl rfl fun w => decEiCmp_enc 0x26 x .ceqi w

theorem RoundTrip.clti (x : EiCmp) : Statement (.clti x) :=
  ofRule rfl rfl fun w => decEiCmp_enc 0x27 x .clti w

theorem RoundTrip.cgti (x : EiCmp) : Statement (.cgti x) :=
  ofRule rfl rfl fun w => decEiCmp_enc 0x28 x .cgti w

theorem RoundTrip.pand (x : Pr2) : Statement (.pand x) :=
  ofRule rfl rfl fun _ => decPr2_enc 0x29 x .pand

theorem RoundTrip.por (x : Pr2) : Statement (.por x) :=
  ofRule rfl rfl fun _ => decPr2_enc 0x2A x .por

theorem RoundTrip.pxor (x : Pr2) : Statement (.pxor x) :=
  ofRule rfl rfl fun _ => decPr2_enc 0x2B x .pxor

theorem RoundTrip.pnot (x : Pr1) : Statement (.pnot x) :=
  ofRule rfl rfl fun _ => decPr1_enc 0x2C x .pnot

theorem RoundTrip.pset (x : Pr0) : Statement (.pset x) :=
  ofRule rfl rfl fun _ => decPr0_enc 0x2D x .pset

theorem RoundTrip.pclr (x : Pr0) : Statement (.pclr x) :=
  ofRule rfl rfl fun _ => decPr0_enc 0x2E x .pclr

theorem RoundTrip.pmov (x : Pr1) : Statement (.pmov x) :=
  ofRule rfl rfl fun _ => decPr1_enc 0x2F x .pmov

theorem RoundTrip.mov (x : Ea1) : Statement (.mov x) :=
  ofRule rfl rfl fun w => decEa1_enc 0x30 x .mov w

theorem RoundTrip.movi (x : EiMov) : Statement (.movi x) :=
  ofRule rfl rfl fun w => decEiMov_enc 0x31 x .movi w

theorem RoundTrip.movhi (x : EiMov) : Statement (.movhi x) :=
  ofRule rfl rfl fun w => decEiMov_enc 0x32 x .movhi w

theorem RoundTrip.movk (x : EaMovk) : Statement (.movk x) :=
  ofRule rfl rfl fun w => decEaMovk_enc 0x33 x .movk w

theorem RoundTrip.steer (x : Ea2) : Statement (.steer x) :=
  ofRule rfl rfl fun w => decEa2_enc 0x34 x .steer w

theorem RoundTrip.merge (x : Ea2) : Statement (.merge x) :=
  ofRule rfl rfl fun w => decEa2_enc 0x35 x .merge w

theorem RoundTrip.carry (x : Ea2) : Statement (.carry x) :=
  ofRule rfl rfl fun w => decEa2_enc 0x36 x .carry w

theorem RoundTrip.drop (x : EaChan) : Statement (.drop x) :=
  ofRule rfl rfl fun _ => decEaChan_enc 0x37 x .drop

theorem RoundTrip.endt (x : EiEndt) : Statement (.endt x) :=
  ofRule rfl rfl fun _ => decEiEndt_enc 0x38 x .endt

theorem RoundTrip.tagw (x : Ea2) : Statement (.tagw x) :=
  ofRule rfl rfl fun w => decEa2_enc 0x39 x .tagw w

theorem RoundTrip.tagr (x : Ea1) : Statement (.tagr x) :=
  ofRule rfl rfl fun w => decEa1_enc 0x3A x .tagr w

theorem RoundTrip.dimr (x : Ea1) : Statement (.dimr x) :=
  ofRule rfl rfl fun w => decEa1_enc 0x3B x .dimr w

theorem RoundTrip.req (x : EaChan) : Statement (.req x) :=
  ofRule rfl rfl fun _ => decEaChan_enc 0x3C x .req

theorem RoundTrip.cntup (x : Ea2) : Statement (.cntup x) :=
  ofRule rfl rfl fun w => decEa2_enc 0x3D x .cntup w

theorem RoundTrip.sel (x : EaSel) : Statement (.sel x) :=
  ofRule rfl rfl fun w => decEaSel_enc 0x3E x .sel w

theorem RoundTrip.gets (x : EiGets) : Statement (.gets x) :=
  ofRule rfl rfl fun w => decEiGets_enc 0x3F x .gets w

theorem RoundTrip.fadd (x : Ea2) : Statement (.fadd x) :=
  ofRule rfl rfl fun w => decEa2_enc 0x40 x .fadd w

theorem RoundTrip.fsub (x : Ea2) : Statement (.fsub x) :=
  ofRule rfl rfl fun w => decEa2_enc 0x41 x .fsub w

theorem RoundTrip.fmul (x : Ea2) : Statement (.fmul x) :=
  ofRule rfl rfl fun w => decEa2_enc 0x42 x .fmul w

theorem RoundTrip.fma (x : EaFma) : Statement (.fma x) :=
  ofRule rfl rfl fun _ => decEaFma_enc 0x43 x .fma

theorem RoundTrip.fmax (x : Ea2) : Statement (.fmax x) :=
  ofRule rfl rfl fun w => decEa2_enc 0x44 x .fmax w

theorem RoundTrip.fmin (x : Ea2) : Statement (.fmin x) :=
  ofRule rfl rfl fun w => decEa2_enc 0x45 x .fmin w

theorem RoundTrip.fclt (x : Ea2) : Statement (.fclt x) :=
  ofRule rfl rfl fun w => decEa2_enc 0x46 x .fclt w

theorem RoundTrip.fcvt (x : EiFcvt) : Statement (.fcvt x) :=
  ofRule rfl rfl fun w => decEiFcvt_enc 0x47 x .fcvt w

theorem RoundTrip.ldp (x : EmLdp) : Statement (.ldp x) :=
  ofRule rfl rfl fun w => decEmLdp_enc 0x48 x .ldp w

theorem RoundTrip.stp (x : EmStp) : Statement (.stp x) :=
  ofRule rfl rfl fun w => decEmStp_enc 0x49 x .stp w

theorem RoundTrip.ldt (x : EmLd) : Statement (.ldt x) :=
  ofRule rfl rfl fun w => decEmLd_enc 0x4A x .ldt w

theorem RoundTrip.stt (x : EmSt) : Statement (.stt x) :=
  ofRule rfl rfl fun w => decEmSt_enc Dst.isDone 0x4B x .stt w

theorem RoundTrip.ldlink (x : EmSt) : Statement (.ldlink x) :=
  ofRule rfl rfl fun w => decEmSt_enc Dst.isReg 0x4C x .ldlink w

theorem RoundTrip.ldfe (x : EmLd) : Statement (.ldfe x) :=
  ofRule rfl rfl fun w => decEmLd_enc 0x4D x .ldfe w

theorem RoundTrip.ldfec (x : EmLd) : Statement (.ldfec x) :=
  ofRule rfl rfl fun w => decEmLd_enc 0x4E x .ldfec w

theorem RoundTrip.stfe (x : EmSt) : Statement (.stfe x) :=
  ofRule rfl rfl fun w => decEmSt_enc Dst.isDone 0x4F x .stfe w

theorem RoundTrip.disc (x : EmSt) : Statement (.disc x) :=
  ofRule rfl rfl fun w => decEmDisc_enc 0x50 x .disc w

theorem RoundTrip.fence (x : EmFence) : Statement (.fence x) :=
  ofRule rfl rfl fun w => decEmFence_enc 0x51 x .fence w

theorem RoundTrip.pref (x : EmPref) : Statement (.pref x) :=
  ofRule rfl rfl fun _ => decEmPref_enc 0x52 x .pref

theorem RoundTrip.aadd (x : EmSt) : Statement (.aadd x) :=
  ofRule rfl rfl fun w => decEmSt_enc Dst.notPred 0x58 x .aadd w

theorem RoundTrip.amax (x : EmSt) : Statement (.amax x) :=
  ofRule rfl rfl fun w => decEmSt_enc Dst.notPred 0x59 x .amax w

theorem RoundTrip.afmax (x : EmSt) : Statement (.afmax x) :=
  ofRule rfl rfl fun w => decEmSt_enc Dst.notPred 0x5A x .afmax w

theorem RoundTrip.amin (x : EmSt) : Statement (.amin x) :=
  ofRule rfl rfl fun w => decEmSt_enc Dst.notPred 0x5B x .amin w

theorem RoundTrip.axchg (x : EmSt) : Statement (.axchg x) :=
  ofRule rfl rfl fun w => decEmSt_enc Dst.notPred 0x5C x .axchg w

theorem RoundTrip.acas (x : EmCas) : Statement (.acas x) :=
  ofRule rfl rfl fun _ => decEmCas_enc 0x5D x .acas

theorem RoundTrip.aor (x : EmSt) : Statement (.aor x) :=
  ofRule rfl rfl fun w => decEmSt_enc Dst.notPred 0x5E x .aor w

theorem RoundTrip.ardrs (x : EmSt) : Statement (.ardrs x) :=
  ofRule rfl rfl fun w => decEmSt_enc Dst.notPred 0x5F x .ardrs w

theorem RoundTrip.semadd (x : EiSem) : Statement (.semadd x) :=
  ofRule rfl rfl fun _ => decEiSem_enc 0x60 x .semadd

theorem RoundTrip.semwait (x : EiSemw) : Statement (.semwait x) :=
  ofRule rfl rfl fun _ => decEiSemw_enc 0x61 x .semwait

theorem RoundTrip.semset (x : EiSem) : Statement (.semset x) :=
  ofRule rfl rfl fun _ => decEiSem_enc 0x62 x .semset

theorem RoundTrip.semrd (x : EiSemr) : Statement (.semrd x) :=
  ofRule rfl rfl fun w => decEiSemr_enc 0x63 x .semrd w

theorem RoundTrip.barriv (x : EiBar) : Statement (.barriv x) :=
  ofRule rfl rfl fun _ => decEiBar_enc 0x64 x .barriv

theorem RoundTrip.barwt (x : EiBarw) : Statement (.barwt x) :=
  ofRule rfl rfl fun _ => decEiBarw_enc 0x65 x .barwt

theorem RoundTrip.baraw (x : EiBarw) : Statement (.baraw x) :=
  ofRule rfl rfl fun _ => decEiBarw_enc 0x66 x .baraw

theorem RoundTrip.spawn (x : EaDa) : Statement (.spawn x) :=
  ofRule rfl rfl fun w => decEaDa_enc 0x68 x .spawn w

theorem RoundTrip.fres (x : EaAb) : Statement (.fres x) :=
  ofRule rfl rfl fun _ => decEaAb_enc 0x69 x .fres

theorem RoundTrip.fjoin (x : EaA) : Statement (.fjoin x) :=
  ofRule rfl rfl fun _ => decEaA_enc 0x6A x .fjoin

theorem RoundTrip.fpoll (x : EaDap) : Statement (.fpoll x) :=
  ofRule rfl rfl fun w => decEaDap_enc 0x6B x .fpoll w

theorem RoundTrip.trigger (x : EaT) : Statement (.trigger x) :=
  ofRule rfl rfl fun _ => decEaT_enc 0x6C x .trigger

theorem RoundTrip.seal (x : EaDp) : Statement (.seal x) :=
  ofRule rfl rfl fun w => decEaDp_enc 0x6D x .seal w

theorem RoundTrip.fill (x : EaDap) : Statement (.fill x) :=
  ofRule rfl rfl fun w => decFill_enc 0x6E x .fill w

theorem RoundTrip.pkrd (x : EaDp) : Statement (.pkrd x) :=
  ofRule rfl rfl fun w => decEaDp_enc 0x6F x .pkrd w

theorem RoundTrip.openName (x : EaDap) : Statement (.openName x) :=
  ofRule rfl rfl fun w => decEaDap_enc 0x70 x .openName w

theorem RoundTrip.close (x : EaA) : Statement (.close x) :=
  ofRule rfl rfl fun _ => decEaA_enc 0x71 x .close

theorem RoundTrip.bind (x : EaAb) : Statement (.bind x) :=
  ofRule rfl rfl fun _ => decEaAb_enc 0x72 x .bind

theorem RoundTrip.unbind (x : EaA) : Statement (.unbind x) :=
  ofRule rfl rfl fun _ => decEaA_enc 0x73 x .unbind

theorem RoundTrip.rebind (x : EaAb) : Statement (.rebind x) :=
  ofRule rfl rfl fun _ => decEaAb_enc 0x74 x .rebind

theorem RoundTrip.query (x : EaQuery) : Statement (.query x) :=
  ofRule rfl rfl fun w => decEaQuery_enc 0x75 x .query w

theorem RoundTrip.mkobj (x : EaDap) : Statement (.mkobj x) :=
  ofRule rfl rfl fun w => decEaDap_enc 0x76 x .mkobj w

theorem RoundTrip.issue (x : ExIssue) : Statement (.issue x) := by
  obtain ⟨t, e, j, a⟩ := x
  cases a <;> exact ofRule (t := t) rfl rfl fun _ => decIssue_enc 0x78 _ .issue

theorem RoundTrip.issuev (x : ExIssuev) : Statement (.issuev x) := by
  obtain ⟨t, e, j, a⟩ := x
  cases a <;> exact ofRule (t := t) rfl rfl fun _ => decIssuev_enc 0x79 _ .issuev

theorem RoundTrip.sets (x : EaA) : Statement (.sets x) :=
  ofRule rfl rfl fun _ => decSets_enc 0x7A x .sets

theorem RoundTrip.trap (x : EiTrap) : Statement (.trap x) :=
  ofRule rfl rfl fun w => decEiTrap_enc 0x7B x .trap w

theorem RoundTrip.tret (x : EaT) : Statement (.tret x) :=
  ofRule rfl rfl fun _ => decEaT_enc 0x7C x .tret

theorem RoundTrip.done (x : EaT) : Statement (.done x) :=
  ofRule rfl rfl fun _ => decEaT_enc 0x7D x .done

theorem RoundTrip.evcnt (x : EiEvcnt) : Statement (.evcnt x) :=
  ofRule rfl rfl fun _ => decEiEvcnt_enc 0x7E x .evcnt

theorem RoundTrip.vadd (x : VCmd) : Statement (.vadd x) :=
  ofVector (mk := .vadd) (op := 0x01) rfl rfl (fun w => w) fun w e => by unfold decodeVec; rw [e]; rfl

theorem RoundTrip.vsub (x : VCmd) : Statement (.vsub x) :=
  ofVector (mk := .vsub) (op := 0x02) rfl rfl (fun w => w) fun w e => by unfold decodeVec; rw [e]; rfl

theorem RoundTrip.vmul (x : VCmd) : Statement (.vmul x) :=
  ofVector (mk := .vmul) (op := 0x03) rfl rfl (fun w => w) fun w e => by unfold decodeVec; rw [e]; rfl

theorem RoundTrip.vfma (x : VCmd) : Statement (.vfma x) :=
  ofVector (mk := .vfma) (op := 0x04) rfl rfl (fun w => w) fun w e => by unfold decodeVec; rw [e]; rfl

theorem RoundTrip.vmin (x : VCmd) : Statement (.vmin x) :=
  ofVector (mk := .vmin) (op := 0x05) rfl rfl (fun w => w) fun w e => by unfold decodeVec; rw [e]; rfl

theorem RoundTrip.vmax (x : VCmd) : Statement (.vmax x) :=
  ofVector (mk := .vmax) (op := 0x06) rfl rfl (fun w => w) fun w e => by unfold decodeVec; rw [e]; rfl

theorem RoundTrip.vabs (x : VCmd) : Statement (.vabs x) :=
  ofVector (mk := .vabs) (op := 0x07) rfl rfl (fun w => w) fun w e => by unfold decodeVec; rw [e]; rfl

theorem RoundTrip.vneg (x : VCmd) : Statement (.vneg x) :=
  ofVector (mk := .vneg) (op := 0x08) rfl rfl (fun w => w) fun w e => by unfold decodeVec; rw [e]; rfl

theorem RoundTrip.vscl (x : VCmd) : Statement (.vscl x) :=
  ofVector (mk := .vscl) (op := 0x09) rfl rfl (fun w => w) fun w e => by unfold decodeVec; rw [e]; rfl

theorem RoundTrip.vadds (x : VCmd) : Statement (.vadds x) :=
  ofVector (mk := .vadds) (op := 0x0A) rfl rfl (fun w => w) fun w e => by unfold decodeVec; rw [e]; rfl

theorem RoundTrip.vexp2 (x : VCmd) : Statement (.vexp2 x) :=
  ofVector (mk := .vexp2) (op := 0x10) rfl rfl (fun w => w) fun w e => by unfold decodeVec; rw [e]; rfl

theorem RoundTrip.vlog2 (x : VCmd) : Statement (.vlog2 x) :=
  ofVector (mk := .vlog2) (op := 0x11) rfl rfl (fun w => w) fun w e => by unfold decodeVec; rw [e]; rfl

theorem RoundTrip.vrcp (x : VCmd) : Statement (.vrcp x) :=
  ofVector (mk := .vrcp) (op := 0x12) rfl rfl (fun w => w) fun w e => by unfold decodeVec; rw [e]; rfl

theorem RoundTrip.vrsq (x : VCmd) : Statement (.vrsq x) :=
  ofVector (mk := .vrsq) (op := 0x13) rfl rfl (fun w => w) fun w e => by unfold decodeVec; rw [e]; rfl

theorem RoundTrip.vtanh (x : VCmd) : Statement (.vtanh x) :=
  ofVector (mk := .vtanh) (op := 0x14) rfl rfl (fun w => w) fun w e => by unfold decodeVec; rw [e]; rfl

theorem RoundTrip.vsigm (x : VCmd) : Statement (.vsigm x) :=
  ofVector (mk := .vsigm) (op := 0x15) rfl rfl (fun w => w) fun w e => by unfold decodeVec; rw [e]; rfl

theorem RoundTrip.vcvt (x : VCmd) : Statement (.vcvt x) :=
  ofVector (mk := .vcvt) (op := 0x20) rfl rfl (fun w => w) fun w e => by unfold decodeVec; rw [e]; rfl

theorem RoundTrip.vqdp8 (x : VCmd) : Statement (.vqdp8 x) :=
  ofVector (mk := .vqdp8) (op := 0x21) rfl rfl (fun w => w) fun w e => by unfold decodeVec; rw [e]; rfl

theorem RoundTrip.vspc (x : VCmd) : Statement (.vspc x) :=
  ofVector (mk := .vspc) (op := 0x22) rfl rfl (fun w => w) fun w e => by unfold decodeVec; rw [e]; rfl

theorem RoundTrip.vspx (x : VCmd) : Statement (.vspx x) :=
  ofVector (mk := .vspx) (op := 0x23) rfl rfl (fun w => w) fun w e => by unfold decodeVec; rw [e]; rfl

theorem RoundTrip.vrsum (x : VCmd) : Statement (.vrsum x) :=
  ofVector (mk := .vrsum) (op := 0x30) rfl rfl (fun w => w) fun w e => by unfold decodeVec; rw [e]; rfl

theorem RoundTrip.vrmax (x : VCmd) : Statement (.vrmax x) :=
  ofVector (mk := .vrmax) (op := 0x31) rfl rfl (fun w => w) fun w e => by unfold decodeVec; rw [e]; rfl

theorem RoundTrip.vramax (x : VCmd) : Statement (.vramax x) :=
  ofVector (mk := .vramax) (op := 0x32) rfl rfl (fun w => w) fun w e => by unfold decodeVec; rw [e]; rfl

theorem RoundTrip.vrdrn (x : VCmd) : Statement (.vrdrn x) :=
  ofVector (mk := .vrdrn) (op := 0x33) rfl rfl (fun w => w) fun w e => by unfold decodeVec; rw [e]; rfl

theorem RoundTrip.vcmp (x : VCmd) : Statement (.vcmp x) :=
  ofVector (mk := .vcmp) (op := 0x40) rfl rfl (fun w => w) fun w e => by unfold decodeVec; rw [e]; rfl

theorem RoundTrip.vsel (x : VCmd) : Statement (.vsel x) :=
  ofVector (mk := .vsel) (op := 0x41) rfl rfl (fun w => w) fun w e => by unfold decodeVec; rw [e]; rfl

theorem RoundTrip.vperm (x : VCmd) : Statement (.vperm x) :=
  ofVector (mk := .vperm) (op := 0x42) rfl rfl (fun w => w) fun w e => by unfold decodeVec; rw [e]; rfl

theorem RoundTrip.vbcast (x : VCmd) : Statement (.vbcast x) :=
  ofVector (mk := .vbcast) (op := 0x43) rfl rfl (fun w => w) fun w e => by unfold decodeVec; rw [e]; rfl

theorem RoundTrip.vzip (x : VCmd) : Statement (.vzip x) :=
  ofVector (mk := .vzip) (op := 0x44) rfl rfl (fun w => w) fun w e => by unfold decodeVec; rw [e]; rfl

theorem RoundTrip.vuzp (x : VCmd) : Statement (.vuzp x) :=
  ofVector (mk := .vuzp) (op := 0x45) rfl rfl (fun w => w) fun w e => by unfold decodeVec; rw [e]; rfl

theorem RoundTrip.vtop2 (x : VCmd) : Statement (.vtop2 x) :=
  ofVector (mk := .vtop2) (op := 0x50) rfl rfl (fun w => w) fun w e => by unfold decodeVec; rw [e]; rfl

theorem RoundTrip.vtags (x : VCmd) : Statement (.vtags x) :=
  ofVector (mk := .vtags) (op := 0x51) rfl rfl (fun w => w) fun w e => by unfold decodeVec; rw [e]; rfl

theorem RoundTrip.vheap (x : VCmd) : Statement (.vheap x) :=
  ofVector (mk := .vheap) (op := 0x52) rfl rfl (fun w => w) fun w e => by unfold decodeVec; rw [e]; rfl

theorem RoundTrip.vhdrn (x : VCmd) : Statement (.vhdrn x) :=
  ofVector (mk := .vhdrn) (op := 0x53) rfl rfl (fun w => w) fun w e => by unfold decodeVec; rw [e]; rfl

theorem RoundTrip.vcnt (x : VCmd) : Statement (.vcnt x) :=
  ofVector (mk := .vcnt) (op := 0x60) rfl rfl (fun w => w) fun w e => by unfold decodeVec; rw [e]; rfl

theorem RoundTrip.vscan (x : VCmd) : Statement (.vscan x) :=
  ofVector (mk := .vscan) (op := 0x61) rfl rfl (fun w => w) fun w e => by unfold decodeVec; rw [e]; rfl

theorem RoundTrip.mxld (x : MxLd) : Statement (.mxld x) :=
  ofMatrix (op := 0x01) (fun f => decMxLd f .mxld) rfl (fun w e => by unfold decodeMat; rw [e]; rfl) fun _ => decMxLd_enc x .mxld

theorem RoundTrip.mxldt (x : MxLd) : Statement (.mxldt x) :=
  ofMatrix (op := 0x02) (fun f => decMxLd f .mxldt) rfl (fun w e => by unfold decodeMat; rw [e]; rfl) fun _ => decMxLd_enc x .mxldt

theorem RoundTrip.mxevict (x : MxBank) : Statement (.mxevict x) :=
  ofMatrix (op := 0x03) (fun f => decMxBank f .mxevict) rfl (fun w e => by unfold decodeMat; rw [e]; rfl) fun _ => decMxBank_enc x .mxevict

theorem RoundTrip.mxres (x : MxBank) : Statement (.mxres x) :=
  ofMatrix (op := 0x04) (fun f => decMxBank f .mxres) rfl (fun w e => by unfold decodeMat; rw [e]; rfl) fun _ => decMxBank_enc x .mxres

theorem RoundTrip.mxmul (x : MxMul) : Statement (.mxmul x) :=
  ofMatrix (op := 0x10) (fun f => decMxMul f .mxmul) rfl (fun w e => by unfold decodeMat; rw [e]; rfl) fun w => decMxMul_enc x .mxmul w

theorem RoundTrip.mxmult (x : MxMult) : Statement (.mxmult x) :=
  ofMatrix (op := 0x11) (fun f => decMxMult f .mxmult) rfl (fun w e => by unfold decodeMat; rw [e]; rfl) fun w => decMxMult_enc x .mxmult w

theorem RoundTrip.mxmuls (x : MxMuls) : Statement (.mxmuls x) :=
  ofMatrix (op := 0x12) (fun f => decMxMuls f .mxmuls) rfl (fun w e => by unfold decodeMat; rw [e]; rfl) fun w => decMxMuls_enc x .mxmuls w

theorem RoundTrip.mxgrad (x : MxGrad) : Statement (.mxgrad x) :=
  ofMatrix (op := 0x20) (fun f => decMxGrad f .mxgrad) rfl (fun w e => by unfold decodeMat; rw [e]; rfl) fun _ => decMxGrad_enc x .mxgrad

theorem RoundTrip.mxgdrn (x : MxGdrn) : Statement (.mxgdrn x) :=
  ofMatrix (op := 0x21) (fun f => decMxGdrn f .mxgdrn) rfl (fun w e => by unfold decodeMat; rw [e]; rfl) fun _ => decMxGdrn_enc x .mxgdrn

theorem RoundTrip.mxdrn (x : MxDrn) : Statement (.mxdrn x) :=
  ofMatrix (op := 0x30) (fun f => decMxDrn f .mxdrn) rfl (fun w e => by unfold decodeMat; rw [e]; rfl) fun _ => decMxDrn_enc x .mxdrn

theorem RoundTrip.mxzero (x : MxZero) : Statement (.mxzero x) :=
  ofMatrix (op := 0x31) (fun f => decMxZero f .mxzero) rfl (fun w e => by unfold decodeMat; rw [e]; rfl) fun _ => decMxZero_enc x .mxzero

theorem RoundTrip.swalk (x : SWalk) : Statement (.swalk x) := by
  refine ofCommand rfl fun _ => ?_
  show decodeStream (WFields.word _ _) = _
  unfold decodeStream
  dsimp only
  rw [(wFieldsOf_word _ _).1, (wFieldsOf_word _ _).2]
  simp

theorem RoundTrip.sbnd (x : SBnd) : Statement (.sbnd x) := by
  refine ofCommand rfl fun _ => ?_
  show decodeStream (WFields.word _ _) = _
  unfold decodeStream
  dsimp only
  rw [(wFieldsOf_word _ _).1, (wFieldsOf_word _ _).2]
  simp [decEng_enc]

theorem RoundTrip.sstop (x : SStop) : Statement (.sstop x) := by
  refine ofCommand rfl fun _ => ?_
  show decodeStream (WFields.word _ _) = _
  unfold decodeStream
  dsimp only
  rw [(wFieldsOf_word _ _).1, (wFieldsOf_word _ _).2]
  simp

theorem RoundTrip.cpy (x : Cpy) : Statement (.cpy x) := by
  refine ofCommand rfl fun _ => ?_
  show decodeCopy (YFields.word _ _) = _
  unfold decodeCopy
  dsimp only
  rw [(yFieldsOf_word _ _).1, (yFieldsOf_word _ _).2]
  simp [YFields.cpySem]

theorem RoundTrip.cpyg (x : Cpy) : Statement (.cpyg x) := by
  refine ofCommand rfl fun _ => ?_
  show decodeCopy (YFields.word _ _) = _
  unfold decodeCopy
  dsimp only
  rw [(yFieldsOf_word _ _).1, (yFieldsOf_word _ _).2]
  simp [YFields.cpySem]

theorem RoundTrip.cpys (x : CpyS) : Statement (.cpys x) := by
  refine ofCommand rfl fun _ => ?_
  show decodeCopy (YFields.word _ _) = _
  unfold decodeCopy
  dsimp only
  rw [(yFieldsOf_word _ _).1, (yFieldsOf_word _ _).2]
  simp [YFields.cpySem]

theorem RoundTrip.cpyw (x : CpyW) : Statement (.cpyw x) := by
  refine ofCommand rfl fun _ => ?_
  show decodeCopy (YFields.word _ _) = _
  unfold decodeCopy
  dsimp only
  rw [(yFieldsOf_word _ _).1, (yFieldsOf_word _ _).2]
  simp [YFields.cpySem]

theorem RoundTrip.cpyf (x : CpyF) : Statement (.cpyf x) := by
  refine ofCommand rfl fun _ => ?_
  show decodeCopy (YFields.word _ _) = _
  unfold decodeCopy
  dsimp only
  rw [(yFieldsOf_word _ _).1, (yFieldsOf_word _ _).2]
  simp [YFields.cpySem]

theorem RoundTrip.cpyb (x : CpyB) : Statement (.cpyb x) := by
  refine ofCommand rfl fun _ => ?_
  show decodeCopy (YFields.word _ _) = _
  unfold decodeCopy
  dsimp only
  rw [(yFieldsOf_word _ _).1, (yFieldsOf_word _ _).2]
  simp [YFields.cpySem, show encBit false = 0 from rfl]

theorem RoundTrip.cpyx (x : CpyF) : Statement (.cpyx x) := by
  refine ofCommand rfl fun _ => ?_
  show decodeCopy (YFields.word _ _) = _
  unfold decodeCopy
  dsimp only
  rw [(yFieldsOf_word _ _).1, (yFieldsOf_word _ _).2]
  simp [YFields.cpySem]

theorem RoundTrip.tokenArrival (task edge : Nat) : Statement (.tokenArrival task edge) := ofEvent rfl

theorem RoundTrip.pullRequestArrival (l : At) (e : Fin 16) (c : Fin 4) : Statement (.pullRequestArrival l e c) := ofEvent rfl

theorem RoundTrip.loadReply (id : Nat) : Statement (.loadReply id) := ofEvent rfl

theorem RoundTrip.atomicReply (id : Nat) : Statement (.atomicReply id) := ofEvent rfl

theorem RoundTrip.storeCompletion (id : Nat) : Statement (.storeCompletion id) := ofEvent rfl

theorem RoundTrip.directoryReply (id : Nat) : Statement (.directoryReply id) := ofEvent rfl

theorem RoundTrip.fillGrant (id : Nat) : Statement (.fillGrant id) := ofEvent rfl

theorem RoundTrip.pkrdReply (id : Nat) : Statement (.pkrdReply id) := ofEvent rfl

theorem RoundTrip.fpollReply (id : Nat) : Statement (.fpollReply id) := ofEvent rfl

theorem RoundTrip.semwaitAnswer (id : Nat) : Statement (.semwaitAnswer id) := ofEvent rfl

theorem RoundTrip.barrierAnswer (id : Nat) : Statement (.barrierAnswer id) := ofEvent rfl

theorem RoundTrip.implicitSeal (l : At) : Statement (.implicitSeal l) := ofEvent rfl

theorem RoundTrip.commandBegin (l : At) (n : Node) : Statement (.commandBegin l n) := ofEvent rfl

theorem RoundTrip.vectorTokenStep (l : At) : Statement (.vectorTokenStep l) := ofEvent rfl

theorem RoundTrip.matrixRowStep (l : At) : Statement (.matrixRowStep l) := ofEvent rfl

theorem RoundTrip.matrixLoadToken (l : At) : Statement (.matrixLoadToken l) := ofEvent rfl

theorem RoundTrip.streamToken (l : At) (n : Node) : Statement (.streamToken l n) := ofEvent rfl

theorem RoundTrip.copyUnit (l : At) : Statement (.copyUnit l) := ofEvent rfl

theorem RoundTrip.copyCompletion (l : At) : Statement (.copyCompletion l) := ofEvent rfl

theorem RoundTrip.boxComplete (l : At) : Statement (.boxComplete l) := ofEvent rfl

theorem RoundTrip.ridgelineTransfer (task edge : Nat) : Statement (.ridgelineTransfer task edge) := ofEvent rfl

theorem RoundTrip.translationFill (tile : Nat) (i : Nat) : Statement (.translationFill tile i) := ofEvent rfl

theorem RoundTrip.pageWalk (region : Nat) (i : Nat) : Statement (.pageWalk region i) := ofEvent rfl

theorem RoundTrip.pageFault (task : Nat) : Statement (.pageFault task) := ofEvent rfl

theorem RoundTrip.vaultPortServe (id : Nat) : Statement (.vaultPortServe id) := ofEvent rfl

theorem RoundTrip.pageMoveDone (obj page : Nat) : Statement (.pageMoveDone obj page) := ofEvent rfl

theorem RoundTrip.atomicEngineServe (region : Nat) (arrivals : List Nat) : Statement (.atomicEngineServe region arrivals) := ofEvent rfl

theorem RoundTrip.hotLineFetch (region line : Nat) : Statement (.hotLineFetch region line) := ofEvent rfl

theorem RoundTrip.syncUnitServe (region : Nat) (arrivals : List Nat) : Statement (.syncUnitServe region arrivals) := ofEvent rfl

theorem RoundTrip.directoryServe (id : Nat) : Statement (.directoryServe id) := ofEvent rfl

theorem RoundTrip.objectFreed (obj : Nat) : Statement (.objectFreed obj) := ofEvent rfl

theorem RoundTrip.dispatchDecision : Statement .dispatchDecision := ofEvent rfl

theorem RoundTrip.imageFetchDone (region : Nat) (slot : Fin 4) : Statement (.imageFetchDone region slot) := ofEvent rfl

theorem RoundTrip.tileArm (l : At) : Statement (.tileArm l) := ofEvent rfl

theorem RoundTrip.start (l : At) (n : Node) : Statement (.start l n) := ofEvent rfl

theorem RoundTrip.flush (l : At) (n : Node) : Statement (.flush l n) := ofEvent rfl

theorem RoundTrip.crst (l : At) (n : Node) : Statement (.crst l n) := ofEvent rfl

theorem RoundTrip.ctxsw (l : At) (n : Node) : Statement (.ctxsw l n) := ofEvent rfl

theorem RoundTrip.recfg (l : At) (kid : Nat) : Statement (.recfg l kid) := ofEvent rfl

theorem RoundTrip.haltc (l : At) (n : Node) : Statement (.haltc l n) := ofEvent rfl

theorem RoundTrip.drain (l : At) : Statement (.drain l) := ofEvent rfl

theorem RoundTrip.kset (l : At) (e : Fin 16) (c : Fin 4) : Statement (.kset l e c) := ofEvent rfl

theorem RoundTrip.cairnSeed (task : Nat) : Statement (.cairnSeed task) := ofEvent rfl

theorem RoundTrip.cairnPassage (l : At) (n : Node) : Statement (.cairnPassage l n) := ofEvent rfl

theorem RoundTrip.cutComplete (task : Nat) : Statement (.cutComplete task) := ofEvent rfl

theorem RoundTrip.commit (task : Nat) : Statement (.commit task) := ofEvent rfl

theorem RoundTrip.shortfall (task : Nat) : Statement (.shortfall task) := ofEvent rfl

theorem RoundTrip.groupFault (task : Nat) : Statement (.groupFault task) := ofEvent rfl

theorem RoundTrip.groupHalt (task : Nat) : Statement (.groupHalt task) := ofEvent rfl

theorem RoundTrip.drainComplete (task : Nat) : Statement (.drainComplete task) := ofEvent rfl

theorem RoundTrip.fold (task : Nat) (four : Bool) : Statement (.fold task four) := ofEvent rfl

theorem RoundTrip.foldSwap (task host : Nat) : Statement (.foldSwap task host) := ofEvent rfl

theorem RoundTrip.unfold (task : Nat) : Statement (.unfold task) := ofEvent rfl

theorem RoundTrip.watchdogExpiry (task ticks : Nat) : Statement (.watchdogExpiry task ticks) := ofEvent rfl

theorem RoundTrip.remoteRetrainExpiry (task : Nat) : Statement (.remoteRetrainExpiry task) := ofEvent rfl

theorem RoundTrip.storeBuild (l : At) : Statement (.storeBuild l) := ofEvent rfl

theorem RoundTrip.storeUnderrun (l : At) : Statement (.storeUnderrun l) := ofEvent rfl

theorem RoundTrip.arbitrationPeriod (x : PowerSample) : Statement (.arbitrationPeriod x) := ofEvent rfl

theorem RoundTrip.powerAlarm (x : Alarms) : Statement (.powerAlarm x) := ofEvent rfl

theorem RoundTrip.emergencyExit : Statement .emergencyExit := ofEvent rfl

theorem RoundTrip.railRemoved : Statement .railRemoved := ofEvent rfl

theorem RoundTrip.powerOn : Statement .powerOn := ofEvent rfl

theorem RoundTrip.partReset : Statement .partReset := ofEvent rfl

theorem RoundTrip.shockEvent (g : Nat) : Statement (.shockEvent g) := ofEvent rfl

theorem RoundTrip.launch (h : HostAt) (bytes : List Byte) : Statement (.launch h bytes) := ofEvent rfl

theorem RoundTrip.qdescWrite (h : HostAt) (q : Fin 16) (w : Dword) : Statement (.qdescWrite h q w) := ofEvent rfl

theorem RoundTrip.accadd (h : HostAt) (w : Dword) : Statement (.accadd h w) := ofEvent rfl

theorem RoundTrip.hostSemWrite (h : HostAt) (m : Fin 64) (w : Dword) : Statement (.hostSemWrite h m w) := ofEvent rfl

theorem RoundTrip.fqidxWrite (h : HostAt) (w : Dword) : Statement (.fqidxWrite h w) := ofEvent rfl

theorem RoundTrip.resume (h : HostAt) (task : Word) : Statement (.resume h task) := ofEvent rfl

theorem RoundTrip.requeue (h : HostAt) (task : Word) : Statement (.requeue h task) := ofEvent rfl

theorem RoundTrip.abort (h : HostAt) (task : Word) : Statement (.abort h task) := ofEvent rfl

theorem RoundTrip.halt (h : HostAt) (task : Word) : Statement (.halt h task) := ofEvent rfl

theorem RoundTrip.preempt (h : HostAt) (task : Word) : Statement (.preempt h task) := ofEvent rfl

theorem RoundTrip.pgin (h : HostAt) (w : Dword) : Statement (.pgin h w) := ofEvent rfl

theorem RoundTrip.pgout (h : HostAt) (w : Dword) : Statement (.pgout h w) := ofEvent rfl

theorem RoundTrip.pgunpin (h : HostAt) (w : Dword) : Statement (.pgunpin h w) := ofEvent rfl

theorem RoundTrip.pgread (h : HostAt) (w : Dword) : Statement (.pgread h w) := ofEvent rfl

theorem RoundTrip.hostOpen (h : HostAt) (w : Dword) : Statement (.hostOpen h w) := ofEvent rfl

theorem RoundTrip.hostClose (h : HostAt) (w : Dword) : Statement (.hostClose h w) := ofEvent rfl

theorem RoundTrip.hostBind (h : HostAt) (w : Dword) : Statement (.hostBind h w) := ofEvent rfl

theorem RoundTrip.hostUnbind (h : HostAt) (w : Dword) : Statement (.hostUnbind h w) := ofEvent rfl

theorem RoundTrip.hostRebind (h : HostAt) (w : Dword) : Statement (.hostRebind h w) := ofEvent rfl

theorem RoundTrip.hostQuery (h : HostAt) (w : Dword) : Statement (.hostQuery h w) := ofEvent rfl

theorem RoundTrip.hostMkobj (h : HostAt) (w : Dword) : Statement (.hostMkobj h w) := ofEvent rfl

theorem RoundTrip.direntRead (h : HostAt) : Statement (.direntRead h) := ofEvent rfl

theorem RoundTrip.kernelRegister (h : HostAt) (kid : Nat) : Statement (.kernelRegister h kid) := ofEvent rfl

theorem RoundTrip.kernelUnload (h : HostAt) (kid : Nat) : Statement (.kernelUnload h kid) := ofEvent rfl

theorem RoundTrip.apertureRead (h : HostAt) (off : Nat) : Statement (.apertureRead h off) := ofEvent rfl

theorem RoundTrip.apertureWrite (h : HostAt) (off : Nat) (w : Word) : Statement (.apertureWrite h off w) := ofEvent rfl

theorem RoundTrip.defineContext (ctx : Nat) (fn : Fin 64) : Statement (.defineContext ctx fn) := ofEvent rfl

theorem RoundTrip.undefineContext (ctx : Nat) : Statement (.undefineContext ctx) := ofEvent rfl

theorem RoundTrip.resetFunction (fn : Fin 64) : Statement (.resetFunction fn) := ofEvent rfl

theorem RoundTrip.initiateFunctionLevelReset (fn : Fin 64) : Statement (.initiateFunctionLevelReset fn) := ofEvent rfl

theorem RoundTrip.springCheck : Statement .springCheck := ofEvent rfl

theorem RoundTrip.springCheckDone (fenced : Dword) (router : Bool) : Statement (.springCheckDone fenced router) := ofEvent rfl

theorem RoundTrip.attest : Statement .attest := ofEvent rfl

theorem RoundTrip.keyload (w : Dword) : Statement (.keyload w) := ofEvent rfl

theorem RoundTrip.keydrop (w : Dword) : Statement (.keydrop w) := ofEvent rfl

theorem RoundTrip.span : Statement .span := ofEvent rfl

theorem RoundTrip.recover : Statement .recover := ofEvent rfl

theorem RoundTrip.bootst : Statement .bootst := ofEvent rfl

theorem RoundTrip.linkRetrain (n : Fin 8) : Statement (.linkRetrain n) := ofEvent rfl

theorem RoundTrip.linkReset (n : Fin 8) : Statement (.linkReset n) := ofEvent rfl

theorem RoundTrip.park (w : Dword) : Statement (.park w) := ofEvent rfl

theorem RoundTrip.unpark (w : Dword) : Statement (.unpark w) := ofEvent rfl

theorem RoundTrip.pwcauseClear (w : Dword) : Statement (.pwcauseClear w) := ofEvent rfl

theorem RoundTrip.registerWrite (via : Via) (r : HostReg) (w : Dword) : Statement (.registerWrite via r w) := ofEvent rfl

theorem RoundTrip.linkTrainingDone (n : Fin 8) (lanes : Fin 9) : Statement (.linkTrainingDone n lanes) := ofEvent rfl

theorem RoundTrip.laneLost (n : Fin 8) : Statement (.laneLost n) := ofEvent rfl

theorem RoundTrip.linkRetrainTimeout (n : Fin 8) : Statement (.linkRetrainTimeout n) := ofEvent rfl

theorem RoundTrip.flitReceive (n : Fin 8) (bytes : List Byte) : Statement (.flitReceive n bytes) := ofEvent rfl

theorem RoundTrip.flitApply (src : Fin 16) : Statement (.flitApply src) := ofEvent rfl

theorem RoundTrip.clockProbe (src : Fin 16) : Statement (.clockProbe src) := ofEvent rfl

theorem RoundTrip.probeAnswer (src : Fin 16) : Statement (.probeAnswer src) := ofEvent rfl

theorem RoundTrip.writeApplied (src : Fin 16) : Statement (.writeApplied src) := ofEvent rfl

theorem RoundTrip.functionLevelResetComplete (fn : Fin 64) : Statement (.functionLevelResetComplete fn) := ofEvent rfl

end Sys2Proof.Laws
end

