-- ==== Sys2Proof/Laws/Tokens.lean ====
section
/-! SUPPORT. The memories after the shared operations on tokens and firings: each keeps the canonical form, and all but a
token that lands in a buffer leave the memories as they are. -/

namespace Sys2Proof.Machine

/-- States with the same memories are canonical together. -/
theorem Safety.memOk_of_same {s t : State} (a : t.mem = s.mem) (b : t.hostMem = s.hostMem) (c : t.mbBuf = s.mbBuf)
    (w : Safety.memOk s) : Safety.memOk t := by
  obtain ⟨x, y, z⟩ := w
  exact ⟨a ▸ x, b ▸ y, c ▸ z⟩

/-- A fold of operations that keep the canonical form keeps it. -/
theorem Safety.memOk_foldl {α : Type} (f : State → α → State) (h : ∀ s x, Safety.memOk s → Safety.memOk (f s x)) :
    ∀ (l : List α) {s : State}, Safety.memOk s → Safety.memOk (l.foldl f s) := by
  intro l
  induction l with
  | nil => intro _ w; exact w
  | cons x r ih => intro s w; exact ih (h s x w)

theorem State.countAt_memories (s : State) (task : Nat) (vt : Fin 16) (src n : Nat) :
    (s.countAt task vt src n).mem = s.mem ∧ (s.countAt task vt src n).hostMem = s.hostMem
      ∧ (s.countAt task vt src n).mbBuf = s.mbBuf := by
  unfold State.countAt
  split
  · exact ⟨rfl, rfl, rfl⟩
  · exact ⟨rfl, rfl, rfl⟩

theorem State.cairnArrives_memories (s : State) (task : Nat) (g : Group) (n : Nat) (p : Ep) :
    (s.cairnArrives task g n p).mem = s.mem ∧ (s.cairnArrives task g n p).hostMem = s.hostMem
      ∧ (s.cairnArrives task g n p).mbBuf = s.mbBuf := by
  unfold State.cairnArrives
  split
  · exact ⟨rfl, rfl, rfl⟩
  · exact ⟨rfl, rfl, rfl⟩

theorem State.recordArrival_memories (s : State) (task : Nat) (g : Group) (n : Nat) (p : Ep) (t : Wtok) :
    (s.recordArrival task g n p t).mem = s.mem ∧ (s.recordArrival task g n p t).hostMem = s.hostMem
      ∧ (s.recordArrival task g n p t).mbBuf = s.mbBuf := by
  unfold State.recordArrival
  dsimp only
  repeat' split
  all_goals exact ⟨rfl, rfl, rfl⟩

theorem State.pushBuf_memOk {s : State} (task : Nat) (g : Group) (vt : Fin 16) (b : Nat) (t : Wtok) (w : Safety.memOk s) :
    Safety.memOk (s.pushBuf task g vt b t) :=
  ⟨Memory.wf_writesBy _ _ _ w.1, w.2.1, w.2.2⟩

theorem State.land_memOk {s : State} (task : Nat) (g : Group) (n : Nat) (p : Ep) (t : Wtok) (w : Safety.memOk s) :
    Safety.memOk (s.land task g n p t) := by
  have c := State.cairnArrives_memories s task g n p
  have r := State.recordArrival_memories s task g n p t
  have wc := Safety.memOk_of_same c.1 c.2.1 c.2.2 w
  have wr := Safety.memOk_of_same r.1 r.2.1 r.2.2 w
  unfold State.land
  split
  · split
    · exact wc
    · exact wr
  · split
    · split
      · exact wc
      · exact wc
    · exact State.pushBuf_memOk _ _ _ _ _ wr
  · split
    · exact wc
    · exact wr
  · exact w

theorem State.sendEdge_memOk {s : State} (task : Nat) (x : Edge × Nat) (t : Wtok) (w : Safety.memOk s) :
    Safety.memOk (s.sendEdge task x t) := by
  unfold State.sendEdge
  dsimp only
  split
  · split
    · exact w
    · exact State.land_memOk _ _ _ _ _ w
  · exact w

theorem State.send_memOk {s : State} (task : Nat) (p : Ep) (t : Wtok) (w : Safety.memOk s) : Safety.memOk (s.send task p t) :=
  Safety.memOk_foldl _ (fun _ _ v => State.sendEdge_memOk _ _ _ v) _ w

theorem State.drainOut_memOk {s : State} (task : Nat) (vt e : Fin 16) (o : Fin 4) (w : Safety.memOk s) :
    Safety.memOk (s.drainOut task vt e o) :=
  Safety.memOk_foldl _ (fun _ _ v => State.send_memOk _ _ _ v) _ w

theorem State.emit_memOk {s : State} (task : Nat) (vt e : Fin 16) (o : Fin 4) (t : Tok) (w : Safety.memOk s) :
    Safety.memOk (s.emit task vt e o t) :=
  State.drainOut_memOk _ _ _ _ w

theorem State.emitReply_memOk {s : State} (task : Nat) (vt e : Fin 16) (o : Fin 4) (id : Nat) (t : Tok) (w : Safety.memOk s) :
    Safety.memOk (s.emitReply task vt e o id t) :=
  State.drainOut_memOk _ _ _ _ w

/-- A result written to a register or a predicate, or to nothing, leaves the memories as they are. -/
theorem State.result_memories (s : State) (h : Here) (el : Elem) (dst : Dst) (tok : Tok) (val : Word) (pd : Fin 8) (pw : Bool)
    (n : ∀ o, dst ≠ .o o) :
    (s.result h el dst tok val pd pw).mem = s.mem ∧ (s.result h el dst tok val pd pw).hostMem = s.hostMem
      ∧ (s.result h el dst tok val pd pw).mbBuf = s.mbBuf := by
  cases dst with
  | o c => exact absurd rfl (n c)
  | d _ => exact ⟨rfl, rfl, rfl⟩
  | pred => exact ⟨rfl, rfl, rfl⟩
  | none => exact ⟨rfl, rfl, rfl⟩

theorem State.out_memOk {s : State} (h : Here) (o : Fin 4) (t : Tok) (w : Safety.memOk s) : Safety.memOk (s.out h o t) := by
  refine State.emit_memOk _ _ _ _ _ ?_
  unfold State.takePull
  split
  · exact w
  · exact w

theorem State.result_memOk {s : State} (h : Here) (el : Elem) (dst : Dst) (tok : Tok) (val : Word) (pd : Fin 8) (pw : Bool)
    (w : Safety.memOk s) : Safety.memOk (s.result h el dst tok val pd pw) := by
  cases dst with
  | o c => exact State.out_memOk h c tok (s := s.putHere h (el.pw pw pd val tok.deps)) w
  | d _ => exact w
  | pred => exact w
  | none => exact w

/-- A debit leaves the memories as they are. -/
theorem State.paid_memories (s : State) (x : Inst) (d : Nat) :
    (s.paid x d).mem = s.mem ∧ (s.paid x d).hostMem = s.hostMem ∧ (s.paid x d).mbBuf = s.mbBuf := by
  unfold State.paid
  obtain ⟨a, b, c⟩ := State.countAt_memories
    (((s.mark.setInst s.cur.task s.cur.vt x).progress s.cur.task).countAt s.cur.task s.cur.vt 0x03 1) s.cur.task s.cur.vt 0x04 d
  obtain ⟨a', b', c'⟩ := State.countAt_memories ((s.mark.setInst s.cur.task s.cur.vt x).progress s.cur.task) s.cur.task s.cur.vt 0x03 1
  exact ⟨a.trans a', b.trans b', c.trans c'⟩

/-- A charge whose firing keeps the canonical form keeps it. -/
theorem State.charge_memOk {s : State} (h : Here) (opc d : Nat) (k : State → State)
    (f : ∀ t, Safety.memOk t → Safety.memOk (k t)) (w : Safety.memOk s) : Safety.memOk (s.charge h opc d k) := by
  unfold State.charge
  split
  · exact w
  · exact w
  · next x _ =>
    obtain ⟨a, b, c⟩ := State.paid_memories s x d
    exact f _ (Safety.memOk_of_same a b c w)

end Sys2Proof.Machine
end

