-- ==== Sys2Proof/Laws/Storage.lean ====
section
/-! SUPPORT. The memories after writes to objects: the canonical form stays, and the host memory and the mailbox buffer are as
before. -/

namespace Sys2Proof.Machine

/-- A message for every other die only waits to be sent. -/
theorem State.tellAll_eq (s : State) (m : Msg) : ∃ l, s.tellAll m = { s with tx := l } := by
  suffices h : ∀ (d : List Nat) (s : State), ∃ l, d.foldl (fun s d => s.sendTo d m) s = { s with tx := l } from h _ s
  intro d
  induction d with
  | nil => exact fun s => ⟨s.tx, rfl⟩
  | cons d r ih =>
    intro s
    obtain ⟨l, h⟩ := ih (s.sendTo d m)
    exact ⟨l, h⟩

/-- What the other dies are told as a page starts to move only waits to be sent. -/
theorem State.beginMove_eq (s : State) (obj page : Nat) (p : Page) :
    ∃ l q, s.beginMove obj page p = ({ s with tx := l }, q) := by
  obtain ⟨l, h⟩ := State.tellAll_eq s (.still obj page .move)
  exact ⟨l, _, Prod.ext h rfl⟩

/-- A write to storage changes memory, objects and what waits to be sent, and nothing else. -/
theorem State.revive_eq (s : State) (obj : Nat) (o : Obj) (byte : Nat) :
    ∃ m b l, (s.revive obj o byte).1 = { s with mem := m, objs := b, tx := l } ∧ (s.mem.wf = true → m.wf = true) := by
  have keeps (p : Page) (w : s.mem.wf = true) : ((if p.dead then
      (match frameAddr p.loc p.frame with
       | some a => s.mem.clear a 65536
       | none => s.mem)
      else s.mem) : Memory).wf = true := by
    split
    · split
      · exact Memory.wf_clear _ _ w
      · exact w
    · exact w
  unfold State.revive
  dsimp only
  split
  · obtain ⟨l, h⟩ := State.tellAll_eq _ (.flags obj (byte / 65536) false true)
    rw [h]
    exact ⟨_, _, l, rfl, keeps (o.page byte)⟩
  · exact ⟨_, _, s.tx, rfl, keeps (o.page byte)⟩

/-- Cells written to an object change memory, objects and what waits to be sent, and nothing else. -/
theorem State.writeCells_eq (s : State) (die obj : Nat) (l : List (Nat × Byte)) :
    ∃ m b k, s.writeCells die obj l = { s with mem := m, objs := b, tx := k } ∧ (s.mem.wf = true → m.wf = true) := by
  unfold State.writeCells
  split
  · next first _ _ o _ =>
    split
    · exact ⟨_, _, _, rfl, id⟩
    · obtain ⟨m, b, k, h, w⟩ := State.revive_eq s obj o first
      have starts (c : Bool) (p : Page) : ∃ l q,
          (if c then State.beginMove { s with mem := m, objs := b, tx := k } obj (first / 65536) p
            else ({ s with mem := m, objs := b, tx := k }, p)) = ({ s with mem := m, objs := b, tx := l }, q) := by
        cases c
        · exact ⟨k, p, rfl⟩
        · exact State.beginMove_eq _ obj _ p
      dsimp only
      rw [h]
      obtain ⟨l, q, e⟩ := starts (((((s.revive obj o first).2.page first).streak die).moving.isSome
        && ((s.revive obj o first).2.page first).moving.isNone)) (((s.revive obj o first).2.page first).streak die)
      rw [e]
      refine ⟨_, _, l, rfl, fun v => Memory.wf_foldl _ (fun m x v => ?_) _ (w v)⟩
      split
      · exact Memory.wf_write _ _ v
      · exact v
  · exact ⟨_, _, _, rfl, id⟩

theorem State.writeCells_memOk {s : State} (die obj : Nat) (l : List (Nat × Byte)) (w : Safety.memOk s) :
    Safety.memOk (s.writeCells die obj l) := by
  obtain ⟨m, b, k, h, v⟩ := State.writeCells_eq s die obj l
  rw [h]
  exact ⟨v w.1, w.2.1, w.2.2⟩

theorem State.writeObj_memOk {s : State} (die obj byte : Nat) (bs : List Byte) (w : Safety.memOk s) :
    Safety.memOk (s.writeObj die obj byte bs) :=
  State.writeCells_memOk die obj _ w

theorem State.startFill_memories (s : State) (tile : Nat) (t : Trans) :
    (s.startFill tile t).mem = s.mem ∧ (s.startFill tile t).hostMem = s.hostMem ∧ (s.startFill tile t).mbBuf = s.mbBuf := by
  unfold State.startFill
  dsimp only
  split
  · exact ⟨rfl, rfl, rfl⟩
  · split
    · exact ⟨rfl, rfl, rfl⟩
    · exact ⟨rfl, rfl, rfl⟩

end Sys2Proof.Machine
end

