-- ==== Sys2Proof/Tests/Slice0.lean ====
section
/-! SUPPORT. Tests on fixed values: words written out from the encoding tables, ill-formed terms that the checks refuse, worked
examples of spec/, and for each statement with hypotheses a state and operands that meet them (`met_…`). -/

namespace Sys2Proof.Tests

open Sys2Proof.Machine

set_option Elab.async false

/-! ### Small states -/

/-- The state after reset with one group resident on one tile and one element armed. -/
def base : State := State.reset.withFetchWord 32 0xFFFFFFFF

/-- What stands at the locus. -/
def H (s : State) : Here := s.here.getD ⟨{}, {}, 0, {}⟩

def onEl (s : State) (f : Elem → Elem) : State := s.updElem 0 0 0 f
def reg (s : State) (n : Fin 8) (v : Word) : State := onEl s fun e => { e with d := vset e.d n v }
def chan (s : State) (c : Fin 4) (l : List Tok) : State := onEl s fun e => { e with inq := vset e.inq c { toks := l } }
def onGroup (s : State) (f : Group → Group) : State := s.updGroup 0 f
def onInst (s : State) (f : Inst → Inst) : State := s.updInst 0 0 f

/-- The outcome is a next state of which p holds. -/
def gives (o : Out) (p : State → Bool) : Bool :=
  match o with
  | .next t => p t
  | _ => false

/-- Register n of the element after the instruction. -/
def leaves (i : Instr) (s : State) (n : Fin 8) (v : Word) : Bool := gives (exec i s) fun t => vget (t.elem 0 0 0).d n == v

def fires (s : State) (t : Trig) (d : Nat) : Bool :=
  s.here == some (H s) && s.gate (H s) t && decide (d + 256 ≤ (H s).x.meter) && decide ((H s).x.debited + d ≤ (H s).x.built)

theorem fires_iff {s : State} {t : Trig} {d : Nat} : Safety.Fires s (H s) t d ↔ fires s t d = true := by
  simp only [fires, Bool.and_eq_true, beq_iff_eq, decide_eq_true_eq]
  exact ⟨fun h => ⟨⟨⟨h.here, h.gate⟩, h.meter⟩, h.built⟩, fun h => ⟨h.1.1.1, h.1.1.2, h.1.2, h.2⟩⟩

/-- The checks of an access pass with this place, descriptor, class and freshness. -/
def accepts (s : State) (t : Trig) (dst : Dst) (sa : SrcA) (w a : Bool) (d : Nat) (l : Loc) (desc cls : Nat) (fresh : Bool) : Bool :=
  s.here == some (H s) && s.emReady (H s) t dst && (H s).el.okA sa && decide ((H s).x.portUse < 2)
    && s.check (s.globalTile (H s).g (H s).x) (H s).g.ctx s.cur.task ((H s).el.readA sa).val w a == .ok l desc cls fresh
    && s.pageOpen l.obj l.byte && decide (Safety.Covered (H s).x d)

theorem accepts_iff {s : State} {t : Trig} {dst : Dst} {sa : SrcA} {w a : Bool} {d : Nat} {l : Loc} {desc cls : Nat} {fresh : Bool} :
    Safety.Accepts s (H s) t dst sa w a d l desc cls fresh ↔ accepts s t dst sa w a d l desc cls fresh = true := by
  simp only [accepts, Bool.and_eq_true, beq_iff_eq, decide_eq_true_eq]
  exact ⟨fun h => ⟨⟨⟨⟨⟨⟨h.here, h.ready⟩, h.okA⟩, h.unused⟩, h.checks⟩, h.present⟩, h.covered⟩,
    fun h => ⟨h.1.1.1.1.1.1, h.1.1.1.1.1.2, h.1.1.1.1.2, h.1.1.1.2, h.1.1.2, h.1.2, h.2⟩⟩

/-! ### Elements -/

/-- d1 = 7, d2 = -1, channel 1 holds a token of dimension 1 with tag 2, channel 2 a zero. -/
def arith : State := chan (chan (reg (reg base 1 7) 2 0xFFFFFFFF) 1 [⟨0x1250, 7, []⟩]) 2 [⟨0, 0, []⟩]

theorem met_IntegerInstructions :
    (∀ r ∈ Claims.intRows, Safety.Fires arith (H arith) (.tok 1) r.2.1) ∧ Safety.Fires arith (H arith) .alw 1
    ∧ Safety.readable (H arith) (.deq 1) (.d 2) ∧ Safety.takes arith (H arith) (.d 3) ∧ Safety.takes arith (H arith) (.o 2) := by
  simp only [fires_iff]
  decide +kernel

theorem met_NegAndAbs : Safety.Fires arith (H arith) .alw 1 ∧ (H arith).el.okA (.d 2) = true ∧ Safety.takes arith (H arith) (.o 2) := by
  simp only [fires_iff]
  decide +kernel

theorem met_ImmediateInstructions : Safety.Fires arith (H arith) .alw 1 ∧ (H arith).el.okA (.d 1) = true
    ∧ Safety.takes arith (H arith) (.d 3) := by
  simp only [fires_iff]
  decide +kernel

theorem met_PredicateInstructions : Safety.Fires arith (H arith) .alw 1 := fires_iff.2 (by decide +kernel)

theorem met_FloatInstructions : Safety.Fires arith (H arith) .alw 3 ∧ Safety.readable (H arith) (.d 1) (.d 2)
    ∧ Safety.takes arith (H arith) (.d 3) ∧ (H arith).el.pending 3 = false := by
  simp only [fires_iff]
  decide +kernel

theorem met_Constants : Safety.Fires arith (H arith) .alw 1 ∧ Safety.takes arith (H arith) (.d 3)
    ∧ arith.dstRoom (H arith) (.o 2) = true := by
  simp only [fires_iff]
  decide +kernel

theorem met_SelectAndTag : Safety.Fires arith (H arith) .alw 1 ∧ Safety.readable (H arith) (.d 1) (.deq 2)
    ∧ Safety.takes arith (H arith) (.d 3) := by
  simp only [fires_iff]
  decide +kernel

/-- STEER, MERGE and CARRY: a data token at A; a zero or an end of dimension at B; A empty. -/
theorem met_SteerMergeCarry : Safety.Fires arith (H arith) .alw 1 ∧ Safety.readable (H arith) (.deq 1) (.deq 2)
    ∧ Safety.takes arith (H arith) (.d 3) ∧ ((H arith).el.readB (.deq 2)).val = 0 ∧ ((H arith).el.readB (.d 2)).val ≠ 0
    ∧ (H arith).el.readyA (.deq 1) = true ∧ (H arith).el.okA (.deq 1) = true ∧ (H (chan arith 1 [])).el.readyA (.deq 1) = false
    ∧ (H arith).el.readyB (.deq 2) = true ∧ (H arith).el.okB (.deq 2) = true ∧ (H arith).el.phase arith.cur.slot = false
    ∧ (H (onEl arith fun e => { e with carry := 1 })).el.phase arith.cur.slot = true := by
  simp only [fires_iff]
  decide +kernel

/-- A control token stands at channel 0. -/
def passing : State := chan arith 0 [⟨0x8A00, 0, []⟩]

theorem met_CountUp : Safety.Fires arith (H arith) .alw 1 ∧ Safety.readable (H arith) (.d 1) (.deq 2) ∧ Safety.readable (H arith) (.d 1) (.deq 1)
    ∧ Safety.takes arith (H arith) (.d 3) ∧ Side.ctl ((H arith).el.readA (.d 1)).side = false
    ∧ ((H arith).el.readB (.deq 2)).val.toInt ≤ 0 ∧ 0 < ((H arith).el.readB (.deq 1)).val.toInt
    ∧ Safety.Fires passing (H passing) .alw 1 ∧ Safety.readable (H passing) (.deq 0) (.deq 1) ∧ Safety.takes passing (H passing) (.d 3)
    ∧ Side.ctl ((H passing).el.readA (.deq 0)).side = true := by
  simp only [fires_iff]
  decide +kernel

theorem met_TokensAndEnds : Safety.Fires arith (H arith) .alw 1 ∧ ((H arith).el.head 1).isSome = true
    ∧ arith.pullHere (H arith) 0 = true ∧ (vget (H arith).el.inq 0).toks.length + arith.pullOut (H arith) 0 < 4
    ∧ (H arith).el.okA (.d 1) = true := by
  simp only [fires_iff]
  decide +kernel

/-- An element with a handler in slot 32, out of trap state, and in it. -/
def handled (esw : Word) (slot : Fin 40) : State :=
  let s := onEl base fun e => { e with p := 0xA5, esw := esw, slots := vset e.slots 32 0x03E00000 }
  { s with cur := { s.cur with slot := slot } }

theorem met_Traps : Safety.Fires (handled 0 9) (H (handled 0 9)) .alw 1 ∧ (H (handled 0 9)).el.inTrap = false
    ∧ (H (handled 0 9)).el.noHandler = false ∧ Safety.Fires (handled 0x85081001 32) (H (handled 0x85081001 32)) .alw 1
    ∧ (H (handled 0x85081001 32)).el.inTrap = true ∧ (H (handled 0x85081001 32)).el.esw &&& 0x000700FE = 0
    ∧ (H (handled 0x85081003 32)).el.esw &&& 0x000700FE ≠ 0 := by
  simp only [fires_iff]
  decide +kernel

/-- A pad of 100 bytes; d1 names a byte of it, d2 the second tile. -/
def padded : State :=
  onGroup (reg (reg base 1 0xC6) 2 0x12000010) fun g => { g with img := { g.img with pad := 100, gw := 4, gh := 2 } }

theorem met_PadAccesses : padded.here = some (H padded) ∧ Safety.Covered (H padded).x 2 ∧ padded.emReady (H padded) .alw (.d 3) = true
    ∧ (H padded).el.okA (.d 1) = true ∧ (H padded).el.okA (.d 2) = true ∧ (H padded).el.okB (.d 2) = true
    ∧ (∀ r ∈ [(1 : Fin 8), 2], ∀ z ∈ [Size.byte, .half, .word], padded.padFree (H padded) (vget (H padded).el.d r) (Size.bytes z) = true)
    ∧ padded.padHeld 0 0 (.elem 0) = false := by decide +kernel

/-- Object 1 with a descriptor: FP32, 16 elements of which the first page holds bytes. -/
def withObj (s : State) (desc : Nat) (fresh : Bool) : State :=
  { s with objs := s.objs.put 1 { desc := desc, st := if fresh then .fresh 0 else .shared, pages := [(0, {})] } }
def descPlain : Nat := 16 * 2 ^ 64 + 2 ^ 32
def descPresence : Nat := descPlain + 2 ^ 15 + 6
def descInt : Nat := descPlain + 6

/-- d1 points to element 0 of object 1 through handle 1. -/
def tensor (desc : Nat) (fresh : Bool) : State := reg (withObj base desc fresh) 2 3

def place : Loc := { obj := 1, byte := 0, handle := 1 }

theorem met_TensorLoads :
    Safety.Accepts (tensor descPlain true) (H (tensor descPlain true)) .alw (.d 3) (.d 1) false false (classDrops 0) place descPlain 0 true
    ∧ Safety.Accepts (tensor descPresence false) (H (tensor descPresence false)) .alw (.d 3) (.d 1) true false (classDrops 0) place
        descPresence 0 false
    ∧ descFe descPresence = true ∧ (H (tensor descPlain true)).el.okB (.d 2) = true := by
  simp only [accepts_iff]
  decide +kernel

theorem met_FullEmptyActsAsPlain :
    Safety.Accepts (tensor descInt false) (H (tensor descInt false)) .alw (.d 3) (.d 1) false false (classDrops 0) place descInt 0 false
    ∧ Safety.Accepts (tensor descInt false) (H (tensor descInt false)) .alw (.d 3) (.d 1) true false (classDrops 0) place descInt 0 false
    ∧ descFe descInt = false ∧ (H (tensor descInt false)).el.okB (.d 2) = true
    ∧ (tensor descInt false).hasLine 0 (H (tensor descInt false)).g 0 (.elem 0) (some (1, 0)) = true := by
  simp only [accepts_iff]
  decide +kernel

theorem met_TensorStores :
    Safety.Accepts (tensor descPresence false) (H (tensor descPresence false)) .alw .none (.d 1) true false (classDrops 0) place
        descPresence 0 false
    ∧ (H (tensor descPresence false)).el.okB (.d 2) = true ∧ descFe descPresence = true
    ∧ ((H (tensor descPresence false)).el.readB (.d 2)).val ≠ 0
    ∧ (tensor descPresence false).hasLine 0 (H (tensor descPresence false)).g 0 (.elem 0) (some (1, 0)) = true
    ∧ (tensor descPresence false).hasLine 0 (H (tensor descPresence false)).g 0 (.elem 0) none = true := by
  simp only [accepts_iff]
  decide +kernel

theorem met_Atomics :
    Safety.Accepts (tensor descInt false) (H (tensor descInt false)) .alw .none (.d 1) true true 16 place descInt 0 false
    ∧ Safety.Accepts (tensor descInt true) (H (tensor descInt true)) .alw (.d 3) (.d 1) true true 16 place descInt 0 true
    ∧ (H (tensor descInt false)).el.okB (.d 2) = true
    ∧ (tensor descInt false).hasLine 0 (H (tensor descInt false)).g 0 (.elem 0) none = true := by
  simp only [accepts_iff]
  decide +kernel

/-- Element 0 has fired request 7, which has not performed. -/
def fencing : State :=
  let s := onEl padded fun e => { e with past := [7] }
  { s with accs := s.accs.put 7 { task := some 0, node := .elem 0, req := .padRd 0 0 4 }, nextId := 8 }

theorem met_FencePref : fencing.here = some (H fencing) ∧ Safety.Covered (H fencing).x 1 ∧ fencing.emReady (H fencing) .alw (.o 2) = true
    ∧ fencing.emReady (H fencing) .alw .none = true ∧ (H fencing).el.okA (.d 1) = true ∧ (H fencing).x.portUse < 2
    ∧ 7 ∈ (H fencing).el.past ∧ (fencing.accs.get? 7).isSome = true := by decide +kernel

/-- The fence waits for request 7. -/
theorem test_fence : gives (exec (.fence ⟨.alw, .o 2, .device, .acq⟩) fencing) (fun t => (t.accs.get? 8).any fun a =>
    a.deps.contains 7 && (t.elem 0 0 0).portBlock == [8]) = true := by decide +kernel

/-- A participant of all barriers of the group, whose kernel owns the semaphores below 32. -/
def syncing : State :=
  onGroup (onEl (reg base 2 7) fun e => { e with part := 0xFFFF, ac := vset e.ac 2 9 }) fun g =>
    { g with img := { g.img with owns := 0xFFFFFFFF } }

theorem met_SemaphoresAndBarriers : syncing.here = some (H syncing) ∧ Safety.Covered (H syncing).x 4
    ∧ syncing.gate (H syncing) .alw = true ∧ (H syncing).el.okA (.d 2) = true ∧ (H syncing).g.img.owns.getLsbD 5 = true
    ∧ (H syncing).g.img.owns.getLsbD 40 = false ∧ syncing.hasLine 0 (H syncing).g 0 (.elem 0) none = true
    ∧ syncing.dstRoom (H syncing) (.o 1) = true ∧ Safety.takes syncing (H syncing) (.d 3) ∧ (H syncing).el.barWait = none
    ∧ (H syncing).el.part.getLsbD 15 = true := by decide +kernel

/-- A context with one kernel, one open queue, and a valid task record, a descriptor and two bindings in the pad. -/
def spawning : State :=
  let s := onGroup base fun g => { g with img := { g.img with pad := 256 } }
  let c : Ctx := { state := .resident, acct := 1024, kernels := [(0, { bytes := leBytes 64 (2 ^ 88 + 2 ^ 92) })],
                   queues := vset (Vector.replicate 16 {}) 0 { st := 1, alim := 10 }, names := 10, objs := 10 }
  let s : State := { reg (reg (reg s 1 0) 2 1) 4 0x40 with ctxs := s.ctxs.put 0 c }
  { s with mem := (s.mem.writes 0 (leBytes 64 (5 * 2 ^ 256 + 2 ^ 48 + 2 ^ 44))).writes 0x40 (leBytes 32 descPlain)
            |>.writes 0x80 (leBytes 4 5 ++ leBytes 4 1 ++ leBytes 4 6 ++ leBytes 4 0) }

/-- The record of `spawning`. -/
def spawned : TaskRec := (TaskRec.parse (leNat (spawning.padArg (H spawning) 0 64 64))).getD default

/-- A future at object 1, and a continuation that waits for two places. -/
def future : State := onEl (reg (withObj base descInt false) 2 0x77) fun e => { e with cont := some ⟨3, 1, 2⟩ }

/-- `spawning` with OWNF of its record the future at element 0 of object 1, through handle 1. -/
def owning : State :=
  { spawning with
    mem := spawning.mem.writes 56 (leBytes 4 0x100000)
    objs := spawning.objs.put 1 { desc := descInt, st := .shared, pages := [(0, { dead := false })] } }
def ownRec : TaskRec := (TaskRec.parse (leNat (owning.padArg (H owning) 0 64 64))).getD default

theorem ok_of {ε α : Type} {x : Except ε α} {a : α} (h : x.toOption = some a) : x = .ok a := by
  cases x <;> simp_all [Except.toOption]

theorem met_Futures :
    (future.refGroup 0 0 ((H future).el.readA (.d 1)).val = .ok place)
    ∧ (spawning.here = some (H spawning) ∧ spawning.gate (H spawning) .alw = true ∧ (H spawning).el.okA (.d 1) = true
      ∧ Safety.takes spawning (H spawning) (.d 3) ∧ Safety.Covered (H spawning).x 32
      ∧ spawning.argFree (H spawning) ((H spawning).el.readA (.d 1)).val 64 64 = true
      ∧ spawning.hasLine 0 (H spawning).g 0 (.elem 0) none = true
      ∧ TaskRec.parse (leNat (spawning.padArg (H spawning) ((H spawning).el.readA (.d 1)).val 64 64)) = some spawned
      ∧ spawning.spawnFault (H spawning) (some spawned) = none ∧ spawning.recordCode 0 spawned = 0 ∧ spawned.ownf = 0)
    ∧ future.here = some (H future) ∧ future.gate (H future) .alw = true ∧ (H future).el.okA (.d 1) = true
      ∧ (H future).el.okB (.d 2) = true ∧ Safety.Covered (H future).x 24 ∧ (H future).el.cont = some ⟨3, 1, 2⟩
      ∧ future.hasLine 0 (H future).g 0 (.elem 0) none = true ∧ Safety.takes future (H future) (.o 2) :=
  ⟨ok_of (by decide +kernel), by decide +kernel⟩

/-- A SPAWN whose record names a future that nothing has resolved, and one that names none. -/
theorem met_Futures_own : Claims.ownFree spawning (H spawning) spawned ∧ Claims.ownFree owning (H owning) ownRec
    ∧ ownRec.ownf = 0x100000 ∧ TaskRec.parse (leNat (owning.padArg (H owning) ((H owning).el.readA (.d 1)).val 64 64)) = some ownRec
    ∧ owning.spawnFault (H owning) (some ownRec) = none ∧ owning.recordCode 0 ownRec = 0 ∧ owning.gate (H owning) .alw = true :=
  ⟨.inl (by decide +kernel), .inr ⟨place, { dead := false }, ok_of (by decide +kernel), by decide +kernel⟩, by decide +kernel⟩

/-- The SPAWN answers OWNF. -/
theorem test_spawn_owns : gives (exec (.spawn ⟨.alw, .d 3, .d 1⟩) owning) (fun t => vget (t.elem 0 0 0).d 3 == 0x100000
    && (t.queue 0 0).count == 1) = true := by decide +kernel

theorem met_DirectoryInstructions :
    spawning.here = some (H spawning) ∧ (H spawning).x.dirUse = false ∧ spawning.gate (H spawning) .alw = true
    ∧ Safety.Covered (H spawning).x 48 ∧ Safety.takes spawning (H spawning) (.d 3) ∧ spawning.closes = []
    ∧ spawning.argFree (H spawning) ((H spawning).el.readA (.d 4)).val 32 32 = true
    ∧ nameId ((H spawning).el.readA (.d 2)).val ≠ 0
    ∧ descInvalid (leNat (spawning.padArg (H spawning) ((H spawning).el.readA (.d 4)).val 32 32)) = false
    ∧ spawning.keyLoaded 0 (leNat (spawning.padArg (H spawning) ((H spawning).el.readA (.d 4)).val 32 32)) = true
    ∧ (spawning.ownHandle 0 0 1).isSome = true ∧ (spawning.objOf 0 0 1).isSome = true
    ∧ ((H spawning).el.readA (.d 2)).val.toNat = 1 ∧ ((H spawning).el.readB (.d 2)).val.toNat ≤ 12 := by decide +kernel

/-- `spawning` with the address of its bindings in d4 and their number in k1. -/
def binding : State := onEl (reg spawning 4 0x80) fun e => { e with k := vset e.k 1 2 }

theorem met_Bindings :
    bindEntry (binding.ownHandle 0 0) ((H binding).el.readA (.d 2)).val ((H binding).el.readB (.d 2)).val false = .ok ⟨1, some 1⟩
    ∧ bindList (binding.ownHandle 0 0) (binding.padArg (H binding) ((H binding).el.readA (.d 4)).val 8 16) 2 =
        .ok [⟨5, some 1⟩, ⟨6, none⟩]
    ∧ binding.here = some (H binding) ∧ (H binding).x.dirUse = false ∧ binding.hasLine 0 (H binding).g 0 (.elem 0) none = true
    ∧ binding.gate (H binding) .alw = true ∧ Safety.readable (H binding) (.d 4) (.k 1) ∧ Safety.Covered (H binding).x (32 + 16 * 2)
    ∧ binding.bindsFull 0 [⟨1, some 1⟩] = false ∧ ((H binding).el.readA (.d 2)).val.toNat = 1
    ∧ binding.argFree (H binding) ((H binding).el.readA (.d 4)).val 8 (8 * 2) = true
    ∧ binding.bindsFull 0 [⟨1, none⟩] = false ∧ ((H binding).el.readB (.k 1)).val.toNat = 2
    ∧ sameName [⟨5, some 1⟩, ⟨6, none⟩] = false ∧ binding.bindsFull 0 [⟨5, some 1⟩, ⟨6, none⟩] = false :=
  ⟨ok_of (by decide +kernel), ok_of (by decide +kernel), by decide +kernel⟩

theorem met_CutInstructions :
    spawning.here = some (H spawning) ∧ spawning.gate (H spawning) .alw = true ∧ Safety.takes spawning (H spawning) (.d 3)
    ∧ (H spawning).g.cut = none ∧ (H spawning).g.sealUse = false ∧ Safety.Covered (H spawning).x (64 + (H spawning).x.uncovered)
    ∧ (H spawning).el.okA (.d 1) = true ∧ (spawning.ctxs.get? 0).isSome = true := by decide +kernel

/-! ### Engines -/

/-- A tile whose engine ports lead to eight buffers, with the locus at an engine. -/
def engineAt (n : Node) (bufs : List (Option BufDesc)) : State :=
  let s := onInst base fun x => { x with cfg := { x.cfg with bufs := bufs, ports := (List.range 40).map fun i => some (i % 8) } }
  { onGroup s fun g => { g with img := { g.img with pad := 4096 } } with cur := ⟨0, 0, n, 0⟩ }
def wide (fmt k : Nat) : Option BufDesc := some ⟨256 * k, 4, true, fmt⟩
def narrow (fmt k : Nat) : Option BufDesc := some ⟨256 * k, 16, false, fmt⟩
def put (s : State) (b : Nat) (l : List Wtok) : State := onInst s fun x => { x with bufs := x.bufs.put b l }
/-- The engine at the locus. -/
def Y (s : State) (n : Node) : At2 := (s.engine n).getD ⟨0, 0, {}, {}⟩

/-- Four times the lanes 4, -3, 2, 1 in FP32, lane 0 first. -/
def lanes16 : Line := BitVec.ofNat 512 (0x3F80000040000000C040000040800000 * (2 ^ 384 + 2 ^ 256 + 2 ^ 128 + 1))

/-- A vector command in progress on two wide FP32 buffers and their result buffer. -/
def vecRun (op : BitVec 8) (c : VCmd) : State :=
  let s := engineAt .vector [wide 0 0, wide 0 1, wide 0 2, narrow 10 3, narrow 6 4, narrow 0 5, wide 7 6, wide 9 7]
  let s := put (put s 0 [⟨0x1250, lanes16, []⟩]) 1 [⟨0x2000, lanes16, []⟩]
  onInst s fun x => { x with vec := { x.vec with run := some { cmd := { word := encV op c, a := 4, b := 0x40000000 }, left := 2 } } }
def vAdd : VCmd := ⟨0, 1, 2, 0, 0, false, 4⟩
def vRunOf (s : State) : VRun := (Y s .vector).x.vec.run.getD {}
def vGoOf (s : State) (op : Nat) (c : VCmd) : VGo :=
  match s.vecPlan (Y s .vector) (vRunOf s) op c with
  | .go g => g
  | _ => { takes := [], drops := 0, outs := [], vec := {} }

theorem met_Commands : Safety.Fires arith (H arith) .alw 1 ∧ (H arith).x.portFree .vector = true ∧ (H arith).el.okA (.d 1) = true
    ∧ Safety.readable (H arith) (.d 1) (.d 2) ∧ (H arith).el.okB (.d 2) = true ∧ (H arith).el.pending 3 = false
    ∧ (Y (vecRun 1 vAdd) .vector).x.vecTakes { word := encV 1 vAdd } = true
    ∧ (Y (vecRun 1 vAdd) .vector).x.vec.run.isSome = true ∧ (Y (vecRun 1 vAdd) .vector).g.stop = none
    ∧ ∀ n ∈ engineNodes, (Y (vecRun 1 vAdd) .vector).x.cmdTakes n { word := 0xFF000000 } = false := by
  simp only [fires_iff]
  decide +kernel

theorem met_VectorStep :
    let s := vecRun 1 vAdd
    let y := Y s .vector
    let r := vRunOf s
    let go := vGoOf s 1 vAdd
    s.engine .vector = some y ∧ y.x.vec.run = some r ∧ r.cmd.word = encV 1 vAdd ∧ r.left ≠ 0
      ∧ (y.x.slotToks .vector 0).head?.all (fun t => !Side.ctl t.side) = true
      ∧ (y.x.slotToks .vector 1).head?.all (fun t => !Side.ctl t.side) = true
      ∧ y.x.recs = y.x.mat.banks ∧ r.paid = false ∧ s.halfWidth y.g r.cmd = false ∧ outsTo go.outs vAdd.bb.val = 0
      ∧ s.vecPlan y r 1 vAdd = .go go ∧ y.x.slotRoom .vector 2 (outsTo go.outs 2) = true ∧ outsTo go.outs 1 = 0
      ∧ go.pad = none ∧ Safety.Covered y.x go.drops := by decide +kernel

/-- The same command with WID 01: its first step takes the debit, its second the token. -/
def vHalf : VCmd := ⟨0, 1, 2, 0, 0, true, 4⟩
def halfPaid : State := onInst (vecRun 1 vHalf) fun x => { x with vec := { x.vec with run := x.vec.run.map fun r => { r with paid := true } } }

theorem met_VectorStep_half :
    ((vecRun 1 vHalf).halfWidth (Y (vecRun 1 vHalf) .vector).g (vRunOf (vecRun 1 vHalf)).cmd = true ∧ (vRunOf (vecRun 1 vHalf)).paid = false
      ∧ (vRunOf (vecRun 1 vHalf)).cmd.word = encV 1 vHalf ∧ Safety.Covered (Y (vecRun 1 vHalf) .vector).x (vGoOf (vecRun 1 vHalf) 1 vHalf).drops)
    ∧ (vRunOf halfPaid).paid = true ∧ halfPaid.vecPlan (Y halfPaid .vector) (vRunOf halfPaid) 1 vHalf = .go (vGoOf halfPaid 1 vHalf) := by
  decide +kernel

theorem test_half_width :
    gives (exec (.vadd vHalf) (vecRun 1 vHalf)) (fun t => (t.inst 0 0).meter + 20 == ((vecRun 1 vHalf).inst 0 0).meter
      && ((t.inst 0 0).buf 2).length == 0) = true
    ∧ gives (exec (.vadd vHalf) halfPaid) (fun t => (t.inst 0 0).meter == (halfPaid.inst 0 0).meter && ((t.inst 0 0).buf 2).length == 1) = true := by
  decide +kernel

theorem met_VectorLanes :
    let y := Y (vecRun 1 vAdd) .vector
    headData (y.x.slotToks .vector vAdd.ba.val) = [⟨0x1250, lanes16, []⟩]
      ∧ headData (y.x.slotToks .vector vAdd.bb.val) = [⟨0x2000, lanes16, []⟩] := by decide +kernel

/-- A bank of 8 rows and 4 columns of BF16 ones. -/
def bankOnes : Bank :=
  { km1 := 7, nm1 := 3, st := .resident, wfmt := 0, gen := 3
    w := (List.range 256).filterMap fun i => if i % 64 < 4 then some (i, 0x3F803F80) else none }
/-- A matrix compute command in progress with bank 1, or one that waits, or a load in progress. -/
def matAt (b : Bank) (f : Mat → Mat) : State :=
  let s := engineAt .matrix [wide 1 0, wide 1 1, wide 1 2, narrow 10 3, narrow 6 4, wide 0 5, wide 0 6, wide 0 7]
  let s := put (put s 0 [⟨0x130, lanes16, []⟩, ⟨0, lanes16, []⟩]) 1 [⟨0, lanes16, []⟩, ⟨0, lanes16, []⟩]
  onInst s fun x => { x with mat := f { x.mat with banks := vset x.mat.banks 1 b } }
def mulCmd : Cmd := { word := (encMxMul ⟨true, 1, 0, ⟨0, 0⟩, 3⟩).word 0x10 }
def multCmd : Cmd := { word := (encMxMult ⟨true, 0, ⟨0, 0⟩, 3, false⟩).word 0x11, a := 1 }
def matRun (c : Cmd) (b : Bank) : State := matAt b fun m => { m with comp := some { cmd := c, begun := true } }

theorem met_MatrixMultiply :
    (let s := matRun mulCmd bankOnes
     let y := Y s .matrix
     s.engine .matrix = some y ∧ s.cur.slot = 0 ∧ y.x.mat.status = [] ∧ y.x.mat.comp = some { cmd := mulCmd, begun := true }
      ∧ mOp mulCmd ∈ [0x10, 0x11, 0x12] ∧ mSrc mulCmd ≠ 6
      ∧ y.x.slotToks .matrix (mSrc mulCmd) = [⟨0x130, lanes16, []⟩, ⟨0, lanes16, []⟩] ∧ (mF mulCmd).tag = 0 ∧ mBank mulCmd = 1
      ∧ rowOf (y.x.mat.pieces mulCmd) [⟨0x130, lanes16, []⟩, ⟨0, lanes16, []⟩] = .row [⟨0x130, lanes16, []⟩]
      ∧ hitFault mulCmd (y.x.mat.bank 1) (y.x.mat.pieces mulCmd) = none ∧ Safety.Covered y.x (y.x.mat.bank 1).rowDrops)
    ∧ let y := Y (matRun multCmd bankOnes) .matrix
      (mF multCmd).tag ≠ 0 ∧ y.x.mat.fate ((mF multCmd).msk = 1) 0x130 = .hit 1
        ∧ hitFault multCmd (y.x.mat.bank 1) (y.x.mat.pieces multCmd) = none := by decide +kernel

/-- A multiply whose operand stands in the pad: AF 0, row pitch 0. -/
def padMulCmd : Cmd := { word := (encMxMul ⟨true, 1, 6, ⟨0, 0⟩, 3⟩).word 0x10, a := 64 }

theorem met_MatrixMultiply_pad :
    let s := matRun padMulCmd bankOnes
    let y := Y s .matrix
    s.engine .matrix = some y ∧ s.cur.slot = 0 ∧ y.x.mat.status = [] ∧ y.x.mat.comp = some { cmd := padMulCmd, begun := true }
      ∧ mOp padMulCmd ∈ [0x10, 0x12] ∧ mSrc padMulCmd = 6
      ∧ hitFault padMulCmd (y.x.mat.bank (mBank padMulCmd)) (y.x.mat.pieces padMulCmd) = none
      ∧ Safety.Covered y.x (y.x.mat.bank (mBank padMulCmd)).rowDrops := by decide +kernel

/-- A load of bank 1 whose parts have 8 values, or 41. -/
def loadCmd (op : BitVec 8) : Cmd := { word := (encMxLd ⟨1, 0, 0⟩).word op }
def matLoadAt (op : BitVec 8) (nm1 col : Nat) : State :=
  matAt { bankOnes with st := .loading, nm1 := nm1 } fun m => { m with load := some { cmd := loadCmd op, entered := true, col := col } }

theorem met_MatrixLoads :
    (let s := matLoadAt 1 3 3
     let y := Y s .matrix
     s.engine .matrix = some y ∧ y.x.mat.status = [] ∧ y.x.mat.load = some { cmd := loadCmd 1, entered := true, col := 3 }
      ∧ y.x.mat.comp = none ∧ 3 < (y.x.mat.bank (mBank (loadCmd 1))).n ∧ Safety.Covered y.x 8
      ∧ y.x.slotToks .matrix (mSrc (loadCmd 1)) = [⟨0x130, lanes16, []⟩, ⟨0, lanes16, []⟩]
      ∧ (y.x.mat.bank 1).kv ≤ (lanesW (8 * (y.x.mat.bank 1).wb) lanes16).length)
    ∧ let k := (Y (matLoadAt 2 40 7) .matrix).x.mat.bank 1
      7 < k.kl ∧ (lanesW (8 * k.wb) lanes16).length < k.n ∧ (Y (matLoadAt 1 3 3) .matrix).x.mat.wait = none := by decide +kernel

def resCmd : Cmd := { word := (encMxBank ⟨1⟩).word 0x04, a := 0x1234 }
def evictCmd : Cmd := { word := (encMxBank ⟨1⟩).word 0x03 }
def zeroCmd : Cmd := { word := (encMxZero ⟨true, 0⟩).word 0x31 }
def drainCmd : Cmd := { word := (encMxDrn ⟨true, 6, false, 0⟩).word 0x30, b := 5 }
def gradDrainCmd : Cmd := { word := (encMxGdrn ⟨true, 1⟩).word 0x21, b := 2 }
def gradCmd : Cmd := { word := (encMxGrad ⟨.bank 1, 0, 3⟩).word 0x20 }

theorem met_MatrixBanksAndRows :
    (let s := matAt { bankOnes with st := .empty } fun m => { m with wait := some resCmd }
     let y := Y s .matrix
     s.engine .matrix = some y ∧ y.x.mat.comp = none ∧ y.x.mat.load = none ∧ y.x.mat.wait = some resCmd ∧ y.x.mat.paid = false
      ∧ s.cur.slot = 0 ∧ Safety.Covered y.x 4
      ∧ (y.x.mat.bank (mBank resCmd)).st = .empty)
    ∧ (let y := Y (matAt bankOnes fun m => { m with wait := some evictCmd }) .matrix
       let k := y.x.mat.bank (mBank evictCmd)
       y.x.mat.wait = some evictCmd ∧ y.x.mat.paid = false ∧ k.st = .resident ∧ k.readers = 0 ∧ k.hold = false)
    ∧ (let y := Y (matRun zeroCmd bankOnes) .matrix
       y.x.mat.comp = some { cmd := zeroCmd, begun := true } ∧ Safety.Covered y.x 4)
    ∧ (let y := Y (matRun drainCmd bankOnes) .matrix
       mSrc drainCmd = 6 ∧ y.x.slot .matrix (drainCmd.b.toNat % 8) = some 5
        ∧ y.x.slotIs .matrix (drainCmd.b.toNat % 8) true (· ≤ 7) = true ∧ 0 + 1 ≠ (fmtOf (y.x.desc 5).fmt).bytes)
    ∧ (let y := Y (matRun gradDrainCmd bankOnes) .matrix
       y.x.slot .matrix (gradDrainCmd.b.toNat % 8) = some 2 ∧ y.x.slotRoom .matrix (gradDrainCmd.b.toNat % 8) 1 = true
        ∧ 0 + 1 ≠ (fmtOf (y.x.desc 2).fmt).bytes ∧ Safety.Covered y.x 8)
    ∧ let y := Y (matRun gradCmd bankOnes) .matrix
      (mF gradCmd).tag = 0 ∧ y.x.slotToks .matrix (mSrc gradCmd) = [⟨0x130, lanes16, []⟩, ⟨0, lanes16, []⟩]
        ∧ y.x.slotToks .matrix (mSrc gradCmd + 1) = [⟨0, lanes16, []⟩, ⟨0, lanes16, []⟩]
        ∧ rowOf 2 [⟨0, lanes16, []⟩, ⟨0, lanes16, []⟩] = .row [⟨0, lanes16, []⟩, ⟨0, lanes16, []⟩]
        ∧ (y.x.mat.bank (mBank gradCmd)).sp = 0 ∧ (y.x.mat.bank (mBank gradCmd)).wfmt = 0
        ∧ Safety.Covered y.x (y.x.mat.bank (mBank gradCmd)).rowDrops := by decide +kernel

/-- MXEVICT at the place where it takes its debit alone. -/
def prepaying : State :=
  { matAt bankOnes fun m => { m with wait := some evictCmd } with cur := ⟨0, 0, .matrix, 3⟩ }
/-- A drain that steers each row: the steering tokens stand in slot 4. -/
def steerCmd : Cmd := { word := (encMxDrn ⟨false, 4, false, 3⟩).word 0x30 }
def steered (v : Nat) (k : MComp → MComp) : State :=
  put (matAt bankOnes fun m => { m with comp := some (k { cmd := steerCmd, begun := true }) }) 4 [⟨0, BitVec.ofNat 512 v, []⟩]
def tagGradCmd : Cmd := { word := (encMxGrad ⟨.tag true, 0, 3⟩).word 0x20 }

theorem met_MatrixBanksAndRows_more :
    (prepaying.engine .matrix = some (Y prepaying .matrix) ∧ prepaying.cur.slot = 3)
    ∧ (let y := Y (steered 5 id) .matrix
       mSrc steerCmd ≠ 6 ∧ y.x.slotToks .matrix (mSrc steerCmd) = [⟨0, 5, []⟩] ∧ y.x.slot .matrix 5 = some 5
        ∧ y.x.slotIs .matrix 5 true (· ≤ 7) = true)
    ∧ (let y := Y (steered 5 fun p => { p with tok := 3, steer := some 5, kept := some (0, ⟨0, 1, []⟩) }) .matrix
       3 + 1 = (fmtOf (y.x.desc 5).fmt).bytes ∧ 0 + 1 < mRows steerCmd ∧ y.x.slotRoom .matrix 0 1 = true ∧ y.x.slot .matrix 0 = some 0
        ∧ y.x.slot .matrix (mSrc steerCmd) ≠ some 0)
    ∧ (let y := Y (steered 5 fun p => { p with row := 3, tok := 3, steer := some 5 }) .matrix
       mRows steerCmd ≤ 3 + 1 ∧ y.x.slotRoom .matrix 5 1 = true ∧ y.x.slot .matrix (mSrc steerCmd) ≠ some 5)
    ∧ (let y := Y (matRun gradDrainCmd bankOnes) .matrix
       1 + 1 = (fmtOf (y.x.desc 2).fmt).bytes)
    ∧ (mF tagGradCmd).tag ≠ 0 ∧ (Y (matRun tagGradCmd bankOnes) .matrix).x.mat.fate ((mF tagGradCmd).msk = 1) 0x130 = .hit 1 := by
  decide +kernel

theorem test_matrix_rows :
    gives (exec (.mxevict ⟨1⟩) prepaying) (fun t => (t.inst 0 0).mat.paid && (t.inst 0 0).meter + 4 == (prepaying.inst 0 0).meter) = true
    ∧ gives (exec (.mxdrn ⟨false, 4, false, 3⟩) (steered 9 id)) (fun t => (t.inst 0 0).buf 4 == []
        && (t.inst 0 0).meter == ((steered 9 id).inst 0 0).meter && (t.inst 0 0).mat.comp.any (·.row == 1)) = true
    ∧ gives (exec (.mxdrn ⟨false, 4, false, 3⟩) (steered 5 fun p => { p with row := 3, tok := 3, steer := some 5 })) (fun t =>
        ((t.inst 0 0).buf 5).map (·.side) == [0x3000]) = true := by decide +kernel

/-- A nest of four positions on the first axis of object 1. -/
def nest4 : Nest := { handle := .h 1, fmt := 0, levels := [{ axis := some 0, count := .num 4 }], endTok := false }
def walkCmd : Cmd := { word := wordOf (.swalk ⟨0, 3⟩) }
def boundCmd : Cmd := { word := wordOf (.sbnd ⟨0, 0, false⟩), a := 1048576 }
def stopCmd : Cmd := { word := wordOf (.sstop ⟨0⟩) }
def walkRun : SRun := { cmd := walkCmd, walk := { idx := #v[3, 0, 0, 0, 0], bnd := #v[4, 0, 0, 0, 0], fresh := 0 } }
/-- Stream engine A with a run and a waiting command; object 1 is in its first page. -/
def streamAt (run : Option SRun) (wait : Option Cmd) : State :=
  let s := withObj (engineAt .streamA [wide 0 0, wide 0 1, wide 0 2, narrow 0 3, narrow 6 4, narrow 0 5, wide 7 6, wide 9 7]) descPlain false
  let s : State := { s with mem := s.mem.writes 0x10000000 (leBytes 16 (0x40490FDB * 2 ^ 96))
                            objs := s.objs.put 1 { desc := descPlain, st := .shared, pages := [(0, { dead := false })] } }
  onInst s fun x => { x with cfg := { x.cfg with nests := [some nest4] }, sa := { x.sa with run := run, wait := wait } }

theorem met_Streams :
    (let s := streamAt none (some boundCmd)
     let y := Y s .streamA
     s.engine .streamA = some y ∧ s.cur.slot = 0 ∧ (y.x.stream .streamA).run = none ∧ (y.x.stream .streamA).wait = some boundCmd
      ∧ wOp boundCmd = 0x02 ∧ y.x.nest (wNest boundCmd) = some nest4
      ∧ (wFieldsOf boundCmd.word).level.toNat < nest4.levels.length ∧ boundCmd.a.toNat ≤ 2 ^ 20)
    ∧ (let y := Y (streamAt (some walkRun) (some stopCmd)) .streamA
       (y.x.stream .streamA).run = some walkRun ∧ walkRun.stopped = false ∧ (y.x.stream .streamA).wait = some stopCmd
        ∧ wOp stopCmd = 0x03 ∧ walkRun.cmd.word ≠ stopCmd.word ∧ wNest walkRun.cmd = wNest stopCmd)
    ∧ (let s := streamAt (some walkRun) none
       let y := Y s .streamA
       let o := (s.objs.get? 1).getD default
       let c := walkRun.walk.coords nest4.levels (descAxes o.desc) []
       walkRun.reads = [] ∧ y.x.nest (wNest walkRun.cmd) = some nest4
        ∧ walkRun.walk.pass nest4.levels (y.x.stream .streamA).bnds (wNest walkRun.cmd) walkRun.cmd.a walkRun.cmd.b
            (y.x.stream .streamA).bnd.toks = .here
        ∧ s.objOf y.g.ctx y.task ((nest4.handle.number walkRun.cmd).getD 0) = some (1, o)
        ∧ y.x.slot .streamA (wOut walkRun.cmd) = some 3 ∧ y.x.slotRoom .streamA (wOut walkRun.cmd) 1 = true
        ∧ (y.x.desc 3).wide = false ∧ inExtent o.desc c = true ∧ laneCoords o.desc (nest4.levels.getD 0 {}).axis c 0 = some c
        ∧ s.checkLane y.task y.g y.x 1 (byteAt o.desc c) false = .ok ⟨1, 12, 1⟩ o.desc 0 false
        ∧ s.pageReady 1 (byteAt o.desc c) = true ∧ s.laneAsks y.task 1 (byteAt o.desc c) = false ∧ s.objs.get? 1 = some o
        ∧ Safety.Covered y.x 2) := by decide +kernel

/-- The last position of the walk carries the ends of the dimension and the element there. -/
theorem test_swalk : gives (exec (.swalk ⟨0, 3⟩) (streamAt (some walkRun) none)) (fun t =>
    (((t.inst 0 0).buf 3).map fun k => (k.side, k.val)) == [(0x1000, 0x40490FDB)]) = true := by
  decide +kernel

/-- The truth of the walk, the bound and the stop on these states. -/
theorem test_sbnd : gives (exec (.sbnd ⟨0, 0, false⟩) (streamAt none (some boundCmd))) (fun t =>
    ((t.inst 0 0).stream .streamA).bnds.get? 0 == some (.fixed 1048576) && ((t.inst 0 0).stream .streamA).wait.isNone) = true := by
  decide +kernel
theorem test_sstop : gives (exec (.sstop ⟨0⟩) (streamAt (some walkRun) (some stopCmd))) (fun t =>
    ((t.inst 0 0).stream .streamA).run == some { walkRun with stopped := true }) = true := by decide +kernel

/-- The copy engine with a run; objects 1 and 2 in handles 1 and 2. -/
def copyAt (c : Cmd) (f : CRun → CRun) : State :=
  let s := withObj (engineAt .copy [wide 0 0, wide 0 1, wide 0 2, narrow 0 3, narrow 6 4, narrow 0 5, wide 7 6, wide 9 7]) descPlain true
  let s : State := { s with objs := s.objs.put 1 { desc := descPlain, st := .fresh 0, pages := [(0, { dead := false })] } }
  onInst s fun x => { x with cfg := { x.cfg with nests := [some nest4] }, cpy := { x.cpy with
    run := some (f { cmd := c, walk := { idx := #v[0, 0, 0, 0, 0], bnd := #v[4, 0, 0, 0, 0], fresh := 0 } }) } }
def cRunOf (s : State) : CRun := (Y s .copy).x.cpy.run.getD {}
def unitOf (s : State) : UnitIn :=
  match s.gather 0 (Y s .copy).g (Y s .copy).x nest4 2048 { run := cRunOf s, toks := (Y s .copy).x.slotToks .copy (yF (cRunOf s).cmd).inp.toNat } with
  | .got u => u
  | .wait => { run := {}, toks := [] }
/-- CPYF of zeros into object 1, CPY from IN into object 1, CPYX of object 1. -/
def fillCmd : Cmd := { word := wordOf (.cpyf ⟨0, ⟨false, 0⟩, false⟩), a := 0x77, b := 0x00100000 }
def copyCmd : Cmd := { word := wordOf (.cpy ⟨0, 3, 2, ⟨false, 0⟩, false⟩), a := 0xFFFFFFFF, b := 0x00100000 }
def copyIn : State := put (copyAt copyCmd id) 3 [⟨0, 1, []⟩, ⟨0, 2, []⟩, ⟨0, 3, []⟩, ⟨0, 4, []⟩, ⟨0, 5, []⟩]
def exchCmd : Cmd := { word := wordOf (.cpyx ⟨0, ⟨false, 0⟩, false⟩), a := 0x00100000, b := 0x00100000 }

theorem met_CopyUnits :
    ∀ c ∈ [fillCmd, exchCmd, copyCmd],
      let s := if c = copyCmd then copyIn else copyAt c id
      let y := Y s .copy
      let r := cRunOf s
      let u := unitOf s
      s.engine .copy = some y ∧ s.cur.slot = 0 ∧ y.x.cpy.run = some r ∧ r.moves = [] ∧ r.atEnd = false ∧ walks r.cmd = true
        ∧ y.x.nest (yF r.cmd).nest.toNat = some nest4
        ∧ (let toks := y.x.slotToks .copy (yF r.cmd).inp.toNat
           let stale := if fromBuf r.cmd || indexed r.cmd then (toks.takeWhile fun t => dropped t.side).length else 0
           s.gather y.task y.g y.x nest4 2048 { run := r, toks := toks.drop stale } = .got u)
        ∧ u.moves ≠ [] ∧ (∀ m ∈ u.moves, m.all s.pageOpen = true) ∧ u.stray = none ∧ toBuf u.run.cmd = false ∧ Tests.of u.tests = .pass 0 ∧ Safety.Covered y.x 128
        ∧ (c = copyCmd → y.x.slot .copy (yF u.run.cmd).inp.toNat = some 3 ∧ y.x.slot .copy (yF u.run.cmd).out.toNat = some 2
            ∧ 0 < u.taken) := by decide +kernel

/-- CPY of four tokens: the first position is written, in the byte order of the word. -/
theorem test_cpy : gives (exec (.cpy ⟨0, 3, 2, ⟨false, 0⟩, false⟩) copyIn) (fun t =>
    leNat (t.mem.reads 0x10000000 16) == 1 + 2 * 2 ^ 32 + 3 * 2 ^ 64 + 4 * 2 ^ 96 && ((t.inst 0 0).buf 3).map (·.val) == [5]
      && (t.inst 0 0).meter + unitDrops 0 == (Y copyIn .copy).x.meter
      && gives (exec (.copyUnit ⟨0, 0⟩) copyIn) fun u => u == t) = true := by decide +kernel

def boxCmd : Cmd := { word := wordOf (.cpyb ⟨⟨false, 0⟩⟩), b := 0x100 }
def boxAt : State := copyAt boxCmd fun r => { r with k := 1, byte := 64, rcd := (0x00100000, 0x00200000, 64) }
def endCmd (en : Bool) : Cmd := { word := wordOf (.cpyf ⟨0, ⟨en, 5⟩, false⟩), b := 0x00100000 }
def endAt (en : Bool) : State :=
  onGroup (copyAt (endCmd en) fun r => { r with atEnd := true }) fun g => { g with img := { g.img with owns := 0xFF } }

theorem met_CopyBoxesAndEnds :
    (let s := boxAt
     let y := Y s .copy
     let r := cRunOf s
     let q := s.boxBit y.task y.vt r
     s.engine .copy = some y ∧ s.cur.slot = 0 ∧ y.x.cpy.run = some r ∧ r.moves = [] ∧ r.atEnd = false
      ∧ r.cmd.word = wordOf (.cpyb ⟨⟨false, 0⟩⟩) ∧ walks r.cmd = false ∧ r.k = 1 ∧ r.boxLen ≤ r.byte
      ∧ 4096 * r.box < r.rcd.2.2.toNat ∧ s.cpyOwing r = false ∧ s.padHeld y.task y.vt .copy = false
      ∧ s.heapHeld y.task q.1 q.2.1 1 = false)
    ∧ ∀ en : Bool, let s := endAt en
      let y := Y s .copy
      let r := cRunOf s
      s.engine .copy = some y ∧ s.cur.slot = 0 ∧ y.x.cpy.run = some r ∧ r.moves = [] ∧ r.atEnd = true ∧ s.cpyOwing r = false
        ∧ y.x.cpy.wait = none ∧ toBuf r.cmd = false ∧ (yF r.cmd).semen.toNat = en.toNat
        ∧ y.g.img.ownsSem (yF r.cmd).sem.toFin = true ∧ Safety.Covered y.x 4 := by decide +kernel

theorem test_cpyb : gives (exec (.cpyb ⟨⟨false, 0⟩⟩) boxAt) (fun t =>
    let q := boxAt.boxBit 0 0 (cRunOf boxAt)
    let a := boxAt.padAddr (Y boxAt .copy).g (boxAt.inst 0 q.1) q.1 q.2.1
    t.mem.read a == boxAt.mem.read a ||| BitVec.ofNat 8 (2 ^ q.2.2)
      && (t.inst 0 0).cpy.run == some { cRunOf boxAt with box := 1, k := 0, byte := 0, writes := [] }
      && gives (exec (.boxComplete ⟨0, 0⟩) boxAt) fun u => u == t) = true := by decide +kernel
theorem test_copy_ends : gives (exec (.copyCompletion ⟨0, 0⟩) (endAt false)) (fun t => (t.inst 0 0).cpy.run.isNone && t.mem == (endAt false).mem && t.accs == (endAt false).accs) = true
    ∧ gives (exec (.copyCompletion ⟨0, 0⟩) (endAt true)) (fun t => (t.inst 0 0).cpy.run.isNone
      && (match t.accs.get? (endAt true).nextId with
        | some a => a.req == .sem 0 5 (.add 1)
        | none => false)
      && (t.inst 0 0).meter + 4 == (Y (endAt true) .copy).x.meter) = true := by decide +kernel

/-! ### Tokens, replies, cuts, units -/

/-- The group with edges of its image and tokens in flight; a second tile is resident. -/
def flowing (edges : List Edge) (flight : List Wtok) : State :=
  let s := onGroup base fun g => { g with img := { g.img with edges := edges, gw := 2, gh := 1, pad := 100 }
                                          flight := if flight = [] then [] else [(0, flight)] }
  let s := s.setInst 0 1 (s.inst 0 0)
  [(0 : Fin 16), 1].foldl (fun s v => s.updInst 0 v fun x =>
    { x with cfg := { x.cfg with bufs := [wide 0 0, wide 0 1, narrow 10 3] } }) s

def tok1 : Wtok := ⟨0x1000, 0xDEADBEEF, []⟩
def edgeIn : Edge := { src := .out 0 0 1, dst := .inp 1 0 3 }
def edgeBuf : Edge := { src := .buf 0 0, dst := .buf 1 1 }
def edgePull : Edge := { src := .out 1 0 2, dst := .inp 0 0 3, pull := true }
def arriving : State := flowing [edgeIn] [tok1]
def pumping : State := put (flowing [edgeBuf] []) 0 [tok1]
def keying : State := onEl base fun e => { e with inq := vset e.inq 2 { toks := [⟨0x8603, 0x1234, []⟩], stood := true } }
def asking : State :=
  onEl (flowing [edgePull] []) fun e => { e with inq := vset e.inq 3 { reqs := 1 } }

theorem met_TokensArrive :
    (arriving.group? 0 = some (arriving.group 0) ∧ (arriving.group 0).inFlight 0 = [tok1]
      ∧ ((arriving.group 0).img.edges.drop 0).head? = some edgeIn ∧ isCairn tok1.side = false
      ∧ arriving.inst? 0 1 = some (arriving.inst 0 1))
    ∧ (pumping.group? 0 = some (pumping.group 0) ∧ (pumping.group 0).live = true
      ∧ ((pumping.group 0).img.edges.drop 0).head? = some edgeBuf ∧ pumping.inst? 0 0 = some (pumping.inst 0 0)
      ∧ pumping.inst? 0 1 = some (pumping.inst 0 1) ∧ (pumping.inst 0 0).buf 0 = [tok1]
      ∧ edgeBuf.ridge = true ∧ isCairn tok1.side = false ∧ pumping.hasRoom 0 (pumping.group 0) (.buf 0 0) 0 1 = true
      ∧ (pumping.group 0).img.from (.buf 0 0) = [(edgeBuf, 0)] ∧ 64 ≤ padWindow (pumping.group 0).img.pad)
    ∧ (keying.elemLive 0 0 0 = true ∧ (vget (keying.elem 0 0 0).inq 2).toks = [⟨0x8603, 0x1234, []⟩]
      ∧ (keying.elem 0 0 0).done = false ∧ (vget (keying.elem 0 0 0).inq 2).stood = true ∧ hiddenCtl 0x8603 = true ∧ Side.op 0x8603 = 6 ∧ Side.sel 0x8603 ≤ 3)
    ∧ asking.group? 0 = some (asking.group 0) ∧ asking.inst? 0 0 = some (asking.inst 0 0) ∧ asking.inst? 0 1 = some (asking.inst 0 1)
      ∧ 0 < (vget ((asking.inst 0 0).elem 0).inq 3).reqs ∧ (asking.group 0).img.into (.inp 0 0 3) = some (edgePull, 0) := by
  decide +kernel

theorem test_token_arrives : gives (exec (.tokenArrival 0 0) arriving) (fun t =>
    (vget (t.elem 0 1 0).inq 3).toks == (vget (arriving.elem 0 1 0).inq 3).toks ++ [tok1.narrow] && (t.group 0).inFlight 0 == []) = true := by
  decide +kernel
theorem test_ridgeline : gives (exec (.ridgelineTransfer 0 0) pumping) (fun t =>
    (t.inst 0 0).buf 0 == [] && (t.inst 0 1).buf 1 == [tok1]
      && t.mem.read (pumping.padAddr (pumping.group 0) (pumping.inst 0 1) 1 256) == 0xEF
      && t.mem.read (pumping.padAddr (pumping.group 0) (pumping.inst 0 1) 1 259) == 0xDE) = true := by decide +kernel
theorem test_kset : gives (exec (.kset ⟨0, 0⟩ 0 2) keying) (fun t => vget (t.elem 0 0 0).k 3 == 0x1234) = true := by decide +kernel
theorem test_pull_request : gives (exec (.pullRequestArrival ⟨0, 0⟩ 0 3) asking) (fun t =>
    vget (t.elem 0 1 0).pulls 2 == vget (asking.elem 0 1 0).pulls 2 + 1 && (vget (t.elem 0 0 0).inq 3).reqs == 0) = true := by decide +kernel

/-- One request of element 0 that has been served, or not. -/
def asked (a : Acc) : State := { padded with accs := padded.accs.put 7 { a with task := some 0, node := .elem 0 }, nextId := 8 }
def semReply : Acc := { req := .sem 0 5 .rd, dest := .reg 3, reply := some 9, pw := some 2, link := some (4, 3) }

theorem met_Replies :
    let s := asked semReply
    ∃ a, s.accs.get? 7 = some a ∧ a.task = some 0 ∧ a.node = .elem 0 ∧ s.inst? 0 a.vt = some (s.inst 0 0) ∧ a.held = false
      ∧ a.answered = false ∧ a.reply = some 9 ∧ a.acquired = true ∧ (Claims.replyOf a.req).isSome = true ∧ a.dest = .reg 3
      ∧ a.link = some (4, 3) ∧ ((s.inst 0 0).elem 0).done = false :=
  ⟨{ semReply with task := some 0, node := .elem 0 }, by decide +kernel⟩

def channelReply : Acc := { semReply with dest := .out 1, link := none, pw := none }

def askedInOrder : State :=
  (asked channelReply).updElem 0 0 0 fun el => { el with outq := vset el.outq 1 [.wait 3, .wait 7] }

theorem met_RepliesInOrder :
    let s := askedInOrder
    ∃ a, s.accs.get? 7 = some a ∧ a.task = some 0 ∧ a.node = .elem 0 ∧ s.inst? 0 a.vt = some (s.inst 0 0) ∧ a.held = false
      ∧ a.answered = false ∧ a.reply = some 9 ∧ a.acquired = true ∧ (Claims.replyOf a.req).isSome = true ∧ a.dest = .out 1
      ∧ ((s.inst 0 0).elem 0).done = false :=
  ⟨{ channelReply with task := some 0, node := .elem 0 }, by decide +kernel⟩

theorem test_reply_waits_for_earlier : gives (exec (.semwaitAnswer 7) askedInOrder) (fun t =>
    match vget (t.elem 0 0 0).outq 1 with
    | [.wait 3, .tok k] => k.val == 9
    | _ => false) = true := by decide +kernel

theorem test_reply : gives (exec (.semwaitAnswer 7) (asked semReply)) (fun t =>
    let e := t.elem 0 0 0
    vget e.d 3 == 9 && vget e.d 4 == 12 && e.p == setBit (((asked semReply).elem 0 0 0).p) 2 true && !e.pending 3
      && (t.accs.get? 7).all (·.answered)) = true := by decide +kernel

def padLoad : Acc := { req := .padRd 0 0x46 2, dest := .reg 3 }
def padStore : Acc := { req := .padWr 0 0x46 2 0xABCD1234 }
def fillReply : Acc := { req := .fill 5, reply := some 5, tokVal := 5 }
def pkrdReq : Acc := { req := .pkrd, dest := .reg 3 }
def fenced : State := (asked { req := .fence }).updElem 0 0 0 fun e => { e with portBlock := [7] }

theorem met_Completions :
    (∀ a ∈ [padLoad, padStore, fillReply, pkrdReq, { req := .fence }],
      let s := asked a
      s.group? 0 = some (s.group 0) ∧ s.inst? 0 0 = some (s.inst 0 0) ∧ a.held = false ∧ a.answered = false
        ∧ (a = fillReply ∨ s.accReady { a with task := some 0, node := .elem 0 } = true) ∧ s.heapHeld 0 0 0x46 2 = false
        ∧ s.padHeld 0 0 (.elem 0) = false ∧ s.bankHeld a = false ∧ a.link = none ∧ a.perf = .none ∧ (a.reply = none ∨ a = fillReply))
    ∧ fenced.unperformed [] 0 = false ∧ ((fenced.inst 0 0).elem 0).portBlock = [7] := by decide +kernel

/-- The reply of a fence stands behind an earlier one of its channel: the port stays closed. -/
def fencedOut : State :=
  (asked { req := .fence, dest := .out 1 }).updElem 0 0 0 fun e => { e with portBlock := [7], outq := vset e.outq 1 [.wait 3, .wait 7] }

theorem met_Completions_fence : (fencedOut.accs.get? 7).any (fun a => a.dest == .out 1 && !a.held && !a.answered) = true
    ∧ ((fencedOut.inst 0 0).elem 0).done = false ∧ 7 ∈ ((fencedOut.inst 0 0).elem 0).portBlock
    ∧ .wait 7 ∈ vget ((fencedOut.inst 0 0).elem 0).outq 1 := by decide +kernel

theorem test_fence_behind : gives (exec (.storeCompletion 7) fencedOut) (fun t => (t.elem 0 0 0).portBlock == [7]) = true := by
  decide +kernel

theorem test_completions :
    gives (exec (.storeCompletion 7) (asked padStore)) (fun t =>
      let a := padded.padAddr (padded.group 0) (padded.inst 0 0) 0 0x46
      t.mem.read a == 0x34 && t.mem.read (a + 1) == 0x12 && t.mem.read (a + 2) == 0
        && gives (exec (.loadReply 7) { asked padLoad with mem := t.mem }) fun u => vget (u.elem 0 0 0).d 3 == 0x1234) = true
    ∧ gives (exec (.fillGrant 7) (asked fillReply)) (fun t => (t.inst 0 0).meter == (padded.inst 0 0).meter + 1280) = true
    ∧ gives (exec (.storeCompletion 7) fenced) (fun t => (t.accs.get? 7).isNone && (t.elem 0 0 0).portBlock == []) = true := by
  decide +kernel

/-- A group whose element waits for a seal; one with a cut that no node, or every node, has passed. -/
def sealing : State := onGroup padded fun g => { g with seals := [(0, .elem 0, some 9)] }
def cutting (sent passed : List (Fin 16 × Node)) : State :=
  onGroup base fun g => { g with cut := some { no := 3, sent := sent, passed := passed } }
def allNodes : List (Fin 16 × Node) := base.groupNodes 0

theorem met_Cuts :
    (sealing.group? 0 = some (sealing.group 0) ∧ (sealing.group 0).live = true
      ∧ (sealing.group 0).seals = [(0, .elem 0, some 9)] ∧ (sealing.group 0).cut = none ∧ sealing.inst? 0 0 = some (sealing.inst 0 0)
      ∧ Safety.Covered (sealing.inst 0 0) (64 + (sealing.inst 0 0).uncovered))
    ∧ (let s := cutting [] []
       let g := s.group 0
       g.live = true ∧ g.cut = some { no := 3 } ∧ allNodes ≠ [] ∧ (∀ n ∈ allNodes, Cut.hasPassed { no := 3 } n = false)
        ∧ allNodes.any (fun n => decide ((s.inst 0 n.1).cfg.stage n.2 ≤ 16)
            && allNodes.all fun m => decide ((s.inst 0 n.1).cfg.stage n.2 ≤ (s.inst 0 m.1).cfg.stage m.2)) = true)
    ∧ (let s := cutting [(0, .elem 0)] []
       let x := s.inst 0 0
       (s.group 0).isResident 0 x = true ∧ x.nodeLive (.elem 0) = true ∧ .elem 0 ∈ x.nodes
        ∧ s.boundary 0 0 (.elem 0) = true ∧ x.staged = [])
    ∧ (cutting allNodes allNodes).cutReady 0 ((cutting allNodes allNodes).group 0) { no := 3, sent := allNodes, passed := allNodes } = true := by
  decide +kernel

theorem test_cuts :
    gives (exec (.implicitSeal ⟨0, 0⟩) sealing) (fun t => ((t.group 0).cut.map fun c => (c.no, c.closer)) == some (1, some 9)
      && (t.group 0).seals == [] && (t.inst 0 0).meter + 64 == (sealing.inst 0 0).meter) = true
    ∧ gives (exec (.cairnSeed 0) (cutting [] [])) (fun t => (t.group 0).cut.any fun c => c.no == 3 && c.sent != [] && c.passed == []) = true
    ∧ gives (exec (.cairnPassage ⟨0, 0⟩ (.elem 0)) (cutting [(0, .elem 0)] [])) (fun t =>
        (t.group 0).cut.any fun c => c.passed == [(0, .elem 0)]) = true
    ∧ gives (exec (.cutComplete 0) (cutting allNodes allNodes)) (fun t => (t.group 0).cut.isNone && (t.group 0).lastCut == 3) = true := by
  decide +kernel

def fill1 : Trans := ⟨0, 1, 0, 5, true, false⟩
def translating : State :=
  let s := withObj base descPlain false
  (s.setTile 5 { s.tile 5 with fills := [fill1] }).updRegion 0 fun x =>
    { x with cache := [⟨0, 1, 0, 0, false, false⟩], walks := [⟨0, 1, 0, 5, false, true⟩] }
/-- A group that drained after a page fault on page 0 of object 1. -/
def faulted : State :=
  onInst (onGroup base fun g => { g with stop := some (.page 0 (.elem 0) 0x44 1 0 1), draining := true }) fun x => { x with halted := x.nodes }
/-- A page that moves to die 3. -/
def movingObj : Obj := { desc := descPlain, st := .shared, pages := [(0, { moving := some 3, mig := 3, home := 2 })] }
def moving : State := { base with objs := base.objs.put 1 movingObj }

theorem met_Translations :
    (((translating.tile 5).fills.drop 0).head? = some fill1 ∧ translating.slot? 0 1 = some { obj := 1 }
      ∧ (translating.region (5 / 16)).cache.any (fun u => Trans.same u { fill1 with key := 1 }) = true
      ∧ translating.transBad 1 0 = false)
    ∧ ((translating.region 0).walks.drop 0).head? = some ⟨0, 1, 0, 5, false, true⟩
    ∧ (faulted.group? 0 = some (faulted.group 0) ∧ (faulted.group 0).stop = some (.page 0 (.elem 0) 0x44 1 0 1)
      ∧ (faulted.group 0).draining = true ∧ faulted.drained 0 = true ∧ faulted.ctxs.get? 0 = some (faulted.ctx 0)
      ∧ (faulted.ctx 0).prod + 1 ≠ (faulted.ctx 0).cons)
    ∧ (faulted.group 0).asked ≠ some .preempt ∧ moving.objs.get? 1 = some movingObj ∧ moving.nodeBusy 1 0 = false
      ∧ (movingObj.page 0).asked = [] ∧ (movingObj.page 0).die = moving.die.toNat
      ∧ ((translating.objs.get? 1).any fun o => (o.pages.getD 0 {}).moving.isSome) = false := by decide +kernel

theorem test_translations :
    gives (exec (.translationFill 5 0) translating) (fun t => (t.tile 5).cache.contains { fill1 with bad := false } && (t.tile 5).fills == []) = true
    ∧ gives (exec (.pageWalk 0 0) translating) (fun t => (t.region 0).cache.contains ⟨0, 1, 0, 5, false, false⟩) = true
    ∧ gives (exec (.pageFault 0) faulted) (fun t => (t.group 0).state == .halted && (t.group 0).why == some .page && (t.group 0).stop.isNone
        && (t.ctx 0).prod == 1
        && (t.ctx 0).ring.get? 0 == some (1 + pageRecord 0 0 1 0 (faulted.ctx 0).vf (Node.code (.elem 0)) (Node.eid (.elem 0)) 0 0x44 1 * 2 ^ 128)) = true := by decide +kernel

/-- Request 7 of element 0: to object 1, whose page is in frame 0 of the first vault, where the line is hot or not; queued at the
atomic engine or the sync unit of region 0. -/
def req7 (r : Req) : Acc := { task := some 0, node := .elem 0, req := r, dest := .reg 3 }
def served (a : Acc) (hot : List Nat) (aq sq : List Nat) : State :=
  let s := { tensor descInt false with accs := [(7, a)], nextId := 8 }
  let s : State := { s with mem := s.mem.writes 0x10000000 (leBytes 4 0x11223344)
                            objs := s.objs.put 1 { desc := descInt, st := .shared, pages := [(0, { dead := false })] } }
  (onGroup s fun g => { g with img := { g.img with sems := 0xFF } }).updRegion 0 fun x => { x with hot := hot, aq := aq, sq := sq }
def obj1 : Obj := ((served (req7 .pkrd) [] [] []).objs.get? 1).getD default
def line7 : Nat := ((served (req7 (.rd place .int32)) [] [] []).lineOfAcc 7).getD 0
/-- The same with the page in a frame that the part does not have. -/
def frameless : State :=
  { served (req7 (.rd place .int32)) [] [] [] with
    objs := [(1, { desc := descInt, st := .shared, pages := [(0, { dead := false, loc := 200, frame := 0 })] })] }
def freed : State := { base with objs := base.objs.put 2 { desc := descInt, st := .reclaiming } }
def semAt (op : SemOp) : State := served (req7 (.sem 0 5 op)) [] [] [7]
def atomAt (hot : List Nat) : State := served (req7 (.atom place .add 5)) hot [7] []

theorem met_Units_port :
    (∀ r ∈ [Req.rd place .int32, .wr place 4 0xCAFE1234, .wr place 1 0xEE], let s := served (req7 r) [] [] []
      s.accs.get? 7 = some (req7 r) ∧ s.accReady (req7 r) = true ∧ s.objs.get? 1 = some obj1 ∧ s.pageReady 1 0 = true
        ∧ (obj1.page 0).die = s.die.toNat ∧ s.isHot 1 0 = false ∧ s.lacksFrame 7 = false ∧ descFe obj1.desc = false
        ∧ ∀ i ∈ List.range 4, obj1.addr i = some (0x10000000 + i) ∧ (obj1.page i).dead = false ∧ s.stagedByte 0 1 i = none)
    ∧ frameless.lacksFrame 7 = true := by decide +kernel

theorem met_Units_engine :
    (let s := atomAt [line7]
     (s.region 0).aq = [7] ∧ s.lineOfAcc 7 = some line7 ∧ line7 ∈ (s.region 0).hot ∧ s.objs.get? 1 = some obj1)
    ∧ line7 ∉ (((atomAt []).region 0).hot) ∧ ((atomAt []).region 0).hot.length < 64
    ∧ (let s := atomAt (List.range 64)
       line7 ∉ (s.region 0).hot ∧ 64 ≤ (s.region 0).hot.length
        ∧ ((s.region 0).hot.find? fun l => !(s.region 0).aq.any fun i => s.lineOfAcc i == some l) = some 0) := by decide +kernel

theorem met_Units_hub :
    (∀ op ∈ [SemOp.add 1, .set 9, .wait 0], let s := semAt op
      (s.region 0).sq = [7] ∧ s.accs.get? 7 = some (req7 (.sem 0 5 op)) ∧ (s.group 0).img.sems.getLsbD 5 = true
        ∧ s.ctxs.get? 0 = some (s.ctx 0) ∧ (0 : Word).toInt ≤ (vget (s.ctx 0).sems 5).val.toInt)
    ∧ (served (req7 (.dir (.query 1 3))) [] [] []).accReady (req7 (.dir (.query 1 3))) = true
    ∧ freed.objs.get? 2 = some { desc := descInt, st := .reclaiming } ∧ freed.objBusy 2 = false := by decide +kernel

/-- The units on these requests: the old word is answered, the new one stands; a sum saturates. -/
theorem test_units_memory :
    gives (exec (.vaultPortServe 7) (served (req7 (.rd place .int32)) [] [] [])) (fun t => (t.accs.get? 7).any fun a => a.reply == some 0x11223344) = true
    ∧ gives (exec (.vaultPortServe 7) (served (req7 (.wr place 1 0xEE)) [] [] [])) (fun t => leNat (t.mem.reads 0x10000000 4) == 0x112233EE) = true
    ∧ gives (exec (.atomicEngineServe 0 []) (atomAt [line7])) (fun t => leNat (t.mem.reads 0x10000000 4) == 0x11223349
        && (t.accs.get? 7).any fun a => a.reply == some 0x11223344) = true
    ∧ gives (exec (.hotLineFetch 0 line7) (atomAt [])) (fun t => (t.region 0).hot == [line7]) = true
    ∧ gives (exec (.hotLineFetch 0 line7) (atomAt (List.range 64))) (fun t => (t.region 0).hot == (List.range 64).drop 1 ++ [line7]) = true := by
  decide +kernel
theorem test_units_hub :
    gives (exec (.syncUnitServe 0 []) ((semAt (.add 0x7FFFFFFF)).semDo 0 5 (.set 3))) (fun t => t.sem 0 5 == ⟨0x7FFFFFFF, true⟩) = true
    ∧ gives (exec (.syncUnitServe 0 []) (semAt (.wait 0))) (fun t => (t.accs.get? 7).any fun a => a.reply == some 0) = true
    ∧ gives (exec (.directoryServe 7) (served (req7 (.dir (.query 1 3))) [] [] [])) (fun t => (t.accs.get? 7).any fun a => a.reply == some 16) = true
    ∧ gives (exec (.objectFreed 2) freed) (fun t => (t.objs.get? 2).isNone) = true := by decide +kernel

/-! ### Tiles and groups -/

def withTask (s : State) (t : Task) : State := { s with tasks := s.tasks.put 0 t }
def admitting (s : State) : State := s.updRegion 0 fun x => { x with adm := 0xFFFF }
/-- A task of 8 packets whose group is being armed, and one whose group runs. -/
def armingS : State :=
  admitting (onInst (onGroup (withTask base { p := 8 }) fun g => { g with state := .arming }) fun x => { x with armed := false })
/-- The state that follows, and the copy being armed once its nodes have taken their port tokens. -/
def next (o : Out) (s : State) : State :=
  match o with
  | .next t => t
  | _ => s
def preparedS : State := onInst (next (exec (.tileArm ⟨0, 0⟩) armingS) armingS) fun x => { x with cleared := x.nodes, tagged := x.nodes }
def runningS (f : Inst → Inst) (k : Group → Group) : State := admitting (onInst (onGroup (withTask base { p := 8 }) k) f)
def image0 : Image := (spawning.imageOf 0 0).getD {}
def recfgS : State :=
  let s := onInst spawning fun x => { x with armed := true }
  s.updRegion 0 fun x => { x with caches := vset x.caches 0 { st := .ready, ctx := 0, kid := 0 } }


theorem met_TileControl :
    (armingS.group? 0 = some (armingS.group 0) ∧ armingS.tasks.get? 0 = some { p := 8 } ∧ (armingS.group 0).state = .arming
      ∧ (armingS.group 0).stop = none ∧ (armingS.group 0).saved = false ∧ (0 : Fin 16) ∈ (armingS.group 0).vts
      ∧ (armingS.inst 0 0).armed = false ∧ armingS.admits (armingS.physRegion (armingS.group 0).region) = true
      ∧ armingS.argsHere 0 = true ∧ (armingS.inst 0 0).ready = false
      ∧ armingS.hostArmed 0 (armingS.group 0) 0 ((armingS.group 0).hostOf 0).1 = false)
    ∧ ((preparedS.inst 0 0).prepared = true ∧ (preparedS.inst 0 0).armed = false ∧ Safety.Covered (preparedS.inst 0 0) 1536
      ∧ (preparedS.group 0).state = .arming)
    ∧ (let s := runningS (fun x => { x with tagged := x.nodes, cleared := x.nodes, started := [] }) id
       let x := s.inst 0 0
       s.inst? 0 0 = some x ∧ x.armed = true ∧ (s.group 0).live = true ∧ .vector ∈ x.nodes ∧ .vector ∈ x.tagged ∧ .vector ∈ x.cleared
        ∧ .vector ∉ x.started ∧ ((s.region (s.physRegion (s.group 0).region)).ingress.any fun p => p.task == 0) = false)
    ∧ (let s := runningS (fun x => { x with ready := true, tagged := [], cleared := [], halted := [] }) fun g => { g with why := some .preempt, draining := true }
       let x := s.inst 0 0
       x.ready = true ∧ .elem 0 ∈ x.nodes ∧ .elem 0 ∉ x.tagged ∧ .elem 0 ∉ x.cleared ∧ (s.group 0).halts = true ∧ (s.group 0).draining = true)
    ∧ (let s := runningS id fun g => { g with state := .committing }
       (s.group 0).state = .committing ∧ (s.group 0).stop = none ∧ s.performedAll 0 = true)
    ∧ (recfgS.imageOf 0 0).isSome = true ∧ (recfgS.inst 0 0).armed = true ∧ (recfgS.inst 0 0).enginesIdle = true
      ∧ recfgS.groupPerformed 0 0 = true ∧ recfgS.imageHeld (recfgS.physRegion (recfgS.group 0).region) 0 0 = true
      ∧ (recfgS.group 0).cut = none ∧ (recfgS.group 0).flight = []
      ∧ ((recfgS.region (recfgS.physRegion (recfgS.group 0).region)).ingress.any fun p => p.task == 0) = false
      ∧ spawning.imageHeld (spawning.physRegion (spawning.group 0).region) 0 0 = false := by decide +kernel

theorem test_tile_control :
    gives (exec (.tileArm ⟨0, 0⟩) armingS) (fun t => (t.inst 0 0).ready && !(t.inst 0 0).armed && (t.inst 0 0).meter == 2048
      && t.mem.read (armingS.globalTile (armingS.group 0) (t.inst 0 0) * 2 ^ 18) == 0) = true
    ∧ gives (exec (.tileArm ⟨0, 0⟩) preparedS) (fun t => (t.inst 0 0).armed && (t.inst 0 0).meter == 512) = true
    ∧ gives (exec (.recfg ⟨0, 0⟩ 0) spawning) (fun t => (t.region (spawning.physRegion (spawning.group 0).region)).ingress
        == [{ task := 0, recfg := some (0, 0) }]) = true
    ∧ gives (exec (.start ⟨0, 0⟩ .vector) (runningS (fun x => { x with tagged := x.nodes, cleared := x.nodes, started := [] }) id))
        (fun t => (t.inst 0 0).started == [.vector]) = true
    ∧ gives (exec (.flush ⟨0, 0⟩ (.elem 0)) (chan (runningS id fun g => { g with state := .committing }) 1 [tok1.narrow]))
        (fun t => (vget (t.elem 0 0 0).inq 1).toks == []) = true
    ∧ gives (exec (.recfg ⟨0, 0⟩ 0) recfgS) (fun t => (t.inst 0 0).cfg == ((recfgS.imageOf 0 0).getD {}).tiles.getD 0 {}
        && (t.inst 0 0).bufs == (recfgS.inst 0 0).bufs) = true
    ∧ (let s := runningS (fun x => { x with ready := true, tagged := [], cleared := [], halted := [] }) fun g => { g with why := some .preempt, draining := true }
       gives (exec (.crst ⟨0, 0⟩ .vector) s) (fun t => (t.inst 0 0).cleared == [.vector]
          && (t.inst 0 0).discards.getD (Node.key .vector) 0 == 0) = true
       ∧ gives (exec (.ctxsw ⟨0, 0⟩ .vector) s) (fun t => (t.inst 0 0).tagged == [.vector]) = true
       ∧ gives (exec (.haltc ⟨0, 0⟩ .vector) s) (fun t => (t.inst 0 0).halted.contains .vector) = true
       ∧ gives (exec (.drain ⟨0, 0⟩) s) (fun t => (t.inst 0 0).drain == s.drainOf 0 0) = true) := by decide +kernel

/-- The task's group has stopped on a shortfall, or on a fault, or has come to its end. -/
def ending (rpol rtry : Nat) (k : Group → Group) (f : Inst → Inst) : State :=
  let s := runningS f k
  let t : Task := { p := 8, rtry := rtry, trec := { rpol := rpol } }
  { withTask s t with ctxs := s.ctxs.put 0 { s.ctx 0 with queues := vset (Vector.replicate 16 {}) 0 { st := 1, alim := 10, rmax := 3 } } }
def shortStop (g : Group) : Group := { g with stop := some (.short 0 (.elem 0) 0x44 9) }
def faultStop (g : Group) : Group := { g with stop := some (.fault 0x21 0 (.elem 0) 0x44 3) }

theorem met_EndsAndHalts :
    (∀ r ∈ [(0, 0), (1, 3), (1, 2)], let s := ending r.1 r.2 shortStop id
      s.group? 0 = some (s.group 0) ∧ (s.group 0).stop = some (.short 0 (.elem 0) 0x44 9) ∧ s.quiet 0 = true
        ∧ (s.tasks.get? 0).any (fun k => s.policy k == r.1 && k.rtry == r.2) = true)
    ∧ (let s := ending 0 0 faultStop id
       (s.group 0).stop = some (.fault 0x21 0 (.elem 0) 0x44 3) ∧ s.quiet 0 = true ∧ s.ctxs.get? 0 = some (s.ctx 0)
        ∧ (s.ctx 0).prod + 1 ≠ (s.ctx 0).cons ∧ (s.ctx 0).fhold = false)
    ∧ (let s := onEl (ending 0 0 id id) fun e => { e with done := true }
       (s.group 0).live = true ∧ (s.group 0).cut = none ∧ (s.group 0).seals = [] ∧ s.quiet 0 = true ∧ ∀ vt ∈ (s.group 0).vts, (s.inst 0 vt).ended = true)
    ∧ (let s := ending 0 0 (fun g => { g with state := .committing }) id
       (s.group 0).state = .committing ∧ (s.group 0).stop = none ∧ s.performedAll 0 = true)
    ∧ (let s := ending 0 0 (fun g => { g with why := some .preempt }) id
       (s.group 0).why = some .preempt ∧ (s.group 0).live = true ∧ s.mayFreeze 0 (s.group 0) .preempt = true ∧ (s.group 0).asked ≠ some .abort)
    ∧ (let s := ending 0 0 (fun g => { g with state := .halted, asked := some .abort }) id
       (s.group 0).asked = some .abort ∧ s.quiet 0 = true)
    ∧ let s := ending 0 0 (fun g => { g with why := some .preempt, asked := some .preempt, draining := true }) fun x => { x with halted := x.nodes }
      (s.group 0).draining = true ∧ s.drained 0 = true ∧ (s.group 0).stop = none := by decide +kernel

theorem test_ends :
    gives (exec (.shortfall 0) (ending 0 0 shortStop id)) (fun t => (t.group? 0).isNone) = true
    ∧ gives (exec (.shortfall 0) (ending 1 3 shortStop id)) (fun t => (t.group? 0).isNone) = true
    ∧ gives (exec (.shortfall 0) (ending 1 2 shortStop id)) (fun t => (t.group? 0).isNone
        && (t.tasks.get? 0).any fun j => j.p == retryP 1 8 && j.rtry == 3) = true
    ∧ gives (exec (.groupFault 0) (ending 0 0 faultStop id)) (fun t => (t.group? 0).isNone && (t.ctx 0).prod == 1
        && (t.ctx 0).ring.get? 0 == some (2 + faultRecord 0 0 0x21 0 0 (Node.code (.elem 0)) (Node.eid (.elem 0)) 0 0x44 3 * 2 ^ 128)) = true
    ∧ gives (exec (.commit 0) (onEl (ending 0 0 id id) fun e => { e with done := true })) (fun t => (t.group 0).state == .committing) = true
    ∧ gives (exec (.commit 0) (ending 0 0 (fun g => { g with state := .committing }) id)) (fun t => (t.group? 0).isNone && (t.inst? 0 0).isNone) = true
    ∧ gives (exec (.groupHalt 0) (ending 0 0 (fun g => { g with why := some .preempt }) id)) (fun t => (t.group 0).draining) = true
    ∧ gives (exec (.groupHalt 0) (ending 0 0 (fun g => { g with state := .halted, asked := some .abort }) id)) (fun t => (t.group? 0).isNone) = true
    ∧ gives (exec (.drainComplete 0) (ending 0 0 (fun g => { g with why := some .preempt, asked := some .preempt, draining := true }) fun x => { x with halted := x.nodes }))
        (fun t => (t.group 0).state == .halted && (t.group 0).saved) = true := by decide +kernel

/-- Stores half spent, or spent beyond what is built; a watchdog one tick short of its limit; a remote access without reply. -/
def storing : State := runningS (fun x => { x with stores := [⟨2, false⟩], spent := 0, debited := 0 }) id
def watched (n : Word) : State :=
  { storing with ctxs := storing.ctxs.put 0 { storing.ctx 0 with wdlim := n } }
def stranded : State :=
  onGroup { storing with accs := storing.accs.put 7 { task := some 0, node := .elem 0, remote := true, opc := 0x44, rule := 3 } } fun g =>
    { g with episode := some 7 }

/-- The remote access of `stranded` at the watchdog's limit, before its episode. -/
def lateS : State := onGroup { stranded with ctxs := (watched 5).ctxs } fun g => { g with episode := none }
def strandedAcc : Acc := { task := some 0, node := .elem 0, remote := true, opc := 0x44, rule := 3 }

theorem met_StoresAndTimers :
    (storing.group? 0 = some (storing.group 0) ∧ storing.inst? 0 0 = some (storing.inst 0 0) ∧ (storing.inst 0 0).armed = true
      ∧ (storing.group 0).state ≠ .halted ∧ storing.admits (storing.physRegion (storing.group 0).region) = true
      ∧ (storing.inst 0 0).unspent < 2 ∧ (storing.inst 0 0).unbuilt (storing.packets 0) ≠ 0
      ∧ (storing.group 0).live = true ∧ (storing.inst 0 0).unspent ≠ 0)
    ∧ (let s := watched 5
       s.pst ≠ .emergency ∧ (s.group 0).state = .running ∧ (s.group 0).draining = false ∧ s.atHandover 0 (s.group 0) = false
        ∧ (s.ctx (s.group 0).ctx).wdlim ≠ 0 ∧ (s.group 0).wd + 4 < (s.ctx (s.group 0).ctx).wdlim.toNat
        ∧ (s.ctx (s.group 0).ctx).wdlim.toNat ≤ (s.group 0).wd + 5 ∧ s.remoteWaits 0 = [])
    ∧ (lateS.remoteWaits 0 = [(7, strandedAcc)] ∧ (lateS.group 0).episode = none ∧ lateS.ctxs.get? 0 = some (lateS.ctx 0)
      ∧ (lateS.ctx 0).prod + 1 ≠ (lateS.ctx 0).cons ∧ lateS.atHandover 0 (lateS.group 0) = false)
    ∧ (stranded.group 0).episode = some 7 ∧ (stranded.group 0).stop = none ∧ stranded.accs.get? 7 = some strandedAcc := by decide +kernel

theorem test_stores_and_timers :
    gives (exec (.storeBuild ⟨0, 0⟩) storing) (fun t => (t.inst 0 0).stores == [⟨2, false⟩, ⟨min 512 (((storing.inst 0 0).unbuilt (storing.packets 0) + 255) / 256), false⟩]) = true
    ∧ gives (exec (.storeUnderrun ⟨0, 0⟩) storing) (fun t => (t.group 0).stop == some (.fault 0x11 0 .seq 0 0)
        && (t.region (storing.physRegion (storing.group 0).region)).undr == 1) = true
    ∧ gives (exec (.watchdogExpiry 0 4) (watched 5)) (fun t => (t.group 0).wd == 4 && (t.group 0).stop.isNone) = true
    ∧ gives (exec (.watchdogExpiry 0 5) (watched 5)) (fun t => (t.group 0).stop == some (.fault 0x70 0 .seq 0 0)) = true
    ∧ gives (exec (.watchdogExpiry 0 5) lateS) (fun t => (t.group 0).episode == some 7 && (t.group 0).stop.isNone && (t.ctx 0).prod == 1) = true
    ∧ gives (exec (.remoteRetrainExpiry 0) stranded) (fun t => (t.group 0).stop == some (.fault 0x60 0 (.elem 0) 0x44 3)) = true := by
  decide +kernel

/-- One ready task of a resident context that fits. -/
def readyTask : Task := { state := .ready, p := 8, trec := { gw := 1, gh := 1, kid := 0, p := 8 } }
def dispatching : State :=
  { spawning with tasks := [(5, readyTask)], ctxs := spawning.ctxs.put 0 { spawning.ctx 0 with savefr := 100 }, good := 64 }
def decided : State := ((List.range 64).foldl State.startFetch dispatching).admitAll
/-- A fetch of kernel 0 whose image fails its checks. -/
def fetching : State := spawning.updRegion 3 fun x => { x with caches := vset x.caches 1 { st := .fetching, ctx := 0, kid := 0 } }

/-- A fetch of an image of an empty tile with its CHK. -/
def fetchingGood : State :=
  { fetching with ctxs := fetching.ctxs.put 0 { fetching.ctx 0 with
      kernels := [(0, { bytes := leBytes 64 (2 ^ 88 + 2 ^ 92 + 2333789795 * 2 ^ 352) })] } }

theorem met_Dispatches :
    (dispatching.places = true ∧ decided.savedFits = none
      ∧ (decided.tasks.filter fun x => decided.taskFits x.2) = [(5, readyTask)] ∧ decided.imageOf 0 0 = some (decided.imageOf 0 0).get!
      ∧ decided.chooseRegion 0 0 1 1 = some 0 ∧ (decided.ctx 0).acct < 2 ^ 48 ∧ 8 * (1 * 1) ≤ (decided.ctx 0).acct)
    ∧ ∀ s ∈ [fetching, fetchingGood],
        (vget (s.region 3).caches 1).st = .fetching ∧ (s.ctxs.get? 0).isSome = true ∧ (s.region 3).ingress = []
          ∧ ((s.ctx 0).kernels.get? 0).any (fun k => (fetchBad k.bytes 0).isSome == decide (s = fetching)) = true
          ∧ (s.ctx 0).prod + 1 ≠ (s.ctx 0).cons := by decide +kernel

theorem test_dispatches :
    gives (exec .dispatchDecision dispatching) (fun v => (v.group? 5).any (fun g => g.ctx == 0 && g.region == 0)
      && (v.tasks.get? 5).any (·.state == .placed) && (v.ctx 0).acct + 8 == 1024) = true
    ∧ gives (exec (.imageFetchDone 3 1) fetching) (fun t => vget (t.region 3).caches 1 == {} && (t.ctx 0).prod == 1) = true
    ∧ gives (exec (.imageFetchDone 3 1) fetchingGood) (fun t => (vget (t.region 3).caches 1).st == .ready) = true := by decide +kernel

/-- A group of two tiles with an alternative of half the tiles: running, halted to fold, folded, halted to unfold. -/
def folding (k : Group → Group) : State :=
  let s := onGroup (withTask spawning { p := 8 }) fun g =>
    k { g with img := { g.img with gw := 2, gh := 1, alt2 := g.img.tiles }, lastCut := 1 }
  let s := s.updRegion (s.physRegion (s.group 0).region) fun x => { x with caches := vset x.caches 0 { st := .pinned, ctx := 0, kid := 0 } }
  let s := onInst s fun x => { x with quiet := true }
  s.setInst 0 1 (s.inst 0 0)
def foldedGroup (g : Group) : Group := { g with fold := 2, state := .folded, atCut := true, sur := [(0, 128)], resident := [(0, 0)] }

theorem met_Folds :
    (let s := folding id
     let g := s.group 0
     s.group? 0 = some g ∧ g.live = true ∧ g.fold = 1 ∧ g.cut = none ∧ g.seals = [] ∧ g.why = none
      ∧ Safety.Covered (s.inst 0 0) (64 + (s.inst 0 0).uncovered))
    ∧ (let s := folding fun g => { g with state := .halted, why := some (.shrink false), img := { g.img with alt2 := [(0, {})] } }
       let g := s.group 0
       g.img.alt2 ≠ [] ∧ s.quiet 0 = true ∧ (∀ vt ∈ g.vts, (s.inst 0 vt).enginesIdle = true ∧ s.restPerformed 0 vt = true)
        ∧ s.imageHeld (s.physRegion g.region) g.ctx g.img.kid = true ∧ 2 * g.img.staged ≤ 1024 ∧ 16 * (g.img.gsz / 2) ≤ (s.ctx g.ctx).acct
        ∧ (s.ctx g.ctx).acct < 2 ^ 48)
    ∧ (let s := (folding foldedGroup).updElem 0 1 0 fun e => { e with inq := vset e.inq 1 { toks := [tok1.narrow] } }
       let g := s.group 0
       g.live = true ∧ g.fold ≠ 1 ∧ s.hostQuiet 0 g 0 = true ∧ s.nextSlot 0 g 0 = some 1 ∧ 128 ≤ g.sur.getD 0 0)
    ∧ (let s := folding foldedGroup
       let g := s.group 0
       g.cut = none ∧ g.atCut = true ∧ g.why = none ∧ g.x0 + g.img.gw ≤ 4 ∧ g.y0 + g.img.gh ≤ 4 ∧ ∀ n ∈ s.vacated g, (s.tile n).owner = none)
    ∧ let s := folding fun g => { foldedGroup g with state := .halted, why := some .unfold }
      s.imageOf (s.group 0).ctx (s.group 0).img.kid = some (s.imageOf 0 0).get! := by decide +kernel

theorem test_folds :
    gives (exec (.fold 0 false) (folding id)) (fun t => (t.group 0).cut.any fun c => c.no == 1 && c.shrink == some false) = true
    ∧ gives (exec (.fold 0 false) (folding fun g => { g with state := .halted, why := some (.shrink false), img := { g.img with alt2 := [(0, {})] } }))
        (fun t => (t.group 0).fold == 2 && (t.group 0).state == .folded && (t.ctx 0).acct + 16 == 1024) = true
    ∧ gives (exec (.foldSwap 0 0) ((folding foldedGroup).updElem 0 1 0 fun e => { e with inq := vset e.inq 1 { toks := [tok1.narrow] } }))
        (fun t => (t.group 0).resident.get? 0 == some 1 && (t.group 0).sur.get? 0 == some 0) = true
    ∧ gives (exec (.unfold 0) (folding foldedGroup)) (fun t => (t.group 0).why == some .unfold && (t.tile 1).owner == some 0) = true
    ∧ gives (exec (.unfold 0) (folding fun g => { foldedGroup g with state := .halted, why := some .unfold }))
        (fun t => (t.group 0).fold == 1 && (t.group 0).state == .running && (t.group 0).sur == []) = true := by decide +kernel

/-! ### Power and bring-up -/

def alarmed (p : PSt) (oc : Bool) : State := { base with pst := p, oc := oc, snow := 5 }
def parkedS : State := onGroup { base with pst := .parked } fun g => { g with why := some .park, state := .halted }

theorem met_Power : base.pst = .run ∧ base.pst ≠ .off ∧ (alarmed .boost false).pst = .boost ∧ (alarmed .emergency true).pst = .emergency
    ∧ (alarmed .emergency false).holds = ⟨false, false, false⟩ ∧ (alarmed .throttle false).pst = .throttle
    ∧ storing.pst.active = true ∧ storing.inService.filter storing.waitsCharge = [0] ∧ storing.waitsCharge 1 = false := by decide +kernel

theorem test_power :
    (∀ p ∈ [PSt.run, .boost, .parked, .emergency], ∀ d ∈ [0, 1500, 1501, 5000],
      let s := alarmed p false
      gives (exec (.arbitrationPeriod ⟨d, d, 1⟩) s) (fun t =>
        let n := min 600000000000 (s.snow + 1500 - d)
        t.snow == n && (t.region 0).adm == 0
          && (if p = .run ∨ p = .boost then
                t.pst == (if s.budget < d then .throttle else if s.boosten && decide (0 < n) then .boost else .run)
                  && (t.region 5).half == decide (s.budget < d)
              else t.pst == p && (t.region 1).adm == 0)) = true)
    ∧ gives (exec (.powerAlarm ⟨true, false, true⟩) base) (fun t => t.pst == .emergency && t.oc && !t.droop && t.supin && t.causeCnt == 2
        && (t.region 0).adm == 0) = true
    ∧ gives (exec .emergencyExit (alarmed .emergency false)) (fun t => t.pst == (if (alarmed .emergency false).before = .boost then .run
        else (alarmed .emergency false).before)) = true
    ∧ gives (exec .railRemoved base) (fun t => t.pst == .off && t.groups == [] && t.ctxs == [] && t.good == base.good) = true := by
  decide +kernel

theorem met_PowerWrites : base.pst ≠ .off ∧ Safety.HostTurn base .pf ∧ base.sec ≠ .failed ∧ base.pst.active = true ∧ (base.group 0).live = true
    ∧ (base.group 0).why = none ∧ base.group? 0 = some (base.group 0) ∧ parkedS.pst = .parked ∧ (parkedS.group 0).why = some .park := by
  decide +kernel

theorem test_power_writes :
    gives (exec (.pwcauseClear 1) { base with oc := true, supin := true, causeCnt := 9 }) (fun t => !t.oc && t.supin && t.causeCnt == 9) = true
    ∧ gives (exec (.park 1) base) (fun t => t.park && t.pst == .parked && (t.group 0).why == some .park && (t.group 0).draining) = true
    ∧ gives (exec (.unpark 1) parkedS) (fun t => !t.park && t.pst == .run && (t.group 0).why.isNone && (t.group 0).state == .running) = true := by
  decide +kernel

theorem met_BringUp : State.reset.pst = .off ∧ State.reset.springing = false ∧ base.pst ≠ .off ∧ base.sec ≠ .failed
    ∧ Safety.HostTurn base .pf ∧ base.springing = false ∧ base.ctxsIn .resident ≠ [] ∧ State.ctxsIn { base with ctxs := [] } .resident = [] := by decide +kernel

theorem test_bring_up :
    gives (exec (.shockEvent 16) base) (fun t => t.shocks == base.shocks + 1 && t.shockPend && t.shockPeak == 16) = true
    ∧ gives (exec .springCheck base) (fun t => t == { base with hubStat := 5 }) = true
    ∧ gives (exec .springCheck { base with ctxs := [] }) (fun t => t.springing && t.hubStat == 7) = true
    ∧ gives (exec (.springCheckDone 0x801 false) { base with springing := true }) (fun t => !t.springing && t.good == 62 && t.cls == 1
        && t.fenced == 0x801) = true := by decide +kernel

/-! ### The host's windows, contexts, security, registers, links -/

def pf : HostAt := ⟨.pf, 0⟩
/-- `spawning` with a name, a handle opened by the host, and the bytes of its record. -/
def hosted : State :=
  let s := { spawning with names := spawning.names.put (nameKey 0 7) { obj := some 1 } }
  s.updCtx 0 fun c => { c with dirarg := vset (vset c.dirarg 0 (7 + 2 ^ 32)) 1 (8 : Dword), kaddr := 0, pgaddr := 0x10000 }
def recBytes : List Byte := leBytes 64 (5 * 2 ^ 256 + 2 ^ 48 + 2 ^ 44)
def recOf : TaskRec := (TaskRec.parse (leNat recBytes)).getD default

/-- No kernel is loaded: every record is refused with code 4. -/
def bare : State := hosted.updCtx 0 fun c => { c with kernels := [], queues := Vector.replicate 16 {} }
def qWord : Dword := BitVec.ofNat 64 (2 ^ 62 + 65536 * 2 ^ 32 + 5)

/-- A word that closes a queue; the queue closed. -/
def qClose : Dword := BitVec.ofNat 64 (2 ^ 63)
def closedQ : State := hosted.updCtx 0 fun c => { c with queues := vset c.queues 0 { st := 2, alim := 10 } }

/-- The host's request to SEM9 at the head of its unit's queue. -/
def hostSem : State :=
  let s := { hosted with accs := [(7, { slot := 1032, rule := Via.fn .pf, req := .sem 0 9 (.host 0x12345678 true), order := .rel })], nextId := 8 }
  s.updRegion 0 fun x => { x with sq := [7] }

theorem met_HostTasks :
    Safety.HostTurn hosted .pf ∧ Safety.HostTurn bare .pf ∧ (hostSem.region 0).sq = [7] ∧ hostSem.ctxs.get? 0 = some (hostSem.ctx 0)
    ∧ hosted.window? pf = some (hosted.ctx 0) ∧ (hosted.ctx 0).state ≠ .resetting ∧ recBytes.length = 64
    ∧ TaskRec.parse (leNat recBytes) = some recOf ∧ hosted.launchCode 0 recOf = 0 ∧ bare.window? pf = some (bare.ctx 0)
    ∧ bare.launchCode 0 recOf ≠ 0 ∧ (vget (bare.ctx 0).queues 3).st = 0 ∧ field qWord.toNat 63 62 = 1
    ∧ 1 ≤ field qWord.toNat 48 32 ∧ (vget (hosted.ctx 0).queues 0).st = 1 ∧ field qClose.toNat 63 62 = 2
    ∧ closedQ.window? pf = some (closedQ.ctx 0) ∧ (vget (closedQ.ctx 0).queues 0).st = 2 ∧ (vget (closedQ.ctx 0).queues 0).count = 0
    ∧ Safety.HostTurn closedQ .pf := by decide +kernel

theorem test_host_tasks :
    gives (exec (.launch pf recBytes) hosted) (fun t =>
      (t.tasks.get? (hosted.lastTask + 1).toNat).any (fun j => j.trec == recOf && j.ctx == 0 && j.inst == 0) && t.lastTask == hosted.lastTask + 1
        && (t.ctx 0).acc == 1 && (vget (t.ctx 0).queues 0).count == 1) = true
    ∧ gives (exec (.launch pf recBytes) bare) (fun t => (t.ctx 0).ref == 1 && (t.ctx 0).last == bare.launchCode 0 recOf && t.tasks == bare.tasks) = true
    ∧ gives (exec (.qdescWrite pf 3 qWord) bare) (fun t => (vget (t.ctx 0).queues 3).st == 1 && (vget (t.ctx 0).queues 3).alim == 65536
        && (vget (t.ctx 0).queues 3).pmax == 5) = true
    ∧ gives (exec (.qdescWrite pf 0 qClose) hosted) (fun t => (vget (t.ctx 0).queues 0).st == 2 && (vget (t.ctx 0).queues 0).alim == 10) = true
    ∧ gives (exec (.qdescWrite pf 0 0) closedQ) (fun t => (vget (t.ctx 0).queues 0).st == 0) = true
    ∧ gives (exec (.accadd pf (-2000)) hosted) (fun t => (t.ctx 0).acct == 0) = true
    ∧ gives (exec (.accadd pf 0x7FFFFFFFFFFFFFFF) hosted) (fun t => (t.ctx 0).acct == 2 ^ 48 - 1) = true
    ∧ gives (exec (.hostSemWrite pf 9 0x8000000012345678) hosted) (fun t => (t.accs.get? hosted.nextId).any fun a =>
        a.req == .sem 0 9 (.host 0x12345678 true) && a.slot == 1032) = true
    ∧ gives (exec (.syncUnitServe 0 []) hostSem) (fun t => t.sem 0 9 == ⟨0x12345678, true⟩) = true
    ∧ gives (exec (.fqidxWrite pf 0x1234) hosted) (fun t => (t.ctx 0).cons == 0x12) = true := by decide +kernel

/-- Groups that the host finds: halted for a page, or for HALT, or running; the part in INVASIVE debug, or not. -/
def found (k : Group → Group) (d : Dbg) : State :=
  let s := onGroup { withTask hosted { p := 8 } with dbg := d } k
  s.updCtx 0 fun c => { c with dbgok := true }
def haltedFor (w : Why) (g : Group) : Group := { g with state := .halted, why := some w }

theorem met_HostGroups :
    (∀ w ∈ [Why.page, .halt], let s := found (haltedFor w) .off
      s.window? pf = some (s.ctx 0) ∧ (s.ctx 0).state ≠ .resetting ∧ Safety.HostTurn s .pf ∧ s.group? (0 : Word).toNat = some (s.group 0) ∧ (s.group 0).ctx = 0
        ∧ (s.group 0).waitsHost = true ∧ s.pst ≠ .parked ∧ (s.group 0).why = some w ∧ (s.group 0).state = .halted
        ∧ (s.group 0).saved = false ∧ s.quiet 0 = true)
    ∧ (let s := found id .invasive
       (s.group 0).live = true ∧ (s.group 0).why = none ∧ s.invasive (s.group 0).ctx = true ∧ s.pst ≠ .emergency)
    ∧ (found id .off).invasive 0 = false := by decide +kernel

theorem test_host_groups :
    gives (exec (.resume pf 0) (found (haltedFor .page) .off)) (fun t => (t.group 0).state == .running && (t.group 0).why.isNone
      && (t.ctx 0).grpstat == 0) = true
    ∧ gives (exec (.requeue pf 0) (found (haltedFor .halt) .off)) (fun t => (t.group 0).saved && (t.group 0).state == .halted
      && (t.tile 0).owner.isNone) = true
    ∧ gives (exec (.abort pf 0) (found (haltedFor .halt) .off)) (fun t => (t.group? 0).isNone && (t.ctx 0).grpstat == 0) = true
    ∧ gives (exec (.halt pf 0) (found id .invasive)) (fun t => (t.group 0).why == some .halt && (t.group 0).asked == some .halt && (t.ctx 0).grpstat == 7) = true
    ∧ gives (exec (.halt pf 0) (found id .off)) (fun t => (t.ctx 0).grpstat == 6) = true
    ∧ gives (exec (.preempt pf 0) (found id .off)) (fun t => (t.group 0).why == some .preempt && (t.ctx 0).grpstat == 7) = true := by
  decide +kernel

/-- A command word of the directory window: OP, argument, handle, name. -/
def dirWord (op arg h name : Nat) : Dword := BitVec.ofNat 64 (op * 2 ^ 60 + arg * 2 ^ 56 + h * 2 ^ 44 + name)
def making : State :=
  hosted.updCtx 0 fun c => { c with dirarg := (List.range 8).foldl (fun v i => vset v ⟨i % 8, Nat.mod_lt _ (by decide)⟩
    (BitVec.ofNat 64 (descPlain / 2 ^ (64 * i)))) c.dirarg }

theorem met_HostDirectory :
    Safety.HostTurn hosted .pf ∧ Safety.HostTurn making .pf ∧ hosted.window? pf = some (hosted.ctx 0) ∧ (hosted.ctx 0).state ≠ .resetting
    ∧ (field (dirWord 1 0 0 7).toNat 63 60 = 1 ∧ nameWait ((dirWord 1 0 0 7).setWidth 32) = false
        ∧ nameId ((dirWord 1 0 0 7).setWidth 32) = 7 ∧ (hosted.name 0 7).obj = some 1 ∧ (hosted.freeSlot 0).isSome = true)
    ∧ (field (dirWord 2 0 1 0).toNat 55 44 = 1 ∧ hosted.slot? 0 1 = some { obj := 1 })
    ∧ ((bindEntry (hosted.hostClosable 0) ((dirWord 3 0 1 8).setWidth 32) 1 false).toOption = some ⟨8, some 1⟩
        ∧ hosted.bindsFull 0 [⟨8, some 1⟩] = false)
    ∧ ((bindEntry (hosted.hostClosable 0) ((dirWord 4 0 0 7).setWidth 32) 0 true).toOption = some ⟨7, none⟩ ∧ hosted.hasName 0 7 = true)
    ∧ (field (dirWord 5 1 0 0).toNat 59 56 < 8
        ∧ (bindList (hosted.hostClosable 0) (hosted.ctx 0).dirBytes (1 + 1)).toOption = some [⟨7, some 1⟩, ⟨8, none⟩]
        ∧ sameName [⟨7, some 1⟩, ⟨8, none⟩] = false ∧ hosted.bindsFull 0 [⟨7, some 1⟩] = false)
    ∧ (field (dirWord 6 12 1 0).toNat 59 56 ≤ 12 ∧ hosted.hostSlot 0 1 = some { obj := 1 })
    ∧ (descInvalid (leNat ((making.ctx 0).dirBytes.take 32)) = false ∧ making.keyLoaded 0 (leNat ((making.ctx 0).dirBytes.take 32)) = true)
    ∧ State.observes { hosted with dbg := .observe } = true ∧ State.observes { hosted with dbg := .off } = false := by decide +kernel

/-- The free object number is not known, but the host's MKOBJ finds room on these tables. -/
theorem met_HostDirectory_make : making.canMake 0 (leNat ((making.ctx 0).dirBytes.take 32)) 0 (making.home 0) = true := by decide +kernel

theorem test_host_directory :
    gives (exec (.hostOpen pf (dirWord 1 0 0 7)) hosted) (fun t => (t.ctx 0).dirstat == BitVec.ofNat 64 (2 * 2 ^ 32)
      && t.slots.get? (slotKey 0 2) == some { obj := 1 }) = true
    ∧ gives (exec (.hostClose pf (dirWord 2 0 1 0)) hosted) (fun t => (t.ctx 0).dirstat == 0 && (t.slots.get? (slotKey 0 1)).isNone) = true
    ∧ gives (exec (.hostBind pf (dirWord 3 0 1 8)) hosted) (fun t => (t.ctx 0).dirstat == 0 && (t.name 0 8).obj == some 1) = true
    ∧ gives (exec (.hostUnbind pf (dirWord 4 0 0 7)) hosted) (fun t => (t.ctx 0).dirstat == 0 && (t.name 0 7).obj == none) = true
    ∧ gives (exec (.hostRebind pf (dirWord 5 1 0 0)) hosted) (fun t => (t.ctx 0).dirstat == 0 && (t.name 0 7).obj == some 1
      && (t.name 0 8).obj == none) = true
    ∧ gives (exec (.hostQuery pf (dirWord 6 3 1 0)) hosted) (fun t => (t.ctx 0).dirstat == BitVec.ofNat 64 (hosted.queryVal 1 3 * 2 ^ 32)) = true
    ∧ gives (exec (.direntRead pf) { hosted with dbg := .observe }) (fun t => t.readData == 0) = true := by decide +kernel

/-- Object 1 with one page: out of the chip, in a vault frame of this die, or pinned. -/
def paged (p : Page) (desc : Nat) : State :=
  { hosted with objs := hosted.objs.put 1 { desc := desc, st := .shared, pages := [(0, p)] }
                hostMem := hosted.hostMem.writes 0x10000 [0xAA, 0xBB] }
def outPage : Page := { v := false, dead := false }
def inPage : Page := { v := true, dead := false, loc := 0, frame := 0 }
/-- The window's words name object 1 in bits 31 to 16. -/
def pageCmd (op : Nat) : Dword := BitVec.ofNat 64 (op * 2 ^ 60 + 2 ^ 16)
/-- The smallest image that passes step 1: its header, and one section of no bytes. -/
def imageBytes : List Byte :=
  leBytes 80 (0x314B4C54 + 80 * 2 ^ 32 + 2 ^ 88 + 2 ^ 92 + 2 ^ 320 + 2 ^ 336 + 2229321257 * 2 ^ 352 + (9 + 80 * 2 ^ 32) * 2 ^ 512)
def stored : State := (paged inPage descPlain).updCtx 0 fun c => { c with dwsel := 1 <<< 52 }
def kernelHost : State := { hosted with hostMem := hosted.hostMem.writes 0 imageBytes }

set_option maxRecDepth 100000 in
theorem met_HostPagesAndKernels :
    (∀ p ∈ [outPage, inPage], let s := paged p descPlain
      s.window? pf = some (s.ctx 0) ∧ (s.ctx 0).state ≠ .resetting ∧ Safety.HostTurn s .pf ∧ s.pgops = [] ∧ field (pageCmd 1).toNat 31 16 = 1 ∧ field (pageCmd 1).toNat 63 60 = 1 ∧ field (pageCmd 1).toNat 51 32 = 0
        ∧ s.objs.get? 1 = some { desc := descPlain, st := .shared, pages := [(0, p)] } ∧ 0 < descPages descPlain
        ∧ s.placePage s.usedFrames (descPlace descPlain) 0 0 0 = some (0, 0) ∧ (∀ x ∈ s.tasks, x.2.ended = false ∧ x.2.openSlots = 0)
        ∧ p.moving = none ∧ p.pin = false ∧ s.pageBusy 1 0 = false ∧ s.nodeBusy 1 0 = false ∧ s.others.filter s.reaches = [] ∧ p.die = s.die.toNat ∧ p.dead = false
        ∧ (frameAddr p.loc p.frame).isSome = true)
    ∧ ((hosted.ctx 0).kernels.get? 5 = none ∧ 64 ≤ leNat (kernelHost.hostMem.reads 4 4) ∧ leNat (kernelHost.hostMem.reads 4 4) ≤ 196608
      ∧ imageStep1 (kernelHost.hostMem.reads 0 80) = 0 ∧ leNat (kernelHost.hostMem.reads 4 4) = 80)
    ∧ ((hosted.ctx 0).kernels.get? 0).any (fun k => k.st == .loaded) = true
    ∧ ((paged inPage descPlain).aperture ((paged inPage descPlain).ctx 0) 0 8).isNone = true
    ∧ (stored.aperture (stored.ctx 0) 0 8).any (fun x => x.1 == 1 && x.2.2 == 8 && (x.2.1.page 8).moving.isNone && (x.2.1.page 8).die == 0
        && descWr x.2.1.desc && !descFe x.2.1.desc && !(x.2.1.page 8).dead && x.2.1.addr 8 == some 0x10000008) = true
    ∧ stored.isHot 1 8 = false ∧ (∀ x ∈ stored.accs, x.2.slot ≠ 1032) := by
  decide +kernel

set_option maxRecDepth 100000 in
theorem test_host_pages :
    gives (exec (.pgunpin pf (pageCmd 3)) (paged { inPage with pin := true, mig := 2 } descPlain)) (fun t =>
      ((t.objs.get? 1).bind fun o => o.pages.get? 0) == some inPage && (t.ctx 0).pgst == 0) = true
    ∧ gives (exec (.pgread pf (pageCmd 4)) (paged inPage descPlain)) (fun t => (t.ctx 0).pgstat == BitVec.ofNat 64 (pageEntry descPlain 0 inPage)) = true
    ∧ gives (exec (.kernelRegister pf 0) kernelHost) (fun t => (t.ctx 0).kstat == 5 && (t.ctx 0).kernels == (hosted.ctx 0).kernels) = true
    ∧ gives (exec (.kernelUnload pf 0) hosted) (fun t => (t.ctx 0).kstat == 0 && ((t.ctx 0).kernels.get? 0).isNone) = true
    ∧ gives (exec (.apertureRead pf 8) hosted) (fun t => t.readData == 0xFFFFFFFF) = true
    ∧ gives (exec (.apertureWrite pf 8 0xCAFE1234) stored) (fun t => t.mem.read 0x10000008 == 0x34 && t.mem.read 0x1000000B == 0xCA
      && gives (exec (.apertureRead pf 8) t) fun u => u.readData == 0xCAFE1234) = true := by decide +kernel

/-- A context that is defined, one that is resident; a reset of function 3 in progress. -/
def defined : State := { base with ctxs := [(0, { state := .defined, vf := 3 })], groups := [], insts := [] }
def resetting : State := { base with ctxs := [(0, { state := .resetting, vf := 3, acct := 7 })], flrs := [{ fn := 3 }] }

theorem met_Contexts : Safety.HostTurn base .pf ∧ Safety.HostTurn defined .pf ∧ base.pst ≠ .off ∧ base.sec ≠ .failed ∧ (base.ctx 9).state = .free ∧ (defined.ctx 0).state = .defined
    ∧ (∀ q ∈ (defined.ctx 0).queues.toList, q.st = 0) ∧ (defined.ctx 0).kernels = [] ∧ (∀ f ∈ defined.flrs, f.fn ≠ 3)
    ∧ resetting.flrs.find? (fun f => f.fn == 3) = some { fn := 3 } ∧ resetting.rxOwes 3 = false := by decide +kernel

theorem test_contexts :
    gives (exec (.defineContext 9 3) base) (fun t => t.ctxs.get? 9 == some { state := .defined, vf := 3 } && t.hubStat == 0) = true
    ∧ gives (exec (.undefineContext 0) defined) (fun t => t.ctxs == [] && t.hubStat == 0) = true
    ∧ gives (exec (.resetFunction 0) base) (fun t => (t.ctx 0).state == .resetting && t.groups == [] && t.hubStat == 7) = true
    ∧ gives (exec (.initiateFunctionLevelReset 0) base) (fun t => (t.ctx 0).state == .resetting && t.groups == []) = true
    ∧ gives (exec (.functionLevelResetComplete 3) resetting) (fun t => t.flrs == [] && (t.ctx 0).state == .defined && (t.ctx 0).acct == 0) = true := by
  decide +kernel

def failedS : State := { base with sec := .failed }
def quietS : State := { base with ctxs := [] }
def recoverS : State := { quietS with mbBuf := quietS.mbBuf.writes 8 (leBytes 4 4096) }
/-- KEYLOAD and KEYDROP of slot 5 for context 0. -/
def keyWord (op : Nat) : Dword := BitVec.ofNat 64 (op * 2 ^ 56 + 5 * 2 ^ 31)

theorem met_Security : Safety.HostTurn base .pf ∧ Safety.HostTurn failedS .pf ∧ Safety.HostTurn recoverS .pf ∧ base.pst ≠ .off ∧ failedS.pst ≠ .off ∧ failedS.sec = .failed ∧ base.sec ≠ .failed
    ∧ base.keys.get? 5 = none ∧ (base.keys.put 5 ⟨0, 9⟩).get? 5 = some ⟨0, 9⟩ ∧ field (keyWord 2).toNat 63 56 = 2 ∧ base.pairs.get? (0 * 8192 + 5) = none ∧ field (keyWord 3).toNat 63 56 = 3 ∧ field (keyWord 3).toNat 43 31 = 5
    ∧ (defined.ctx 0).state = .defined ∧ quietS.ctxsIn .resident = []
    ∧ leNat (recoverS.mbBuf.reads 0 8) % 4096 = 0 ∧ leNat (recoverS.mbBuf.reads 8 4) = 4096 ∧ leNat (recoverS.mbBuf.reads 12 4) = 0 := by
  decide +kernel

theorem test_security :
    gives (exec .attest failedS) (fun t => t == { failedS with mbStat := 6 }) = true
    ∧ gives (exec (.keydrop (keyWord 3)) { base with keys := base.keys.put 5 ⟨0, 9⟩ }) (fun t => t.mbStat == 0 && (t.keys.get? 5).isNone) = true
    ∧ gives (exec .bootst { base with bootReason := 2, badBoots := 3 }) (fun t => t.mbBuf.reads 0 16 == leBytes 4 2 ++ leBytes 4 3 ++ List.replicate 8 0) = true := by
  decide +kernel

/-- A write of the physical function waits; a semaphore write of it has not performed. -/
def queued : State := { hosted with hostQ := [(Via.fn .pf, .accadd pf 1)] }
def releasing : State := { hosted with accs := hostSem.accs, nextId := 8 }

theorem met_RegisterWrites : (∃ x ∈ queued.hostQ, x.1 = Via.fn pf.via) ∧ releasing.hostWrites (Via.fn pf.via) ≠ [] ∧ hosted.hostQ = [] ∧ hosted.window? pf = some (hosted.ctx 0) ∧ (hosted.ctx 0).state ≠ .resetting ∧ hosted.pst ≠ .off
    ∧ hosted.sec ≠ .failed ∧ quietS.ctxsIn .resident = [] ∧ hosted.ctxsIn .resident ≠ [] ∧ hosted.dbg = .off ∧ State.observes { hosted with dbg := .observe } = true := by
  decide +kernel

theorem test_host_order :
    gives (exec (.accadd pf 7) queued) (fun t => t.hostQ == queued.hostQ ++ [(Via.fn .pf, .accadd pf 7)]) = true
    ∧ gives (exec (.hostSemWrite pf 3 7) releasing) (fun t => t.hostQ == [(Via.fn .pf, .hostSemWrite pf 3 7)]) = true := by decide +kernel
theorem test_register_writes :
    gives (exec (.registerWrite .pf (.pgaddr 0) 0x12345) hosted) (fun t => (t.ctx 0).pgaddr == 0x12000) = true
    ∧ gives (exec (.registerWrite .pf (.ctxctl 0) 0x3000000000000005) hosted) (fun t => (t.ctx 0).dbgok && (t.ctx 0).fhold && (t.ctx 0).wdlim == 5) = true
    ∧ gives (exec (.registerWrite .pf .pwctl 0x80000708FFFF0000) hosted) (fun t => t.boosten && t.plim == 0x0708 && t.pbst == 1800) = true
    ∧ gives (exec (.registerWrite .pf .routelo 5) quietS) (fun t => t.routeLo == 5) = true
    ∧ gives (exec (.registerWrite .pf .hubst 0x2000000000000000) hosted) (fun t => t.dbg == .invasive) = true
    ∧ gives (exec (.registerWrite .pf (.evsel 3 2) 0xFFFFFFFFFFFFFFFF) { hosted with dbg := .observe }) (fun t =>
        (vget (t.region 3).ctrs 2).sel == 0xE000FFFF000000FF) = true
    ∧ gives (exec (.registerWrite .pf (.mbbuf 3) 0x1122) hosted) (fun t => t.mbBuf.reads 24 2 == [0x22, 0x11]) = true := by decide +kernel

/-- A state of link 2. -/
def linked (l : Lnk) : State := { base with lnks := vset base.lnks 2 l }
/-- A flit of type 3 from die 1 to die 0 with its CRC, and one with another. -/
def flitBytes (crc : Nat) : List Byte := leBytes 252 (3 * 2 ^ 28 + 2 ^ 24) ++ leBytes 4 crc
def upLink : Lnk := { st := .up, lanes := 8 }
def received (m : Msg) : State := { withObj (linked upLink) descInt false with spm1 := 1, rx := [{ link := 2, src := 1, scnt := 1, msg := m }] }

theorem met_LinkStates : Safety.HostTurn (linked {}) .pf ∧ base.pst ≠ .off ∧ (vget (linked { st := .failed, barred := true }).lnks 2).barred = true ∧ (∀ l ∈ [LSt.down, .failed, .up, .degraded, .training, .retraining],
    (vget (linked { st := l }).lnks 2).st = l ∧ (vget (linked { st := l }).lnks 2).barred = false) := by decide +kernel

theorem test_link_states :
    gives (exec (.linkRetrain 2) (linked {})) (fun t => (vget t.lnks 2).st == .training) = true
    ∧ gives (exec (.linkRetrain 2) (linked upLink)) (fun t => (vget t.lnks 2).st == .retraining && (vget t.lnks 2).retrn == 1) = true
    ∧ gives (exec (.linkReset 2) (linked upLink)) (fun t => (vget t.lnks 2).st == .down) = true
    ∧ gives (exec (.linkTrainingDone 2 5) (linked { st := .training })) (fun t => (vget t.lnks 2).st == .degraded && (vget t.lnks 2).lanes == 4) = true
    ∧ gives (exec (.linkTrainingDone 2 3) (linked { st := .retraining })) (fun t => (vget t.lnks 2).st == .failed && (vget t.lnks 2).lanes == 0) = true
    ∧ gives (exec (.laneLost 2) (linked upLink)) (fun t => (vget t.lnks 2).st == .retraining) = true
    ∧ gives (exec (.linkRetrainTimeout 2) (linked { st := .retraining })) (fun t => (vget t.lnks 2).st == .failed) = true := by
  decide +kernel

set_option maxRecDepth 100000 in
theorem met_Flits :
    ((flitBytes 3035576204).length = 256 ∧ (vget (linked upLink).lnks 2).open_ = true
      ∧ leNat ((flitBytes 3035576204).drop 252) = (crc32 ((flitBytes 3035576204).take 252)).toNat
      ∧ leNat ((flitBytes 1).drop 252) ≠ (crc32 ((flitBytes 1).take 252)).toNat
      ∧ (let h := leNat ((flitBytes 3035576204).take 4)
         field h 31 28 < 12 ∧ field h 2 0 < 4 ∧ BitVec.ofNat 8 (field h 19 12) = (vget (linked upLink).lnks 2).rxSeq
          ∧ field h 27 24 ≤ (received .probe).spm1.toNat ∧ field h 23 20 = (received .probe).die.toNat))
    ∧ (let s := received (.read 9 1 0 4)
       let x : Rx := { link := 2, src := 1, scnt := 1, msg := .read 9 1 0 4 }
       firstRx 1 s.rx = some ([], x, []) ∧ s.unseen x.clock = [] ∧ s.coveredServed [] [] x.clock = true
        ∧ x.msg.asReq = some (9, .rd ⟨1, 0, 0⟩ (byteFmt 4)) ∧ s.keyMissing (.rd ⟨1, 0, 0⟩ (byteFmt 4)) = false
        ∧ (Req.rd ⟨1, 0, 0⟩ (byteFmt 4)).target = some (1, 0) ∧ (s.objs.get? 1).isSome = true)
    ∧ (received .probe).rx.find? (fun x => x.src == 1 && x.msg == .probe) = some { link := 2, src := 1, scnt := 1, msg := .probe }
    ∧ (received (.probeAns 7)).rx.find? (fun x => x.src == 1 && x.msg.type == 8) = some { link := 2, src := 1, scnt := 1, msg := .probeAns 7 }
    ∧ (let s := { received (.applied 7) with accs := [(7, { task := some 0, node := .elem 0, remote := true })] }
       s.rx.find? (fun x => x.src == 1 && x.msg.type == 4) = some { link := 2, src := 1, scnt := 1, msg := .applied 7 }
        ∧ (s.accs.get? 7).any (fun a => a.remote && !a.staged && a.acks == [] && a.req == .fence) = true) := by decide +kernel

set_option maxRecDepth 100000 in
theorem test_flits :
    gives (exec (.flitReceive 2 (flitBytes 1)) (linked upLink)) (fun t => (vget t.lnks 2).crcerr == 1 && (vget t.lnks 2).sent == 1
      && !(vget t.lnks 2).nak && t.rx == []) = true
    ∧ gives (exec (.probeAnswer 1) (received (.probeAns 7))) (fun t => vget t.seenBy 1 == 7) = true := by decide +kernel

/-! ### Frames, the step, the encodings, the memory -/

theorem met_ResultFrame : Claims.dstOf (.add ⟨.alw, .d 3, .d 1, .d 2, 0, false, false, .none⟩) = some (.d 3)
    ∧ arith.here = some (H arith)
    ∧ gives (exec (.add ⟨.alw, .d 3, .d 1, .d 2, 0, false, false, .none⟩) arith) (fun t => vget (t.elem 0 0 0).d 3 == 6) = true := by
  decide +kernel

/-- ADDI d3, d1, 5 stands in slot 0 and fires next; a vector command advances next; a turn of tiles or of an event is next. -/
def planned : State :=
  { onEl arith (fun e => { e with slots := vset e.slots 0 0x00118805 }) with plan := [{ l := ⟨0, 0⟩, deed := .fire 0 0 }] }
def laned : State := { vecRun 1 vAdd with plan := [{ l := ⟨0, 0⟩, deed := .advance .vector 0 }] }
def turns (t : Turn) : State := { planned with plan := [], agenda := [t] }

theorem met_StepRunsDecoded :
    (decodeRule (vget (planned.elem 0 0 0).slots 0)).toOption.isSome = true ∧ (laned.inst 0 0).laneInstr .vector 0 = some (.vadd vAdd) := by
  decide +kernel

theorem test_step :
    gives (step planned) (fun t => vget (t.elem 0 0 0).d 3 == 12 && t.plan == []) = true
    ∧ gives (step (turns (.tiles 0 [0] []))) (fun t => vget (t.elem 0 0 0).d 3 == 12) = true
    ∧ gives (step (turns (.event (.pgread ⟨.pf, 9⟩ 0)))) (fun t => t.agenda == []) = true
    ∧ gives (step laned) (fun t => ((t.inst 0 0).buf 2).length == 1) = true := by decide +kernel

theorem met_RoundTrip : (Instr.movi ⟨.alw, .d 1, -3⟩).wf = true ∧ encode (.movi ⟨.alw, .d 1, -3⟩) = some ⟨.rule, 0x0188FFFD⟩ := by
  decide +kernel

theorem met_StepKeepsMemory : base.mem.wf = true ∧ base.hostMem.wf = true ∧ base.mbBuf.wf = true ∧ gives (step base) (fun _ => true) = true := by
  decide +kernel

/-! ### Words written out from the tables of spec/04_encoding.md: every opcode of R87 and R90 -/

/-- R79: TRIG × 2^26 + OP × 2^19 + DST × 2^15 + SA × 2^11 + SB × 2^7 + MOD. -/
def rw (t op d a b m : Nat) : Word := BitVec.ofNat 32 (t * 2 ^ 26 + op * 2 ^ 19 + d * 2 ^ 15 + a * 2 ^ 11 + b * 2 ^ 7 + m)

def reads (w : Word) (i : Instr) : Bool := (decodeRule w).toOption == some i

/-- ITOK 1, DST o2, A dequeues i1, B is k1, PD 5, PW, CTAG, DIMC b. -/
theorem test_words_two_sources :
    (([ (0x00, .add), (0x01, .sub), (0x03, .mul), (0x04, .mulh), (0x05, .mulhu), (0x06, .min), (0x07, .max), (0x08, .minu),
        (0x09, .maxu), (0x0A, .addsh), (0x0B, .absd), (0x0C, .adds), (0x0D, .subs), (0x10, .and), (0x11, .or), (0x12, .xor),
        (0x13, .andn), (0x17, .shl), (0x18, .shr), (0x19, .sar), (0x20, .ceq), (0x21, .cne), (0x22, .clt), (0x23, .cle),
        (0x24, .cltu), (0x25, .cleu), (0x34, .steer), (0x35, .merge), (0x36, .carry), (0x39, .tagw), (0x3D, .cntup),
        (0x40, .fadd), (0x41, .fsub), (0x42, .fmul), (0x44, .fmax), (0x45, .fmin), (0x46, .fclt) ] :
      List (Nat × (Ea2 → Instr))).all fun r =>
        reads (rw 0b011001 r.1 10 9 13 0b1011110) (r.2 ⟨.tok 1, .o 2, .deq 1, .k 1, 5, true, true, .b⟩)) = true := by
  decide +kernel

/-- IEND 6 (END at i2), DST predicate only with PW, A peeks i3, an unused SB that is ignored. -/
theorem test_words_one_source :
    (([ (0x0E, .neg), (0x0F, .abs), (0x1D, .clz), (0x1E, .popc), (0x30, .mov), (0x3A, .tagr), (0x3B, .dimr) ] :
      List (Nat × (Ea1 → Instr))).all fun r =>
        reads (rw 0b100110 r.1 12 15 6 0b0101001) (r.2 ⟨.endc 2, .pred, .peek 3, 2, true, false, .a⟩)) = true := by decide +kernel

/-- PF 3, DST d4, A d6; IMM11 −1,024 is SB 8 and MOD 0; IMM7 −5 is SB 15 and MOD 3. -/
theorem test_words_immediates :
    (([ (0x02, .addi), (0x14, .andi), (0x15, .ori), (0x16, .xori) ] : List (Nat × (Ei → Instr))).all fun r =>
        reads (rw 0b010011 r.1 4 6 8 0) (r.2 ⟨.pf 3, .d 4, .d 6, BitVec.ofInt 11 (-1024)⟩)) = true
    ∧ (([ (0x1A, .shli), (0x1B, .shri), (0x1C, .sari) ] : List (Nat × (EiShift → Instr))).all fun r =>
        reads (rw 0b010011 r.1 13 6 0 31) (r.2 ⟨.pf 3, .none, .d 6, 31⟩)) = true
    ∧ (([ (0x26, .ceqi), (0x27, .clti), (0x28, .cgti) ] : List (Nat × (EiCmp → Instr))).all fun r =>
        reads (rw 0 r.1 12 1 15 0b0111011) (r.2 ⟨.alw, .pred, .d 1, BitVec.ofInt 7 (-5), 3, true⟩)) = true
    ∧ reads (rw 0 0x1F 0 1 0b1001 0b1100100) (.bfx ⟨.alw, .d 0, .d 1, 4, 7, true⟩) = true
    ∧ reads 0x01360FBB (.ceqi ⟨.alw, .pred, .d 1, BitVec.ofInt 7 (-5), 3, true⟩) = true := by decide +kernel

/-- PT 7 and the predicate forms: DST 12, PW 1. -/
theorem test_words_predicates :
    (([ (0x29, .pand), (0x2A, .por), (0x2B, .pxor) ] : List (Nat × (Pr2 → Instr))).all fun r =>
        reads (rw 0b001111 r.1 12 1 2 0b0111000) (r.2 ⟨.pt 7, 3, 1, 2⟩)) = true
    ∧ (([ (0x2C, .pnot), (0x2F, .pmov) ] : List (Nat × (Pr1 → Instr))).all fun r =>
        reads (rw 0b001111 r.1 12 5 0 0b0111000) (r.2 ⟨.pt 7, 3, 5⟩)) = true
    ∧ (([ (0x2D, .pset), (0x2E, .pclr) ] : List (Nat × (Pr0 → Instr))).all fun r =>
        reads (rw 0b001111 r.1 12 0 0 0b0111000) (r.2 ⟨.pt 7, 3⟩)) = true := by decide +kernel

/-- MOVI, MOVHI, MOVK, DROP, REQ, ENDT, SEL, GETS, FMA and FCVT, under the triggers that are left. -/
theorem test_words_constants_and_tokens :
    reads 0x0188FFFD (.movi ⟨.alw, .d 1, BitVec.ofInt 15 (-3)⟩) = true
    ∧ reads (rw 0b011101 0x32 13 1 0 0) (.movhi ⟨.ctl 1, .none, 0x800⟩) = true
    ∧ reads (rw 0b100010 0x33 9 0 14 0b0101011) (.movk ⟨.dend 2, .o 1, 2, 2, true, .ab⟩) = true
    ∧ reads (rw 0b101011 0x37 0 11 0 0) (.drop ⟨.tag 3, 3⟩) = true
    ∧ reads (rw 0b101100 0x3C 0 8 0 0) (.req ⟨.null 0, 0⟩) = true
    ∧ reads 0x01C48002 (.endt ⟨.alw, 1, 2⟩) = true
    ∧ reads 0x01F444B0 (.sel ⟨.alw, .o 0, .deq 0, .deq 1, 3, false, .none⟩) = true
    ∧ reads 0x01FA000B (.gets ⟨.alw, .d 4, 11⟩) = true
    ∧ reads (rw 0b110010 0x43 5 2 7 0b0011100) (.fma ⟨.rdy 2, 5, .d 2, .d 7, 1, true, true, .none⟩) = true
    ∧ reads 0x02390808 (.fcvt ⟨.alw, .d 2, .d 1, 0, 1, 0⟩) = true := by decide +kernel

/-- Memory access: LDP half, STP byte, and size 10 with the scope and order of MOD. -/
theorem test_words_memory :
    reads (rw 0 0x48 2 0 0 0b0000001) (.ldp ⟨.alw, .d 2, .d 0, .elem, .rlx, .half⟩) = true
    ∧ reads (rw 0 0x49 13 0 9 0b0010000) (.stp ⟨.alw, .none, .d 0, .deq 1, .tile, .rlx, .byte⟩) = true
    ∧ (([ (0x4A, .ldt), (0x4D, .ldfe), (0x4E, .ldfec) ] : List (Nat × (EmLd → Instr))).all fun r =>
        reads (rw 0 r.1 8 9 0 0b0100110) (r.2 ⟨.alw, .o 0, .deq 1, .group, .acq⟩)) = true
    ∧ (([ (0x4B, .stt), (0x4F, .stfe) ] : List (Nat × (EmSt → Instr))).all fun r =>
        reads (rw 0 r.1 10 8 9 0b0101010) (r.2 ⟨.alw, .o 2, .deq 0, .deq 1, .group, .rel⟩)) = true
    ∧ (([ (0x58, .aadd), (0x59, .amax), (0x5A, .afmax), (0x5B, .amin), (0x5C, .axchg), (0x5E, .aor), (0x5F, .ardrs) ] :
      List (Nat × (EmSt → Instr))).all fun r =>
        reads (rw 0 r.1 3 1 4 0b0111110) (r.2 ⟨.alw, .d 3, .d 1, .d 4, .region, .acqrel⟩)) = true
    ∧ reads (rw 0 0x4C 8 2 13 0b1010010) (.ldlink ⟨.alw, .o 0, .d 2, .k 1, .span, .rlx⟩) = true
    ∧ reads (rw 0 0x5D 3 1 4 0b0111110) (.acas ⟨.alw, 3, .d 1, .d 4, .region, .acqrel⟩) = true
    ∧ reads (rw 0 0x50 13 1 2 0b0110011) (.disc ⟨.alw, .none, .d 1, .d 2, .region, .rlx⟩) = true
    ∧ reads 0x028C804C (.fence ⟨.alw, .o 1, .device, .acqrel⟩) = true
    ∧ reads (rw 0 0x52 0 5 0 0b0101111) (.pref ⟨.alw, .d 5, .group⟩) = true := by decide +kernel

/-- Semaphores, barriers, futures, the drop account and the directory. -/
theorem test_words_sync_and_directory :
    reads 0x03001005 (.semadd ⟨.alw, .d 2, 5⟩) = true ∧ reads 0x03100007 (.semset ⟨.alw, .d 0, 7⟩) = true
    ∧ reads 0x030C9805 (.semwait ⟨.alw, 1, .d 3, 5⟩) = true ∧ reads 0x031A0005 (.semrd ⟨.alw, .d 4, 5⟩) = true
    ∧ reads 0x03200002 (.barriv ⟨.alw, 2⟩) = true ∧ reads 0x032C0002 (.barwt ⟨.alw, 0, 2⟩) = true
    ∧ reads 0x03350001 (.baraw ⟨.alw, 2, 1⟩) = true ∧ reads 0x03418800 (.spawn ⟨.alw, .d 3, .d 1⟩) = true
    ∧ reads 0x03480900 (.fres ⟨.alw, .d 1, .d 2⟩) = true ∧ reads 0x03500800 (.fjoin ⟨.alw, .d 1⟩) = true
    ∧ reads 0x035A0828 (.fpoll ⟨.alw, .d 4, .d 1, 2, true⟩) = true ∧ reads 0x03600000 (.trigger ⟨.alw⟩) = true
    ∧ reads 0x036B8028 (.seal ⟨.alw, .d 7, 2, true⟩) = true ∧ reads 0x03710838 (.fill ⟨.alw, .d 2, .d 1, 3, true⟩) = true
    ∧ reads 0x037A0000 (.pkrd ⟨.alw, .d 4, 0, false⟩) = true
    ∧ reads 0x67844800 (.openName ⟨.tok 1, .o 0, .deq 1, 0, false⟩) = true ∧ reads 0x03881000 (.close ⟨.alw, .d 2⟩) = true
    ∧ reads 0x03900900 (.bind ⟨.alw, .d 1, .d 2⟩) = true ∧ reads 0x03980800 (.unbind ⟨.alw, .d 1⟩) = true
    ∧ reads 0x03A00680 (.rebind ⟨.alw, .d 0, .k 1⟩) = true ∧ reads 0x03AA9600 (.query ⟨.alw, .d 5, .d 2, .k 0, 0, false⟩) = true
    ∧ reads 0x03B18018 (.mkobj ⟨.alw, .d 3, .d 0, 1, true⟩) = true := by decide +kernel

/-- Issue, traps, completion and events; listing line A32 of spec/. -/
theorem test_words_issue_and_system :
    reads 0x63C041A2 (.issue ⟨.tok 0, 2, 0, .two (.deq 0) (.d 3)⟩) = true
    ∧ reads (rw 0 0x78 13 4 0 0b0011101) (.issue ⟨.alw, 1, 61, .one (.d 4)⟩) = true
    ∧ reads (rw 0 0x78 15 0 0 0b1000000) (.issue ⟨.alw, 4, 15, .none⟩) = true
    ∧ reads 0x03CB2282 (.issuev ⟨.alw, 0, .d 4, .two (.d 5) 6⟩) = true
    ∧ reads 0x03D01012 (.sets ⟨.alw, .d 2⟩) = true ∧ reads 0x03D80085 (.trap ⟨.alw, 0x85⟩) = true
    ∧ reads 0x03E00000 (.tret ⟨.alw⟩) = true ∧ reads 0x23E80000 (.done ⟨.pt 0⟩) = true ∧ reads 0x47E80000 (.done ⟨.pf 1⟩) = true
    ∧ reads 0x03F01802 (.evcnt ⟨.alw, .d 3, 2⟩) = true := by decide +kernel

/-- R91: OP × 2^24 + BA × 2^21 + BB × 2^18 + BO × 2^15 + FMT × 2^12 + RND × 2^10 + WID × 2^8 + CNT. -/
theorem test_words_vector :
    (([ (0x01, .vadd), (0x02, .vsub), (0x03, .vmul), (0x04, .vfma), (0x05, .vmin), (0x06, .vmax), (0x07, .vabs), (0x08, .vneg),
        (0x09, .vscl), (0x0A, .vadds), (0x10, .vexp2), (0x11, .vlog2), (0x12, .vrcp), (0x13, .vrsq), (0x14, .vtanh),
        (0x15, .vsigm), (0x20, .vcvt), (0x21, .vqdp8), (0x22, .vspc), (0x23, .vspx), (0x30, .vrsum), (0x31, .vrmax),
        (0x32, .vramax), (0x33, .vrdrn), (0x40, .vcmp), (0x41, .vsel), (0x42, .vperm), (0x43, .vbcast), (0x44, .vzip),
        (0x45, .vuzp), (0x50, .vtop2), (0x51, .vtags), (0x53, .vhdrn) ] : List (Nat × (VCmd → Instr))).all fun r =>
      (decodeVec (BitVec.ofNat 32 (r.1 * 2 ^ 24 + 3 * 2 ^ 21 + 1 * 2 ^ 18 + 6 * 2 ^ 15 + 1 * 2 ^ 12 + 2 * 2 ^ 10 + 1 * 2 ^ 8 + 200))).toOption
        == some (r.2 ⟨3, 1, 6, 1, 2, true, 200⟩)) = true
    ∧ (decodeVec 0x01051004).toOption = some (.vadd ⟨0, 1, 2, 1, 0, false, 4⟩)
    ∧ (decodeVec 0x52058000).toOption = some (.vheap ⟨0, 1, 3, 0, 0, false, 0⟩)
    ∧ (decodeVec 0x60006005).toOption = some (.vcnt ⟨0, 0, 0, 6, 0, false, 5⟩)
    ∧ (decodeVec 0x61006005).toOption = some (.vscan ⟨0, 0, 0, 6, 0, false, 5⟩) := by decide +kernel

/-- R92: OP × 2^24 + ACC × 2^23 + TAG × 2^22 + BANK × 2^19 + ASRC × 2^16 + AF × 2^14 + WF × 2^12 + ROWS × 2^5 + MSK × 2^4 + SPN × 2^3. -/
theorem test_words_matrix :
    (decodeMat 0x01090000).toOption = some (.mxld ⟨1, 1, 0⟩)
    ∧ (decodeMat 0x022A1000).toOption = some (.mxldt ⟨5, 2, 1⟩)
    ∧ (decodeMat 0x03080000).toOption = some (.mxevict ⟨1⟩) ∧ (decodeMat 0x04380000).toOption = some (.mxres ⟨7⟩)
    ∧ (decodeMat 0x10967000).toOption = some (.mxmul ⟨true, 2, 6, ⟨1, 3⟩, 0⟩)
    ∧ (decodeMat 0x11C20FE0).toOption = some (.mxmult ⟨true, 2, ⟨0, 0⟩, 127, false⟩)
    ∧ (decodeMat 0x11400070).toOption = some (.mxmult ⟨false, 0, ⟨0, 0⟩, 3, true⟩)
    ∧ (decodeMat 0x122BE028).toOption = some (.mxmuls ⟨false, .bank 5, 3, ⟨3, 2⟩, 1, true⟩)
    ∧ (decodeMat 0x12435070).toOption = some (.mxmuls ⟨false, .tag true, 3, ⟨1, 1⟩, 3, false⟩)
    ∧ (decodeMat 0x20340100).toOption = some (.mxgrad ⟨.bank 6, 4, 8⟩)
    ∧ (decodeMat 0x21A80000).toOption = some (.mxgdrn ⟨true, 5⟩)
    ∧ (decodeMat 0x308620A0).toOption = some (.mxdrn ⟨true, 6, true, 5⟩)
    ∧ (decodeMat 0x31800FE0).toOption = some (.mxzero ⟨true, 127⟩) := by decide +kernel

/-- R93 and R94: NEST in [23:21], OUT or IN in [20:18], LEVEL or OUT in [17:15], BTOK or SEMEN in [14], SEM in [13:8], ZF in [7]. -/
theorem test_words_stream_and_copy :
    (decodeStream 0x01000000).toOption = some (.swalk ⟨0, 0⟩) ∧ (decodeStream 0x01AC0000).toOption = some (.swalk ⟨5, 3⟩)
    ∧ (decodeStream 0x02204000).toOption = some (.sbnd ⟨1, 0, true⟩) ∧ (decodeStream 0x02220000).toOption = some (.sbnd ⟨1, 4, false⟩)
    ∧ (decodeStream 0x03200000).toOption = some (.sstop ⟨1⟩)
    ∧ (decodeCopy 0x01BAC980).toOption = some (.cpy ⟨5, 6, 5, ⟨true, 9⟩, true⟩)
    ∧ (decodeCopy 0x02BAC980).toOption = some (.cpyg ⟨5, 6, 5, ⟨true, 9⟩, true⟩)
    ∧ (decodeCopy 0x03B84980).toOption = some (.cpys ⟨5, 6, ⟨true, 9⟩, true⟩)
    ∧ (decodeCopy 0x0441C580).toOption = some (.cpyw ⟨2, 3, ⟨true, 5⟩, true⟩)
    ∧ (decodeCopy 0x05604980).toOption = some (.cpyf ⟨3, ⟨true, 9⟩, true⟩)
    ∧ (decodeCopy 0x06004300).toOption = some (.cpyb ⟨⟨true, 3⟩⟩)
    ∧ (decodeCopy 0x07604980).toOption = some (.cpyx ⟨3, ⟨true, 9⟩, true⟩) := by decide +kernel

/-- The word is refused for this reason. -/
def refused (o : Except Reject Instr) (r : Reject) : Bool :=
  match o with
  | .error e => e == r
  | .ok _ => false

/-- The encodings that name nothing (R81, R95, R102), one for each row and list entry. -/
theorem test_words_refused :
    refused (decodeRule 0xFFFFFFFF) .emptySlot = true ∧ refused (decodeRule (rw 0b111000 0 0 0 0 0)) .trigger = true
    ∧ refused (decodeRule (rw 0b000001 0 0 0 0 0)) .trigger = true ∧ refused (decodeRule (rw 0b110100 0 0 0 0 0)) .trigger = true
    ∧ (∀ op ∈ ([0x53, 0x54, 0x55, 0x56, 0x57, 0x67, 0x77, 0x7F] : List Nat), refused (decodeRule (rw 0 op 0 0 0 0)) .reservedOpcode = true)
    ∧ refused (decodeRule (rw 0 0 14 0 0 0)) .operand = true ∧ refused (decodeRule (rw 0 0 12 0 0 0)) .operand = true
    ∧ refused (decodeRule (rw 0 0x29 12 8 0 8)) .operand = true ∧ refused (decodeRule (rw 0 0x37 0 12 0 0)) .operand = true
    ∧ refused (decodeRule (rw 0 0x4A 0 0 0 0b1100010)) .emField = true ∧ refused (decodeRule (rw 0 0x4A 0 0 0 1)) .emField = true
    ∧ refused (decodeRule (rw 0 0x48 0 0 0 3)) .emField = true ∧ refused (decodeRule (rw 0 0x78 0 0 0 0b1010000)) .exField = true
    ∧ refused (decodeRule (rw 0 0x78 0 0 0 3)) .exField = true ∧ refused (decodeRule (rw 0 0x79 8 0 0 2)) .exField = true
    ∧ refused (decodeRule (rw 0 0x1A 0 0 0 32)) .immediate = true ∧ refused (decodeRule (rw 0 0x3F 0 0 0 19)) .immediate = true
    ∧ refused (decodeRule (rw 0 0x47 0 0 1 0b0010000)) .immediate = true ∧ refused (decodeRule (rw 0 0x38 8 0 0 5)) .immediate = true
    ∧ refused (decodeRule (rw 0 0x7B 0 0 0 0x7F)) .immediate = true ∧ refused (decodeVec 0) .unassigned = true
    ∧ refused (decodeVec 0x01000200) .commandField = true ∧ refused (decodeVec 0x10005000) .commandFormat = true
    ∧ refused (decodeMat 0x10070000) .commandField = true ∧ refused (decodeMat 0x10001000) .commandFormat = true
    ∧ refused (decodeStream 0x02028000) .commandField = true ∧ refused (decodeStream 0x01000001) .commandField = true
    ∧ refused (decodeCopy 0x01000040) .commandField = true ∧ refused (decodeCopy 0x08000000) .unassigned = true := by decide +kernel

/-- An ill-formed term for each check of WellFormed.lean, which the check refuses (R82, R87, R89, R130, R192, R225). -/
theorem test_ill_formed :
    (Instr.add ⟨.alw, .pred, .d 0, .d 0, 0, false, false, .none⟩).wf = false
    ∧ (Instr.neg ⟨.alw, .pred, .d 0, 0, false, false, .none⟩).wf = false
    ∧ (Instr.addi ⟨.alw, .pred, .d 0, 0⟩).wf = false ∧ (Instr.shli ⟨.alw, .pred, .d 0, 0⟩).wf = false
    ∧ (Instr.bfx ⟨.alw, .d 0, .d 0, 4, 28, false⟩).wf = false ∧ (Instr.bfx ⟨.alw, .pred, .d 0, 4, 7, false⟩).wf = false
    ∧ (Instr.ceqi ⟨.alw, .pred, .d 0, 0, 0, false⟩).wf = false ∧ (Instr.movi ⟨.alw, .pred, 0⟩).wf = false
    ∧ (Instr.movk ⟨.alw, .pred, 0, 0, false, .none⟩).wf = false
    ∧ (Instr.sel ⟨.alw, .pred, .d 0, .d 0, 0, false, .none⟩).wf = false ∧ (Instr.gets ⟨.alw, .none, 0⟩).wf = false
    ∧ (Instr.fcvt ⟨.alw, .d 0, .d 0, 1, 2, 0⟩).wf = false ∧ (Instr.fcvt ⟨.alw, .d 0, .d 0, 0, 0, 0⟩).wf = false
    ∧ (Instr.ldp ⟨.alw, .none, .d 0, .elem, .rlx, .word⟩).wf = false
    ∧ (Instr.stp ⟨.alw, .d 0, .d 0, .d 0, .elem, .rlx, .word⟩).wf = false
    ∧ (Instr.stt ⟨.alw, .pred, .d 0, .d 0, .elem, .rlx⟩).wf = false
    ∧ (Instr.aadd ⟨.alw, .pred, .d 0, .d 0, .elem, .rlx⟩).wf = false
    ∧ (Instr.fence ⟨.alw, .d 0, .elem, .rlx⟩).wf = false ∧ (Instr.semrd ⟨.alw, .pred, 0⟩).wf = false
    ∧ (Instr.spawn ⟨.alw, .pred, .d 0⟩).wf = false ∧ (Instr.fpoll ⟨.alw, .pred, .d 0, 0, false⟩).wf = false
    ∧ (Instr.fill ⟨.alw, .pred, .d 0, 0, true⟩).wf = false ∧ (Instr.query ⟨.alw, .pred, .d 0, .d 0, 0, false⟩).wf = false
    ∧ (Instr.seal ⟨.alw, .pred, 0, false⟩).wf = false ∧ (Instr.trap ⟨.alw, 0x7F⟩).wf = false
    ∧ (Instr.vexp2 ⟨0, 0, 0, 5, 0, false, 0⟩).wf = false ∧ (Instr.vqdp8 ⟨0, 0, 0, 3, 0, false, 0⟩).wf = false
    ∧ (Instr.vtop2 ⟨0, 0, 0, 5, 0, false, 0⟩).wf = false ∧ (Instr.vheap ⟨0, 0, 0, 1, 0, false, 0⟩).wf = false
    ∧ (Instr.vcnt ⟨0, 0, 0, 5, 0, false, 0⟩).wf = false ∧ (Instr.vscan ⟨0, 0, 0, 5, 0, false, 0⟩).wf = false
    ∧ (Instr.mxmul ⟨false, 0, 0, ⟨0, 1⟩, 0⟩).wf = false ∧ (Instr.mxmult ⟨false, 0, ⟨3, 0⟩, 0, false⟩).wf = false
    ∧ (Instr.mxmuls ⟨false, .tag false, 6, ⟨0, 0⟩, 0, false⟩).wf = false := by decide +kernel

/-! ### Numbers of spec/03_formats.md -/

/-- The registers and rounding of the worked conversion (R64, R65): seed, two advances, and 1 + 2^-8 to BF16. -/
theorem test_stochastic : lfsrSeed 0x300001 0 0 = 0xC0000400 ∧ lfsrNext 0xC0000400 = 0x80000801
    ∧ lfsrNext 0x80000801 = 0x00001002
    ∧ convert .fp32 .bf16 (modeOf 3) 0x80000801 0x3F808000 = (0x3F80, {})
    ∧ convert .fp32 .bf16 (modeOf 3) 0x00001002 0x3F808000 = (0x3F81, {})
    ∧ convert .fp32 .bf16 (modeOf 0) 0 0x3F808000 = (0x3F80, {}) := by decide +kernel

/-- The worked DP8 conversions of R69. -/
theorem test_dp8 :
    dpValue 0x1B = ⟨false, 24, -6⟩
    ∧ dpOfFv 0x7F (fp32.decode 0x3FA66666) = (0x02, {}) ∧ dpOfFv 0x7F (.fin ⟨false, 11, -3⟩) = (0x02, {})
    ∧ dpOfFv 0x7F (.fin ⟨false, 3, -2⟩) = (0x12, {}) ∧ dpOfFv 0x80 (.fin ⟨true, 5, 0⟩) = (0x88, { sat := true })
    ∧ dpOfFv 0x7F (fp32.decode 0x3F666666) = (0x0B, {}) ∧ dpOfFv 0x7F (.inf false) = (0x77, { inv := true }) := by decide +kernel

/-- The saturation of R78: 500 to E4M3 under every mode and to E5M2 under RNE. -/
theorem test_saturation : (∀ m ∈ ([0, 1, 2, 3] : List Nat), convert .fp32 .e4m3 (modeOf m) 0 0x43FA0000 = (0x7E, { sat := true }))
    ∧ convert .fp32 .e5m2 (modeOf 0) 0 0x43FA0000 = (0x60, {}) := by decide +kernel

/-- The tree of R77 on 2^24 and fifteen ones gives 2^24 + 14. -/
theorem test_tree : (tree fadd32 4 ((0x4B800000, {}) :: List.replicate 15 (0x3F800000, {}))).1 = 0x4B800007 := by decide +kernel

/-- CRC-32 of the nine digits, the check value of IEEE 802.3. -/
theorem test_crc : crc32 [0x31, 0x32, 0x33, 0x34, 0x35, 0x36, 0x37, 0x38, 0x39] = 0xCBF43926 := by decide +kernel

/-! ### Elements: the table of R127 and the corners of R128-R132 -/

/-- Register 4 after the two-source instruction on d5 = a and d6 = b. -/
def binary (mk : Ea2 → Instr) (a b r : Word) : Bool :=
  leaves (mk ⟨.alw, .d 4, .d 5, .d 6, 0, false, false, .none⟩) (reg (reg base 5 a) 6 b) 4 r

/-- Register 4 after the one-source instruction on d5 = a. -/
def unary (mk : Ea1 → Instr) (a r : Word) : Bool :=
  leaves (mk ⟨.alw, .d 4, .d 5, 0, false, false, .none⟩) (reg base 5 a) 4 r

theorem test_table_of_R127 :
    binary .adds 0x7FFFFFFF 1 0x7FFFFFFF = true ∧ binary .add 0x7FFFFFFF 1 0x80000000 = true
    ∧ binary .addsh 0x7FFFFFFF 1 0x40000000 = true ∧ binary .addsh 0xFFFFFFFF 0xFFFFFFFE 0xFFFFFFFE = true
    ∧ binary .absd 0x80000000 0x7FFFFFFF 0xFFFFFFFF = true ∧ binary .mulh 0xFFFFFFFF 0xFFFFFFFF 0 = true
    ∧ binary .mulhu 0xFFFFFFFF 0xFFFFFFFF 0xFFFFFFFE = true := by decide +kernel

theorem test_shift_corners :
    binary .shl 1 32 0 = true ∧ binary .shr 0x80000000 31 1 = true ∧ binary .shr 0x80000000 32 0 = true
    ∧ binary .sar 0x80000000 100 0xFFFFFFFF = true ∧ unary .clz 0 32 = true ∧ unary .clz 1 31 = true
    ∧ unary .popc 0xF0F0 8 = true ∧ unary .neg 0x80000000 0x80000000 = true ∧ unary .abs 0xFFFFFFFF 1 = true := by decide +kernel

theorem test_compare_corners :
    binary .clt 0x80000000 0 1 = true ∧ binary .cltu 0x80000000 0 0 = true ∧ binary .cle 5 5 1 = true
    ∧ binary .min 0x80000000 1 0x80000000 = true ∧ binary .minu 0x80000000 1 1 = true
    ∧ binary .subs 0x80000000 1 0x80000000 = true ∧ binary .andn 0xFF 0x0F 0xF0 = true := by decide +kernel

/-! ### Addresses -/

/-- The worked pad addresses after R158: W is 128 for `.pad 100`. -/
theorem test_pad_address : padWindow 100 = 128 ∧ padTarget (H padded).g 0 0xC6 2 = (0, 70)
    ∧ padTarget (H padded).g 0 0x12000010 4 = (2, 16) := by decide +kernel

/-- The worked layout after R160: element (37, 70) of a BF16 object of 64 × 96 in layout 1. -/
theorem test_layout :
    let d := 1 + 1 * 2 ^ 8 + 1 * 2 ^ 10 + 64 * 2 ^ 64 + 96 * 2 ^ 96
    coordsOf (exts4 d) 3622 = [0, 0, 37, 70] ∧ layoutIndex d [0, 0, 37, 70] = 5286 ∧ byteOf d 3622 = 10572 := by decide +kernel

/-- The worked pad operand after R237: row 3, piece 1 lies at bytes 2,592 and 2,624. -/
theorem test_pad_operand :
    let s : State := onGroup { base with mem := (base.mem.write 2592 7).write 2655 9 } fun g => { g with img := { g.img with pad := 4096 } }
    ((s.padPiece 0 0 { a := 0x00100040, b := 0x00040002 } 3 1).zipIdx.filter fun x => x.1 != 0) = [(7, 0), (9, 63)] := by decide +kernel

/-- The lanes of the worked heap after R220: entries worst first, ids written. -/
theorem test_heap :
    heapLanes 4 [] [(0x3F000000, 10), (0x3E800000, 11), (0x3F400000, 12), (0x3E800000, 13), (0x3E000000, 14), (0x3F000000, 15), (0, 0xFFFFFFFF)]
      = ([(0x3E800000, 11), (0x3F000000, 15), (0x3F000000, 10), (0x3F400000, 12)], [14, 13]) := by decide +kernel

/-- The value 0x1B in a column with scale 0x85 is 24, and 0x00 under scale 0 is 2^-126 (R71). -/
theorem test_scales : fp32.ofFv .rne 0 ((Fv.fin (dpValue 0x1B)).scaleBy (0x85 - 127)) = (0x41C00000, {})
    ∧ fp32.ofFv .rne 0 ((Fv.fin (dpValue 0)).scaleBy (0 - 127)) = (0x00800000, {}) := by decide +kernel

end Sys2Proof.Tests
end

section
/-! SUPPORT. What a copy, an element and a group read after an update of one of them, and the bytes of memory after a run of
writes whose addresses a placement gives. -/

namespace Sys2Proof.Machine

/-! ### Copies, elements and groups after an update -/

theorem ikey_inj {task : Nat} {vt wt : Fin 16} : ikey task vt = ikey task wt ↔ vt = wt := by
  simp only [ikey, Fin.ext_iff]
  omega

theorem State.inst_of_inst? {s : State} {task : Nat} {vt : Fin 16} {x : Inst} (h : s.inst? task vt = some x) :
    s.inst task vt = x := by
  unfold State.inst? at h
  simp [State.inst, Assoc.getD, h]

theorem State.group_of_group? {s : State} {task : Nat} {g : Group} (h : s.group? task = some g) : s.group task = g := by
  unfold State.group? at h
  simp [State.group, Assoc.getD, h]

theorem State.inst_of_insts {s t : State} (h : t.insts = s.insts) (task : Nat) (vt : Fin 16) :
    t.inst task vt = s.inst task vt := by
  simp [State.inst, h]

@[simp] theorem State.inst?_updInst_same (s : State) (task : Nat) (vt : Fin 16) (f : Inst → Inst) :
    (s.updInst task vt f).inst? task vt = (s.inst? task vt).map f := by
  simp [State.inst?, Assoc.get?_modify]

theorem State.inst_updInst_same {s : State} {task : Nat} {vt : Fin 16} {x : Inst} (f : Inst → Inst)
    (h : s.inst? task vt = some x) : (s.updInst task vt f).inst task vt = f x :=
  State.inst_of_inst? (by simp [h])

theorem State.inst_updInst_other (s : State) (task : Nat) {vt wt : Fin 16} (f : Inst → Inst) (h : wt ≠ vt) :
    (s.updInst task vt f).inst task wt = s.inst task wt := by
  simp [State.inst, Assoc.getD, Assoc.get?_modify, ikey_inj, h.symm]

/-- A copy after a change of one copy is as before or is the changed one. -/
theorem State.inst_updInst_cases (s : State) (task : Nat) (vt wt : Fin 16) (f : Inst → Inst) :
    (s.updInst task vt f).inst task wt = s.inst task wt ∨ (s.updInst task vt f).inst task wt = f (s.inst task wt) := by
  by_cases h : wt = vt
  · subst h
    cases hx : s.inst? task wt with
    | none => exact .inl (by unfold State.inst? at hx; simp [State.inst, Assoc.getD, Assoc.get?_modify, hx])
    | some x => exact .inr (by rw [State.inst_updInst_same f hx, State.inst_of_inst? hx])
  · exact .inl (s.inst_updInst_other task f h)

theorem State.inst_setInst (s : State) (task : Nat) (vt wt : Fin 16) (x : Inst) :
    (s.setInst task vt x).inst task wt = if vt = wt then x else s.inst task wt := by
  by_cases h : vt = wt <;> simp [State.inst, Assoc.getD, Assoc.get?_put, ikey_inj, h]

/-- A change of an element neither makes nor removes a copy. -/
theorem State.isSome_inst?_updElem (s : State) (task : Nat) (vt e wt : Fin 16) (f : Elem → Elem) :
    ((s.updElem task vt e f).inst? task wt).isSome = (s.inst? task wt).isSome := by
  simp only [State.inst?, State.updElem_insts, Assoc.get?_modify]
  split
  · exact Option.isSome_map
  · rfl

@[simp] theorem State.inst?_updElem_same (s : State) (task : Nat) (vt e : Fin 16) (f : Elem → Elem) :
    (s.updElem task vt e f).inst? task vt = (s.inst? task vt).map fun x => x.setElem e (f (x.elem e)) :=
  s.inst?_updInst_same task vt _

@[simp] theorem Inst.elem_setElem_same (x : Inst) (e : Fin 16) (el : Elem) : (x.setElem e el).elem e = el := by
  simp [Inst.elem, Inst.setElem]

theorem Inst.elem_setElem (x : Inst) (e p : Fin 16) (el : Elem) :
    (x.setElem e el).elem p = if e = p then el else x.elem p := by
  simp [Inst.elem, Inst.setElem, Vector.getElem_set, Fin.ext_iff]

theorem State.elem_of_inst? {s : State} {task : Nat} {vt : Fin 16} {x : Inst} (h : s.inst? task vt = some x) (e : Fin 16) :
    s.elem task vt e = x.elem e := by
  rw [State.elem, State.inst_of_inst? h]

/-- What a change of one element keeps of it is kept of every element. -/
theorem State.elem_updElem_keeps {β : Type} (proj : Elem → β) (s : State) (task : Nat) (vt e : Fin 16) (f : Elem → Elem)
    (keeps : ∀ el, proj (f el) = proj el) (wt p : Fin 16) :
    proj ((s.updElem task vt e f).elem task wt p) = proj (s.elem task wt p) := by
  show proj (((s.updInst task vt _).inst task wt).elem p) = proj ((s.inst task wt).elem p)
  obtain h | h := s.inst_updInst_cases task vt wt fun x => x.setElem e (f (x.elem e))
  · rw [h]
  · rw [h, Inst.elem_setElem]
    split
    · next same => rw [keeps, same]
    · rfl

/-- An element of a copy that is there, after a change of it. -/
theorem State.elem_updElem_same {s : State} {task : Nat} {vt : Fin 16} {x : Inst} (e : Fin 16) (f : Elem → Elem)
    (h : s.inst? task vt = some x) : (s.updElem task vt e f).elem task vt e = f (x.elem e) := by
  rw [State.elem, State.updElem, State.inst_updInst_same _ h, Inst.elem_setElem_same]

theorem State.elem_of_insts {s t : State} (h : t.insts = s.insts) (task : Nat) (vt e : Fin 16) :
    t.elem task vt e = s.elem task vt e := by
  simp [State.elem, State.inst_of_insts h]

@[simp] theorem State.group?_updGroup_same (s : State) (task : Nat) (f : Group → Group) :
    (s.updGroup task f).group? task = (s.group? task).map f := by
  simp [State.group?, Assoc.get?_modify]

/-- A group after its change is as before (it is not there) or the changed one. -/
theorem State.group_updGroup_cases (s : State) (task : Nat) (f : Group → Group) :
    (s.updGroup task f).group task = s.group task ∨ (s.updGroup task f).group task = f (s.group task) := by
  cases hg : s.group? task with
  | none => exact .inl (by unfold State.group? at hg; simp [State.group, Assoc.getD, Assoc.get?_modify, hg])
  | some g => exact .inr (by rw [State.group_of_group? hg, State.group_of_group? (g := f g) (by simp [hg])])

/-- The tokens of a buffer after one buffer is set. -/
theorem Inst.buf_put (x : Inst) (b d : Nat) (l : List Wtok) :
    Inst.buf { x with bufs := x.bufs.put b l } d = if b = d then l else x.buf d := by
  simp only [Inst.buf, Assoc.getD, Assoc.get?_put]
  split <;> rfl

/-! ### Bytes written by a placement -/

theorem length_leBytes (n v : Nat) : (leBytes n v).length = n := by
  induction n generalizing v with
  | zero => rfl
  | succ n ih => simp [leBytes, ih]

theorem getElem_leBytes (n v i : Nat) (h : i < (leBytes n v).length) :
    (leBytes n v)[i] = BitVec.ofNat 8 (v / 2 ^ (8 * i)) := by
  induction n generalizing v i with
  | zero => simp [leBytes] at h
  | succ n ih =>
    cases i with
    | zero => simp [leBytes]
    | succ i =>
      simp only [leBytes, List.getElem_cons_succ, ih, Nat.div_div_eq_div_mul]
      rw [Nat.mul_succ, Nat.pow_add, Nat.mul_comm (2 ^ (8 * i))]

/-- Addresses other than those that the placement gives the bytes written read as before. -/
theorem Memory.read_writesBy_outside (l : List Byte) (f : Nat → Nat) (m : Memory) (off c : Nat)
    (h : ∀ i, i < l.length → c ≠ f (off + i)) : Memory.read (Memory.writesBy m f off l) c = Memory.read m c := by
  induction l generalizing m off with
  | nil => rfl
  | cons b r ih =>
    have hr : ∀ i, i < r.length → c ≠ f (off + 1 + i) := fun i hi => by
      rw [Nat.add_assoc, Nat.add_comm 1 i]
      exact h (i + 1) (by simpa using hi)
    exact (ih _ _ hr).trans (Memory.read_write_other _ _ (h 0 (by simp)))

/-- Where the placement keeps the bytes written apart, each is read back. -/
theorem Memory.read_writesBy_at (l : List Byte) (f : Nat → Nat) (m : Memory) (off : Nat)
    (inj : ∀ i j, i < l.length → j < l.length → f (off + i) = f (off + j) → i = j) (i : Nat) (hi : i < l.length) :
    Memory.read (Memory.writesBy m f off l) (f (off + i)) = l[i] := by
  induction l generalizing m off i with
  | nil => simp at hi
  | cons b r ih =>
    have step : ∀ j, off + 1 + j = off + (j + 1) := fun j => by omega
    cases i with
    | zero =>
      have apart : ∀ j, j < r.length → f off ≠ f (off + 1 + j) := fun j hj e => by
        rw [step] at e
        exact absurd (inj 0 (j + 1) (by simp) (by simpa using hj) e) (by omega)
      exact (Memory.read_writesBy_outside r f _ _ _ apart).trans (Memory.read_write_same m (f off) b)
    | succ i =>
      have inj' : ∀ a c, a < r.length → c < r.length → f (off + 1 + a) = f (off + 1 + c) → a = c := fun a c ha hc e => by
        rw [step, step] at e
        exact Nat.succ.inj (inj (a + 1) (c + 1) (by simpa using ha) (by simpa using hc) e)
      rw [← step]
      exact ih (m.write (f off) b) (off + 1) inj' i (by simpa using hi)

/-! ### The pad's window -/

theorem padWindow_eq_pow (pad : Nat) : ∃ n, padWindow pad = 2 ^ n := by
  unfold padWindow
  split
  · exact ⟨5, rfl⟩
  · exact ⟨_, rfl⟩

/-- A pad address keeps the offset modulo every power of two that divides both the window and a tile's pad. -/
theorem State.padAddr_modEq (s : State) (g : Group) (x : Inst) (vt : Fin 16) (off : Nat) {m : Nat}
    (hw : m ∣ padWindow g.img.pad) (hp : m ∣ 262144) : s.padAddr g x vt off ≡ off [MOD m] := by
  have inTile : ∀ t a, t * 262144 + a % 262144 ≡ a [MOD m] := fun t a => by
    simpa using ((Nat.modEq_zero_iff_dvd.2 (hp.mul_left t)).add ((Nat.mod_modEq a 262144).of_dvd hp))
  have inShare : ∀ k, k * padWindow g.img.pad + off % padWindow g.img.pad ≡ off [MOD m] := fun k => by
    simpa using ((Nat.modEq_zero_iff_dvd.2 (hw.mul_left k)).add ((Nat.mod_modEq off _).of_dvd hw))
  exact (inTile _ _).trans (inShare _)

/-- Bytes of a pad that are less than a window apart, and less than the 256 KiB of a tile, have addresses of their own. -/
theorem State.padAddr_inj (s : State) (g : Group) (x : Inst) (vt : Fin 16) (off : Nat) {w i j : Nat}
    (hw : w ≤ padWindow g.img.pad) (hp : w ≤ 262144) (hi : i < w) (hj : j < w)
    (e : s.padAddr g x vt (off + i) = s.padAddr g x vt (off + j)) : i = j := by
  obtain ⟨n, hn⟩ := padWindow_eq_pow g.img.pad
  have key : ∀ m, m ∣ padWindow g.img.pad → m ∣ 262144 → w ≤ m → i = j := fun m dw dp hm => by
    have same : off + i ≡ off + j [MOD m] :=
      (s.padAddr_modEq g x vt _ dw dp).symm.trans (e ▸ s.padAddr_modEq g x vt _ dw dp)
    exact (Nat.ModEq.add_left_cancel' off same).eq_of_lt_of_lt (by omega) (by omega)
  by_cases h : n ≤ 18
  · exact key _ (dvd_refl _) (hn ▸ Nat.pow_dvd_pow 2 h) hw
  · exact key 262144 (hn ▸ Nat.pow_dvd_pow 2 (by omega : 18 ≤ n)) (dvd_refl _) hp

/-- The bytes of a value that a pad takes stand at the places that the pad gives them, and no other byte changes. -/
theorem Memory.read_writesBy_pad (m : Memory) (s : State) (g : Group) (x : Inst) (vt : Fin 16) (off v : Nat) {w : Nat}
    (hw : w ≤ padWindow g.img.pad) (hp : w ≤ 262144) :
    (∀ i, i < w → (m.writesBy (s.padAddr g x vt) off (leBytes w v)).read (s.padAddr g x vt (off + i))
        = BitVec.ofNat 8 (v / 2 ^ (8 * i)))
      ∧ ∀ a, (∀ i, i < w → a ≠ s.padAddr g x vt (off + i)) →
        (m.writesBy (s.padAddr g x vt) off (leBytes w v)).read a = m.read a := by
  have len := length_leBytes w v
  refine ⟨fun i hi => ?_, fun a ha => Memory.read_writesBy_outside _ _ m off a fun i hi => ha i (len ▸ hi)⟩
  have apart : ∀ i j, i < (leBytes w v).length → j < (leBytes w v).length →
      s.padAddr g x vt (off + i) = s.padAddr g x vt (off + j) → i = j := fun i j hi hj =>
    s.padAddr_inj g x vt off hw hp (len ▸ hi) (len ▸ hj)
  rw [Memory.read_writesBy_at _ _ m off apart i (len.symm ▸ hi), getElem_leBytes]

/-- The address of a pad offset follows the host tile alone of a copy. -/
theorem State.padAddr_of_host (s : State) (g : Group) {x y : Inst} (h : y.host = x.host) (vt : Fin 16) (off : Nat) :
    s.padAddr g y vt off = s.padAddr g x vt off := by
  simp [State.padAddr, State.globalTile, Group.tileOf, h]

end Sys2Proof.Machine
end

section
/-! SUPPORT. What the operations on tokens do to a state, each said once: what the cut's bookkeeping may change, which buffer a
route out of a buffer lengthens, which bytes it writes, and that pads stay where they are. -/

namespace Sys2Proof.Machine

/-! ### The bookkeeping of a cut changes the cut alone -/

/-- The states agree but for what the group's cut records. -/
inductive State.CutOnly (task : Nat) (s : State) : State → Prop
  | same : State.CutOnly task s s
  | cut (c : Cut) : State.CutOnly task s (s.updGroup task fun g => { g with cut := some c })

theorem State.CutOnly.mem {task : Nat} {s t : State} (h : State.CutOnly task s t) : t.mem = s.mem := by
  cases h with
  | same => rfl
  | cut c => rfl

theorem State.CutOnly.insts {task : Nat} {s t : State} (h : State.CutOnly task s t) : t.insts = s.insts := by
  cases h with
  | same => rfl
  | cut c => rfl

/-- The cut does not say where the pads are. -/
theorem State.CutOnly.padAddr {task : Nat} {s t : State} (h : State.CutOnly task s t) (g : Group) (x : Inst) (vt : Fin 16) :
    t.padAddr g x vt = s.padAddr g x vt := by
  cases h with
  | same => rfl
  | cut c => rfl

theorem State.CutOnly.group {task : Nat} {s t : State} (h : State.CutOnly task s t) :
    t.group task = s.group task ∨ ∃ c, t.group task = { s.group task with cut := some c } := by
  cases h with
  | same => exact .inl rfl
  | cut c => exact (s.group_updGroup_cases task _).imp_right fun e => ⟨c, e⟩

theorem State.CutOnly.flight {task : Nat} {s t : State} (h : State.CutOnly task s t) :
    (t.group task).flight = (s.group task).flight := by
  obtain e | ⟨c, e⟩ := h.group <;> rw [e]

theorem State.recordArrival_cutOnly (s : State) (task : Nat) (g : Group) (n : Nat) (p : Ep) (t : Wtok) :
    State.CutOnly task s (s.recordArrival task g n p t) := by
  unfold State.recordArrival
  dsimp only
  repeat' split
  all_goals constructor

/-- An element at whose output channel n requests have arrived. -/
def Elem.addPulls (el : Elem) (o : Fin 4) (n : Nat) : Elem := { el with pulls := vset el.pulls o (vget el.pulls o + n) }

section
variable {s : State} {task : Nat} {vt e v p : Fin 16} {c o : Fin 4} {x : Edge} {k : Nat}
  (into : (s.group task).img.into (.inp vt e c) = some (x, k)) (src : x.src = .out v p o)
include into src

/-- Requests that arrive at the producer of a pull channel are counted there; the rest is the cut's. -/
theorem State.pullArrive_cutOnly (n : Nat) :
    State.CutOnly task (s.updElem task v p (Elem.addPulls · o n)) (s.pullArrive task vt e c n) := by
  unfold State.pullArrive
  simp only [into, src]
  repeat' split
  all_goals constructor

theorem State.pulls_pullArrive (n : Nat) {y : Inst} (hy : s.inst? task v = some y) :
    vget ((s.pullArrive task vt e c n).elem task v p).pulls o = vget (y.elem p).pulls o + n := by
  rw [State.elem_of_insts (State.pullArrive_cutOnly into src n).insts, State.elem_updElem_same p _ hy]
  exact Vector.getElem_set_self _

/-- The requests touch no input channel. -/
theorem State.inq_pullArrive (n : Nat) (wt q : Fin 16) :
    ((s.pullArrive task vt e c n).elem task wt q).inq = (s.elem task wt q).inq := by
  rw [State.elem_of_insts (State.pullArrive_cutOnly into src n).insts]
  exact State.elem_updElem_keeps (·.inq) s task v p (Elem.addPulls · o n) (fun _ => rfl) wt q

end

/-! ### Operations that leave the buffers, the pads and the memory -/

/-- The address of a byte of the pad of a copy, as the state places it. -/
def State.padByte (s : State) (task : Nat) (vt : Fin 16) (off : Nat) : Nat :=
  s.padAddr (s.group task) (s.inst task vt) vt off

/-- Memory, the tokens of every buffer of the task and the places of its pads are the same. -/
structure State.SameBufs (task : Nat) (s t : State) : Prop where
  mem : t.mem = s.mem
  buf : ∀ vt b, (t.inst task vt).buf b = (s.inst task vt).buf b
  pad : ∀ vt off, t.padByte task vt off = s.padByte task vt off

theorem State.SameBufs.refl (task : Nat) (s : State) : State.SameBufs task s s := ⟨rfl, fun _ _ => rfl, fun _ _ => rfl⟩

theorem State.SameBufs.trans {task : Nat} {s t u : State} (h : State.SameBufs task s t) (k : State.SameBufs task t u) :
    State.SameBufs task s u :=
  ⟨k.mem.trans h.mem, fun vt b => (k.buf vt b).trans (h.buf vt b), fun vt off => (k.pad vt off).trans (h.pad vt off)⟩

/-- A change of a copy that keeps its host tile keeps the places of the pads. -/
theorem State.padByte_updInst (s : State) (task : Nat) (vt : Fin 16) (f : Inst → Inst) (host : ∀ x, (f x).host = x.host)
    (wt : Fin 16) (off : Nat) : (s.updInst task vt f).padByte task wt off = s.padByte task wt off := by
  show s.padAddr (s.group task) _ wt off = s.padAddr (s.group task) _ wt off
  obtain e | e := s.inst_updInst_cases task vt wt f
  · rw [e]
  · rw [e, s.padAddr_of_host _ (host _)]

theorem State.sameBufs_updInst (s : State) (task : Nat) (vt : Fin 16) (f : Inst → Inst) (host : ∀ x, (f x).host = x.host)
    (bufs : ∀ x, (f x).bufs = x.bufs) : State.SameBufs task s (s.updInst task vt f) where
  mem := rfl
  buf wt b := by
    obtain e | e := s.inst_updInst_cases task vt wt f
    · rw [e]
    · simp only [e, Inst.buf, bufs]
  pad := s.padByte_updInst task vt f host

/-- A change of a group that keeps its image, its fold and its place keeps the places of the pads. -/
theorem State.sameBufs_updGroup (s : State) (task : Nat) (f : Group → Group)
    (site : ∀ g x vt off, s.padAddr (f g) x vt off = s.padAddr g x vt off) : State.SameBufs task s (s.updGroup task f) where
  mem := rfl
  buf _ _ := rfl
  pad wt off := by
    show s.padAddr ((s.updGroup task f).group task) (s.inst task wt) wt off = s.padAddr (s.group task) _ wt off
    obtain e | e := s.group_updGroup_cases task f
    · rw [e]
    · rw [e, site]

theorem State.sameBufs_progress (s : State) (task : Nat) : State.SameBufs task s (s.progress task) :=
  s.sameBufs_updGroup task _ fun _ _ _ _ => rfl

theorem State.CutOnly.sameBufs {task : Nat} {s t : State} (h : State.CutOnly task s t) : State.SameBufs task s t := by
  cases h with
  | same => exact State.SameBufs.refl task s
  | cut c => exact s.sameBufs_updGroup task _ fun _ _ _ _ => rfl

/-- The endpoint is a buffer. -/
def Ep.isBuf (p : Ep) : Bool :=
  match p with
  | .buf .. => true
  | _ => false

/-- A data token that lands at an endpoint other than a buffer stands in a channel, and enters no buffer. -/
theorem State.sameBufs_land {s : State} {task : Nat} {g : Group} {n : Nat} {p : Ep} {t : Wtok} (hp : p.isBuf = false)
    (ht : isCairn t.side = false) : State.SameBufs task s (s.land task g n p t) := by
  have kept := (s.recordArrival_cutOnly task g n p t).sameBufs
  cases p with
  | inp vt e c =>
    simp only [State.land, ht]
    exact kept.trans (State.sameBufs_updInst _ _ _ _ (fun _ => rfl) fun _ => rfl)
  | bnd vt k =>
    simp only [State.land, ht]
    refine kept.trans (State.sameBufs_updInst _ _ _ _ (fun x => ?_) fun x => ?_)
    · split_ifs <;> rfl
    · split_ifs <;> rfl
  | buf vt b => cases hp
  | out vt e o => exact State.SameBufs.refl task s
  | mst vt => exact State.SameBufs.refl task s
  | cmd vt k => exact State.SameBufs.refl task s

/-- A data token sent to an endpoint other than a buffer enters no buffer. -/
theorem State.sameBufs_sendEdge {s : State} {task : Nat} {x : Edge × Nat} {t : Wtok} (hx : x.1.dst.isBuf = false)
    (ht : isCairn t.side = false) : State.SameBufs task s (s.sendEdge task x t) := by
  unfold State.sendEdge
  dsimp only
  split
  · split
    · exact s.sameBufs_updInst _ _ _ (fun _ => rfl) fun _ => rfl
    · exact State.sameBufs_land hx ht
  · exact s.sameBufs_updGroup _ _ fun _ _ _ _ => rfl

/-! ### A data token that reaches an input channel, and progress -/

section
variable (s : State) (task : Nat) (g : Group) (n : Nat) (vt e : Fin 16) (c : Fin 4) {t : Wtok} (ht : isCairn t.side = false)
include ht

theorem State.mem_land_inp : (s.land task g n (.inp vt e c) t).mem = s.mem := (State.sameBufs_land rfl ht).mem

theorem State.flight_land_inp : ((s.land task g n (.inp vt e c) t).group task).flight = (s.group task).flight := by
  simp only [State.land, ht]
  exact (s.recordArrival_cutOnly task g n _ t).flight

/-- The token stands at the tail of the channel (R108). -/
theorem State.toks_land_inp {x : Inst} (hx : s.inst? task vt = some x) :
    (vget ((s.land task g n (.inp vt e c) t).elem task vt e).inq c).toks = (vget (x.elem e).inq c).toks ++ [t.narrow] := by
  have kept := s.recordArrival_cutOnly task g n (.inp vt e c) t
  have hx' : (s.recordArrival task g n (.inp vt e c) t).inst? task vt = some x := by
    rw [State.inst?, kept.insts]
    exact hx
  simp only [State.land, ht, Bool.false_eq_true, if_false, State.elem_updElem_same e _ hx', Vector.getElem_set_self]

end

theorem State.elem_progress (s : State) (task : Nat) (vt e : Fin 16) : (s.progress task).elem task vt e = s.elem task vt e := rfl

theorem State.flight_progress (s : State) (task : Nat) : ((s.progress task).group task).flight = (s.group task).flight := by
  rw [State.progress]
  obtain h | h := s.group_updGroup_cases task fun g => { g with wd := 0, episode := none } <;> rw [h]

/-! ### A data token that enters a buffer -/

/-- The bytes of a buffer's next token. -/
def Inst.slotBytes (x : Inst) (b : Nat) : Nat := if (x.desc b).wide then 64 else 4

/-- The pad offset of a buffer's next token. -/
def Inst.slotOff (x : Inst) (b : Nat) : Nat := (x.desc b).base + x.bufWr.getD b 0 * x.slotBytes b

theorem Inst.slotBytes_le (x : Inst) (b : Nat) : x.slotBytes b ≤ 64 := by
  unfold Inst.slotBytes
  split <;> omega

theorem State.mem_pushBuf (s : State) (task : Nat) (g : Group) (vt : Fin 16) (b : Nat) (t : Wtok) :
    (s.pushBuf task g vt b t).mem = s.mem.writesBy (s.padAddr g (s.inst task vt) vt) ((s.inst task vt).slotOff b)
      (leBytes ((s.inst task vt).slotBytes b) t.val.toNat) := rfl

theorem State.land_buf (s : State) (task : Nat) (g : Group) (n : Nat) (vt : Fin 16) (b : Fin 32) {t : Wtok}
    (ht : isCairn t.side = false) :
    s.land task g n (.buf vt b) t = (s.recordArrival task g n (.buf vt b) t).pushBuf task g vt b.val t := by
  simp [State.land, ht]

theorem State.buf_pushBuf (s : State) (task : Nat) (g : Group) (vt wt : Fin 16) (b d : Nat) (t : Wtok) :
    ((s.pushBuf task g vt b t).inst task wt).buf d
      = (s.inst task wt).buf d ++ (if vt = wt ∧ b = d then [t] else []) := by
  have e : (s.pushBuf task g vt b t).inst task wt = if vt = wt then
      { s.inst task vt with bufs := (s.inst task vt).bufs.put b ((s.inst task vt).buf b ++ [t])
                            bufWr := (s.inst task vt).bufWr.put b
                              (((s.inst task vt).bufWr.getD b 0 + 1) % max 1 ((s.inst task vt).desc b).tokens) }
      else s.inst task wt := s.inst_setInst task vt wt _
  rw [e]
  by_cases hv : vt = wt
  · subst hv
    by_cases hb : b = d
    · subst hb; simp [Inst.buf, Assoc.getD]
    · simp [Inst.buf, Assoc.getD, Assoc.get?_put, hb]
  · simp [hv]

theorem State.padByte_pushBuf (s : State) (task : Nat) (g : Group) (vt : Fin 16) (b : Nat) (t : Wtok) (wt : Fin 16)
    (off : Nat) : (s.pushBuf task g vt b t).padByte task wt off = s.padByte task wt off := by
  show s.padAddr (s.group task) ((s.setInst task vt _).inst task wt) wt off = _
  rw [s.inst_setInst]
  split
  · next h => subst h; exact s.padAddr_of_host _ rfl _ _
  · rfl

/-- The value of a data token that lands in a buffer is written at the buffer's next place in the pad (R46, log entry 11). -/
theorem State.mem_land_buf (s : State) (task : Nat) (g : Group) (n : Nat) (vt : Fin 16) (b : Fin 32) {t : Wtok}
    (ht : isCairn t.side = false) :
    (s.land task g n (.buf vt b) t).mem = s.mem.writesBy (s.padAddr g (s.inst task vt) vt) ((s.inst task vt).slotOff b.val)
      (leBytes ((s.inst task vt).slotBytes b.val) t.val.toNat) := by
  have kept := s.recordArrival_cutOnly task g n (.buf vt b) t
  rw [s.land_buf _ _ _ _ _ ht, State.mem_pushBuf, kept.mem, kept.padAddr, State.inst_of_insts kept.insts]

theorem State.buf_land_buf (s : State) (task : Nat) (g : Group) (n : Nat) (vt wt : Fin 16) (b d : Fin 32) {t : Wtok}
    (ht : isCairn t.side = false) :
    ((s.land task g n (.buf vt b) t).inst task wt).buf d.val
      = (s.inst task wt).buf d.val ++ (if Ep.buf vt b = .buf wt d then [t] else []) := by
  rw [s.land_buf _ _ _ _ _ ht, State.buf_pushBuf, (s.recordArrival_cutOnly task g n _ t).sameBufs.buf]
  simp only [Ep.buf.injEq, Fin.ext_iff]

theorem State.padByte_land_buf (s : State) (task : Nat) (g : Group) (n : Nat) (vt : Fin 16) (b : Fin 32) {t : Wtok}
    (ht : isCairn t.side = false) (wt : Fin 16) (off : Nat) :
    (s.land task g n (.buf vt b) t).padByte task wt off = s.padByte task wt off := by
  rw [s.land_buf _ _ _ _ _ ht, State.padByte_pushBuf]
  exact (s.recordArrival_cutOnly task g n _ t).sameBufs.pad wt off

/-! ### A data token on one route out of a buffer -/

/-- The token given to one route out of a buffer. -/
def State.giveRoute (task : Nat) (t : Wtok) (s : State) (x : Edge × Nat) : State :=
  if x.1.ridge then s.land task (s.group task) x.2 x.1.dst t else s.sendEdge task x t

/-- What a head that has room does: it leaves its buffer, goes on each route, and counts as progress. -/
theorem State.giveHead_of_room {s : State} {task : Nat} {vt : Fin 16} {b : Fin 32} {t : Wtok} {r : List Wtok}
    (head : (s.inst task vt).buf b.val = t :: r) (ht : isCairn t.side = false)
    (room : s.hasRoom task (s.group task) (.buf vt b) 0 1 = true) :
    s.giveHead task vt b = (((s.group task).img.from (.buf vt b)).foldl (State.giveRoute task t)
      (s.updInst task vt fun y => { y with bufs := y.bufs.put b.val r })).progress task := by
  unfold State.giveHead
  simp only [head, ht, room, Bool.or_true, if_true]
  rfl

theorem Image.src_of_mem_from {i : Image} {p : Ep} {x : Edge × Nat} (h : x ∈ i.from p) : x.1.src = p := by
  simp only [Image.from, List.mem_filter, Bool.and_eq_true, decide_eq_true_eq] at h
  exact h.2.1

theorem Edge.ridge_of_src_buf {e : Edge} {vt : Fin 16} {b : Fin 32} (h : e.src = .buf vt b) : e.ridge = e.dst.isBuf := by
  cases hd : e.dst <;> simp [Edge.ridge, Ep.isBuf, h, hd]

section
variable {s : State} {task : Nat} {t : Wtok} {x : Edge × Nat} {vt : Fin 16} {b : Fin 32}
  (ht : isCairn t.side = false) (hs : x.1.src = .buf vt b)
include ht hs

/-- On a route to another buffer the token lands there; any other route touches no buffer. -/
theorem State.giveRoute_cases :
    (∃ wt d, x.1.dst = .buf wt d ∧ s.giveRoute task t x = s.land task (s.group task) x.2 (.buf wt d) t)
      ∨ x.1.dst.isBuf = false ∧ State.SameBufs task s (s.giveRoute task t x) := by
  have ridge := Edge.ridge_of_src_buf hs
  cases hd : x.1.dst.isBuf with
  | true =>
    cases e : x.1.dst with
    | buf wt d => exact .inl ⟨wt, d, rfl, by rw [State.giveRoute, if_pos (ridge.trans hd), e]⟩
    | _ => simp [Ep.isBuf, e] at hd
  | false =>
    refine .inr ⟨rfl, ?_⟩
    rw [State.giveRoute, if_neg (by simp [ridge, hd])]
    exact State.sameBufs_sendEdge hd ht

theorem State.buf_giveRoute (wt : Fin 16) (d : Fin 32) :
    ((s.giveRoute task t x).inst task wt).buf d.val
      = (s.inst task wt).buf d.val ++ (if x.1.dst = .buf wt d then [t] else []) := by
  obtain ⟨wt', d', e, he⟩ | ⟨nb, same⟩ := State.giveRoute_cases (s := s) (task := task) ht hs
  · rw [he, State.buf_land_buf _ _ _ _ _ _ _ _ ht, e]
  · have ne : x.1.dst ≠ .buf wt d := fun e => by simp [Ep.isBuf, e] at nb
    rw [same.buf, if_neg ne, List.append_nil]

theorem State.padByte_giveRoute (wt : Fin 16) (off : Nat) :
    (s.giveRoute task t x).padByte task wt off = s.padByte task wt off := by
  obtain ⟨wt', d', -, he⟩ | ⟨-, same⟩ := State.giveRoute_cases (s := s) (task := task) ht hs
  · rw [he, State.padByte_land_buf _ _ _ _ _ _ ht]
  · exact same.pad wt off

/-- A route writes no byte but of the pad of the copy that it reaches. -/
theorem State.read_giveRoute_other (a : Nat) (ha : ∀ off, a ≠ s.padByte task x.1.dst.vt off) :
    (s.giveRoute task t x).mem.read a = s.mem.read a := by
  obtain ⟨wt, d, e, he⟩ | ⟨-, same⟩ := State.giveRoute_cases (s := s) (task := task) ht hs
  · rw [e] at ha
    rw [he, State.mem_land_buf _ _ _ _ _ _ ht]
    exact Memory.read_writesBy_other _ _ _ _ a ha
  · rw [same.mem]

end

/-! ### A data token on every route out of a buffer -/

section
variable {task : Nat} {t : Wtok} {vt : Fin 16} {b : Fin 32} {l : List (Edge × Nat)}
  (ht : isCairn t.side = false) (hl : ∀ x ∈ l, x.1.src = .buf vt b)
include ht hl

/-- Each buffer gets the token once for every route that reaches it. -/
theorem State.buf_giveRoutes (s : State) (wt : Fin 16) (d : Fin 32) :
    ((l.foldl (State.giveRoute task t) s).inst task wt).buf d.val
      = (s.inst task wt).buf d.val ++ List.replicate ((l.map (·.1.dst)).count (.buf wt d)) t := by
  induction l generalizing s with
  | nil => simp
  | cons x r ih =>
    obtain ⟨hx, hr⟩ := List.forall_mem_cons.1 hl
    rw [List.foldl_cons, ih hr, State.buf_giveRoute ht hx, List.append_assoc, List.map_cons, List.count_cons]
    congr 1
    by_cases e : x.1.dst = .buf wt d
    · simp [e, List.replicate_succ]
    · simp [e]

/-- The routes write no byte but of the pads of the copies that they reach. -/
theorem State.read_giveRoutes_other (s : State) (a : Nat) (ha : ∀ x ∈ l, ∀ off, a ≠ s.padByte task x.1.dst.vt off) :
    (l.foldl (State.giveRoute task t) s).mem.read a = s.mem.read a := by
  induction l generalizing s with
  | nil => rfl
  | cons x r ih =>
    obtain ⟨hx, hr⟩ := List.forall_mem_cons.1 hl
    obtain ⟨hax, har⟩ := List.forall_mem_cons.1 ha
    rw [List.foldl_cons, ih hr, State.read_giveRoute_other ht hx a hax]
    intro y hy off
    rw [State.padByte_giveRoute ht hx]
    exact har y hy off

end

end Sys2Proof.Machine
end

section
/-! How tokens, KSET tokens and pull requests arrive at their consumers (R46, R108, R119, R380, R525): one lemma for each event,
and the statement that they make up. -/

namespace Sys2Proof.Machine

/-! ### A token on an edge between tiles (R108) -/

/-- The group after the oldest token of an edge has left it. -/
def Group.shorten (g : Group) (edge : Nat) (r : List Wtok) : Group :=
  { g with flight := if r.isEmpty then g.flight.del edge else g.flight.put edge r }

theorem Group.inFlight_shorten (g : Group) (edge : Nat) (r : List Wtok) : (g.shorten edge r).inFlight edge = r := by
  cases r <;> simp [Group.shorten, Group.inFlight, Assoc.getD, Assoc.get?_del]

theorem execTokenArrival_of_head {s : State} {task edge : Nat} {g : Group} {k : Wtok} {r : List Wtok} {e : Edge}
    (hg : s.group? task = some g) (hk : g.inFlight edge = k :: r) (he : (g.img.edges.drop edge).head? = some e) :
    execTokenArrival task edge s
      = .next (((s.updGroup task (Group.shorten · edge r)).land task g edge e.dst k).progress task) := by
  simp only [execTokenArrival, hg, hk, he, State.group_of_group? hg]
  rfl

/-- The oldest token of an edge leaves it and stands at the tail of the channel that it feeds. -/
theorem execTokenArrival_lands {s : State} {task edge : Nat} {g : Group} {k : Wtok} {r : List Wtok} {e : Edge} {vt el : Fin 16}
    {c : Fin 4} {x : Inst} (hg : s.group? task = some g) (hk : g.inFlight edge = k :: r)
    (he : (g.img.edges.drop edge).head? = some e) (hd : e.dst = .inp vt el c) (hc : isCairn k.side = false)
    (hx : s.inst? task vt = some x) :
    ∃ t, execTokenArrival task edge s = .next t ∧ (t.group task).inFlight edge = r ∧ t.mem = s.mem
      ∧ (vget (t.elem task vt el).inq c).toks = (vget (x.elem el).inq c).toks ++ [k.narrow] := by
  refine ⟨_, execTokenArrival_of_head hg hk he, ?_⟩
  have hs : (s.updGroup task (Group.shorten · edge r)).group task = g.shorten edge r :=
    State.group_of_group? (by simp [hg])
  rw [hd]
  refine ⟨?_, State.mem_land_inp _ _ _ _ _ _ _ hc, ?_⟩
  · rw [Group.inFlight, State.flight_progress, State.flight_land_inp _ _ _ _ _ _ _ hc, hs]
    exact g.inFlight_shorten edge r
  · rw [State.elem_progress]
    exact State.toks_land_inp _ _ _ _ _ _ _ hc hx

/-! ### A token on the routes out of a buffer (R44, R46, R525) -/

theorem execRidgelineTransfer_of_ridge {s : State} {task edge : Nat} {g : Group} {e : Edge} {vt : Fin 16} {b : Fin 32}
    (hg : s.group? task = some g) (live : g.live = true) (he : (g.img.edges.drop edge).head? = some e)
    (src : e.src = .buf vt b) (ridge : e.ridge = true) : execRidgelineTransfer task edge s = .next (s.giveHead task vt b) := by
  simp [execRidgelineTransfer, hg, live, he, src, ridge]

section
variable {s : State} {task : Nat} {vt : Fin 16} {b : Fin 32} {k : Wtok} {r : List Wtok} {x : Inst}
  (hx : s.inst? task vt = some x) (head : x.buf b.val = k :: r) (hc : isCairn k.side = false)
  (room : s.hasRoom task (s.group task) (.buf vt b) 0 1 = true)
  (apart : ∀ n ∈ (s.group task).img.from (.buf vt b), ∀ wt d, n.1.dst = .buf wt d → wt ≠ vt)
include hx head hc room

theorem State.giveHead_eq : s.giveHead task vt b = (((s.group task).img.from (.buf vt b)).foldl (State.giveRoute task k)
    (s.updInst task vt fun y => { y with bufs := y.bufs.put b.val r })).progress task :=
  State.giveHead_of_room (State.inst_of_inst? hx ▸ head) hc room

/-- No byte changes but in the pads of the copies that the routes reach. -/
theorem State.read_giveHead_other (a : Nat)
    (ha : ∀ n ∈ (s.group task).img.from (.buf vt b), ∀ off, a ≠ s.padByte task n.1.dst.vt off) :
    (s.giveHead task vt b).mem.read a = s.mem.read a := by
  rw [State.giveHead_eq hx head hc room, (State.sameBufs_progress _ _).mem]
  refine State.read_giveRoutes_other hc (fun _ => Image.src_of_mem_from) _ a fun n hn off => ?_
  rw [State.padByte_updInst]
  · exact ha n hn off
  · exact fun _ => rfl

include apart

/-- The buffer has lost its head. -/
theorem State.buf_giveHead_self : ((s.giveHead task vt b).inst task vt).buf b.val = r := by
  rw [State.giveHead_eq hx head hc room, (State.sameBufs_progress _ _).buf,
    State.buf_giveRoutes hc fun _ => Image.src_of_mem_from, State.inst_updInst_same _ hx, Inst.buf_put, if_pos rfl]
  have none : Ep.buf vt b ∉ ((s.group task).img.from (.buf vt b)).map (·.1.dst) := fun h => by
    obtain ⟨n, hn, e⟩ := List.mem_map.1 h
    exact apart n hn vt b e rfl
  simp [List.count_eq_zero_of_not_mem none]

/-- Each buffer that a route reaches has the token at its tail. -/
theorem State.buf_giveHead_route (once : (((s.group task).img.from (.buf vt b)).map (·.1.dst)).Nodup) {n : Edge × Nat}
    (hn : n ∈ (s.group task).img.from (.buf vt b)) {wt : Fin 16} {d : Fin 32} (hd : n.1.dst = .buf wt d) :
    ((s.giveHead task vt b).inst task wt).buf d.val = (s.inst task wt).buf d.val ++ [k] := by
  rw [State.giveHead_eq hx head hc room, (State.sameBufs_progress _ _).buf,
    State.buf_giveRoutes hc fun _ => Image.src_of_mem_from, State.inst_updInst_other _ _ _ (apart n hn wt d hd),
    List.count_eq_one_of_mem once (List.mem_map.2 ⟨n, hn, hd⟩)]
  rfl

/-- Along a single route the token's value is written at the next place of the buffer that it reaches. -/
theorem State.mem_giveHead_single {e : Edge} {edge : Nat} {wt : Fin 16} {d : Fin 32}
    (single : (s.group task).img.from (.buf vt b) = [(e, edge)]) (hd : e.dst = .buf wt d) :
    (s.giveHead task vt b).mem = s.mem.writesBy (s.padAddr (s.group task) (s.inst task wt) wt)
      ((s.inst task wt).slotOff d.val) (leBytes ((s.inst task wt).slotBytes d.val) k.val.toNat) := by
  have mem : (e, edge) ∈ (s.group task).img.from (.buf vt b) := by simp [single]
  have ridge : e.ridge = true := by rw [Edge.ridge_of_src_buf (Image.src_of_mem_from mem), hd]; rfl
  rw [State.giveHead_eq hx head hc room, (State.sameBufs_progress _ _).mem, single, List.foldl_cons, List.foldl_nil,
    State.giveRoute, if_pos ridge, hd, State.mem_land_buf _ _ _ _ _ _ hc, State.inst_updInst_other _ _ _ (apart _ mem wt d hd)]
  rfl

end

/-! ### A KSET at a channel's head (R380) -/

theorem State.exists_of_elemLive {s : State} {task : Nat} {vt e : Fin 16} (h : s.elemLive task vt e = true) :
    ∃ x, s.inst? task vt = some x := by
  unfold State.elemLive at h
  split at h
  · next x _ hx => exact ⟨x, hx⟩
  · cases h

/-- An element whose channel interface has taken the head of a channel. -/
def Elem.dropHead (el : Elem) (pull : Fin 4 → Bool) (c : Fin 4) : Elem :=
  let el := el.dequeue pull [c]
  { el with inq := vset el.inq c { vget el.inq c with stood := false } }

@[simp] theorem Elem.toks_dropHead (el : Elem) (pull : Fin 4 → Bool) (c : Fin 4) :
    (vget (el.dropHead pull c).inq c).toks = (vget el.inq c).toks.drop 1 := by
  simp [Elem.dropHead, Elem.dequeue]

theorem Elem.kset_register (el : Elem) {sel : Nat} (v : Word) (h : sel ≤ 3) :
    el.kset sel v = { el with k := vset el.k ⟨sel % 4, Nat.mod_lt _ (by decide)⟩ v } := by
  rw [Elem.kset, if_pos h]

/-- A KSET that names a register leaves the head of its channel and sets the register. -/
theorem State.takeHidden_register {s : State} {task : Nat} {vt e : Fin 16} {c : Fin 4} {k : Tok} {r : List Tok}
    (head : (vget (s.elem task vt e).inq c).toks = k :: r) (going : (s.elem task vt e).done = false)
    (hidden : hiddenCtl k.side = true) (op : Side.op k.side = 6) (sel : Side.sel k.side ≤ 3) :
    s.takeHidden task vt e c = (s.updElem task vt e fun _ => (s.elem task vt e).dropHead ((s.group task).img.isPull vt e) c).updElem
      task vt e fun el => el.kset (Side.sel k.side) k.val := by
  have noSlot : ¬ 0x20 ≤ Side.sel k.side := by omega
  have ok : ksetOk (Side.sel k.side) = true := by simp [ksetOk, sel]
  simp only [State.takeHidden, head, hidden, going, op, ok, noSlot, Bool.not_false, Bool.and_self, decide_false, Bool.false_and,
    Bool.false_eq_true, if_false, if_true]
  rfl

/-- The KSET of a register leaves its channel, and the register holds its value. -/
theorem execKset_register {s : State} {l : At} {e : Fin 16} {c : Fin 4} {k : Tok} {r : List Tok}
    (live : s.elemLive l.task l.vt e = true) (head : (vget (s.elem l.task l.vt e).inq c).toks = k :: r)
    (going : (s.elem l.task l.vt e).done = false) (hidden : hiddenCtl k.side = true)
    (stood : (vget (s.elem l.task l.vt e).inq c).stood = true) (op : Side.op k.side = 6) (sel : Side.sel k.side ≤ 3) :
    ∃ t, execKset l e c s = .next t ∧ (vget (t.elem l.task l.vt e).inq c).toks = r ∧ t.mem = s.mem
      ∧ (t.elem l.task l.vt e).k.toList[Side.sel k.side]? = some k.val := by
  obtain ⟨x, hx⟩ := State.exists_of_elemLive live
  have taken : execKset l e c s = .next (s.takeHidden l.task l.vt e c) := by simp [execKset, live, stood]
  refine ⟨_, taken, ?_⟩
  rw [State.takeHidden_register head going hidden op sel, State.elem_updElem_same e _ (by simp [hx]; rfl),
    Inst.elem_setElem_same, Elem.kset_register _ _ sel]
  refine ⟨by simp [head], rfl, ?_⟩
  have small : Side.sel k.side < 4 := by omega
  simp [Nat.mod_eq_of_lt small, small]

/-! ### A pull request (R119) -/

/-- An element one request of whose channel is on its way. -/
def Elem.sendReq (el : Elem) (c : Fin 4) : Elem :=
  { el with inq := vset el.inq c { vget el.inq c with reqs := (vget el.inq c).reqs - 1 } }

@[simp] theorem Elem.reqs_sendReq (el : Elem) (c : Fin 4) : (vget (el.sendReq c).inq c).reqs = (vget el.inq c).reqs - 1 := by
  simp [Elem.sendReq]

theorem execPullRequestArrival_of_asked {s : State} {l : At} {e : Fin 16} {c : Fin 4}
    (asked : 0 < (vget (s.elem l.task l.vt e).inq c).reqs) :
    execPullRequestArrival l e c s = .next ((s.updElem l.task l.vt e (Elem.sendReq · c)).pullArrive l.task l.vt e c 1) := by
  rw [execPullRequestArrival, if_pos asked]
  rfl

/-- One request leaves the channel and is counted at the channel's producer. -/
theorem execPullRequestArrival_counted {s : State} {l : At} {e p : Fin 16} {c o : Fin 4} {v : Fin 16} {x : Edge} {k : Nat}
    {g : Group} {a b : Inst} (hg : s.group? l.task = some g) (ha : s.inst? l.task l.vt = some a)
    (hb : s.inst? l.task v = some b) (asked : 0 < (vget (a.elem e).inq c).reqs)
    (into : g.img.into (.inp l.vt e c) = some (x, k)) (src : x.src = .out v p o) :
    ∃ t, execPullRequestArrival l e c s = .next t
      ∧ vget (t.elem l.task v p).pulls o = vget (b.elem p).pulls o + 1
      ∧ (vget (t.elem l.task l.vt e).inq c).reqs + 1 = (vget (a.elem e).inq c).reqs := by
  refine ⟨_, execPullRequestArrival_of_asked (by rw [State.elem_of_inst? ha]; exact asked), ?_⟩
  set s₁ := s.updElem l.task l.vt e (Elem.sendReq · c)
  have into₁ : (s₁.group l.task).img.into (.inp l.vt e c) = some (x, k) := by
    rw [← State.group_of_group? hg] at into
    exact into
  obtain ⟨b₁, hb₁⟩ : ∃ b₁, s₁.inst? l.task v = some b₁ :=
    Option.isSome_iff_exists.1 ((s.isSome_inst?_updElem ..).trans (by rw [hb]; rfl))
  have pulls : (b₁.elem p).pulls = (b.elem p).pulls := by
    rw [← State.elem_of_inst? hb₁, ← State.elem_of_inst? hb]
    exact State.elem_updElem_keeps (·.pulls) s l.task l.vt e (Elem.sendReq · c) (fun _ => rfl) v p
  constructor
  · rw [State.pulls_pullArrive into₁ src 1 hb₁, pulls]
  · rw [State.inq_pullArrive into₁ src 1, State.elem_updElem_same e _ ha, Elem.reqs_sendReq]
    exact Nat.sub_add_cancel asked

/-! ### The statement -/

/-- Settles O34, event by event: each is first read as the operations that it makes, whose effects the lemmas on tokens give. -/
theorem tokensArrive : Obligations.TokensArrive := by
  unfold Obligations.TokensArrive
  refine ⟨?_, ?_, ?_, ?_⟩
  · intro s task edge g k r e vt el c x hg hk he hd hc hx
    exact execTokenArrival_lands hg hk he hd hc hx
  · intro s task edge g k r e vt b x hg live he src ridge hx head hc room routes once apart
    obtain rfl := State.group_of_group? hg
    refine ⟨_, execRidgelineTransfer_of_ridge hg live he src ridge, State.buf_giveHead_self hx head hc room apart, ?_, ?_, ?_⟩
    · intro n hn wt d y hd hy
      rw [← State.inst_of_inst? hy]
      exact State.buf_giveHead_route hx head hc room apart once hn hd
    · intro wt d y single hd hy
      obtain rfl := State.inst_of_inst? hy
      rw [State.mem_giveHead_single hx head hc room apart single hd]
      exact fun hw => Memory.read_writesBy_pad _ _ _ _ _ _ _ hw ((Inst.slotBytes_le _ _).trans (by decide))
    · exact State.read_giveHead_other hx head hc room
  · intro s l e c k r live head going hidden stood op sel
    exact execKset_register live head going hidden stood op sel
  · intro s l e p c o v x k g a b hg ha hb asked into src
    exact execPullRequestArrival_counted hg ha hb asked into src

end Sys2Proof.Machine
end

section
/-! Words and the instructions they stand for (R79-R94): one split over the constructors gives the round trip, and a word written
out from the tables decodes because it is the encoding of its instruction. -/

namespace Sys2Proof.Laws

/-! ### The round trip -/

/-- Each instruction that has a word meets its own law; all the others are events, which have no word. -/
theorem RoundTrip.ofInstr : ∀ i : Instr, Statement i
  -- Rule words (R79-R89).
  | .add x => RoundTrip.add x
  | .sub x => RoundTrip.sub x
  | .addi x => RoundTrip.addi x
  | .mul x => RoundTrip.mul x
  | .mulh x => RoundTrip.mulh x
  | .mulhu x => RoundTrip.mulhu x
  | .min x => RoundTrip.min x
  | .max x => RoundTrip.max x
  | .minu x => RoundTrip.minu x
  | .maxu x => RoundTrip.maxu x
  | .addsh x => RoundTrip.addsh x
  | .absd x => RoundTrip.absd x
  | .adds x => RoundTrip.adds x
  | .subs x => RoundTrip.subs x
  | .neg x => RoundTrip.neg x
  | .abs x => RoundTrip.abs x
  | .and x => RoundTrip.and x
  | .or x => RoundTrip.or x
  | .xor x => RoundTrip.xor x
  | .andn x => RoundTrip.andn x
  | .andi x => RoundTrip.andi x
  | .ori x => RoundTrip.ori x
  | .xori x => RoundTrip.xori x
  | .shl x => RoundTrip.shl x
  | .shr x => RoundTrip.shr x
  | .sar x => RoundTrip.sar x
  | .shli x => RoundTrip.shli x
  | .shri x => RoundTrip.shri x
  | .sari x => RoundTrip.sari x
  | .clz x => RoundTrip.clz x
  | .popc x => RoundTrip.popc x
  | .bfx x => RoundTrip.bfx x
  | .ceq x => RoundTrip.ceq x
  | .cne x => RoundTrip.cne x
  | .clt x => RoundTrip.clt x
  | .cle x => RoundTrip.cle x
  | .cltu x => RoundTrip.cltu x
  | .cleu x => RoundTrip.cleu x
  | .ceqi x => RoundTrip.ceqi x
  | .clti x => RoundTrip.clti x
  | .cgti x => RoundTrip.cgti x
  | .pand x => RoundTrip.pand x
  | .por x => RoundTrip.por x
  | .pxor x => RoundTrip.pxor x
  | .pnot x => RoundTrip.pnot x
  | .pset x => RoundTrip.pset x
  | .pclr x => RoundTrip.pclr x
  | .pmov x => RoundTrip.pmov x
  | .mov x => RoundTrip.mov x
  | .movi x => RoundTrip.movi x
  | .movhi x => RoundTrip.movhi x
  | .movk x => RoundTrip.movk x
  | .steer x => RoundTrip.steer x
  | .merge x => RoundTrip.merge x
  | .carry x => RoundTrip.carry x
  | .drop x => RoundTrip.drop x
  | .endt x => RoundTrip.endt x
  | .tagw x => RoundTrip.tagw x
  | .tagr x => RoundTrip.tagr x
  | .dimr x => RoundTrip.dimr x
  | .req x => RoundTrip.req x
  | .cntup x => RoundTrip.cntup x
  | .sel x => RoundTrip.sel x
  | .gets x => RoundTrip.gets x
  | .fadd x => RoundTrip.fadd x
  | .fsub x => RoundTrip.fsub x
  | .fmul x => RoundTrip.fmul x
  | .fma x => RoundTrip.fma x
  | .fmax x => RoundTrip.fmax x
  | .fmin x => RoundTrip.fmin x
  | .fclt x => RoundTrip.fclt x
  | .fcvt x => RoundTrip.fcvt x
  | .ldp x => RoundTrip.ldp x
  | .stp x => RoundTrip.stp x
  | .ldt x => RoundTrip.ldt x
  | .stt x => RoundTrip.stt x
  | .ldlink x => RoundTrip.ldlink x
  | .ldfe x => RoundTrip.ldfe x
  | .ldfec x => RoundTrip.ldfec x
  | .stfe x => RoundTrip.stfe x
  | .disc x => RoundTrip.disc x
  | .fence x => RoundTrip.fence x
  | .pref x => RoundTrip.pref x
  | .aadd x => RoundTrip.aadd x
  | .amax x => RoundTrip.amax x
  | .afmax x => RoundTrip.afmax x
  | .amin x => RoundTrip.amin x
  | .axchg x => RoundTrip.axchg x
  | .acas x => RoundTrip.acas x
  | .aor x => RoundTrip.aor x
  | .ardrs x => RoundTrip.ardrs x
  | .semadd x => RoundTrip.semadd x
  | .semwait x => RoundTrip.semwait x
  | .semset x => RoundTrip.semset x
  | .semrd x => RoundTrip.semrd x
  | .barriv x => RoundTrip.barriv x
  | .barwt x => RoundTrip.barwt x
  | .baraw x => RoundTrip.baraw x
  | .spawn x => RoundTrip.spawn x
  | .fres x => RoundTrip.fres x
  | .fjoin x => RoundTrip.fjoin x
  | .fpoll x => RoundTrip.fpoll x
  | .trigger x => RoundTrip.trigger x
  | .seal x => RoundTrip.seal x
  | .fill x => RoundTrip.fill x
  | .pkrd x => RoundTrip.pkrd x
  | .openName x => RoundTrip.openName x
  | .close x => RoundTrip.close x
  | .bind x => RoundTrip.bind x
  | .unbind x => RoundTrip.unbind x
  | .rebind x => RoundTrip.rebind x
  | .query x => RoundTrip.query x
  | .mkobj x => RoundTrip.mkobj x
  | .issue x => RoundTrip.issue x
  | .issuev x => RoundTrip.issuev x
  | .sets x => RoundTrip.sets x
  | .trap x => RoundTrip.trap x
  | .tret x => RoundTrip.tret x
  | .done x => RoundTrip.done x
  | .evcnt x => RoundTrip.evcnt x
  -- Vector commands (R91).
  | .vadd x => RoundTrip.vadd x
  | .vsub x => RoundTrip.vsub x
  | .vmul x => RoundTrip.vmul x
  | .vfma x => RoundTrip.vfma x
  | .vmin x => RoundTrip.vmin x
  | .vmax x => RoundTrip.vmax x
  | .vabs x => RoundTrip.vabs x
  | .vneg x => RoundTrip.vneg x
  | .vscl x => RoundTrip.vscl x
  | .vadds x => RoundTrip.vadds x
  | .vexp2 x => RoundTrip.vexp2 x
  | .vlog2 x => RoundTrip.vlog2 x
  | .vrcp x => RoundTrip.vrcp x
  | .vrsq x => RoundTrip.vrsq x
  | .vtanh x => RoundTrip.vtanh x
  | .vsigm x => RoundTrip.vsigm x
  | .vcvt x => RoundTrip.vcvt x
  | .vqdp8 x => RoundTrip.vqdp8 x
  | .vspc x => RoundTrip.vspc x
  | .vspx x => RoundTrip.vspx x
  | .vrsum x => RoundTrip.vrsum x
  | .vrmax x => RoundTrip.vrmax x
  | .vramax x => RoundTrip.vramax x
  | .vrdrn x => RoundTrip.vrdrn x
  | .vcmp x => RoundTrip.vcmp x
  | .vsel x => RoundTrip.vsel x
  | .vperm x => RoundTrip.vperm x
  | .vbcast x => RoundTrip.vbcast x
  | .vzip x => RoundTrip.vzip x
  | .vuzp x => RoundTrip.vuzp x
  | .vtop2 x => RoundTrip.vtop2 x
  | .vtags x => RoundTrip.vtags x
  | .vheap x => RoundTrip.vheap x
  | .vhdrn x => RoundTrip.vhdrn x
  | .vcnt x => RoundTrip.vcnt x
  | .vscan x => RoundTrip.vscan x
  -- Matrix commands (R92).
  | .mxld x => RoundTrip.mxld x
  | .mxldt x => RoundTrip.mxldt x
  | .mxevict x => RoundTrip.mxevict x
  | .mxres x => RoundTrip.mxres x
  | .mxmul x => RoundTrip.mxmul x
  | .mxmult x => RoundTrip.mxmult x
  | .mxmuls x => RoundTrip.mxmuls x
  | .mxgrad x => RoundTrip.mxgrad x
  | .mxgdrn x => RoundTrip.mxgdrn x
  | .mxdrn x => RoundTrip.mxdrn x
  | .mxzero x => RoundTrip.mxzero x
  -- Stream commands (R93).
  | .swalk x => RoundTrip.swalk x
  | .sbnd x => RoundTrip.sbnd x
  | .sstop x => RoundTrip.sstop x
  -- Copy commands (R94).
  | .cpy x => RoundTrip.cpy x
  | .cpyg x => RoundTrip.cpyg x
  | .cpys x => RoundTrip.cpys x
  | .cpyw x => RoundTrip.cpyw x
  | .cpyf x => RoundTrip.cpyf x
  | .cpyb x => RoundTrip.cpyb x
  | .cpyx x => RoundTrip.cpyx x
  -- Events.
  | .tokenArrival .. | .pullRequestArrival .. | .loadReply .. | .atomicReply .. | .storeCompletion ..
  | .directoryReply .. | .fillGrant .. | .pkrdReply .. | .fpollReply .. | .semwaitAnswer .. | .barrierAnswer ..
  | .implicitSeal .. | .commandBegin .. | .vectorTokenStep .. | .matrixRowStep .. | .matrixLoadToken .. | .streamToken ..
  | .copyUnit .. | .copyCompletion .. | .boxComplete .. | .ridgelineTransfer .. | .translationFill .. | .pageWalk ..
  | .pageFault .. | .vaultPortServe .. | .pageMoveDone .. | .atomicEngineServe .. | .hotLineFetch .. | .syncUnitServe ..
  | .directoryServe .. | .objectFreed .. | .dispatchDecision | .imageFetchDone .. | .tileArm .. | .start .. | .flush ..
  | .crst .. | .ctxsw .. | .recfg .. | .haltc .. | .drain .. | .kset .. | .cairnSeed .. | .cairnPassage ..
  | .cutComplete .. | .commit .. | .shortfall .. | .groupFault .. | .groupHalt .. | .drainComplete .. | .fold ..
  | .foldSwap .. | .unfold .. | .watchdogExpiry .. | .remoteRetrainExpiry .. | .storeBuild .. | .storeUnderrun ..
  | .arbitrationPeriod .. | .powerAlarm .. | .emergencyExit | .railRemoved | .powerOn | .partReset | .shockEvent ..
  | .launch .. | .qdescWrite .. | .accadd .. | .hostSemWrite .. | .fqidxWrite .. | .resume .. | .requeue .. | .abort ..
  | .halt .. | .preempt .. | .pgin .. | .pgout .. | .pgunpin .. | .pgread .. | .hostOpen .. | .hostClose ..
  | .hostBind .. | .hostUnbind .. | .hostRebind .. | .hostQuery .. | .hostMkobj .. | .direntRead .. | .kernelRegister ..
  | .kernelUnload .. | .apertureRead .. | .apertureWrite .. | .defineContext .. | .undefineContext .. | .resetFunction ..
  | .initiateFunctionLevelReset .. | .springCheck | .springCheckDone .. | .attest | .keyload .. | .keydrop .. | .span
  | .recover | .bootst | .linkRetrain .. | .linkReset .. | .park .. | .unpark .. | .pwcauseClear .. | .registerWrite ..
  | .linkTrainingDone .. | .laneLost .. | .linkRetrainTimeout .. | .flitReceive .. | .flitApply .. | .clockProbe ..
  | .probeAnswer .. | .writeApplied .. | .functionLevelResetComplete .. =>
    RoundTrip.ofEvent rfl

/-- Settles O59, instruction by instruction. -/
theorem roundTrip : Obligations.RoundTrip := by
  unfold Obligations.RoundTrip
  exact RoundTrip.ofInstr

/-! ### Words of the tables -/

/-- A rule word that encodes a well-formed instruction decodes to it. -/
theorem decodeRule_of_encode {i : Instr} {w : Word} (wf : i.wf = true) (h : encode i = some ⟨.rule, w⟩) :
    (decodeRule w).toOption = some i :=
  congrArg Except.toOption (RoundTrip.ofInstr i ⟨.rule, w⟩ wf h)

/-- A matrix command word that encodes a well-formed instruction decodes to it. -/
theorem decodeMat_of_encode {i : Instr} {w : Word} (wf : i.wf = true) (h : encode i = some ⟨.matrix, w⟩) :
    (decodeMat w).toOption = some i :=
  congrArg Except.toOption (RoundTrip.ofInstr i ⟨.matrix, w⟩ wf h)

/-- Settles O2: each word is the encoding of its instruction, so it decodes to that instruction. -/
theorem decodeWords : Obligations.DecodeWords := by
  unfold Obligations.DecodeWords
  refine ⟨?_, ?_, ?_, ?_, ?_⟩
  · exact decodeRule_of_encode rfl rfl
  · exact decodeRule_of_encode rfl rfl
  · exact decodeRule_of_encode rfl rfl
  · exact decodeRule_of_encode rfl rfl
  · exact decodeMat_of_encode rfl rfl

end Sys2Proof.Laws
end

section
/-! SUPPORT. The frame of the instructions that write one result: what a firing at an element leaves as it is. Each shared
operation that such a firing is made of keeps the frame, and the frame passes along a chain of them. -/

namespace Sys2Proof.Machine

/-! ### Elements -/

/-- What a firing may write: the element that it stands at, its DST, the counter register of CNTUP, the predicate of PW. -/
structure Writes where
  task : Nat
  vt : Fin 16
  e : Fin 16
  dst : Dst
  ctr : Option (Fin 8)
  prd : Option (Fin 8)

/-- An element keeps what neither a result nor PW nor a counter writes. -/
structure Elem.Frame (w : Writes) (a b : Elem) : Prop where
  d : ∀ n, w.dst ≠ .d n → w.ctr ≠ some n → vget b.d n = vget a.d n
  pred : ∀ n, w.prd ≠ some n → b.pred n = a.pred n
  k : b.k = a.k
  ac : b.ac = a.ac
  esw : b.esw = a.esw
  done : b.done = a.done
  slots : b.slots = a.slots

/-- An element keeps its registers, its predicates and all that `Elem.Frame` names: only its channels and its notes change. -/
structure Elem.Same (a b : Elem) : Prop where
  d : b.d = a.d
  p : b.p = a.p
  k : b.k = a.k
  ac : b.ac = a.ac
  esw : b.esw = a.esw
  done : b.done = a.done
  slots : b.slots = a.slots

theorem Elem.Same.refl (a : Elem) : a.Same a := ⟨rfl, rfl, rfl, rfl, rfl, rfl, rfl⟩

theorem Elem.Same.trans {a b c : Elem} (h : a.Same b) (k : b.Same c) : a.Same c :=
  ⟨k.d.trans h.d, k.p.trans h.p, k.k.trans h.k, k.ac.trans h.ac, k.esw.trans h.esw, k.done.trans h.done, k.slots.trans h.slots⟩

theorem Elem.Same.frame {a b : Elem} (h : a.Same b) (w : Writes) : a.Frame w b where
  d n _ _ := by rw [h.d]
  pred n _ := by simp only [Elem.pred, h.p]
  k := h.k
  ac := h.ac
  esw := h.esw
  done := h.done
  slots := h.slots

theorem Elem.Frame.refl (w : Writes) (a : Elem) : a.Frame w a := (Elem.Same.refl a).frame w

theorem Elem.Frame.trans {w : Writes} {a b c : Elem} (h : a.Frame w b) (k : b.Frame w c) : a.Frame w c where
  d n hd hc := (k.d n hd hc).trans (h.d n hd hc)
  pred n hn := (k.pred n hn).trans (h.pred n hn)
  k := k.k.trans h.k
  ac := k.ac.trans h.ac
  esw := k.esw.trans h.esw
  done := k.done.trans h.done
  slots := k.slots.trans h.slots

/-- Channels dequeued change the input channels alone. -/
theorem Elem.same_dequeue (el : Elem) (pull : Fin 4 → Bool) (l : List (Fin 4)) : el.Same (el.dequeue pull l) := by
  induction l generalizing el with
  | nil => exact Elem.Same.refl el
  | cons c r ih =>
    rw [Elem.dequeue]
    refine Elem.Same.trans ?_ (ih _)
    exact ⟨rfl, rfl, rfl, rfl, rfl, rfl, rfl⟩

/-- A bit set or cleared leaves the others. -/
theorem getLsbD_setBit_other {w : Nat} (x : BitVec w) (b : Bool) {n m : Nat} (h : m ≠ n) :
    (setBit x n b).getLsbD m = x.getLsbD m := by
  have apart : (BitVec.ofNat w (2 ^ n)).getLsbD m = false := by
    rw [BitVec.getLsbD_ofNat, Nat.testBit_two_pow_of_ne h.symm, Bool.and_false]
  by_cases hm : m < w
  · unfold setBit
    split <;> simp only [BitVec.getLsbD_or, BitVec.getLsbD_and, BitVec.getLsbD_not, apart, hm, decide_true, Bool.not_false,
      Bool.or_false, Bool.and_true]
  · rw [BitVec.getLsbD_of_ge _ _ (Nat.le_of_not_lt hm), BitVec.getLsbD_of_ge _ _ (Nat.le_of_not_lt hm)]

section
variable {w : Writes} (el : Elem)

theorem Elem.frame_setPred (n : Fin 8) (b : Bool) (deps : List Nat) (hw : w.prd = some n) : el.Frame w (el.setPred n b deps) where
  d _ _ _ := rfl
  pred m hm := getLsbD_setBit_other _ _ fun e => hm (by rw [hw, Fin.ext e])
  k := rfl
  ac := rfl
  esw := rfl
  done := rfl
  slots := rfl

theorem Elem.frame_pw (pw : Bool) (pd : Fin 8) (v : Word) (deps : List Nat) (hw : pw = true → w.prd = some pd) :
    el.Frame w (el.pw pw pd v deps) := by
  cases pw with
  | false => exact Elem.Frame.refl w el
  | true => exact el.frame_setPred pd _ deps (hw rfl)

theorem Elem.frame_setD (n : Fin 8) (v : Word) (deps : List Nat) (hw : w.dst = .d n ∨ w.ctr = some n) :
    el.Frame w (el.setD n v deps) where
  d m hd hc := by
    have apart : n.val ≠ m.val := fun e => by
      obtain rfl := Fin.ext e
      exact hw.elim hd hc
    exact Vector.getElem_set_ne n.isLt m.isLt apart
  pred _ _ := rfl
  k := rfl
  ac := rfl
  esw := rfl
  done := rfl
  slots := rfl

theorem Elem.frame_setCounter (a : SrcA) (v : Word) (deps : List Nat) (hw : ∀ n, a = .d n → w.ctr = some n) :
    el.Frame w (el.setCounter a v deps) := by
  cases a with
  | d n => exact el.frame_setD n v deps (.inr (hw n rfl))
  | deq c => exact Elem.Frame.refl w el
  | peek c => exact Elem.Frame.refl w el

end

/-! ### States -/

/-- A state after a firing that may write what w names: everything else of the machine that a result could reach is kept. The bytes
of the tile's own pad, whose places stay, may change where DST is a channel. -/
structure State.Frame (w : Writes) (s t : State) : Prop where
  cur : t.cur = s.cur
  accs : t.accs = s.accs
  objs : t.objs = s.objs
  tasks : t.tasks = s.tasks
  ctxs : t.ctxs = s.ctxs
  hostMem : t.hostMem = s.hostMem
  own : (s.elem w.task w.vt w.e).Frame w (t.elem w.task w.vt w.e)
  rest : ∀ e, e ≠ w.e → (s.elem w.task w.vt e).Same (t.elem w.task w.vt e)
  others : ∀ task vt, ikey task vt ≠ ikey w.task w.vt → t.inst? task vt = s.inst? task vt
  pad : ∀ off, t.padByte w.task w.vt off = s.padByte w.task w.vt off
  mem : (∀ o, w.dst ≠ .o o) → t.mem = s.mem
  bytes : ∀ a, (∀ off, a ≠ s.padByte w.task w.vt off) → t.mem.read a = s.mem.read a

theorem State.Frame.refl (w : Writes) (s : State) : State.Frame w s s where
  cur := rfl
  accs := rfl
  objs := rfl
  tasks := rfl
  ctxs := rfl
  hostMem := rfl
  own := Elem.Frame.refl w _
  rest _ _ := Elem.Same.refl _
  others _ _ _ := rfl
  pad _ := rfl
  mem _ := rfl
  bytes _ _ := rfl

theorem State.Frame.trans {w : Writes} {s t u : State} (h : State.Frame w s t) (k : State.Frame w t u) : State.Frame w s u where
  cur := k.cur.trans h.cur
  accs := k.accs.trans h.accs
  objs := k.objs.trans h.objs
  tasks := k.tasks.trans h.tasks
  ctxs := k.ctxs.trans h.ctxs
  hostMem := k.hostMem.trans h.hostMem
  own := h.own.trans k.own
  rest e he := (h.rest e he).trans (k.rest e he)
  others task vt hk := (k.others task vt hk).trans (h.others task vt hk)
  pad off := (k.pad off).trans (h.pad off)
  mem hd := (k.mem hd).trans (h.mem hd)
  bytes a ha := (k.bytes a fun off => by rw [h.pad]; exact ha off).trans (h.bytes a ha)

theorem State.Frame.foldl {α : Type} {w : Writes} {f : State → α → State} (l : List α)
    (h : ∀ s, ∀ x ∈ l, State.Frame w s (f s x)) (s : State) : State.Frame w s (l.foldl f s) := by
  induction l generalizing s with
  | nil => exact State.Frame.refl w s
  | cons x r ih =>
    exact (h s x List.mem_cons_self).trans (ih (fun s y hy => h s y (List.mem_cons_of_mem x hy)) _)

/-! ### Updates of the state -/

section
variable (w : Writes) (s : State)

/-- A change of groups that moves no pad. -/
theorem State.frame_updGroup (task : Nat) (f : Group → Group)
    (site : ∀ g x vt off, s.padAddr (f g) x vt off = s.padAddr g x vt off) : State.Frame w s (s.updGroup task f) where
  cur := rfl
  accs := rfl
  objs := rfl
  tasks := rfl
  ctxs := rfl
  hostMem := rfl
  own := Elem.Frame.refl w _
  rest _ _ := Elem.Same.refl _
  others _ _ _ := rfl
  pad off := by
    show s.padAddr ((s.updGroup task f).group w.task) (s.inst w.task w.vt) w.vt off = s.padAddr (s.group w.task) _ w.vt off
    by_cases h : task = w.task
    · subst h
      exact (s.sameBufs_updGroup w.task f site).pad w.vt off
    · have other : (s.updGroup task f).group w.task = s.group w.task := by
        simp [State.group, Assoc.getD, Assoc.get?_modify, h]
      rw [other]
  mem _ := rfl
  bytes _ _ := rfl

/-- A change of the copy that moves none of its pad and keeps what its elements must keep. -/
theorem State.frame_updInst (f : Inst → Inst) (host : ∀ x, (f x).host = x.host)
    (own : ((s.inst w.task w.vt).elem w.e).Frame w ((f (s.inst w.task w.vt)).elem w.e))
    (rest : ∀ e, e ≠ w.e → ((s.inst w.task w.vt).elem e).Same ((f (s.inst w.task w.vt)).elem e)) :
    State.Frame w s (s.updInst w.task w.vt f) where
  cur := rfl
  accs := rfl
  objs := rfl
  tasks := rfl
  ctxs := rfl
  hostMem := rfl
  own := by
    simp only [State.elem]
    obtain h | h := s.inst_updInst_cases w.task w.vt w.vt f <;> rw [h]
    · exact Elem.Frame.refl w _
    · exact own
  rest e he := by
    simp only [State.elem]
    obtain h | h := s.inst_updInst_cases w.task w.vt w.vt f <;> rw [h]
    · exact Elem.Same.refl _
    · exact rest e he
  others task vt hk := by
    simp [State.inst?, Assoc.get?_modify, hk.symm]
  pad off := s.padByte_updInst w.task w.vt f host w.vt off
  mem _ := rfl
  bytes _ _ := rfl

/-- A change of the copy beside its elements and its host tile. -/
theorem State.frame_updInst_beside (f : Inst → Inst) (host : ∀ x, (f x).host = x.host) (elems : ∀ x, (f x).elems = x.elems) :
    State.Frame w s (s.updInst w.task w.vt f) := by
  have same : ∀ x e, (f x).elem e = x.elem e := fun x e => by simp only [Inst.elem, elems]
  refine s.frame_updInst w f host ?_ fun e _ => ?_
  · rw [same]; exact Elem.Frame.refl w _
  · rw [same]; exact Elem.Same.refl _

/-- The copy set to one with the same elements on the same tile. -/
theorem State.frame_setInst (x : Inst) (host : x.host = (s.inst w.task w.vt).host) (elems : x.elems = (s.inst w.task w.vt).elems) :
    State.Frame w s (s.setInst w.task w.vt x) where
  cur := rfl
  accs := rfl
  objs := rfl
  tasks := rfl
  ctxs := rfl
  hostMem := rfl
  own := by
    simp only [State.elem, State.inst_setInst, Inst.elem, elems, if_true]
    exact Elem.Frame.refl w _
  rest e _ := by
    simp only [State.elem, State.inst_setInst, Inst.elem, elems, if_true]
    exact Elem.Same.refl _
  others task vt hk := by
    simp [State.inst?, Assoc.get?_put, hk.symm]
  pad off := by
    show s.padAddr (s.group w.task) ((s.setInst w.task w.vt x).inst w.task w.vt) w.vt off = _
    rw [State.inst_setInst, if_pos rfl]
    exact s.padAddr_of_host _ host _ _
  mem _ := rfl
  bytes _ _ := rfl

/-- A change of an element of the copy. -/
theorem State.frame_updElem (p : Fin 16) (f : Elem → Elem)
    (own : p = w.e → (s.elem w.task w.vt w.e).Frame w (f (s.elem w.task w.vt w.e)))
    (rest : p ≠ w.e → (s.elem w.task w.vt p).Same (f (s.elem w.task w.vt p))) :
    State.Frame w s (s.updElem w.task w.vt p f) := by
  refine s.frame_updInst w _ (fun _ => rfl) ?_ fun e he => ?_ <;> rw [Inst.elem_setElem]
  · split
    · next h => subst h; exact own rfl
    · exact Elem.Frame.refl w _
  · split
    · next h => subst h; exact rest he
    · exact Elem.Same.refl _

/-- A change of an element's channels and notes. -/
theorem State.frame_updElem_same (p : Fin 16) (f : Elem → Elem) (same : ∀ el : Elem, el.Same (f el)) :
    State.Frame w s (s.updElem w.task w.vt p f) :=
  s.frame_updElem w p f (fun _ => (same _).frame w) fun _ => same _

/-- A change that touches no copy, no group and none of the rest that the frame names. -/
theorem State.frame_of_kept {t : State} (cur : t.cur = s.cur) (accs : t.accs = s.accs) (objs : t.objs = s.objs)
    (tasks : t.tasks = s.tasks) (ctxs : t.ctxs = s.ctxs) (hostMem : t.hostMem = s.hostMem) (insts : t.insts = s.insts)
    (groups : t.groups = s.groups) (fenced : t.fenced = s.fenced) (mem : t.mem = s.mem) : State.Frame w s t where
  cur := cur
  accs := accs
  objs := objs
  tasks := tasks
  ctxs := ctxs
  hostMem := hostMem
  own := by rw [State.elem_of_insts insts]; exact Elem.Frame.refl w _
  rest e _ := by rw [State.elem_of_insts insts]; exact Elem.Same.refl _
  others _ _ _ := by rw [State.inst?, insts]; rfl
  pad off := by
    have regions : t.physRegion = s.physRegion := by
      funext r
      simp only [State.physRegion, State.inService, fenced]
    simp only [State.padByte, State.padAddr, State.globalTile, State.group, groups, State.inst_of_insts insts, regions]
    rfl
  mem _ := mem
  bytes _ _ := by rw [mem]

theorem State.frame_mark : State.Frame w s s.mark := s.frame_of_kept w rfl rfl rfl rfl rfl rfl rfl rfl rfl rfl

theorem State.frame_countAt (task : Nat) (vt : Fin 16) (src n : Nat) : State.Frame w s (s.countAt task vt src n) := by
  unfold State.countAt
  split
  · exact s.frame_of_kept w rfl rfl rfl rfl rfl rfl rfl rfl rfl rfl
  · exact State.Frame.refl w s

theorem State.CutOnly.frame {s t : State} {task : Nat} (h : State.CutOnly task s t) (w : Writes) : State.Frame w s t := by
  cases h with
  | same => exact State.Frame.refl w s
  | cut c => exact s.frame_updGroup w task _ fun _ _ _ _ => rfl

theorem State.frame_cairnArrives (task : Nat) (g : Group) (n : Nat) (p : Ep) : State.Frame w s (s.cairnArrives task g n p) := by
  unfold State.cairnArrives
  split
  · exact State.Frame.refl w s
  · exact s.frame_updGroup w task _ fun _ _ _ _ => rfl

theorem Group.padAddr_stopped (g : Group) (inStep : Bool) (st : Stop) (x : Inst) (vt : Fin 16) (off : Nat) :
    s.padAddr (g.stopped inStep st) x vt off = s.padAddr g x vt off := by
  unfold Group.stopped
  repeat' split
  all_goals rfl

theorem State.frame_raise (task : Nat) (st : Stop) : State.Frame w s (s.raise task st) := by
  exact (s.frame_mark w).trans (State.frame_updGroup w _ task _ fun g x vt off => Group.padAddr_stopped _ g _ st x vt off)

end

end Sys2Proof.Machine
end

section
/-! SUPPORT. The tokens that a firing sends, its debit and its result keep the frame, and so does each form of a rule that writes
one result. -/

namespace Sys2Proof.Machine

/-! ### Tokens -/

section
variable {w : Writes} {s : State}

/-- A token that enters a buffer of the copy is written into bytes of its pad (log entry 11). -/
theorem State.frame_pushBuf {g : Group} (hg : ∀ off, s.padAddr g (s.inst w.task w.vt) w.vt off = s.padByte w.task w.vt off)
    (chan : ∃ o, w.dst = .o o) (b : Nat) (t : Wtok) : State.Frame w s (s.pushBuf w.task g w.vt b t) := by
  have placed : State.Frame w s { s.pushBuf w.task g w.vt b t with mem := s.mem } := s.frame_setInst w _ rfl rfl
  refine { placed with mem := fun none => ?_, bytes := fun a ha => ?_ }
  · obtain ⟨o, ho⟩ := chan
    exact absurd ho (none o)
  · rw [State.mem_pushBuf]
    exact Memory.read_writesBy_other _ _ _ _ a fun off => by rw [hg]; exact ha off

variable (chan : ∃ o, w.dst = .o o)
include chan

/-- A token that lands within the tile of the firing. -/
theorem State.frame_land (n : Nat) (p : Ep) (t : Wtok) (hp : p.vt = w.vt) :
    State.Frame w s (s.land w.task (s.group w.task) n p t) := by
  have cairn := s.frame_cairnArrives w w.task (s.group w.task) n p
  have noted := s.recordArrival_cutOnly w.task (s.group w.task) n p t
  cases p with
  | inp vt e c =>
    obtain rfl : vt = w.vt := hp
    simp only [State.land]
    split
    · exact cairn
    · refine (noted.frame w).trans (State.frame_updElem_same w _ e _ fun _ => ?_)
      exact ⟨rfl, rfl, rfl, rfl, rfl, rfl, rfl⟩
  | buf vt b =>
    obtain rfl : vt = w.vt := hp
    simp only [State.land]
    split
    · split
      · exact cairn
      · refine cairn.trans (State.frame_updInst_beside w _ _ (fun _ => ?_) fun _ => ?_) <;> rfl
    · refine (noted.frame w).trans (State.frame_pushBuf (fun off => ?_) chan b.val t)
      rw [noted.padAddr, State.inst_of_insts noted.insts, (noted.frame w).pad off]
      rfl
  | bnd vt k =>
    obtain rfl : vt = w.vt := hp
    simp only [State.land]
    split
    · exact cairn
    · refine (noted.frame w).trans (State.frame_updInst_beside w _ _ (fun x => ?_) fun x => ?_)
      · split_ifs <;> rfl
      · split_ifs <;> rfl
  | out vt e o => exact State.Frame.refl w s
  | mst vt => exact State.Frame.refl w s
  | cmd vt k => exact State.Frame.refl w s

/-- A token sent on an edge that starts in the tile of the firing. -/
theorem State.frame_sendEdge (x : Edge × Nat) (t : Wtok) (src : x.1.src.vt = w.vt) :
    State.Frame w s (s.sendEdge w.task x t) := by
  unfold State.sendEdge
  dsimp only
  split
  · next within =>
    rw [src] at within
    split
    · next vt e c hd =>
      obtain rfl : w.vt = vt := by rw [hd] at within; exact within
      exact s.frame_updElem_same w e _ fun _ => ⟨rfl, rfl, rfl, rfl, rfl, rfl, rfl⟩
    · exact State.frame_land chan x.2 _ t within.symm
  · exact s.frame_updGroup w w.task _ fun _ _ _ _ => rfl

theorem State.frame_send (e : Fin 16) (o : Fin 4) (t : Wtok) : State.Frame w s (s.send w.task (.out w.vt e o) t) := by
  refine State.Frame.foldl _ (fun s x hx => State.frame_sendEdge chan x t ?_) s
  rw [Image.src_of_mem_from hx]
  rfl

theorem State.frame_drainOut (e : Fin 16) (o : Fin 4) : State.Frame w s (s.drainOut w.task w.vt e o) := by
  unfold State.drainOut
  refine (s.frame_updElem_same w e _ fun _ => ?_).trans
    (State.Frame.foldl _ (fun s (t : Tok) _ => State.frame_send chan e o t.wide) _)
  exact ⟨rfl, rfl, rfl, rfl, rfl, rfl, rfl⟩

theorem State.frame_emit (e : Fin 16) (o : Fin 4) (t : Tok) : State.Frame w s (s.emit w.task w.vt e o t) := by
  refine (s.frame_updElem_same w e _ fun _ => ?_).trans (State.frame_drainOut chan e o)
  exact ⟨rfl, rfl, rfl, rfl, rfl, rfl, rfl⟩

end

theorem State.frame_takePull (w : Writes) (s : State) (g : Group) (e : Fin 16) (o : Fin 4) :
    State.Frame w s (s.takePull w.task g w.vt e o) := by
  unfold State.takePull
  split
  · exact s.frame_updElem_same w e _ fun _ => ⟨rfl, rfl, rfl, rfl, rfl, rfl, rfl⟩
  · exact State.Frame.refl w s

/-! ### The firing -/

/-- What a locus holds. -/
theorem State.here_spec {s : State} {h : Here} (hh : s.here = some h) :
    s.cur.node = .elem h.e ∧ s.group? s.cur.task = some h.g ∧ s.inst? s.cur.task s.cur.vt = some h.x
      ∧ h.el = h.x.elem h.e := by
  unfold State.here at hh
  split at hh
  · next e he =>
    split at hh
    · next g x hg hx =>
      cases hh
      exact ⟨he, hg, hx, rfl⟩
    · cases hh
  · cases hh

/-- The firing at the locus of h in s writes the registers that it may, and no others. -/
abbrev Here.writes (h : Here) (s : State) (dst : Dst) (ctr prd : Option (Fin 8)) : Writes :=
  ⟨s.cur.task, s.cur.vt, h.e, dst, ctr, prd⟩

/-- The element stands at the locus, as the firing found it. -/
structure State.Stands (s t : State) (h : Here) : Prop where
  cur : t.cur = s.cur
  elem : t.elem s.cur.task s.cur.vt h.e = h.el

theorem State.stands_here {s : State} {h : Here} (hh : s.here = some h) : State.Stands s s h := by
  obtain ⟨-, -, hx, he⟩ := State.here_spec hh
  exact ⟨rfl, by rw [State.elem_of_inst? hx, he]⟩

theorem State.insts_countAt (s : State) (task : Nat) (vt : Fin 16) (src n : Nat) : (s.countAt task vt src n).insts = s.insts := by
  unfold State.countAt
  split <;> rfl

section
variable {s : State} {h : Here} {dst : Dst} {ctr prd : Option (Fin 8)} (hh : s.here = some h)
include hh

/-- A debit keeps the frame. -/
theorem State.frame_paid (d : Nat) : State.Frame (h.writes s dst ctr prd) s (Safety.paid s h d) := by
  obtain ⟨-, -, hx, -⟩ := State.here_spec hh
  have hx := State.inst_of_inst? hx
  set w := h.writes s dst ctr prd
  have taken : State.Frame w s.mark (s.mark.setInst s.cur.task s.cur.vt (h.x.debit d)) :=
    s.mark.frame_setInst w (h.x.debit d) (by rw [← hx]; rfl) (by rw [← hx]; rfl)
  have progress := (s.mark.setInst s.cur.task s.cur.vt (h.x.debit d)).frame_updGroup w s.cur.task
    (fun g => { g with wd := 0, episode := none }) fun _ _ _ _ => rfl
  exact (((s.frame_mark w).trans taken).trans progress).trans
    ((State.frame_countAt w _ _ s.cur.vt _ _).trans (State.frame_countAt w _ _ s.cur.vt _ _))

theorem State.stands_paid (d : Nat) : State.Stands s (Safety.paid s h d) h := by
  obtain ⟨-, -, hx, he⟩ := State.here_spec hh
  refine ⟨(State.frame_paid (dst := .none) (ctr := none) (prd := none) hh d).cur, ?_⟩
  have taken : (Safety.paid s h d).insts = (s.mark.setInst s.cur.task s.cur.vt (h.x.debit d)).insts :=
    (State.insts_countAt _ _ s.cur.vt _ _).trans (State.insts_countAt _ _ s.cur.vt _ _)
  rw [State.elem_of_insts taken, State.elem, State.inst_setInst, if_pos rfl, he]
  rfl

/-- A rule that waits, stops its group or fires keeps the frame where its firing does. -/
theorem State.frame_charge (opc d : Nat) (k : State → State)
    (fires : State.Frame (h.writes s dst ctr prd) (Safety.paid s h d) (k (Safety.paid s h d))) :
    State.Frame (h.writes s dst ctr prd) s (s.charge h opc d k) := by
  obtain e | e | ⟨e, -⟩ := s.charge_cases h opc d k <;> rw [e]
  · exact (s.frame_mark (h.writes s dst ctr prd)).trans
      (State.frame_updInst_beside (h.writes s dst ctr prd) _ _ (fun _ => rfl) fun _ => rfl)
  · exact s.frame_raise _ _ _
  · exact (State.frame_paid hh d).trans fires

end

section
variable {s t : State} {h : Here} {dst : Dst} {ctr prd : Option (Fin 8)} (ht : State.Stands s t h) (el : Elem)
  (hel : h.el.Frame (h.writes s dst ctr prd) el)
include ht hel

theorem State.frame_putHere : State.Frame (h.writes s dst ctr prd) t (t.putHere h el) := by
  unfold State.putHere
  rw [ht.cur]
  refine t.frame_updElem (h.writes s dst ctr prd) h.e (fun _ => el) (fun _ => ?_) fun ne => absurd rfl ne
  rw [ht.elem]
  exact hel

/-- A result written to DST, with the predicate of PW. -/
theorem State.frame_result (tok : Tok) (val : Word) (pd : Fin 8) (pw : Bool) (hp : pw = true → prd = some pd) :
    State.Frame (h.writes s dst ctr prd) t (t.result h el dst tok val pd pw) := by
  have put := hel.trans (el.frame_pw (w := h.writes s dst ctr prd) pw pd val tok.deps hp)
  cases dst with
  | d n => exact State.frame_putHere ht _ (put.trans (Elem.frame_setD _ n val tok.deps (.inl rfl)))
  | o o =>
    refine (State.frame_putHere ht _ put).trans ?_
    have cur : (t.putHere h (el.pw pw pd val tok.deps)).cur = s.cur := ht.cur
    simp only [State.result, State.out, cur]
    exact (State.frame_takePull (h.writes s (.o o) ctr prd) _ _ h.e o).trans (State.frame_emit ⟨o, rfl⟩ h.e o tok)
  | pred => exact State.frame_putHere ht _ put
  | none => exact State.frame_putHere ht _ put

end

/-- The counter register of CNTUP written after its result. -/
theorem State.frame_counter {s t u : State} {h : Here} {dst : Dst} {ctr prd : Option (Fin 8)} (ht : State.Stands s t h)
    (f : State.Frame (h.writes s dst ctr prd) t u) (a : SrcA) (v : Word) (deps : List Nat) (hc : ∀ n, a = .d n → ctr = some n) :
    State.Frame (h.writes s dst ctr prd) t (u.updElem u.cur.task u.cur.vt h.e fun el => el.setCounter a v deps) := by
  refine f.trans ?_
  rw [f.cur, ht.cur]
  exact u.frame_updElem (h.writes s dst ctr prd) h.e _ (fun _ => Elem.frame_setCounter _ a v deps hc) fun ne => absurd rfl ne

/-- ARSTAT bits are the copy's. -/
theorem State.frame_setAr {s t u : State} {h : Here} {dst : Dst} {ctr prd : Option (Fin 8)} (ht : State.Stands s t h)
    (f : State.Frame (h.writes s dst ctr prd) t u) (a : Ar) : State.Frame (h.writes s dst ctr prd) t (u.setAr a) := by
  refine f.trans ?_
  unfold State.setAr
  rw [f.cur, ht.cur]
  exact u.frame_updInst_beside (h.writes s dst ctr prd) _ (fun _ => rfl) fun _ => rfl

end Sys2Proof.Machine
end

section
/-! The frame of the register, tag, steering, token and constant instructions (R111-R114, R121, R124, R134, R142): each form of a
rule keeps it, so each instruction does. -/

namespace Sys2Proof.Machine

/-! ### The forms of a rule -/

theorem State.frame_dequeued {s : State} {h : Here} {dst : Dst} {ctr prd : Option (Fin 8)}
    (pull : Fin 4 → Bool) (l : List (Fin 4)) :
    h.el.Frame (h.writes s dst ctr prd) (h.el.dequeue pull l) :=
  (h.el.same_dequeue pull l).frame _

/-- What an instruction comes to keeps the frame. -/
def State.Keeps (s : State) (w : Writes) (o : Out) : Prop := ∃ t, o = .next t ∧ State.Frame w s t

theorem State.keeps_self (s : State) (w : Writes) : s.Keeps w (.next s) := ⟨s, rfl, State.Frame.refl w s⟩

section
variable {s : State} {h : Here} {ctr prd : Option (Fin 8)} (hh : s.here = some h)
include hh

theorem State.frame_fireEa2 (i : Ea2) (opc d : Nat) (f : Word → Word → Word × Ar) (hp : i.pw = true → prd = some i.pd) :
    State.Frame (h.writes s i.dst ctr prd) s (s.fireEa2 i opc d f) := by
  simp only [State.fireEa2, hh]
  split
  · refine State.frame_charge hh opc d _ (State.frame_setAr (State.stands_paid hh d) ?_ _)
    exact State.frame_result (State.stands_paid hh d) _ (State.frame_dequeued _ _) _ _ _ _ hp
  · exact State.Frame.refl _ s

theorem State.frame_fireEa1 (i : Ea1) (opc d : Nat) (f : Tok → Word × Ar) (hp : i.pw = true → prd = some i.pd) :
    State.Frame (h.writes s i.dst ctr prd) s (s.fireEa1 i opc d f) := by
  simp only [State.fireEa1, hh]
  split
  · refine State.frame_charge hh opc d _ (State.frame_setAr (State.stands_paid hh d) ?_ _)
    exact State.frame_result (State.stands_paid hh d) _ (State.frame_dequeued _ _) _ _ _ _ hp
  · exact State.Frame.refl _ s

theorem State.frame_fireEi (t : Trig) (dst : Dst) (sa : SrcA) (pd : Fin 8) (pw : Bool) (opc d : Nat) (f : Word → Word × Ar)
    (hp : pw = true → prd = some pd) : State.Frame (h.writes s dst ctr prd) s (s.fireEi t dst sa pd pw opc d f) := by
  simp only [State.fireEi, hh]
  split
  · refine State.frame_charge hh opc d _ (State.frame_setAr (State.stands_paid hh d) ?_ _)
    exact State.frame_result (State.stands_paid hh d) _ (State.frame_dequeued _ _) _ _ _ _ hp
  · exact State.Frame.refl _ s

theorem State.frame_fireNone (t : Trig) (dst : Dst) (side : Side) (pd : Fin 8) (pw : Bool) (opc d : Nat) (f : Here → Word)
    (hp : pw = true → prd = some pd) : State.Frame (h.writes s dst ctr prd) s (s.fireNone t dst side pd pw opc d f) := by
  simp only [State.fireNone, hh]
  split
  · refine State.frame_charge hh opc d _ ?_
    exact State.frame_result (State.stands_paid hh d) _ (Elem.Frame.refl _ _) _ _ _ _ hp
  · exact State.Frame.refl _ s

theorem State.frame_fireTake (x : Ea2) (opc : Nat) (t : Tok) (takes : List (Fin 4)) (el : Elem)
    (hel : h.el.Same el) (hp : x.pw = true → prd = some x.pd) :
    State.Frame (h.writes s x.dst ctr prd) s (s.fireTake h x opc t takes el) := by
  refine State.frame_charge hh opc 1 _ ?_
  exact State.frame_result (State.stands_paid hh 1) _ ((hel.trans (el.same_dequeue _ _)).frame _) _ _ _ _ hp

/-! ### Instructions with a form of their own -/

theorem execTagw_keeps (x : Ea2) (hp : x.pw = true → prd = some x.pd) : s.Keeps (h.writes s x.dst ctr prd) (execTagw x s) := by
  simp only [execTagw, hh]
  split
  · refine ⟨_, rfl, State.frame_charge hh _ 1 _ ?_⟩
    exact State.frame_result (State.stands_paid hh 1) _ (State.frame_dequeued _ _) _ _ _ _ hp
  · exact State.keeps_self s _

theorem execSteer_keeps (x : Ea2) (hp : x.pw = true → prd = some x.pd) : s.Keeps (h.writes s x.dst ctr prd) (execSteer x s) := by
  have paid := State.stands_paid hh 1
  have marked (b : Bool) (deps : List Nat) (l : List (Fin 4)) : h.el.Frame (h.writes s x.dst ctr prd)
      (if x.pw then (h.el.dequeue ((Safety.paid s h 1).pullHere h) l).setPred x.pd b deps
        else h.el.dequeue ((Safety.paid s h 1).pullHere h) l) := by
    split
    · next pw => exact (State.frame_dequeued _ _).trans (Elem.frame_setPred _ _ _ _ (hp pw))
    · exact State.frame_dequeued _ _
  simp only [execSteer, hh]
  split
  · refine ⟨_, rfl, State.frame_charge hh _ 1 _ ?_⟩
    split
    · exact State.frame_result paid _ (marked _ _ _) _ _ _ _ nofun
    · exact State.frame_putHere paid _ (marked _ _ _)
  · exact State.keeps_self s _

theorem execMerge_keeps (x : Ea2) (hp : x.pw = true → prd = some x.pd) : s.Keeps (h.writes s x.dst ctr prd) (execMerge x s) := by
  have fires (t : Tok) (l : List (Fin 4)) : s.Keeps (h.writes s x.dst ctr prd) (.next (s.fireTake h x 0x35 t l h.el)) :=
    ⟨_, rfl, State.frame_fireTake hh x _ t l _ (Elem.Same.refl _) hp⟩
  simp only [execMerge, hh]
  split
  · split
    · split
      · exact fires _ _
      · exact State.keeps_self s _
    · split
      · exact fires _ _
      · exact State.keeps_self s _
  · exact State.keeps_self s _

theorem execCarry_keeps (x : Ea2) (hp : x.pw = true → prd = some x.pd) : s.Keeps (h.writes s x.dst ctr prd) (execCarry x s) := by
  have fires (t : Tok) (l : List (Fin 4)) (b : Bool) :
      s.Keeps (h.writes s x.dst ctr prd) (.next (s.fireTake h x 0x36 t l (h.el.setPhase s.cur.slot b))) :=
    ⟨_, rfl, State.frame_fireTake hh x _ t l _ ⟨rfl, rfl, rfl, rfl, rfl, rfl, rfl⟩ hp⟩
  simp only [execCarry, hh]
  split
  · split
    · split
      · exact fires _ _ _
      · exact State.keeps_self s _
    · split
      · exact fires _ _ _
      · exact State.keeps_self s _
  · exact State.keeps_self s _

theorem execDrop_keeps (x : EaChan) : s.Keeps (h.writes s .none ctr prd) (execDrop x s) := by
  simp only [execDrop, hh]
  split
  · refine ⟨_, rfl, State.frame_charge hh _ 1 _ ?_⟩
    exact State.frame_putHere (State.stands_paid hh 1) _ (State.frame_dequeued _ _)
  · exact State.keeps_self s _

theorem execReq_keeps (x : EaChan) : s.Keeps (h.writes s .none ctr prd) (execReq x s) := by
  simp only [execReq, hh]
  split
  · split
    · split
      · refine ⟨_, rfl, State.frame_charge hh _ 1 _ ?_⟩
        refine State.frame_putHere (State.stands_paid hh 1) _ (Elem.Same.frame ?_ _)
        exact ⟨rfl, rfl, rfl, rfl, rfl, rfl, rfl⟩
      · exact State.keeps_self s _
    · exact ⟨_, rfl, s.frame_raise _ _ _⟩
  · exact State.keeps_self s _

/-- A firing of CNTUP that writes keeps all but DST, the counter and the predicate of PW. -/
theorem execCntup_keeps (x : Ea2) (hc : ∀ n, x.sa = .d n → ctr = some n) (hp : x.pw = true → prd = some x.pd) :
    s.Keeps (h.writes s x.dst ctr prd) (execCntup x s) := by
  have paid := State.stands_paid hh 1
  simp only [execCntup, hh]
  split
  · refine ⟨_, rfl, State.frame_charge hh _ 1 _ ?_⟩
    have marked (b : Bool) (deps : List Nat) {el : Elem} (hel : h.el.Frame (h.writes s x.dst ctr prd) el) :
        h.el.Frame (h.writes s x.dst ctr prd) (if x.pw then el.setPred x.pd b deps else el) := by
      split
      · next pw => exact hel.trans (Elem.frame_setPred _ _ _ _ (hp pw))
      · exact hel
    split
    · exact State.frame_result paid _ (State.frame_dequeued _ _) _ _ _ _ hp
    · split
      · exact State.frame_putHere paid _
          (marked _ _ ((State.frame_dequeued _ _).trans (Elem.frame_setCounter _ _ _ _ hc)))
      · refine State.frame_counter paid (State.frame_result paid _ ?_ _ _ _ _ ?_) _ _ _ hc
        · exact marked _ _ (State.frame_dequeued _ _)
        · nofun
  · exact State.keeps_self s _

end

/-! ### The statement -/

/-- What an instruction that writes a result may write at the locus. -/
def Here.writesOf (h : Here) (s : State) (i : Instr) (dst : Dst) : Writes :=
  h.writes s dst (Claims.counterOf i) (Claims.predOf i)

theorem predOf_of_pw {pw : Bool} {pd : Fin 8} (on : pw = true) : (if pw then some pd else none) = some pd := if_pos on

section
variable {s : State} {h : Here} (hh : s.here = some h)
include hh

/-- Each instruction of the family has the frame of its form. -/
theorem exec_keeps {i : Instr} {dst : Dst} (hd : Claims.dstOf i = some dst) : s.Keeps (Here.writesOf h s i dst) (exec i s) := by
  cases i
  case add x | sub x | mul x | mulh x | mulhu x | min x | max x | minu x | maxu x | addsh x | absd x | adds x | subs x | and x | or x
      | xor x | andn x | shl x | shr x | sar x | ceq x | cne x | clt x | cle x | cltu x | cleu x | fadd x | fsub x | fmul x | fmax x
      | fmin x | fclt x =>
    cases hd
    exact ⟨_, rfl, State.frame_fireEa2 hh x _ _ _ predOf_of_pw⟩
  case neg x | abs x | clz x | popc x | mov x | tagr x | dimr x =>
    cases hd
    exact ⟨_, rfl, State.frame_fireEa1 hh x _ _ _ predOf_of_pw⟩
  case fma x =>
    cases hd
    exact ⟨_, rfl, State.frame_fireEa2 hh ⟨x.trig, .d x.d, x.sa, x.sb, x.pd, x.pw, x.ctag, x.dim⟩ _ _ _ predOf_of_pw⟩
  case sel x =>
    cases hd
    exact ⟨_, rfl, State.frame_fireEa2 hh ⟨x.trig, x.dst, x.sa, x.sb, 0, false, x.ctag, x.dim⟩ _ _ _ nofun⟩
  case addi x | andi x | ori x | xori x | shli x | shri x | sari x | bfx x | fcvt x =>
    cases hd
    exact ⟨_, rfl, State.frame_fireEi hh _ _ _ _ _ _ _ _ nofun⟩
  case ceqi x | clti x | cgti x =>
    cases hd
    exact ⟨_, rfl, State.frame_fireEi hh _ _ _ _ _ _ _ _ predOf_of_pw⟩
  case movi x | movhi x | gets x | endt x =>
    cases hd
    exact ⟨_, rfl, State.frame_fireNone hh _ _ _ _ _ _ _ _ nofun⟩
  case movk x =>
    cases hd
    exact ⟨_, rfl, State.frame_fireNone hh _ _ _ _ _ _ _ _ predOf_of_pw⟩
  case tagw x =>
    cases hd
    exact execTagw_keeps hh x predOf_of_pw
  case steer x =>
    cases hd
    exact execSteer_keeps hh x predOf_of_pw
  case merge x =>
    cases hd
    exact execMerge_keeps hh x predOf_of_pw
  case carry x =>
    cases hd
    exact execCarry_keeps hh x predOf_of_pw
  case cntup x =>
    cases hd
    refine execCntup_keeps hh x (fun n hn => ?_) predOf_of_pw
    simp only [Claims.counterOf, hn]
  case drop x =>
    cases hd
    exact execDrop_keeps hh x
  case req x =>
    cases hd
    exact execReq_keeps hh x
  all_goals cases hd

end

/-- Settles O57: the frame of the instruction's form, read at the locus. -/
theorem resultFrame : Obligations.ResultFrame := by
  unfold Obligations.ResultFrame
  intro i dst s t h hd hh he
  obtain ⟨u, hu, f⟩ := exec_keeps hh hd
  obtain rfl : u = t := by
    rw [hu] at he
    exact Host.Outcome.next.inj he
  obtain ⟨-, hg, hx, -⟩ := State.here_spec hh
  have own := f.own
  simp only [Here.writesOf, (State.stands_here hh).elem] at own
  have site : ∀ off, s.padByte s.cur.task s.cur.vt off = s.padAddr h.g h.x s.cur.vt off := fun off => by
    rw [State.padByte, State.group_of_group? hg, State.inst_of_inst? hx]
  refine ⟨f.accs, f.objs, f.tasks, f.ctxs, f.hostMem, own.d, own.pred, own.k, own.ac, own.esw, own.done, own.slots, f.others,
    fun e ne => ⟨(f.rest e ne).d, (f.rest e ne).p⟩, f.mem, fun a ha => f.bytes a fun off => ?_⟩
  exact (site off).symm ▸ ha off

end Sys2Proof.Machine
end

section
/-! Integer, logic, shift, compare, predicate and floating-point instructions of the elements (R124-R134, R144, R145): each is a
form of a rule with the result that its row gives. -/

namespace Sys2Proof.Machine

/-! ### Results -/

theorem high32_ofNat (n : Nat) : high32 (n : Int) = BitVec.ofNat 32 (n / 2 ^ 32) := by
  rw [high32, ← BitVec.ofInt_natCast]
  norm_num

theorem pick_decide (p : Prop) [Decidable p] (a b : Word) : pick (decide p) a b = if p then a else b := by
  simp [pick]

/-- A shift count of 32 or more shifts in the sign alone. -/
theorem sshiftRight_min (a : Word) (n : Nat) :
    a.sshiftRight (min n 31) = if n < 32 then a.sshiftRight n else a.sshiftRight 31 := by
  split
  · rw [Nat.min_eq_left (by omega)]
  · rw [Nat.min_eq_right (by omega)]

theorem ult_32 (b : Word) : b.ult 32 = decide (b.toNat < 32) := rfl

theorem zero_sub_toNat (a : Word) : 0 - a = BitVec.ofNat 32 ((2 ^ 32 - a.toNat) % 2 ^ 32) := by
  apply BitVec.eq_of_toNat_eq
  simp

/-- The top bit of a field of n + 1 bits is set where the field is 2 ^ n or more. -/
theorem bitField_eq (a : Word) (lo n : Nat) (sx : Bool) : bitField a lo (n + 1) sx =
    let f := a.toNat / 2 ^ lo % 2 ^ (n + 1)
    if sx = true ∧ 2 ^ n ≤ f then BitVec.ofInt 32 ((f : Int) - 2 ^ (n + 1)) else BitVec.ofNat 32 f := by
  have top (f : Nat) (below : f < 2 ^ n * 2) : f / 2 ^ n % 2 = 1 ↔ 2 ^ n ≤ f := by
    have small : f / 2 ^ n < 2 := Nat.div_lt_of_lt_mul below
    rw [← Nat.one_le_div_iff (Nat.two_pow_pos n)]
    generalize f / 2 ^ n = q at small ⊢
    omega
  have below : a.toNat / 2 ^ lo % 2 ^ (n + 1) < 2 ^ n * 2 := Nat.mod_lt _ (Nat.two_pow_pos (n + 1))
  simp only [bitField, Nat.add_sub_cancel, Bool.and_eq_true, beq_iff_eq, top _ below]

/-! ### Rows of the tables -/

/-- A two-source instruction whose meaning is the register form with the results of f. -/
theorem ea2_completes {mk : Ea2 → Instr} {d : Nat} (opc : Nat) {f g : Word → Word → Word × Ar}
    (means : ∀ x s, exec (mk x) s = .next (s.fireEa2 x opc d f)) (result : ∀ a b, f a b = g a b)
    (x : Ea2) (s : State) (h : Here) (fires : Safety.Fires s h x.trig d) (read : Safety.readable h x.sa x.sb)
    (takes : Safety.takes s h x.dst) : exec (mk x) s = .next (Safety.after2 s h x d g) := by
  obtain rfl : f = g := funext fun a => funext (result a)
  rw [means, State.fireEa2_of fires read takes]

theorem ea1_completes {mk : Ea1 → Instr} (opc : Nat) {f g : Tok → Word}
    (means : ∀ x s, exec (mk x) s = .next (s.fireEa1 x opc 1 fun a => (f a, {}))) (result : ∀ a, f a = g a)
    (x : Ea1) (s : State) (h : Here) (fires : Safety.Fires s h x.trig 1) (read : h.el.okA x.sa = true)
    (takes : Safety.takes s h x.dst) : exec (mk x) s = .next (Safety.after1 s h x 1 g) := by
  obtain rfl : f = g := funext result
  rw [means, State.fireEa1_of fires read takes]

/-- Settles O3, row by row. -/
theorem integerInstructions : Obligations.IntegerInstructions := by
  unfold Obligations.IntegerInstructions
  constructor
  · simp only [Claims.intRows, List.forall_mem_cons, List.not_mem_nil, false_imp_iff, implies_true, and_true]
    and_intros
    · exact ea2_completes 0x00 (fun _ _ => rfl) fun _ _ => rfl
    · exact ea2_completes 0x01 (fun _ _ => rfl) fun _ _ => rfl
    · exact ea2_completes 0x03 (fun _ _ => rfl) fun _ _ => rfl
    · exact ea2_completes 0x04 (fun _ _ => rfl) fun _ _ => rfl
    · exact ea2_completes 0x05 (fun _ _ => rfl) fun a b => by rw [high32_ofNat]
    · exact ea2_completes 0x06 (fun _ _ => rfl) fun a b => by rw [BitVec.slt, pick_decide]
    · exact ea2_completes 0x07 (fun _ _ => rfl) fun a b => by rw [BitVec.slt, pick_decide]
    · exact ea2_completes 0x08 (fun _ _ => rfl) fun a b => by rw [BitVec.ult, pick_decide]
    · exact ea2_completes 0x09 (fun _ _ => rfl) fun a b => by rw [BitVec.ult, pick_decide]
    · exact ea2_completes 0x0A (fun _ _ => rfl) fun _ _ => rfl
    · exact ea2_completes 0x0B (fun _ _ => rfl) fun _ _ => rfl
    · exact ea2_completes 0x0C (fun _ _ => rfl) fun _ _ => rfl
    · exact ea2_completes 0x0D (fun _ _ => rfl) fun _ _ => rfl
    · exact ea2_completes 0x10 (fun _ _ => rfl) fun _ _ => rfl
    · exact ea2_completes 0x11 (fun _ _ => rfl) fun _ _ => rfl
    · exact ea2_completes 0x12 (fun _ _ => rfl) fun _ _ => rfl
    · exact ea2_completes 0x13 (fun _ _ => rfl) fun _ _ => rfl
    · exact ea2_completes 0x17 (fun _ _ => rfl) fun a b => by simp only [ult_32, decide_eq_true_eq]
    · exact ea2_completes 0x18 (fun _ _ => rfl) fun a b => by simp only [ult_32, decide_eq_true_eq]
    · exact ea2_completes 0x19 (fun _ _ => rfl) fun a b => by rw [sshiftRight_min]
    · exact ea2_completes 0x20 (fun _ _ => rfl) fun a b => by simp only [truth, beq_iff_eq]
    · exact ea2_completes 0x21 (fun _ _ => rfl) fun a b => by simp only [truth, bne_iff_ne, ne_eq, ite_not]
    · exact ea2_completes 0x22 (fun _ _ => rfl) fun a b => by simp only [truth, BitVec.slt, decide_eq_true_eq]
    · exact ea2_completes 0x23 (fun _ _ => rfl) fun a b => by simp only [truth, BitVec.sle, decide_eq_true_eq]
    · exact ea2_completes 0x24 (fun _ _ => rfl) fun a b => by simp only [truth, BitVec.ult, decide_eq_true_eq]
    · exact ea2_completes 0x25 (fun _ _ => rfl) fun a b => by simp only [truth, BitVec.ule, decide_eq_true_eq]
  · simp only [Claims.oneRows, List.forall_mem_cons, List.not_mem_nil, false_imp_iff, implies_true, and_true]
    and_intros
    · exact ea1_completes 0x1D (fun _ _ => rfl) fun _ => rfl
    · exact ea1_completes 0x1E (fun _ _ => rfl) fun _ => rfl
    · exact ea1_completes 0x30 (fun _ _ => rfl) fun _ => rfl
    · exact ea1_completes 0x3A (fun _ _ => rfl) fun _ => rfl
    · exact ea1_completes 0x3B (fun _ _ => rfl) fun _ => rfl

/-- Opcodes 0x0E and 0x0F are NEG and ABS, and neither reads SB (R125). -/
theorem decodeOp_neg (t : Trig) {f : RuleFields} (op : f.op = 0x0E) : decodeOp t f = decEa1 t { f with sb := 0 } .neg := by
  rw [decodeOp, op]
  rfl

theorem decodeOp_abs (t : Trig) {f : RuleFields} (op : f.op = 0x0F) : decodeOp t f = decEa1 t { f with sb := 0 } .abs := by
  rw [decodeOp, op]
  rfl

/-- Settles O4: 0 - a in words, and the sign bit as the test of ABS. -/
theorem negAndAbs : Obligations.NegAndAbs := by
  unfold Obligations.NegAndAbs
  refine ⟨fun x s h fires read takes => ⟨?_, ?_⟩, fun t f => ⟨decodeOp_neg t, decodeOp_abs t⟩⟩
  · exact ea1_completes 0x0E (fun _ _ => rfl) (fun a => zero_sub_toNat a.val) x s h fires read takes
  · refine ea1_completes 0x0F (fun _ _ => rfl) (fun a => ?_) x s h fires read takes
    have sign : a.val.msb = true ↔ ¬ a.val.toNat < 2 ^ 31 := by
      rw [BitVec.msb_eq_decide, decide_eq_true_eq]
      omega
    rw [← zero_sub_toNat]
    simp only [sign, ite_not]

/-! ### Immediate forms (R126, R129, R130, R132) -/

theorem ei_completes {i : Instr} {s : State} {h : Here} {t : Trig} {dst : Dst} {sa : SrcA} {pd : Fin 8} {pw : Bool} {d : Nat}
    (fires : Safety.Fires s h t d) (read : h.el.okA sa = true) (takes : Safety.takes s h dst) (opc : Nat) {f : Word → Word × Ar}
    {r : Word × Ar} (means : exec i s = .next (s.fireEi t dst sa pd pw opc d f)) (result : f (h.el.readA sa).val = r) :
    exec i s = .next (Safety.afterImm s h t dst sa pd pw d r) := by
  rw [means, State.fireEi_of fires read takes, result]

/-- Settles O5: an immediate is its signed value in a word, and a field of n bits is signed where its top bit is set. -/
theorem immediateInstructions : Obligations.ImmediateInstructions := by
  unfold Obligations.ImmediateInstructions
  refine ⟨⟨?_, ?_⟩, ?_, ?_⟩
  · simp only [List.forall_mem_cons, List.not_mem_nil, false_imp_iff, implies_true, and_true]
    and_intros <;> intro x s h fires read takes
    · exact ei_completes fires read takes 0x02 rfl rfl
    · exact ei_completes fires read takes 0x14 rfl rfl
    · exact ei_completes fires read takes 0x15 rfl rfl
    · exact ei_completes fires read takes 0x16 rfl rfl
  · simp only [List.forall_mem_cons, List.not_mem_nil, false_imp_iff, implies_true, and_true]
    and_intros <;> intro x s h fires read takes
    · refine ei_completes fires read takes 0x26 rfl ?_
      rw [← BitVec.toInt_signExtend_of_le (x := x.imm) (v := 32) (by decide)]
      simp only [truth, beq_iff_eq, BitVec.toInt_inj, decide_eq_true_eq]
    · refine ei_completes fires read takes 0x27 rfl ?_
      rw [BitVec.slt, BitVec.toInt_signExtend_of_le (by decide), truth]
    · refine ei_completes fires read takes 0x28 rfl ?_
      rw [BitVec.slt, BitVec.toInt_signExtend_of_le (by decide), truth]
  · simp only [List.forall_mem_cons, List.not_mem_nil, false_imp_iff, implies_true, and_true]
    and_intros <;> intro x s h fires read takes
    · exact ei_completes fires read takes 0x1A rfl rfl
    · exact ei_completes fires read takes 0x1B rfl rfl
    · exact ei_completes fires read takes 0x1C rfl rfl
  · intro x s h fires read takes
    exact ei_completes fires read takes 0x1F rfl (congrArg (·, _) (bitField_eq _ _ _ _))

/-! ### Predicates (R133) -/

/-- A predicate instruction writes p[PD] from the predicates that it finds. -/
theorem pred_completes {i : Instr} {s : State} {h : Here} {t : Trig} (fires : Safety.Fires s h t 1) (pd : Fin 8) (opc : Nat)
    (reads : List (Fin 8)) (f : Elem → Bool) (means : exec i s = .next (s.firePred t pd opc reads f)) :
    ∃ deps, exec i s = .next ((Safety.paid s h 1).putHere h (h.el.setPred pd (f h.el) deps)) :=
  ⟨_, by rw [means, State.firePred_of fires]⟩

/-- The word of a predicate instruction: DST 12, PW 1. -/
theorem encode_pred {i : Instr} {t : Trig} {op : BitVec 7} {sa sb : BitVec 4} {pd : Fin 8}
    (fields : ruleFields i = some ⟨encTrig t, op, 12, sa, sb, encMdEa pd true false .none⟩) :
    encode i = some ⟨.rule, encTrig t ++ op ++ (12 : BitVec 4) ++ sa ++ sb ++ BitVec.ofFin (w := 3) pd ++ (8 : BitVec 4)⟩ := by
  have md : ∀ n : Fin 8, encMdEa n true false .none = BitVec.ofFin (w := 3) n ++ (8 : BitVec 4) := by decide
  have word : RuleFields.word ⟨encTrig t, op, 12, sa, sb, encMdEa pd true false .none⟩
      = encTrig t ++ op ++ (12 : BitVec 4) ++ sa ++ sb ++ BitVec.ofFin (w := 3) pd ++ (8 : BitVec 4) := by
    rw [RuleFields.word, md, BitVec.append_assoc (x₃ := (8 : BitVec 4))]
    rfl
  rw [encode, fields]
  exact congrArg (fun w => some (Coded.mk .rule w)) word

/-- Settles O6, row by row: the firing, and the word. -/
theorem predicateInstructions : Obligations.PredicateInstructions := by
  unfold Obligations.PredicateInstructions
  intro s h t pd pa pb fires
  simp only [List.forall_mem_cons, List.not_mem_nil, false_imp_iff, implies_true, and_true]
  and_intros
  · exact pred_completes fires pd 0x29 [pa, pb] (fun el => el.pred pa && el.pred pb) rfl
  · exact encode_pred rfl
  · exact pred_completes fires pd 0x2A [pa, pb] (fun el => el.pred pa || el.pred pb) rfl
  · exact encode_pred rfl
  · exact pred_completes fires pd 0x2B [pa, pb] (fun el => el.pred pa != el.pred pb) rfl
  · exact encode_pred rfl
  · exact pred_completes fires pd 0x2C [pa] (fun el => !el.pred pa) rfl
  · exact encode_pred rfl
  · exact pred_completes fires pd 0x2D [] (fun _ => true) rfl
  · exact encode_pred rfl
  · exact pred_completes fires pd 0x2E [] (fun _ => false) rfl
  · exact encode_pred rfl
  · exact pred_completes fires pd 0x2F [pa] (fun el => el.pred pa) rfl
  · exact encode_pred rfl

/-! ### Scalar floating point (R144, R145) -/

/-- Settles O7: FMA reads its addend at the locus, the others are forms of a rule. -/
theorem floatInstructions : Obligations.FloatInstructions := by
  unfold Obligations.FloatInstructions
  refine ⟨?_, ?_, ?_⟩
  · simp only [List.forall_mem_cons, List.not_mem_nil, false_imp_iff, implies_true, and_true]
    and_intros
    · exact ea2_completes 0x40 (fun _ _ => rfl) fun _ _ => rfl
    · exact ea2_completes 0x41 (fun _ _ => rfl) fun _ _ => rfl
    · exact ea2_completes 0x42 (fun _ _ => rfl) fun _ _ => rfl
    · exact ea2_completes 0x44 (fun _ _ => rfl) fun _ _ => rfl
    · exact ea2_completes 0x45 (fun _ _ => rfl) fun _ _ => rfl
    · exact ea2_completes 0x46 (fun _ _ => rfl) fun _ _ => rfl
  · intro x s h fires read free
    have takes : Safety.takes s h (.d x.d) := ⟨by simp [Elem.okDst, free], rfl⟩
    have means : exec (.fma x) s = .next (s.fireEa2 ⟨x.trig, .d x.d, x.sa, x.sb, x.pd, x.pw, x.ctag, x.dim⟩ 0x43 3
        fun a b => fma32 a b (vget h.el.d x.d)) := by
      show execFma x s = _
      simp only [execFma, fires.here]
    rw [means, State.fireEa2_of fires read takes]
  · intro x s h fires read takes
    exact ei_completes fires read takes 0x47 rfl rfl

end Sys2Proof.Machine
end

section
/-! Constants, tags, steering, counting, tokens and ends (R120, R122, R134-R143, R151, R463, R506): each instruction at a locus
where its conditions hold. -/

namespace Sys2Proof.Machine

/-! ### Constants (R122, R134, R135, R138) -/

theorem none_completes {i : Instr} {s : State} {h : Here} {t : Trig} {dst : Dst} {side : Side} {pd : Fin 8} {pw : Bool}
    (fires : Safety.Fires s h t 1) (takes : Safety.takes s h dst) (opc : Nat) {f : Here → Word} {v : Word}
    (means : exec i s = .next (s.fireNone t dst side pd pw opc 1 f)) (result : f h = v) :
    exec i s = .next (Safety.afterNone s h t dst side pd pw v) := by
  rw [means, State.fireNone_of fires takes, result]

/-- Settles O8: each is the form without a source. -/
theorem constants : Obligations.Constants := by
  unfold Obligations.Constants
  refine ⟨fun x s h fires takes => ⟨?_, ?_⟩, fun x s h fires takes => ?_,
    fun x s h fires takes => ?_, fun x s h fires room => ?_⟩
  · exact none_completes fires takes 0x31 rfl rfl
  · refine none_completes fires takes 0x32 rfl ?_
    cases x.dst <;> rfl
  · exact none_completes fires takes 0x33 rfl rfl
  · exact none_completes fires takes 0x3F rfl rfl
  · exact none_completes fires ⟨rfl, room⟩ 0x38 rfl rfl

/-! ### SEL and TAGW (R134, R136) -/

/-- Settles O9: SEL is the two-source form with p[P] as the step found it, TAGW the same firing with a sideband of its own. -/
theorem selectAndTag : Obligations.SelectAndTag := by
  unfold Obligations.SelectAndTag
  refine ⟨fun x s h fires read takes => ?_, fun x s h fires read takes => ?_⟩
  · have means : exec (.sel x) s = .next (s.fireEa2 ⟨x.trig, x.dst, x.sa, x.sb, 0, false, x.ctag, x.dim⟩ 0x3E 1
        fun a b => (if h.el.pred x.p then a else b, {})) := by
      show execSel x s = _
      simp only [execSel, fires.here]
    rw [means, State.fireEa2_of fires read takes]
  · show execTagw x s = _
    obtain ⟨okA, okB⟩ := read
    obtain ⟨okDst, room⟩ := takes
    simp only [execTagw, fires.here, fires.gate, okA, okB, okDst, room, Bool.and_self, if_true, State.charge_of_fires fires]
    rfl

/-! ### STEER, MERGE, CARRY (R139-R141) -/

theorem execSteer_passes {x : Ea2} {s : State} {h : Here} (fires : Safety.Fires s h x.trig 1)
    (read : Safety.readable h x.sa x.sb) (takes : (h.el.readB x.sb).val ≠ 0 → Safety.takes s h x.dst) :
    execSteer x s = .next (
      let a := h.el.readA x.sa
      let b := h.el.readB x.sb
      let p := Safety.paid s h 1
      let deps := p.fireDeps h x.trig (a.deps ++ b.deps)
      let el := Safety.dequeued p h (takesOf (SrcA.takes x.sa) (SrcB.takes x.sb))
      let el := if x.pw then el.setPred x.pd (b.val != 0) deps else el
      if b.val != 0 then p.result h el x.dst (resultTok a b.side x.ctag x.dim a.val deps) a.val x.pd false
      else p.putHere h el) := by
  obtain ⟨okA, okB⟩ := read
  have room : (!((h.el.readB x.sb).val != 0) || (h.el.okDst x.dst && s.dstRoom h x.dst)) = true := by
    by_cases b : (h.el.readB x.sb).val = 0
    · simp [b]
    · obtain ⟨okDst, room⟩ := takes b
      simp [okDst, room]
  simp only [execSteer, fires.here, fires.gate, okA, okB, room, Bool.and_self, if_true, State.charge_of_fires fires]
  rfl

theorem State.fireTake_of {s : State} {h : Here} {x : Ea2} (fires : Safety.Fires s h x.trig 1) (opc : Nat) (t : Tok)
    (takes : List (Fin 4)) (el : Elem) :
    s.fireTake h x opc t takes el = (Safety.paid s h 1).result h (el.dequeue ((Safety.paid s h 1).pullHere h) takes) x.dst
      (mergeTok t x.ctag x.dim ((Safety.paid s h 1).fireDeps h x.trig t.deps)) t.val x.pd x.pw :=
  State.charge_of_fires fires opc _

/-- Settles O10: STEER by its b, MERGE by whether A is ready, CARRY by its phase. -/
theorem steerMergeCarry : Obligations.SteerMergeCarry := by
  unfold Obligations.SteerMergeCarry
  refine ⟨fun x s h fires read => ⟨fun on takes => ?_, fun off => ?_⟩,
    fun x s h fires takes => ⟨fun ready ok => ?_, fun noA ready ok => ?_⟩,
    fun x s h fires takes => ⟨fun init ok => ?_, fun loop ok => ?_⟩⟩
  · refine (execSteer_passes fires read fun _ => takes).trans ?_
    have b : ((h.el.readB x.sb).val != 0) = true := bne_iff_ne.2 on
    simp only [b, if_true]
  · refine (execSteer_passes fires read fun on => absurd off on).trans ?_
    have b : ((h.el.readB x.sb).val != 0) = false := by rw [off]; rfl
    simp only [b, Bool.false_eq_true, if_false]
  · show execMerge x s = _
    simp only [execMerge, fires.here, fires.gate, takes.1, takes.2, ready, ok, Bool.and_self, if_true, State.fireTake_of fires]
    rfl
  · show execMerge x s = _
    simp only [execMerge, fires.here, fires.gate, takes.1, takes.2, noA, ready, ok, Bool.and_self, Bool.false_eq_true, if_true,
      if_false, State.fireTake_of fires]
    rfl
  · show execCarry x s = _
    simp only [execCarry, fires.here, fires.gate, takes.1, takes.2, init, ok, Bool.and_self, Bool.false_eq_true, if_true,
      if_false, State.fireTake_of fires]
  · show execCarry x s = _
    simp only [execCarry, fires.here, fires.gate, takes.1, takes.2, loop, ok, Bool.and_self, if_true, State.fireTake_of fires]

/-! ### CNTUP (R142, R143) -/

theorem counted_eq_setCounter (el : Elem) (a : SrcA) (v : Word) (deps : List Nat) :
    Claims.counted el a v deps = el.setCounter a v deps := by
  cases a <;> rfl

/-- A result leaves the locus. -/
theorem State.cur_result (s : State) (h : Here) (el : Elem) (dst : Dst) (tok : Tok) (val : Word) (pd : Fin 8) (pw : Bool) :
    (s.result h el dst tok val pd pw).cur = s.cur := by
  cases dst with
  | o o =>
    exact ((State.frame_takePull (h.writes s (.o o) none none) _ _ h.e o).trans (State.frame_emit ⟨o, rfl⟩ h.e o tok)).cur
  | d n => rfl
  | pred => rfl
  | none => rfl

theorem Safety.cur_paid {s : State} {h : Here} (here : s.here = some h) (d : Nat) : (Safety.paid s h d).cur = s.cur :=
  (State.stands_paid here d).cur

/-- Settles O11: by the token at A, then by the bound. -/
theorem countUp : Obligations.CountUp := by
  unfold Obligations.CountUp
  intro x s h fires read
  obtain ⟨okA, okB⟩ := read
  simp only [counted_eq_setCounter]
  refine ⟨fun ctl takes => ?_, fun data low => ?_, fun data high takes => ?_⟩ <;> show execCntup x s = _
  · simp only [execCntup, fires.here, fires.gate, okA, okB, ctl, takes.1, takes.2, Bool.and_self, Bool.true_or, Bool.or_true,
      if_true, State.charge_of_fires fires]
    rfl
  · simp only [execCntup, fires.here, fires.gate, okA, okB, data, low, Int.not_lt.2 low, decide_false, Bool.and_self,
      Bool.false_or, Bool.not_false, Bool.true_or, Bool.false_eq_true, if_true, if_false, State.charge_of_fires fires]
    rfl
  · simp only [execCntup, fires.here, fires.gate, okA, okB, data, Int.not_le.2 high, takes.1, takes.2, Bool.and_self,
      Bool.or_true, Bool.false_eq_true, if_true, if_false, State.charge_of_fires fires]
    simp only [State.cur_result, Safety.cur_paid fires.here]
    rfl

/-! ### Tokens and ends (R120, R137, R151, R463, R506) -/

/-- Settles O12, instruction by instruction. -/
theorem tokensAndEnds : Obligations.TokensAndEnds := by
  unfold Obligations.TokensAndEnds
  intro s h t c a fires
  refine ⟨fun head => ?_, fun pull room => ?_, fun ok => ?_, fun n ok => ?_, ?_⟩
  · show execDrop ⟨t, c⟩ s = _
    simp only [execDrop, fires.here, fires.gate, head, Bool.and_self, if_true, State.charge_of_fires fires]
    rfl
  · show execReq ⟨t, c⟩ s = _
    simp only [execReq, fires.here, fires.gate, pull, room, if_true, State.charge_of_fires fires]
  · show execSets ⟨t, a⟩ s = _
    simp only [execSets, fires.here, fires.gate, ok, Bool.and_self, if_true, State.charge_of_fires fires]
    rfl
  · show execEvcnt ⟨t, a, n⟩ s = _
    simp only [execEvcnt, fires.here, fires.gate, ok, Bool.and_self, if_true, State.charge_of_fires fires,
      Safety.cur_paid fires.here]
    rfl
  · show execDone ⟨t⟩ s = _
    simp only [execDone, fires.here, fires.gate, if_true, State.charge_of_fires fires, Safety.cur_paid fires.here]

end Sys2Proof.Machine
end

section
/-! ISSUE and ISSUEV, and the command port that they offer their word to (R95, R146-R148). -/

namespace Sys2Proof.Machine

/-! ### The port -/

/-- A copy one more port of which is used in the step. -/
def Inst.usePort (x : Inst) (n : Node) : Inst := { x with cmdUse := x.cmdUse ++ [n] }

/-- Whether a port takes a word does not depend on the ports used in the step. -/
theorem Inst.cmdTakes_usePort (x : Inst) (m n : Node) (c : Cmd) : (x.usePort m).cmdTakes n c = x.cmdTakes n c := by
  cases n <;> rfl

section
variable {s : State} {task : Nat} {vt : Fin 16} {x : Inst} (hx : s.inst? task vt = some x)
include hx

/-- A word that a port takes waits there and begins if it may; a malformed one is a fault (R95, R148). -/
theorem State.accept_eq (n : Node) (c : Cmd) : s.accept task vt n c =
    if x.cmdTakes n c then
      ((s.updInst task vt (Inst.usePort · n)).updInst task vt fun y => y.setWaiting n (some c)).cmdBegin task vt n
    else (s.updInst task vt (Inst.usePort · n)).engFault task vt n 0x34 c := by
  have copy : (s.updInst task vt (Inst.usePort · n)).inst task vt = x.usePort n := State.inst_updInst_same _ hx
  have same : ((s.updInst task vt (Inst.usePort · n)).inst task vt).cmdTakes n c = x.cmdTakes n c := by
    rw [copy, Inst.cmdTakes_usePort]
  rw [← same]
  rfl

/-- A word that the vector node's port takes waits there while the node runs a command. -/
theorem State.vec_accept_busy {c : Cmd} (takes : x.vecTakes c = true) (busy : x.vec.run.isSome = true) :
    ((s.accept task vt .vector c).inst task vt).vec = { x.vec with wait := some c } := by
  set t := (s.updInst task vt (Inst.usePort · .vector)).updInst task vt fun y => y.setWaiting .vector (some c) with ht
  have copy : t.inst task vt = (x.usePort .vector).setWaiting .vector (some c) := by
    rw [ht]
    refine State.inst_updInst_same _ ?_
    rw [State.inst?_updInst_same, hx]
    rfl
  have runs : ((t.inst task vt).vec.run).isNone = false := by
    rw [copy]
    exact Option.isNone_eq_false_iff.2 busy
  have waits : s.accept task vt .vector c = t := by
    rw [State.accept_eq hx, if_pos (show x.cmdTakes .vector c = true from takes), ← ht, State.cmdBegin, runs]
    rfl
  rw [waits, copy]
  rfl

/-- A malformed word stops the group with fault 0x34, and the copy only notes that its port was used. -/
theorem State.accept_malformed {n : Node} {c : Cmd} {g : Group} (hg : s.group? task = some g) (going : g.stop = none)
    (bad : x.cmdTakes n c = false) :
    ((s.accept task vt n c).group task).stop = some (.fault 0x34 vt n (c.word.toNat / 2 ^ 24) c.idx)
      ∧ (s.accept task vt n c).mem = s.mem ∧ (s.accept task vt n c).inst task vt = x.usePort n := by
  rw [State.accept_eq hx, bad, if_neg Bool.false_ne_true]
  refine ⟨?_, rfl, ?_⟩
  · have stopped : ((s.updInst task vt (Inst.usePort · n)).engFault task vt n 0x34 c).group? task
        = some (g.stopped (!s.plan.isEmpty) (.fault 0x34 vt n (c.word.toNat / 2 ^ 24) c.idx)) := by
      simp only [State.engFault, State.raise, State.group?_updGroup_same]
      show (s.group? task).map _ = _
      rw [hg]
      rfl
    rw [State.group_of_group? stopped]
    simp only [Group.stopped, going]
  · exact State.inst_updInst_same (Inst.usePort · n) hx

end

/-- Settles O25: the firing by its form of arguments, then the port. -/
theorem commands : Obligations.Commands := by
  unfold Obligations.Commands
  refine ⟨fun s h => ⟨fun x fires free => ⟨fun ha => ?_, fun a ha ok => ?_, fun a b ha read => ?_⟩,
    fun x fires free word => ⟨fun ha => ?_, fun a ha ok => ?_, fun a b ha okA okB => ?_⟩⟩,
    fun s task vt x c hx => ⟨fun takes busy => State.vec_accept_busy hx takes busy, fun n _ g hg going bad => ?_⟩⟩
  · show execIssue x s = _
    simp only [execIssue, fires.here, fires.gate, free, ha, Bool.and_self, if_true, State.charge_of_fires fires,
      Safety.cur_paid fires.here]
    rfl
  · show execIssue x s = _
    simp only [execIssue, fires.here, fires.gate, free, ha, ok, Bool.and_self, if_true, State.charge_of_fires fires,
      Safety.cur_paid fires.here]
    rfl
  · obtain ⟨okA, okB⟩ := read
    show execIssue x s = _
    simp only [execIssue, fires.here, fires.gate, free, ha, okA, okB, Bool.and_self, if_true, State.charge_of_fires fires,
      Safety.cur_paid fires.here]
    rfl
  · show execIssuev x s = _
    simp only [execIssuev, fires.here, fires.gate, free, word, ha, Bool.and_self, if_true, State.charge_of_fires fires,
      Safety.cur_paid fires.here]
    rfl
  · show execIssuev x s = _
    simp only [execIssuev, fires.here, fires.gate, free, word, ha, ok, Bool.and_self, if_true, State.charge_of_fires fires,
      Safety.cur_paid fires.here]
    rfl
  · show execIssuev x s = _
    simp only [execIssuev, fires.here, fires.gate, free, word, ha, okA, okB, Bool.not_false, Bool.and_self, if_true,
      State.charge_of_fires fires, Safety.cur_paid fires.here]
    rfl
  · obtain ⟨stop, mem, copy⟩ := State.accept_malformed hx hg going bad
    rw [copy]
    exact ⟨stop, mem, rfl, rfl, rfl, rfl⟩

end Sys2Proof.Machine
end

section
/-! The step of the machine and the instructions that it runs (R79, R105, R148, R283): the next deed of the plan, else the next turn
of the agenda. -/

namespace Sys2Proof.Machine

/-! ### One deed -/

/-- Where the deed of the plan's head answers a state, the step goes on from it, and ends with the last deed; else the step answers
what the deed answers. -/
theorem step_of_deed {s : State} {p : Planned} {ps : List Planned} {o : Out} (plan : s.plan = p :: ps)
    (deed : { s with plan := ps }.runDeed p = o) :
    (∀ t, o = .next t → step s = .next (if ps = [] then (s.acted t p).endStep p.l.task else s.acted t p))
      ∧ ((∀ t, o ≠ .next t) → step s = o) := by
  have runs : step s = s.runPlan := by rw [step, plan]
  rw [runs]
  constructor
  · rintro t rfl
    simp only [State.runPlan, plan, deed, State.afterDeed, List.isEmpty_iff]
  · intro stuck
    cases o with
    | next t => exact absurd rfl (stuck t)
    | fault f => simp only [State.runPlan, plan, deed]
    | refused r => simp only [State.runPlan, plan, deed]

/-! ### What an ended step keeps -/

theorem State.mem_accs_countAt (s : State) (task : Nat) (vt : Fin 16) (src n : Nat) :
    (s.countAt task vt src n).mem = s.mem ∧ (s.countAt task vt src n).accs = s.accs := by
  unfold State.countAt
  split <;> exact ⟨rfl, rfl⟩

theorem State.mem_accs_closeSlot (s : State) (c : Closing) :
    (s.closeSlot c).mem = s.mem ∧ (s.closeSlot c).accs = s.accs := by
  unfold State.closeSlot
  split
  · exact ⟨rfl, rfl⟩
  · exact State.mem_accs_countAt _ c.task 0 0x1F 1

theorem State.mem_accs_closeSlots (l : List Closing) (s : State) :
    (l.foldl State.closeSlot s).mem = s.mem ∧ (l.foldl State.closeSlot s).accs = s.accs := by
  induction l generalizing s with
  | nil => exact ⟨rfl, rfl⟩
  | cons c r ih =>
    obtain ⟨mem, accs⟩ := s.mem_accs_closeSlot c
    obtain ⟨mems, accss⟩ := ih (s.closeSlot c)
    exact ⟨mems.trans mem, accss.trans accs⟩

/-- The end of a step closes slots and may stop the group; memory and requests stay. -/
theorem State.mem_accs_endStep (s : State) (task : Nat) : (s.endStep task).mem = s.mem ∧ (s.endStep task).accs = s.accs :=
  State.mem_accs_closeSlots s.closes { s with closes := [] }

/-- That a copy has acted is noted in the copy alone. -/
theorem State.mem_accs_acted (s t : State) (p : Planned) : (s.acted t p).mem = t.mem ∧ (s.acted t p).accs = t.accs := by
  simp only [State.acted]
  split_ifs <;> exact ⟨rfl, rfl⟩

/-- Settles O58: a deed of the plan runs the instruction that its word decodes to. -/
theorem stepRunsDecoded : Obligations.StepRunsDecoded := by
  unfold Obligations.StepRunsDecoded
  intro s
  refine ⟨fun p ps e k i o plan deed word runs => step_of_deed plan ?_,
    fun p ps n lane i o plan deed word runs => step_of_deed plan ?_, fun i is plan turn => ?_, fun task vts engs is plan turn => ?_,
    fun t p => ?_⟩
  · have decoded : decodeRule (vget ({ s with plan := ps }.elem p.l.task p.l.vt e).slots k) = .ok i := word
    simp only [State.runDeed, deed, decoded]
    exact runs
  · have decoded : ({ s with plan := ps }.inst p.l.task p.l.vt).laneInstr n lane = some i := word
    simp only [State.runDeed, State.runLane, deed, decoded]
    exact runs
  · simp only [step, plan, turn]
    rfl
  · simp only [step, plan, turn]
    rfl
  · obtain ⟨mem, accs⟩ := s.mem_accs_acted t p
    obtain ⟨mem', accs'⟩ := t.mem_accs_endStep p.l.task
    exact ⟨mem, accs, mem', accs'⟩

end Sys2Proof.Machine
end

section
/-! SUPPORT. What a firing that sends a request leaves: which operations touch neither the requests, the memory nor an element, and
what the sending element, its copy and its group hold afterwards. -/

namespace Sys2Proof.Machine

/-! ### Operations beside the requests, the memory and the elements -/

theorem Assoc.get?_mapAll {α : Type} (m : Assoc α) (f : Nat → α → α) (k : Nat) :
    Assoc.get? (Assoc.mapAll m f) k = (Assoc.get? m k).map (f k) := by
  induction m with
  | nil => rfl
  | cons x r ih =>
    obtain ⟨i, b⟩ := x
    show (if i = k then some (f i b) else Assoc.get? (Assoc.mapAll r f) k) = _
    rw [Assoc.get?_cons, ih]
    split
    · next e => rw [e]; rfl
    · rfl

theorem Assoc.mapAll_put {α : Type} (m : Assoc α) (f : Nat → α → α) (k : Nat) (a : α) :
    Assoc.mapAll (Assoc.put m k a) f = Assoc.put (Assoc.mapAll m f) k (f k a) := by
  induction m with
  | nil => rfl
  | cons x r ih =>
    obtain ⟨i, b⟩ := x
    show Assoc.mapAll (if k < i then (k, a) :: (i, b) :: r else if k = i then (k, a) :: r else (i, b) :: Assoc.put r k a) f
      = if k < i then (k, f k a) :: (i, f i b) :: Assoc.mapAll r f
        else if k = i then (k, f k a) :: Assoc.mapAll r f else (i, f i b) :: Assoc.put (Assoc.mapAll r f) k (f k a)
    rw [← ih]
    split_ifs <;> rfl

/-- The requests, the memory and what every element holds are the same. -/
structure State.Beside (s t : State) : Prop where
  cur : t.cur = s.cur
  accs : t.accs = s.accs
  nextId : t.nextId = s.nextId
  mem : t.mem = s.mem
  elems : ∀ k, (t.insts.getD k {}).elems = (s.insts.getD k {}).elems

theorem State.Beside.elem {s t : State} (h : State.Beside s t) (task : Nat) (vt e : Fin 16) :
    t.elem task vt e = s.elem task vt e := by
  simp only [State.elem, State.inst, Inst.elem, h.elems]

theorem State.Beside.trans {s t u : State} (h : State.Beside s t) (k : State.Beside t u) : State.Beside s u where
  cur := k.cur.trans h.cur
  accs := k.accs.trans h.accs
  nextId := k.nextId.trans h.nextId
  mem := k.mem.trans h.mem
  elems i := (k.elems i).trans (h.elems i)

theorem State.Beside.of_insts {s t : State} (cur : t.cur = s.cur) (accs : t.accs = s.accs) (nextId : t.nextId = s.nextId)
    (mem : t.mem = s.mem) (insts : t.insts = s.insts) : State.Beside s t where
  cur := cur
  accs := accs
  nextId := nextId
  mem := mem
  elems _ := by rw [insts]

theorem State.Beside.refl (s : State) : State.Beside s s := .of_insts rfl rfl rfl rfl rfl

/-- The requests, the memory, the copies and the groups are the same. -/
structure State.CopiesKept (s t : State) : Prop where
  cur : t.cur = s.cur
  accs : t.accs = s.accs
  nextId : t.nextId = s.nextId
  mem : t.mem = s.mem
  insts : t.insts = s.insts
  groups : t.groups = s.groups

theorem State.CopiesKept.refl (s : State) : State.CopiesKept s s := ⟨rfl, rfl, rfl, rfl, rfl, rfl⟩

theorem State.CopiesKept.beside {s t : State} (h : State.CopiesKept s t) : State.Beside s t :=
  .of_insts h.cur h.accs h.nextId h.mem h.insts

theorem State.CopiesKept.inst? {s t : State} (h : State.CopiesKept s t) (task : Nat) (vt : Fin 16) :
    t.inst? task vt = s.inst? task vt := by
  rw [State.inst?, h.insts, State.inst?]

theorem State.CopiesKept.group? {s t : State} (h : State.CopiesKept s t) (task : Nat) : t.group? task = s.group? task := by
  rw [State.group?, h.groups, State.group?]

section
variable (s : State)

theorem State.copiesKept_countAt (task : Nat) (vt : Fin 16) (src n : Nat) : State.CopiesKept s (s.countAt task vt src n) := by
  unfold State.countAt
  split
  · exact ⟨rfl, rfl, rfl, rfl, rfl, rfl⟩
  · exact .refl s

theorem State.copiesKept_touch (tile ctx : Nat) (l : Loc) : State.CopiesKept s (s.touch tile ctx l) := by
  unfold State.touch
  dsimp only
  split_ifs
  · exact ⟨rfl, rfl, rfl, rfl, rfl, rfl⟩
  · exact .refl s

theorem State.copiesKept_startFill (tile : Nat) (t : Trans) : State.CopiesKept s (s.startFill tile t) := by
  unfold State.startFill
  dsimp only
  split_ifs
  · exact ⟨rfl, rfl, rfl, rfl, rfl, rfl⟩
  · exact ⟨rfl, rfl, rfl, rfl, rfl, rfl⟩
  · exact .refl s

/-- A translation asked for in advance changes tiles and regions alone (R184). -/
theorem State.copiesKept_prefetch (h : Here) (scope : Scope) (ptr : Word) : State.CopiesKept s (s.prefetch h scope ptr) := by
  have walk : ∀ r f, State.CopiesKept s (s.updRegion r f) := fun _ _ => ⟨rfl, rfl, rfl, rfl, rfl, rfl⟩
  unfold State.prefetch
  dsimp only
  split
  · exact .refl s
  · split
    · exact .refl s
    · split
      · split
        · exact .refl s
        · exact s.copiesKept_startFill _ _
      · split
        · exact .refl s
        · exact s.copiesKept_startFill _ _
      · split
        · exact .refl s
        · exact walk _ _

end

section
variable (s : State) (task : Nat) (vt : Fin 16)

theorem State.beside_updInst {f : Inst → Inst} (elems : ∀ x, (f x).elems = x.elems) : State.Beside s (s.updInst task vt f) where
  cur := rfl
  accs := rfl
  nextId := rfl
  mem := rfl
  elems k := by
    simp only [State.updInst_insts, Assoc.getD, Assoc.get?_modify]
    split
    · cases s.insts.get? k with
      | none => rfl
      | some x => exact elems x
    · rfl

theorem State.beside_setInst {x : Inst} (elems : x.elems = (s.inst task vt).elems) : State.Beside s (s.setInst task vt x) where
  cur := rfl
  accs := rfl
  nextId := rfl
  mem := rfl
  elems k := by
    simp only [State.setInst_insts, Assoc.getD, Assoc.get?_put]
    split
    · next e => rw [← e]; exact elems
    · rfl

theorem State.beside_progress : State.Beside s (s.progress task) := .of_insts rfl rfl rfl rfl rfl

theorem State.beside_raise (st : Stop) : State.Beside s (s.raise task st) := .of_insts rfl rfl rfl rfl rfl

theorem State.beside_waitStore : State.Beside s (s.waitStore task vt) :=
  .trans (.of_insts (t := s.mark) rfl rfl rfl rfl rfl) (s.mark.beside_updInst task vt fun _ => rfl)

/-- An entry staged stands in the copy alone. -/
theorem State.beside_stage (n : Node) (what : Stg) (accs : List Nat) : State.Beside s (s.stage task vt n what accs) :=
  .trans (.of_insts (t := { s with stageNo := s.stageNo + 1 }) rfl rfl rfl rfl rfl) (State.beside_updInst _ task vt fun _ => rfl)

theorem State.beside_stageReq (n : Node) (id : Nat) (r : Req) : State.Beside s (s.stageReq task vt n id r) := by
  cases r with
  | wr l k v =>
    show State.Beside s (s.stageLine task vt n l.obj l.byte (leBytes k v) [id])
    unfold State.stageLine
    dsimp only
    split_ifs
    · exact .trans (.of_insts (t := { s with stageNo := s.stageNo + 1 }) rfl rfl rfl rfl rfl)
        (State.beside_updInst _ task vt fun _ => rfl)
    · exact s.beside_stage task vt n _ _
  | _ => exact s.beside_stage task vt n _ _

/-- The next cut opens beside the elements. -/
theorem State.beside_openCut (closer : Option Nat) : State.Beside s (s.openCut task vt closer) where
  cur := rfl
  accs := rfl
  nextId := rfl
  mem := rfl
  elems k := by
    simp only [State.openCut, State.updGroup_keeps, Assoc.getD, Assoc.get?_mapAll]
    cases s.insts.get? k with
    | none => rfl
    | some x => simp only [Option.map_some, Option.getD_some]; split <;> rfl

theorem State.beside_queueSeal (n : Node) (closer : Option Nat) : State.Beside s (s.queueSeal task vt n closer) :=
  .of_insts rfl rfl rfl rfl rfl

/-- A seal that opens, waits for drops or stops its group does so beside the elements. -/
theorem State.beside_wantSeal (n : Node) (closer : Option Nat) : State.Beside s (s.wantSeal task vt n closer) := by
  unfold State.wantSeal
  split
  · unfold State.openSeal State.debit
    dsimp only
    rcases Inst.pay_cases (s.inst task vt) (64 + (s.inst task vt).uncovered) with ⟨e, -⟩ | ⟨e, -⟩ | ⟨e, -⟩ <;> rw [e]
    · exact s.beside_raise task _
    · exact (s.beside_queueSeal task vt n closer).trans (State.beside_waitStore _ task vt)
    · have taken := s.beside_setInst task vt (x := (s.inst task vt).debit (64 + (s.inst task vt).uncovered)) rfl
      exact ((taken.trans (State.beside_progress _ task)).trans (State.copiesKept_countAt _ task vt _ _).beside).trans
        (State.beside_openCut _ task vt closer)
  · exact s.beside_queueSeal task vt n closer

end

/-! ### The debit -/

section
variable {s : State} {h : Here} (hh : s.here = some h)
include hh

theorem State.beside_paid (d : Nat) : State.Beside s (Safety.paid s h d) := by
  obtain ⟨-, -, hx, -⟩ := State.here_spec hh
  have taken : State.Beside s.mark (s.mark.setInst s.cur.task s.cur.vt (h.x.debit d)) :=
    s.mark.beside_setInst s.cur.task s.cur.vt (by rw [← State.inst_of_inst? hx]; rfl)
  have marked : State.Beside s s.mark := .of_insts rfl rfl rfl rfl rfl
  exact ((marked.trans taken).trans (State.beside_progress _ s.cur.task)).trans
    ((State.copiesKept_countAt _ _ s.cur.vt _ _).beside.trans (State.copiesKept_countAt _ _ s.cur.vt _ _).beside)

omit hh in
theorem State.inst?_paid (d : Nat) : (Safety.paid s h d).inst? s.cur.task s.cur.vt = some (h.x.debit d) := by
  have taken : (Safety.paid s h d).insts = (s.mark.setInst s.cur.task s.cur.vt (h.x.debit d)).insts :=
    (State.insts_countAt _ _ s.cur.vt _ _).trans (State.insts_countAt _ _ s.cur.vt _ _)
  rw [State.inst?, taken, State.setInst_insts, Assoc.get?_put_same]

theorem State.group?_paid (d : Nat) :
    (Safety.paid s h d).group? s.cur.task = some { h.g with wd := 0, episode := none } := by
  obtain ⟨-, hg, -, -⟩ := State.here_spec hh
  have kept : (Safety.paid s h d).groups = ((s.mark.setInst s.cur.task s.cur.vt (h.x.debit d)).progress s.cur.task).groups :=
    (State.copiesKept_countAt _ _ s.cur.vt _ _).groups.trans (State.copiesKept_countAt _ _ s.cur.vt _ _).groups
  rw [State.group?, kept, State.progress_groups, Assoc.get?_modify, if_pos rfl]
  exact congrArg (Option.map _) hg

/-- The copy at the locus once its debit is taken. -/
theorem State.copy_paid (d : Nat) :
    (Safety.paid s h d).inst? (Safety.paid s h d).cur.task (Safety.paid s h d).cur.vt = some (h.x.debit d) := by
  rw [Safety.cur_paid hh]
  exact State.inst?_paid d

end

/-- The copy once one more access counts against the two of its step (R184). -/
def Inst.countAccess (x : Inst) : Inst := { x with portUse := x.portUse + 1 }

theorem Inst.meter_debit {x : Inst} {d : Nat} (cov : Safety.Covered x d) : (x.debit d).meter + d = x.meter := by
  obtain ⟨meter, -⟩ := cov
  show x.meter - d + d = x.meter
  omega

/-- A copy that covers two debits covers the second after the first. -/
theorem Inst.covered_debit {x : Inst} {d k : Nat} (cov : Safety.Covered x (d + k)) : Safety.Covered (x.debit d) k := by
  obtain ⟨meter, built⟩ := cov
  have left : k + 256 ≤ x.meter - d := by omega
  have handed : x.debited + d + k ≤ x.built := by omega
  exact ⟨left, handed⟩


/-! ### The element that sends -/

/-- What an element holds once it has sent the request numbered id, derived from some, whose reply goes to a place and steps a register:
the reply places are reserved and the request is remembered (R165-R168, R446). -/
def Elem.sends (el : Elem) (past : List Nat) (id : Nat) (deps : List Nat) (d : Dest) (link : Option (Fin 8 × Word)) : Elem :=
  ({ el with past := past }.remember (id :: deps)).reserve id d link

section
variable (el : Elem) (past : List Nat) (id : Nat) (deps : List Nat) (d : Dest) (link : Option (Fin 8 × Word))

theorem Elem.same_sends : el.Same (el.sends past id deps d link) := by
  unfold Elem.sends Elem.reserve
  cases d <;> cases link <;> exact ⟨rfl, rfl, rfl, rfl, rfl, rfl, rfl⟩

theorem Elem.mem_past_sends : id ∈ (el.sends past id deps d link).past := by
  have kept : (el.sends past id deps d link).past = (past ++ id :: deps).eraseDups := by
    unfold Elem.sends Elem.reserve
    cases d <;> cases link <;> rfl
  rw [kept, List.mem_eraseDups]
  simp

theorem Elem.portBlock_sends : (el.sends past id deps d link).portBlock = el.portBlock := by
  unfold Elem.sends Elem.reserve
  cases d <;> cases link <;> rfl

theorem getLsbD_setBit_same {w : Nat} (x : BitVec w) (b : Bool) {n : Nat} (h : n < w) : (setBit x n b).getLsbD n = b := by
  have own : (BitVec.ofNat w (2 ^ n)).getLsbD n = true := by
    rw [BitVec.getLsbD_ofNat, Nat.testBit_two_pow_self, decide_eq_true h, Bool.and_self]
  unfold setBit
  cases b
  · rw [if_neg Bool.false_ne_true, BitVec.getLsbD_and, BitVec.getLsbD_not, own, Bool.not_true, Bool.and_false, Bool.and_false]
  · rw [if_pos rfl, BitVec.getLsbD_or, own, Bool.or_true]

/-- The register that the reply steps is pending. -/
theorem Elem.pending_sends (n : Fin 8) (off : Word) : (el.sends past id deps d (some (n, off))).pending n = true := by
  unfold Elem.sends Elem.reserve
  cases d <;> exact getLsbD_setBit_same _ true n.isLt

end

/-! ### A request sent -/

/-- The request that a rule of the element at the locus sends, as the state holds it (R165-R168). -/
def State.sentAcc (s : State) (h : Here) (dst : Dst) (a : Acc) : Acc :=
  { a with task := some s.cur.task, vt := s.cur.vt, node := .elem h.e, slot := s.globalTile h.g h.x, dest := destOf dst,
           rule := s.cur.slot.val, step := h.x.stepNo }

theorem Assoc.modify_modify {α : Type} (m : Assoc α) (k : Nat) (f g : α → α) :
    Assoc.modify (Assoc.modify m k f) k g = Assoc.modify m k (g ∘ f) := by
  simp only [Assoc.modify, List.map_map]
  refine List.map_congr_left fun x _ => ?_
  by_cases e : x.1 = k <;> simp [e]

theorem Inst.setElem_setElem (x : Inst) (e : Fin 16) (a b : Elem) : (x.setElem e a).setElem e b = x.setElem e b := by
  simp [Inst.setElem]

/-- An element put at the locus and then changed. -/
theorem State.insts_updElem_putHere (s : State) (h : Here) (el : Elem) (f : Elem → Elem) :
    ((s.putHere h el).updElem s.cur.task s.cur.vt h.e f).insts
      = s.insts.modify (ikey s.cur.task s.cur.vt) fun x => x.setElem h.e (f el) := by
  show Assoc.modify (Assoc.modify s.insts (ikey s.cur.task s.cur.vt) fun x => x.setElem h.e el) (ikey s.cur.task s.cur.vt)
    (fun x => x.setElem h.e (f (x.elem h.e))) = _
  rw [Assoc.modify_modify]
  congr 1
  funext x
  rw [Function.comp, Inst.setElem_setElem, Inst.elem_setElem_same]

/-- The state t is p but for a request that the element at the locus has sent: the request is in flight, and the element holds its
places reserved, perhaps with one pull request of its channel taken. -/
structure State.Sent (p t : State) (h : Here) (el : Elem) (dst : Dst) (a : Acc) : Prop where
  cur : t.cur = p.cur
  mem : t.mem = p.mem
  groups : t.groups = p.groups
  nextId : t.nextId = p.nextId + 1
  accs : t.accs = p.accs.put p.nextId (p.sentAcc h dst a)
  insts : ∃ n, t.insts = p.insts.modify (ikey p.cur.task p.cur.vt) fun x =>
    x.setElem h.e { el.sends (p.live el.past) p.nextId a.deps (destOf dst) a.link with pulls := n }

theorem State.sent_sendReq (p : State) (h : Here) (el : Elem) (dst : Dst) (a : Acc) : State.Sent p (p.sendReq h el dst a) h el dst a := by
  cases dst with
  | o o =>
    simp only [State.sendReq, State.takePull]
    split
    · exact ⟨rfl, rfl, rfl, rfl, rfl, _, p.insts_updElem_putHere h (el.sends _ _ _ (.out o) a.link)
        fun e => { e with pulls := vset e.pulls o (vget e.pulls o - 1) }⟩
    · exact ⟨rfl, rfl, rfl, rfl, rfl, _, rfl⟩
  | d n => exact ⟨rfl, rfl, rfl, rfl, rfl, _, rfl⟩
  | pred => exact ⟨rfl, rfl, rfl, rfl, rfl, _, rfl⟩
  | none => exact ⟨rfl, rfl, rfl, rfl, rfl, _, rfl⟩

section
variable {p t : State} {h : Here} {el : Elem} {dst : Dst} {a : Acc} (sent : State.Sent p t h el dst a)
include sent

/-- The copy of the element that has sent. -/
theorem State.Sent.inst? {x : Inst} (hx : p.inst? p.cur.task p.cur.vt = some x) :
    ∃ n, t.inst? p.cur.task p.cur.vt
      = some (x.setElem h.e { el.sends (p.live el.past) p.nextId a.deps (destOf dst) a.link with pulls := n }) := by
  obtain ⟨n, e⟩ := sent.insts
  refine ⟨n, ?_⟩
  rw [State.inst?, e, Assoc.get?_modify, if_pos rfl]
  exact congrArg (Option.map _) hx

theorem State.Sent.elem {x : Inst} (hx : p.inst? p.cur.task p.cur.vt = some x) :
    ∃ n, t.elem p.cur.task p.cur.vt h.e
      = { el.sends (p.live el.past) p.nextId a.deps (destOf dst) a.link with pulls := n } := by
  obtain ⟨n, e⟩ := sent.inst? hx
  exact ⟨n, by rw [State.elem_of_inst? e, Inst.elem_setElem_same]⟩

theorem State.Sent.acc : t.accs.get? p.nextId = some (p.sentAcc h dst a) := by rw [sent.accs, Assoc.get?_put_same]

/-- What a firing sends, told of the state that the firing found: its debit and what it does to the tile touch nothing that the claim
speaks of. -/
theorem State.Sent.sends {s : State} (before : State.Beside s p) {x : Inst} (hx : p.inst? p.cur.task p.cur.vt = some x)
    (same : h.el.Same el) : Safety.Sends s t h a.req (destOf dst) := by
  obtain ⟨n, own⟩ := sent.elem hx
  have kept := same.trans (el.same_sends (p.live el.past) p.nextId a.deps (destOf dst) a.link)
  rw [before.cur] at own
  exact {
    sent := by
      rw [← before.nextId, ← before.cur]
      exact ⟨_, sent.acc, rfl, rfl, rfl, rfl, rfl⟩
    fresh := by rw [sent.nextId, before.nextId]
    mem := sent.mem.trans before.mem
    regs := by rw [own]; exact kept.d
    control := by rw [own]; exact ⟨kept.p, kept.k, kept.esw⟩
    kept := fun m hm => by
      rw [← before.nextId] at hm
      rw [sent.accs, Assoc.get?_put_other _ _ hm, before.accs]
    past := by rw [own, ← before.nextId]; exact Elem.mem_past_sends el _ _ _ _ _ }

end

/-- What follows the request beside the requests, the memory and the elements changes nothing that the claim speaks of. -/
theorem State.Beside.sends {s t u : State} {h : Here} {req : Req} {dest : Dest} (after : State.Beside t u)
    (sends : Safety.Sends s t h req dest) : Safety.Sends s u h req dest where
  sent := by rw [after.accs]; exact sends.sent
  fresh := after.nextId.trans sends.fresh
  mem := after.mem.trans sends.mem
  regs := by rw [after.elem]; exact sends.regs
  control := by rw [after.elem]; exact sends.control
  kept n hn := by rw [after.accs]; exact sends.kept n hn
  past := by rw [after.elem]; exact sends.past


/-! ### A firing with a request alone -/

section
variable {s : State} {h : Here} (hh : s.here = some h) {d : Nat} {el : Elem} (dst : Dst) (a : Acc)
include hh

/-- What a rule that only debits and sends one request leaves (R174, R183). -/
theorem State.sends_after_paid (same : h.el.Same el) : Safety.Sends s ((Safety.paid s h d).sendReq h el dst a) h a.req (destOf dst) :=
  (State.sent_sendReq _ h el dst a).sends (State.beside_paid hh d) (State.copy_paid hh d) same

theorem State.debited_after_paid (cov : Safety.Covered h.x d) :
    Safety.debited s ((Safety.paid s h d).sendReq h el dst a) h d := by
  obtain ⟨n, own⟩ := (State.sent_sendReq _ h el dst a).inst? (State.copy_paid hh d)
  rw [(State.beside_paid hh d).cur] at own
  rw [Safety.debited, State.inst_of_inst? own]
  exact Inst.meter_debit cov

end

end Sys2Proof.Machine
end

section
/-! LDP, STP, FENCE and PREF (R155-R158, R174, R183, R184): each debits its drops, and all but PREF send one request. -/

namespace Sys2Proof.Machine

section
variable {s : State} {h : Here} (hh : s.here = some h)
include hh

/-- Where its conditions hold LDP sends a read of the bytes that its address names. -/
theorem execLdp_fires {x : EmLdp} (cov : Safety.Covered h.x 2) (ready : s.emReady h x.trig x.dst = true)
    (okA : h.el.okA x.sa = true) (free : s.padFree h (h.el.readA x.sa).val (Size.bytes x.size) = true) :
    let a := h.el.readA x.sa
    let p := Safety.paid s h 2
    let at_ := padTarget h.g s.cur.vt a.val.toNat (Size.bytes x.size)
    execLdp x s = .next (p.sendReq h (h.el.dequeue (p.pullHere h) (SrcA.takes x.sa)) x.dst
      { req := .padRd at_.1 at_.2 (Size.bytes x.size), scope := Scope.inPad x.scope, order := x.order,
        deps := p.fireDeps h x.trig a.deps, tokVal := a.val, opc := 0x48 }) := by
  simp only [execLdp, hh, ready, okA, free, Bool.and_self, if_true, State.charge_of_covered s h _ _ _ cov,
    Safety.cur_paid hh]

/-- Where its conditions hold STP sends a write of the bytes that its address names. -/
theorem execStp_fires {x : EmStp} (cov : Safety.Covered h.x 2) (ready : s.emReady h x.trig x.dst = true)
    (okA : h.el.okA x.sa = true) (okB : h.el.okB x.sb = true)
    (free : s.padFree h (h.el.readA x.sa).val (Size.bytes x.size) = true)
    (unheld : s.padHeld s.cur.task s.cur.vt (.elem h.e) = false) :
    let a := h.el.readA x.sa
    let b := h.el.readB x.sb
    let p := Safety.paid s h 2
    let at_ := padTarget h.g s.cur.vt a.val.toNat (Size.bytes x.size)
    execStp x s = .next (p.sendReq h (h.el.dequeue (p.pullHere h) (takesOf (SrcA.takes x.sa) (SrcB.takes x.sb))) x.dst
      { req := .padWr at_.1 at_.2 (Size.bytes x.size) b.val, scope := Scope.inPad x.scope, order := x.order,
        deps := p.fireDeps h x.trig (a.deps ++ b.deps), tokVal := a.val, opc := 0x49, answered := destOf x.dst == .none }) := by
  simp only [execStp, hh, ready, okA, okB, free, unheld, Bool.not_false, Bool.and_self, if_true,
    State.charge_of_covered s h _ _ _ cov, Safety.cur_paid hh]

end

/-- Settles O14: each firing is a debit and a request for the bytes that the address names. -/
theorem padAccesses : Obligations.PadAccesses := by
  unfold Obligations.PadAccesses
  intro s h hh cov
  refine ⟨fun x ready okA free => ?_, fun x ready okA okB free unheld => ?_⟩
  · exact ⟨_, execLdp_fires hh cov ready okA free, State.sends_after_paid hh x.dst _ (h.el.same_dequeue _ _),
      State.debited_after_paid hh x.dst _ cov⟩
  · exact ⟨_, execStp_fires hh cov ready okA okB free unheld, State.sends_after_paid hh x.dst _ (h.el.same_dequeue _ _),
      State.debited_after_paid hh x.dst _ cov⟩

end Sys2Proof.Machine
end


section
/-! FENCE and PREF (R183, R184): a fence is a request that waits for what its element has fired; a PREF sends none. -/

namespace Sys2Proof.Machine

/-- The element after a FENCE has closed its port: one of order acq or acqrel does (R183). -/
def Elem.fenced (el : Elem) (o : Order) (id : Nat) : Elem :=
  if o == .acq || o == .acqrel then { el with portBlock := el.portBlock ++ [id] } else el

theorem Elem.same_fenced (el : Elem) (o : Order) (id : Nat) : el.Same (el.fenced o id) := by
  unfold Elem.fenced
  split
  · exact ⟨rfl, rfl, rfl, rfl, rfl, rfl, rfl⟩
  · exact Elem.Same.refl el

theorem Elem.mem_portBlock_fenced (el : Elem) {o : Order} (id : Nat) (acquires : o = .acq ∨ o = .acqrel) :
    id ∈ (el.fenced o id).portBlock := by
  have closed : (o == .acq || o == .acqrel) = true := by
    rcases acquires with rfl | rfl <;> rfl
  rw [Elem.fenced, if_pos closed]
  simp

/-- What a firing derives from holds every request in flight among its sources' (R437). -/
theorem State.mem_fireDeps {s : State} {h : Here} {t : Trig} {l : List Nat} {n : Nat} (mem : n ∈ l)
    (flying : (s.accs.get? n).isSome = true) : n ∈ s.fireDeps h t l := by
  simp only [State.fireDeps, State.live, List.mem_filter, List.mem_eraseDups, List.mem_append]
  exact ⟨.inr mem, flying⟩

section
variable {s : State} {h : Here} (hh : s.here = some h) (cov : Safety.Covered h.x 1)
include hh cov

theorem execFence_fires {x : EmFence} (ready : s.emReady h x.trig x.dst = true) :
    let p := Safety.paid s h 1
    execFence x s = .next (p.sendReq h (h.el.fenced x.order p.nextId) x.dst
      { req := .fence, scope := x.scope, order := x.order, deps := p.fireDeps h x.trig h.el.past, opc := 0x51,
        answered := false }) := by
  simp only [execFence, hh, ready, if_true, State.charge_of_covered s h _ _ _ cov]
  rfl

/-- A PREF debits, dequeues its source, counts as an access of its step, and asks for the translation. -/
theorem execPref_fires {x : EmPref} (ready : s.emReady h x.trig .none = true) (okA : h.el.okA x.sa = true)
    (unused : h.x.portUse < 2) :
    let p := Safety.paid s h 1
    execPref x s = .next (((p.putHere h (h.el.dequeue (p.pullHere h) (SrcA.takes x.sa))).updInst s.cur.task s.cur.vt
      Inst.countAccess).prefetch h x.scope (h.el.readA x.sa).val) := by
  simp only [execPref, hh, ready, okA, unused, decide_true, Bool.and_self, if_true, State.charge_of_covered s h _ _ _ cov]
  rw [← Safety.cur_paid hh 1]
  rfl

end

/-- Settles O19: the fence's request derives from the accesses of its element, and PREF changes its channels and its copy's count. -/
theorem fencePref : Obligations.FencePref := by
  unfold Obligations.FencePref
  intro s h hh cov
  have before := State.beside_paid hh 1
  refine ⟨fun x ready => ?_, fun x ready okA unused => ?_⟩
  · refine ⟨_, execFence_fires hh cov ready, State.sends_after_paid hh x.dst _ (h.el.same_fenced _ _),
      State.debited_after_paid hh x.dst _ cov, fun n past flying => ?_, fun acquires => ?_⟩
    · refine ⟨_, before.nextId ▸ (State.sent_sendReq _ h _ x.dst _).acc, ?_⟩
      exact State.mem_fireDeps past (by rw [before.accs]; exact flying)
    · obtain ⟨n, own⟩ := (State.sent_sendReq _ h (h.el.fenced x.order (Safety.paid s h 1).nextId) x.dst _).elem (State.copy_paid hh 1)
      rw [before.cur] at own
      rw [own, ← before.nextId]
      show _ ∈ Elem.portBlock (Elem.sends _ _ _ _ _ _)
      rw [Elem.portBlock_sends]
      exact h.el.mem_portBlock_fenced _ acquires
  · set el := h.el.dequeue ((Safety.paid s h 1).pullHere h) (SrcA.takes x.sa)
    set t := ((Safety.paid s h 1).putHere h el).updInst s.cur.task s.cur.vt Inst.countAccess with ht
    have asked := t.copiesKept_prefetch h x.scope (h.el.readA x.sa).val
    have copy : t.inst? s.cur.task s.cur.vt = some ((h.x.debit 1).setElem h.e el).countAccess := by
      rw [ht, State.inst?_updInst_same, State.putHere, before.cur, State.inst?_updInst_same, State.inst?_paid]
      rfl
    refine ⟨_, execPref_fires hh cov ready okA unused, ?_, asked.mem.trans before.mem, asked.accs.trans before.accs, ?_⟩
    · rw [Safety.debited, State.inst_of_inst? ((asked.inst? _ _).trans copy)]
      exact Inst.meter_debit cov
    · rw [asked.beside.elem, State.elem_of_inst? copy]
      show (Inst.elem ((h.x.debit 1).setElem h.e el) h.e).d = _
      rw [Inst.elem_setElem_same]
      exact (h.el.same_dequeue _ _).d

end Sys2Proof.Machine
end


section
/-! SUPPORT. The firing of an accepted tensor access (R161-R164): what is sent, and what the three ways to take effect leave: at once,
staged, or as the close of a cut (R173, R181, R187, R292, R294). -/

namespace Sys2Proof.Machine

/-! ### Staging and seals -/

/-- The request numbered id stands in the entry. -/
def Staged.holds (e : Staged) (id : Nat) : Prop := ∃ no, (id, no) ∈ e.accs

theorem State.group?_updGroup_of {s : State} {task : Nat} {g : Group} (hg : s.group? task = some g) (f : Group → Group) :
    (s.updGroup task f).group? task = some (f g) := by
  rw [State.group?_updGroup_same, hg, Option.map_some]

/-- The group once its next cut has opened. -/
def Group.opens (g : Group) (closer : Option Nat) : Group :=
  { g with cut := some { no := g.nextCut, closer := closer }, nextCut := if 4294967295 ≤ g.nextCut then 1 else g.nextCut + 1 }

theorem State.group?_openCut {s : State} {task : Nat} {g : Group} (hg : s.group? task = some g) (vt : Fin 16) (closer : Option Nat) :
    (s.openCut task vt closer).group? task = some (g.opens closer) :=
  State.group?_updGroup_of hg (Group.opens · closer)

/-- The opening of a cut takes nothing from a meter. -/
theorem State.inst?_openCut {s : State} {task : Nat} {vt : Fin 16} {x : Inst} (hx : s.inst? task vt = some x) (closer : Option Nat) :
    ∃ y, (s.openCut task vt closer).inst? task vt = some y ∧ y.meter = x.meter := by
  simp only [State.inst?, State.openCut, Assoc.get?_mapAll, State.updGroup_keeps]
  rw [show s.insts.get? (ikey task vt) = some x from hx, Option.map_some]
  refine ⟨_, rfl, ?_⟩
  split <;> rfl

/-- The group with a seal that waits. -/
def Group.queue (g : Group) (w : Fin 16 × Node × Option Nat) : Group :=
  if g.seals.contains w then g else { g with seals := g.seals ++ [w] }

theorem State.group?_queueSeal {s : State} {task : Nat} {g : Group} (hg : s.group? task = some g) (vt : Fin 16) (n : Node)
    (closer : Option Nat) : (s.queueSeal task vt n closer).group? task = some (g.queue (vt, n, closer)) :=
  State.group?_updGroup_of hg (Group.queue · (vt, n, closer))

/-- The effect of the request numbered id is staged in the copy that was x, whose meter stays. -/
def State.Stages (task : Nat) (vt : Fin 16) (x : Inst) (id : Nat) (t : State) : Prop :=
  (t.inst task vt).meter = x.meter ∧ ∃ e ∈ (t.inst task vt).staged, e.holds id

section
variable {s : State} {task : Nat} {vt : Fin 16} {x : Inst} (hx : s.inst? task vt = some x) (n : Node)
include hx

/-- The copy once an entry is staged. -/
theorem State.inst_stage (what : Stg) (accs : List Nat) : (s.stage task vt n what accs).inst task vt =
    { x with staged := x.staged ++ [{ no := s.stageNo, what := what, accs := accs.map fun i => (i, s.stageNo), node := n,
                                      after := (s.group task).afterOf vt n }] } :=
  State.inst_updInst_same (s := { s with stageNo := s.stageNo + 1 }) _ hx

theorem State.stages_stage (what : Stg) (id : Nat) : State.Stages task vt x id (s.stage task vt n what [id]) := by
  rw [State.Stages, State.inst_stage hx n]
  exact ⟨rfl, _, List.mem_append_right _ List.mem_cons_self, s.stageNo, List.mem_cons_self⟩

/-- A store staged stands in a line of its copy, its own or one that it merges into. -/
theorem State.stages_stageLine (obj byte : Nat) (bs : List Byte) (id : Nat) :
    State.Stages task vt x id (s.stageLine task vt n obj byte bs [id]) := by
  unfold State.stageLine
  dsimp only
  split
  · next merges =>
    rw [State.inst_of_inst? hx, List.any_eq_true] at merges
    obtain ⟨e, mem, takes⟩ := merges
    rw [State.Stages, State.inst_updInst_same (s := { s with stageNo := s.stageNo + 1 }) _ hx]
    refine ⟨rfl, _, List.mem_map.2 ⟨e, mem, rfl⟩, ?_⟩
    rw [if_pos takes]
    cases hw : e.what with
    | line o l old => exact ⟨s.stageNo, by simp⟩
    | _ => simp [Staged.takes, hw] at takes
  · exact State.stages_stage hx n _ id

/-- The commit buffer takes the request's effect (R173, R187, R292). -/
theorem State.stages_stageReq (id : Nat) (r : Req) : State.Stages task vt x id (s.stageReq task vt n id r) := by
  cases r with
  | wr l k v => exact State.stages_stageLine hx n l.obj l.byte (leBytes k v) id
  | _ => exact State.stages_stage hx n (.req id) id

variable {g : Group} (hg : s.group? task = some g) (closer : Option Nat)
include hg

/-- A seal whose debit is covered opens the next cut (R294, R295, R300). -/
theorem State.openSeal_of_covered (cov : Safety.Covered x (64 + x.uncovered)) :
    (∃ c, ((s.openSeal task vt n closer).group task).cut = some c ∧ c.no = g.nextCut ∧ c.closer = closer)
      ∧ ((s.openSeal task vt n closer).inst task vt).meter + (64 + x.uncovered) = x.meter := by
  set d := 64 + x.uncovered with hd
  set p := ((s.setInst task vt (x.debit d)).progress task).countAt task vt 0x04 d with hp
  have opens : s.openSeal task vt n closer = p.openCut task vt closer := by
    unfold State.openSeal State.debit
    dsimp only
    rw [State.inst_of_inst? hx, ← hd]
    rcases Inst.pay_cases x d with ⟨-, short⟩ | ⟨-, -, wait⟩ | ⟨e, -⟩
    · exact absurd cov.1 (by omega)
    · exact absurd cov.2 (by omega)
    · rw [e]
  have counted := ((s.setInst task vt (x.debit d)).progress task).copiesKept_countAt task vt 0x04 d
  have hpg : p.group? task = some { g with wd := 0, episode := none } := by
    rw [hp, counted.group?, State.progress, State.group?_updGroup_same]
    exact congrArg (Option.map _) hg
  have hpx : p.inst? task vt = some (x.debit d) := by
    rw [hp, counted.inst?, State.inst?]
    exact Assoc.get?_put_same _ _ _
  rw [opens]
  constructor
  · rw [State.group_of_group? (State.group?_openCut hpg vt closer)]
    exact ⟨_, rfl, rfl, rfl⟩
  · obtain ⟨y, hy, meter⟩ := State.inst?_openCut hpx closer
    rw [State.inst_of_inst? hy, meter]
    exact Inst.meter_debit cov

/-- A seal that waits its turn stands among those of its group, whose cut goes on (R294). -/
theorem State.queueSeal_waits : (vt, n, closer) ∈ ((s.queueSeal task vt n closer).group task).seals
    ∧ ((s.queueSeal task vt n closer).group task).cut = g.cut
    ∧ (s.queueSeal task vt n closer).inst task vt = x := by
  rw [State.group_of_group? (State.group?_queueSeal hg vt n closer)]
  unfold Group.queue
  refine ⟨?_, ?_, State.inst_of_inst? hx⟩
  · split
    · next there => simpa using there
    · simp
  · split <;> rfl

end


/-! ### The firing of an accepted access -/

/-- The token at the second source of a tensor access, if it has one. -/
def Tensor.tokB (m : Tensor) (h : Here) : Tok :=
  match m.sb with
  | some b => h.el.readB b
  | none => {}

/-- The second source, if there is one, can be read. -/
def Tensor.okB (m : Tensor) (h : Here) : Bool :=
  match m.sb with
  | some b => h.el.okB b
  | none => true

/-- The request of an accepted access (R164-R168). -/
def Tensor.acc (m : Tensor) (s : State) (h : Here) (a b : Tok) (l : Loc) (desc : Nat) (how : How) : Acc :=
  { req := m.req a b l desc, scope := m.scope, order := m.order, opc := m.opc, tokVal := a.val, answered := destOf m.dst == .none,
    deps := s.fireDeps h m.trig (a.deps ++ b.deps ++ m.also),
    link := if m.link then (match m.sa with
      | .d x => some (x, b.val)
      | _ => none) else none,
    perf := if how = .staged then .group else .none, staged := how != .direct, closes := how == .closes }

/-- The element once it has taken the tokens of an access. -/
def Tensor.taken (m : Tensor) (s : State) (h : Here) : Elem :=
  h.el.dequeue (s.pullHere h) (takesOf (SrcA.takes m.sa) (m.sb.elim [] SrcB.takes))

/-- The state at the locus once the debit of an access is taken and the layout unit has accepted it. -/
def State.admitted (s : State) (h : Here) (d : Nat) (l : Loc) : State :=
  let p := Safety.paid s h d
  (p.updInst p.cur.task p.cur.vt Inst.countAccess).touch (p.globalTile h.g h.x) h.g.ctx l

/-- The state once the request of an accepted access is sent. -/
def State.tensorSent (s : State) (h : Here) (m : Tensor) (a b : Tok) (l : Loc) (desc cls : Nat) (how : How) : State :=
  let p := s.admitted h (m.cost cls) l
  p.sendReq h (m.taken (Safety.paid s h (m.cost cls)) h) m.dst (m.acc p h a b l desc how)

section
variable {s : State} {h : Here} (hh : s.here = some h) {d : Nat} (l : Loc)
include hh

theorem State.beside_admitted : State.Beside s (s.admitted h d l) :=
  ((State.beside_paid hh d).trans (State.beside_updInst _ _ _ (f := Inst.countAccess) fun _ => rfl)).trans
    (State.copiesKept_touch _ _ _ _).beside

theorem State.copy_admitted : (s.admitted h d l).inst? (s.admitted h d l).cur.task (s.admitted h d l).cur.vt
    = some (h.x.debit d).countAccess := by
  rw [(State.beside_admitted hh l).cur, State.admitted, (State.copiesKept_touch _ _ _ _).inst?, Safety.cur_paid hh,
    State.inst?_updInst_same, State.inst?_paid]
  rfl

theorem State.group?_admitted : (s.admitted h d l).group? s.cur.task = some { h.g with wd := 0, episode := none } := by
  rw [State.admitted, (State.copiesKept_touch _ _ _ _).group?]
  exact State.group?_paid hh d

end

section
variable {s : State} {h : Here} (m : Tensor) (a b : Tok) (l : Loc) (desc cls : Nat) (how : How)

theorem State.sent_tensorSent : State.Sent (s.admitted h (m.cost cls) l) (s.tensorSent h m a b l desc cls how) h
    (m.taken (Safety.paid s h (m.cost cls)) h) m.dst (m.acc (s.admitted h (m.cost cls) l) h a b l desc how) :=
  State.sent_sendReq _ h _ m.dst _

variable (hh : s.here = some h)
include hh

theorem State.cur_tensorSent : (s.tensorSent h m a b l desc cls how).cur = s.cur :=
  (State.sent_tensorSent m a b l desc cls how).cur.trans (State.beside_admitted hh l).cur

/-- What follows the request of an access, by its way to take effect. -/
theorem State.tensorGo_of_covered (cov : Safety.Covered h.x (m.cost cls)) : s.tensorGo h m a b l desc cls how =
    let t := s.tensorSent h m a b l desc cls how
    match how with
    | .direct => t
    | .staged => t.stageReq s.cur.task s.cur.vt (.elem h.e) s.nextId (m.req a b l desc)
    | .closes => t.wantSeal s.cur.task s.cur.vt (.elem h.e) (some s.nextId) := by
  have before := State.beside_paid hh (m.cost cls)
  have task : s.cur.task = (s.tensorSent h m a b l desc cls how).cur.task := by
    rw [State.cur_tensorSent m a b l desc cls how hh]
  unfold State.tensorGo
  rw [State.charge_of_covered _ _ _ _ _ cov, task, ← before.cur, ← before.nextId]
  cases how <;> rfl

theorem State.sends_tensorSent :
    Safety.Sends s (s.tensorSent h m a b l desc cls how) h (m.req a b l desc) (destOf m.dst) :=
  (State.sent_tensorSent m a b l desc cls how).sends (State.beside_admitted hh l) (State.copy_admitted hh l)
    (h.el.same_dequeue _ _)

theorem State.acc_tensorSent : (s.tensorSent h m a b l desc cls how).accs.get? s.nextId
    = some (State.sentAcc (s.admitted h (m.cost cls) l) h m.dst (m.acc (s.admitted h (m.cost cls) l) h a b l desc how)) := by
  rw [← (State.beside_admitted hh (d := m.cost cls) l).nextId]
  exact (State.sent_tensorSent m a b l desc cls how).acc

/-- The copy that has sent: its debit is taken, and its commit buffer is as it was. -/
theorem State.copy_tensorSent :
    ∃ el, (s.tensorSent h m a b l desc cls how).inst? s.cur.task s.cur.vt = some ((h.x.debit (m.cost cls)).countAccess.setElem h.e el) := by
  obtain ⟨n, copy⟩ := (State.sent_tensorSent m a b l desc cls how).inst? (State.copy_admitted hh l)
  rw [(State.beside_admitted hh l).cur] at copy
  exact ⟨_, copy⟩

theorem State.group?_tensorSent :
    (s.tensorSent h m a b l desc cls how).group? s.cur.task = some { h.g with wd := 0, episode := none } := by
  rw [State.group?, (State.sent_tensorSent m a b l desc cls how).groups]
  exact State.group?_admitted hh l

end

section
variable {s : State} {h : Here} {m : Tensor} {a b : Tok} {l : Loc} {desc cls : Nat} (hh : s.here = some h)
  (cov : Safety.Covered h.x (m.cost cls))
include hh cov

/-- An access that takes effect at its unit at once (R292). -/
theorem State.tensorGo_direct :
    Safety.Sends s (s.tensorGo h m a b l desc cls .direct) h (m.req a b l desc) (destOf m.dst)
      ∧ Safety.debited s (s.tensorGo h m a b l desc cls .direct) h (m.cost cls)
      ∧ Safety.direct (s.tensorGo h m a b l desc cls .direct) s.nextId := by
  rw [State.tensorGo_of_covered m a b l desc cls _ hh cov]
  obtain ⟨el, copy⟩ := State.copy_tensorSent m a b l desc cls .direct hh
  refine ⟨State.sends_tensorSent m a b l desc cls .direct hh, ?_, _, State.acc_tensorSent m a b l desc cls .direct hh, rfl, rfl, rfl⟩
  rw [Safety.debited, State.inst_of_inst? copy]
  exact Inst.meter_debit cov

/-- An access that is staged (R173, R187, R292). -/
theorem State.tensorGo_staged :
    Safety.Sends s (s.tensorGo h m a b l desc cls .staged) h (m.req a b l desc) (destOf m.dst)
      ∧ Safety.debited s (s.tensorGo h m a b l desc cls .staged) h (m.cost cls)
      ∧ Safety.stagedAs s (s.tensorGo h m a b l desc cls .staged) s.nextId := by
  rw [State.tensorGo_of_covered m a b l desc cls _ hh cov]
  dsimp only
  set t := s.tensorSent h m a b l desc cls .staged
  obtain ⟨el, copy⟩ := State.copy_tensorSent m a b l desc cls .staged hh
  obtain ⟨meter, held⟩ := State.stages_stageReq copy (.elem h.e) s.nextId (m.req a b l desc)
  have after := t.beside_stageReq s.cur.task s.cur.vt (.elem h.e) s.nextId (m.req a b l desc)
  have acc := State.acc_tensorSent m a b l desc cls .staged hh
  rw [← after.accs] at acc
  refine ⟨after.sends (State.sends_tensorSent m a b l desc cls .staged hh), ?_, held, _, acc, rfl, rfl⟩
  rw [Safety.debited, meter]
  exact Inst.meter_debit cov

/-- An access that is the last effect of a cut of its own (R181, R187, R294). -/
theorem State.tensorGo_closes :
    Safety.Sends s (s.tensorGo h m a b l desc cls .closes) h (m.req a b l desc) (destOf m.dst)
      ∧ Safety.Closes s (s.tensorGo h m a b l desc cls .closes) h (m.cost cls) := by
  rw [State.tensorGo_of_covered m a b l desc cls _ hh cov]
  dsimp only
  set t := s.tensorSent h m a b l desc cls .closes
  obtain ⟨el, copy⟩ := State.copy_tensorSent m a b l desc cls .closes hh
  have grp := State.group?_tensorSent m a b l desc cls .closes hh
  have after := t.beside_wantSeal s.cur.task s.cur.vt (.elem h.e) (some s.nextId)
  have acc := State.acc_tensorSent m a b l desc cls .closes hh
  rw [← after.accs] at acc
  have meter := Inst.meter_debit cov
  refine ⟨after.sends (State.sends_tensorSent m a b l desc cls .closes hh), ⟨_, acc, rfl, rfl⟩, fun free more => ?_,
    fun busy => ?_⟩
  · have opens : t.wantSeal s.cur.task s.cur.vt (.elem h.e) (some s.nextId)
        = t.openSeal s.cur.task s.cur.vt (.elem h.e) (some s.nextId) := by
      rw [State.wantSeal, State.group_of_group? grp, if_pos (Option.isNone_iff_eq_none.2 free)]
    obtain ⟨cut, left⟩ := State.openSeal_of_covered copy (.elem h.e) grp (some s.nextId) (Inst.covered_debit more)
    rw [opens]
    refine ⟨cut, ?_⟩
    have left : ((t.openSeal s.cur.task s.cur.vt (.elem h.e) (some s.nextId)).inst s.cur.task s.cur.vt).meter
        + (64 + h.x.uncovered) = (h.x.debit (m.cost cls)).meter := left
    rw [Safety.debited]
    omega
  · have waits : t.wantSeal s.cur.task s.cur.vt (.elem h.e) (some s.nextId)
        = t.queueSeal s.cur.task s.cur.vt (.elem h.e) (some s.nextId) := by
      rw [State.wantSeal, State.group_of_group? grp, if_neg (by rw [Option.isNone_iff_eq_none]; exact busy)]
    obtain ⟨stands, cut, same⟩ := State.queueSeal_waits copy (.elem h.e) grp (some s.nextId)
    rw [waits]
    refine ⟨stands, cut, ?_⟩
    rw [Safety.debited, same]
    exact meter

end


/-! ### Acceptance -/

section
variable {s : State} {h : Here} {m : Tensor} {l : Loc} {desc cls : Nat} {fresh : Bool}
  (acc : Safety.Accepts s h m.trig m.dst m.sa m.writes m.atomic (m.cost cls) l desc cls fresh) (okB : m.okB h = true)
include acc okB

/-- An access that the layout unit accepts, and whose line is there where it is staged, fires (R161-R164, R173). -/
theorem State.fireTensor_of (line : m.how (m.tokB h) desc fresh = .staged →
      s.hasLine s.cur.task h.g s.cur.vt (.elem h.e) (m.req (h.el.readA m.sa) (m.tokB h) l desc).line = true) :
    s.fireTensor m = s.tensorGo h m (h.el.readA m.sa) (m.tokB h) l desc cls (m.how (m.tokB h) desc fresh) := by
  obtain ⟨here, ready, okA, unused, checks, present, -⟩ := acc
  have placed : (decide (m.how (m.tokB h) desc fresh = .staged)
      && !s.hasLine s.cur.task h.g s.cur.vt (.elem h.e) (m.req (h.el.readA m.sa) (m.tokB h) l desc).line) = false := by
    by_cases staged : m.how (m.tokB h) desc fresh = .staged
    · rw [line staged, Bool.not_true, Bool.and_false]
    · rw [decide_eq_false staged, Bool.false_and]
  cases second : m.sb <;> simp only [Tensor.okB, Tensor.tokB, second] at okB placed ⊢ <;>
    simp only [State.fireTensor, here, ready, okA, okB, second, unused, decide_true, Bool.and_self, if_true, checks, present,
      Bool.not_true, Bool.false_eq_true, if_false, placed]

end

section
variable {s : State} {h : Here} {m : Tensor} {l : Loc} {desc cls : Nat} {fresh : Bool} {o : Out} (runs : o = .next (s.fireTensor m))
  (acc : Safety.Accepts s h m.trig m.dst m.sa m.writes m.atomic (m.cost cls) l desc cls fresh) (okB : m.okB h = true)
include runs acc okB

/-- An instruction that is an access without a wait: it takes effect at its unit at once. -/
theorem State.completes_direct (how : m.how (m.tokB h) desc fresh = .direct) :
    ∃ t, o = .next t ∧ Safety.Sends s t h (m.req (h.el.readA m.sa) (m.tokB h) l desc) (destOf m.dst)
      ∧ Safety.debited s t h (m.cost cls) ∧ Safety.direct t s.nextId := by
  rw [State.fireTensor_of acc okB fun staged => absurd (how.symm.trans staged) (by decide), how] at runs
  exact ⟨_, runs, State.tensorGo_direct acc.here acc.covered⟩

/-- One that is staged, where a line is free or merges (R173). -/
theorem State.completes_staged (how : m.how (m.tokB h) desc fresh = .staged)
    (line : s.hasLine s.cur.task h.g s.cur.vt (.elem h.e) (m.req (h.el.readA m.sa) (m.tokB h) l desc).line = true) :
    ∃ t, o = .next t ∧ Safety.Sends s t h (m.req (h.el.readA m.sa) (m.tokB h) l desc) (destOf m.dst)
      ∧ Safety.debited s t h (m.cost cls) ∧ Safety.stagedAs s t s.nextId := by
  rw [State.fireTensor_of acc okB fun _ => line, how] at runs
  exact ⟨_, runs, State.tensorGo_staged acc.here acc.covered⟩

/-- One that is the close of a cut. -/
theorem State.completes_closes (how : m.how (m.tokB h) desc fresh = .closes) :
    ∃ t, o = .next t ∧ Safety.Sends s t h (m.req (h.el.readA m.sa) (m.tokB h) l desc) (destOf m.dst)
      ∧ Safety.Closes s t h (m.cost cls) := by
  rw [State.fireTensor_of acc okB fun staged => absurd (how.symm.trans staged) (by decide), how] at runs
  exact ⟨_, runs, State.tensorGo_closes acc.here acc.covered⟩

/-- One that also steps the register of its pointer: the register waits for the reply (R175). -/
theorem State.completes_linked (how : m.how (m.tokB h) desc fresh = .direct)
    (link : m.link = true) :
    ∃ t, o = .next t ∧ Safety.Sends s t h (m.req (h.el.readA m.sa) (m.tokB h) l desc) (destOf m.dst)
      ∧ Safety.debited s t h (m.cost cls)
      ∧ ∀ n, m.sa = .d n → (t.elem s.cur.task s.cur.vt h.e).pending n = true
        ∧ ∃ a, t.accs.get? s.nextId = some a ∧ a.link = some (n, (m.tokB h).val) := by
  rw [State.fireTensor_of acc okB fun staged => absurd (how.symm.trans staged) (by decide), how] at runs
  obtain ⟨sends, debited, -⟩ := State.tensorGo_direct (a := h.el.readA m.sa) (b := m.tokB h) (l := l) (desc := desc)
    acc.here acc.covered
  refine ⟨_, runs, sends, debited, fun n reg => ?_⟩
  rw [State.tensorGo_of_covered m _ _ l desc cls _ acc.here acc.covered]
  have steps : (m.acc (s.admitted h (m.cost cls) l) h (h.el.readA m.sa) (m.tokB h) l desc .direct).link = some (n, (m.tokB h).val) := by
    simp only [Tensor.acc, link, reg, if_true]
  constructor
  · obtain ⟨k, own⟩ := (State.sent_tensorSent m (h.el.readA m.sa) (m.tokB h) l desc cls .direct).elem
      (State.copy_admitted acc.here l)
    rw [(State.beside_admitted acc.here l).cur, steps] at own
    dsimp only
    rw [own]
    exact Elem.pending_sends _ _ _ _ _ n (m.tokB h).val
  · exact ⟨_, State.acc_tensorSent m _ _ l desc cls .direct acc.here, steps⟩

end

end Sys2Proof.Machine
end

section
/-! The tensor accesses of the elements (R164, R174-R176, R180-R182, R185-R187): each is the shared firing with its request and its way to
take effect. -/

namespace Sys2Proof.Machine

/-- Settles O15: on presence bits the request is a full-empty one, else a read. -/
theorem tensorLoads : Obligations.TensorLoads := by
  unfold Obligations.TensorLoads
  intro s h l desc cls fresh
  refine ⟨fun x acc => ⟨?_, fun fe => ?_⟩, fun x acc okB => ?_, fun x acc fe => ?_⟩
  · obtain ⟨t, runs, sends, debited, -⟩ := State.completes_direct (o := exec (.ldt x) s) rfl acc rfl rfl
    exact ⟨t, runs, sends, debited⟩
  · obtain ⟨t, runs, sends, debited, -⟩ := State.completes_direct (o := exec (.ldfe x) s) rfl acc rfl rfl
    simp only [fe, if_true] at sends
    exact ⟨t, runs, sends, debited⟩
  · exact State.completes_linked (o := exec (.ldlink x) s) rfl acc okB rfl rfl
  · cases fresh with
    | true =>
      obtain ⟨t, runs, sends, debited, direct⟩ := State.completes_direct (o := exec (.ldfec x) s) rfl acc rfl
        (by simp [fe])
      simp only [fe, if_true] at sends
      exact ⟨t, runs, sends, fun _ => ⟨direct, debited⟩, nofun⟩
    | false =>
      obtain ⟨t, runs, sends, closes⟩ := State.completes_closes (o := exec (.ldfec x) s) rfl acc rfl (by simp [fe])
      simp only [fe, if_true] at sends
      exact ⟨t, runs, sends, nofun, fun _ => closes⟩

/-- Settles O17: on a fresh object at once; on a shared one staged, but STFE on presence bits as the close of a cut. -/
theorem tensorStores : Obligations.TensorStores := by
  unfold Obligations.TensorStores
  intro s h l desc cls fresh x acc okB
  refine ⟨fun line => ?_, fun fe => ?_, fun line => ?_⟩
  · cases fresh with
    | true =>
      obtain ⟨t, runs, sends, debited, direct⟩ := State.completes_direct (o := exec (.stt x) s) rfl acc okB rfl
      exact ⟨t, runs, sends, debited, fun _ => direct, nofun⟩
    | false =>
      obtain ⟨t, runs, sends, debited, staged⟩ := State.completes_staged (o := exec (.stt x) s) rfl acc okB rfl
        (line rfl)
      exact ⟨t, runs, sends, debited, nofun, fun _ => staged⟩
  · cases fresh with
    | true =>
      obtain ⟨t, runs, sends, debited, direct⟩ := State.completes_direct (o := exec (.stfe x) s) rfl acc okB
        (by simp [fe])
      simp only [fe, if_true] at sends
      exact ⟨t, runs, sends, fun _ => ⟨direct, debited⟩, nofun⟩
    | false =>
      obtain ⟨t, runs, sends, closes⟩ := State.completes_closes (o := exec (.stfe x) s) rfl acc okB (by simp [fe])
      simp only [fe, if_true] at sends
      exact ⟨t, runs, sends, nofun, fun _ => closes⟩
  · by_cases now : fresh = true ∨ (h.el.readB x.sb).val = 0
    · have how : (if (h.el.readB x.sb).val = 0 then How.direct else howWrite (h.el.readB x.sb) desc fresh) = .direct := by
        split
        · rfl
        · next pages => rw [now.resolve_right pages]; rfl
      obtain ⟨t, runs, sends, debited, direct⟩ := State.completes_direct (o := exec (.disc x) s) rfl acc okB how
      refine ⟨t, runs, sends, debited, fun _ => direct, fun shared pages => absurd now ?_⟩
      rw [shared]
      exact not_or.2 ⟨Bool.false_ne_true, pages⟩
    · obtain ⟨old, pages⟩ := not_or.1 now
      have shared := Bool.eq_false_iff.2 old
      have how : (if (h.el.readB x.sb).val = 0 then How.direct else howWrite (h.el.readB x.sb) desc fresh) = .staged := by
        rw [if_neg pages, shared]
        rfl
      obtain ⟨t, runs, sends, debited, staged⟩ := State.completes_staged (o := exec (.disc x) s) rfl acc okB how
        (line shared pages)
      exact ⟨t, runs, sends, debited, fun h => absurd h now, fun _ _ => staged⟩

/-- Each atomic with SB is the shared mould with its operation (R185). -/
theorem exec_atomicRow {r : (EmSt → Instr) × AtOp} (row : r ∈ Claims.atomicRows) (x : EmSt) (s : State) :
    ∃ opc order, exec (r.1 x) s = .next (s.fireAtomic x opc r.2 order) := by
  simp only [Claims.atomicRows, List.mem_cons, List.not_mem_nil, or_false] at row
  rcases row with rfl | rfl | rfl | rfl | rfl | rfl | rfl <;> exact ⟨_, _, rfl⟩

/-- Settles O18: on a fresh object at once; on a shared one a returned value closes a cut, and no value is staged. -/
theorem atomics : Obligations.Atomics := by
  unfold Obligations.Atomics
  intro s h l desc cls fresh
  refine ⟨fun r row x acc okB line => ?_, fun x acc okB => ?_⟩
  · obtain ⟨opc, order, runs⟩ := exec_atomicRow row x s
    cases fresh with
    | true =>
      obtain ⟨t, runs, sends, debited, direct⟩ := State.completes_direct runs acc okB rfl
      exact ⟨t, runs, sends, fun _ => ⟨direct, debited⟩, nofun, nofun⟩
    | false =>
      by_cases silent : destOf x.dst = .none
      · obtain ⟨t, runs, sends, debited, staged⟩ := State.completes_staged runs acc okB (by simp [howAtomic, silent])
          (line rfl silent)
        exact ⟨t, runs, sends, nofun, fun _ _ => ⟨staged, debited⟩, fun _ returns => absurd silent returns⟩
      · obtain ⟨t, runs, sends, closes⟩ := State.completes_closes runs acc okB (by simp [howAtomic, silent])
        exact ⟨t, runs, sends, nofun, fun _ none => absurd none silent, fun _ _ => closes⟩
  · cases fresh with
    | true =>
      obtain ⟨t, runs, sends, debited, direct⟩ := State.completes_direct (o := exec (.acas x) s) rfl acc okB rfl
      simp only [acc.here] at sends
      exact ⟨t, runs, sends, fun _ => ⟨direct, debited⟩, nofun⟩
    | false =>
      obtain ⟨t, runs, sends, closes⟩ := State.completes_closes (o := exec (.acas x) s) rfl acc okB rfl
      simp only [acc.here] at sends
      exact ⟨t, runs, sends, nofun, fun _ => closes⟩

/-! ### Pages without presence bits (R180) -/

section
variable (s : State)

theorem State.sansOpc_addAcc (a : Acc) : Claims.sansOpc (s.addAcc a) = (Claims.sansOpc s).addAcc { a with opc := 0 } := by
  unfold Claims.sansOpc State.addAcc
  rw [Assoc.mapAll_put]

/-- The opcode of a request is no part of anything else that its sending leaves. -/
theorem State.sansOpc_sendReq (h : Here) (el : Elem) (dst : Dst) (a : Acc) (opc : Nat) :
    Claims.sansOpc (s.sendReq h el dst { a with opc := opc }) = Claims.sansOpc (s.sendReq h el dst a) := by
  simp only [State.sendReq]
  rw [State.sansOpc_addAcc, State.sansOpc_addAcc]

/-- The commit buffer does not look at requests. -/
theorem State.sansOpc_stageReq (task : Nat) (vt : Fin 16) (n : Node) (id : Nat) (r : Req) :
    Claims.sansOpc (s.stageReq task vt n id r) = (Claims.sansOpc s).stageReq task vt n id r := by
  cases r with
  | wr l k v =>
    simp only [State.stageReq, State.stageLine]
    rw [apply_ite Claims.sansOpc]
    rfl
  | _ => rfl

end

section
variable {s : State} {h : Here} {m : Tensor} {l : Loc} {desc cls : Nat} {fresh : Bool} {opc kind : Nat} {writes : Bool}
  {req : Tok → Tok → Loc → Nat → Req} {how : Tok → Nat → Bool → How}

/-- Two accesses that say the same but for opcode, fault kind and page use, and ask and act alike at this place, leave the same state
but for the opcode that the request records. -/
theorem State.fireTensor_alike {o o' : Out} (runs' : o' = .next (s.fireTensor m))
    (runs : o = .next (s.fireTensor { m with opc := opc, kind := kind, writes := writes, req := req, how := how }))
    (acc' : Safety.Accepts s h m.trig m.dst m.sa m.writes m.atomic (m.cost cls) l desc cls fresh)
    (acc : Safety.Accepts s h m.trig m.dst m.sa writes m.atomic (m.cost cls) l desc cls fresh) (okB : m.okB h = true)
    (asks : req (h.el.readA m.sa) (m.tokB h) l desc = m.req (h.el.readA m.sa) (m.tokB h) l desc)
    (acts : how (m.tokB h) desc fresh = m.how (m.tokB h) desc fresh) (opens : m.how (m.tokB h) desc fresh ≠ .closes)
    (line : m.how (m.tokB h) desc fresh = .staged →
      s.hasLine s.cur.task h.g s.cur.vt (.elem h.e) (m.req (h.el.readA m.sa) (m.tokB h) l desc).line = true) :
    ∃ t u, o = .next t ∧ o' = .next u ∧ Claims.sansOpc t = Claims.sansOpc u := by
  set m' : Tensor := { m with opc := opc, kind := kind, writes := writes, req := req, how := how }
  set a := h.el.readA m.sa
  set b := m.tokB h
  have fires := State.fireTensor_of acc' okB line
  have fires' : s.fireTensor m' = s.tensorGo h m' a b l desc cls (m.how b desc fresh) := by
    rw [← acts]
    refine State.fireTensor_of (m := m') acc okB fun staged => ?_
    have staged : m.how b desc fresh = .staged := acts.symm.trans staged
    exact (congrArg _ (congrArg Req.line asks)).trans (line staged)
  have sent : ∀ way, Claims.sansOpc (s.tensorSent h m' a b l desc cls way) = Claims.sansOpc (s.tensorSent h m a b l desc cls way) := by
    intro way
    have same : ∀ p, m'.acc p h a b l desc way = { m.acc p h a b l desc way with opc := opc } := fun p => by
      simp only [Tensor.acc, m', asks]
    unfold State.tensorSent
    dsimp only
    rw [same]
    exact State.sansOpc_sendReq _ h _ m.dst _ opc
  refine ⟨_, _, fires' ▸ runs, fires ▸ runs', ?_⟩
  rw [State.tensorGo_of_covered m' a b l desc cls _ acc.here acc.covered, State.tensorGo_of_covered m a b l desc cls _ acc.here acc.covered]
  cases way : m.how b desc fresh with
  | direct => exact sent .direct
  | staged =>
    dsimp only
    rw [State.sansOpc_stageReq, State.sansOpc_stageReq, sent, show m'.req a b l desc = m.req a b l desc from asks]
  | closes => exact absurd way opens

end

/-- Settles O16: without presence bits the request and the way to take effect are those of the plain access. -/
theorem fullEmptyActsAsPlain : Obligations.FullEmptyActsAsPlain := by
  unfold Obligations.FullEmptyActsAsPlain
  intro s h l desc cls fresh fe
  refine ⟨fun x acc => ?_, fun x acc acc' => ?_, fun x acc okB line => ?_⟩
  · exact State.fireTensor_alike (o := exec (.ldfe x) s) (o' := exec (.ldt x) s) rfl rfl acc acc rfl (by simp [fe]) rfl
      nofun nofun
  · exact State.fireTensor_alike (o := exec (.ldfec x) s) (o' := exec (.ldt x) s) rfl rfl acc' acc rfl (by simp [fe])
      (by simp [fe, howRead]) nofun nofun
  · refine State.fireTensor_alike (o := exec (.stfe x) s) (o' := exec (.stt x) s) rfl rfl acc acc okB (by simp [fe])
      (by simp [fe]) ?_ ?_
    · cases fresh <;> nofun
    · cases fresh with
      | true => nofun
      | false => exact fun _ => line rfl

end Sys2Proof.Machine
end


section
/-! SUPPORT. What an answer that reaches its element leaves (R166-R168, R172, R175): a token sent changes, of elements, input channels
alone; a reply takes its register or its place in an output channel; the request is answered. -/

namespace Sys2Proof.Machine

/-! ### A token sent changes input channels -/

/-- Of the elements only input channels differ, and every copy's meter is the same. -/
structure State.InputsOnly (s t : State) : Prop where
  elem : ∀ k e, ∃ q, (t.insts.getD k {}).elem e = { (s.insts.getD k {}).elem e with inq := q }
  meter : ∀ k, (t.insts.getD k {}).meter = (s.insts.getD k {}).meter

theorem State.InputsOnly.of_insts {s t : State} (insts : t.insts = s.insts) : State.InputsOnly s t where
  elem k e := ⟨((s.insts.getD k {}).elem e).inq, by rw [insts]⟩
  meter k := by rw [insts]

theorem State.InputsOnly.trans {s t u : State} (h : State.InputsOnly s t) (k : State.InputsOnly t u) : State.InputsOnly s u where
  elem i e := by
    obtain ⟨q, hq⟩ := h.elem i e
    obtain ⟨r, hr⟩ := k.elem i e
    exact ⟨r, by rw [hr, hq]⟩
  meter i := (k.meter i).trans (h.meter i)

theorem State.InputsOnly.foldl {α : Type} {f : State → α → State} (step : ∀ s x, State.InputsOnly s (f s x)) (l : List α)
    (s : State) : State.InputsOnly s (l.foldl f s) := by
  induction l generalizing s with
  | nil => exact .of_insts rfl
  | cons x r ih => exact (step s x).trans (ih _)

section
variable (s : State) (task : Nat)

theorem State.inputsOnly_updInst (vt : Fin 16) {f : Inst → Inst} (elem : ∀ x e, ∃ q, (f x).elem e = { x.elem e with inq := q })
    (meter : ∀ x, (f x).meter = x.meter) : State.InputsOnly s (s.updInst task vt f) := by
  have modified : ∀ k, (s.updInst task vt f).insts.getD k {} = s.insts.getD k {}
      ∨ (s.updInst task vt f).insts.getD k {} = f (s.insts.getD k {}) := fun k => by
    simp only [State.updInst_insts, Assoc.getD, Assoc.get?_modify]
    split
    · cases s.insts.get? k with
      | none => exact .inl rfl
      | some x => exact .inr rfl
    · exact .inl rfl
  constructor
  · intro k e
    obtain same | changed := modified k
    · exact ⟨((s.insts.getD k {}).elem e).inq, by rw [same]⟩
    · rw [changed]
      exact elem _ e
  · intro k
    obtain same | changed := modified k
    · rw [same]
    · rw [changed, meter]

/-- A change beside the elements and the meter. -/
theorem State.inputsOnly_beside (vt : Fin 16) {f : Inst → Inst} (elems : ∀ x, (f x).elems = x.elems)
    (meter : ∀ x, (f x).meter = x.meter) : State.InputsOnly s (s.updInst task vt f) := by
  refine s.inputsOnly_updInst task vt (fun x e => ⟨(x.elem e).inq, ?_⟩) meter
  rw [Inst.elem, elems, Inst.elem]

theorem State.inputsOnly_updElem (vt e : Fin 16) {f : Elem → Elem} (only : ∀ el, ∃ q, f el = { el with inq := q }) :
    State.InputsOnly s (s.updElem task vt e f) := by
  refine s.inputsOnly_updInst task vt (fun x p => ?_) fun _ => rfl
  rw [Inst.elem_setElem]
  split
  · next h => subst h; exact only _
  · exact ⟨(x.elem p).inq, rfl⟩

variable (g : Group)

theorem State.inputsOnly_pushBuf (vt : Fin 16) (b : Nat) (t : Wtok) : State.InputsOnly s (s.pushBuf task g vt b t) := by
  set y : Inst := { s.inst task vt with
    bufs := (s.inst task vt).bufs.put b ((s.inst task vt).buf b ++ [t])
    bufWr := (s.inst task vt).bufWr.put b (((s.inst task vt).bufWr.getD b 0 + 1) % max 1 ((s.inst task vt).desc b).tokens) }
  have put : ∀ k, (s.pushBuf task g vt b t).insts.getD k {} = if ikey task vt = k then y else s.insts.getD k {} := fun k => by
    have stored : (s.pushBuf task g vt b t).insts = s.insts.put (ikey task vt) y := rfl
    rw [stored, Assoc.getD, Assoc.get?_put]
    split <;> rfl
  constructor
  · intro k e
    rw [put]
    split
    · next h => subst h; exact ⟨_, rfl⟩
    · exact ⟨_, rfl⟩
  · intro k
    rw [put]
    split
    · next h => subst h; rfl
    · rfl

theorem State.inputsOnly_cairnArrives (n : Nat) (p : Ep) : State.InputsOnly s (s.cairnArrives task g n p) := by
  unfold State.cairnArrives
  split
  · exact .of_insts rfl
  · exact .of_insts rfl

theorem State.inputsOnly_land (n : Nat) (p : Ep) (t : Wtok) : State.InputsOnly s (s.land task g n p t) := by
  have cairn := s.inputsOnly_cairnArrives task g n p
  have noted : State.InputsOnly s (s.recordArrival task g n p t) := .of_insts (s.recordArrival_cutOnly task g n p t).insts
  cases p with
  | inp vt e c =>
    simp only [State.land]
    split
    · exact cairn
    · exact noted.trans (State.inputsOnly_updElem _ task vt e fun _ => ⟨_, rfl⟩)
  | buf vt b =>
    simp only [State.land]
    split
    · split
      · exact cairn
      · exact cairn.trans (State.inputsOnly_beside _ task vt (fun _ => rfl) fun _ => rfl)
    · exact noted.trans (State.inputsOnly_pushBuf _ task g vt b.val t)
  | bnd vt k =>
    simp only [State.land]
    split
    · exact cairn
    · refine noted.trans (State.inputsOnly_beside _ task vt (fun _ => ?_) fun _ => ?_)
      · split_ifs <;> rfl
      · split_ifs <;> rfl
  | out vt e o => exact .of_insts rfl
  | mst vt => exact .of_insts rfl
  | cmd vt k => exact .of_insts rfl

omit g in
theorem State.inputsOnly_sendEdge (x : Edge × Nat) (t : Wtok) : State.InputsOnly s (s.sendEdge task x t) := by
  unfold State.sendEdge
  dsimp only
  split
  · split
    · exact s.inputsOnly_updElem task _ _ fun _ => ⟨_, rfl⟩
    · exact s.inputsOnly_land task _ x.2 _ t
  · exact .of_insts rfl

omit g in
theorem State.inputsOnly_send (p : Ep) (t : Wtok) : State.InputsOnly s (s.send task p t) :=
  .foldl (fun s x => s.inputsOnly_sendEdge task x t) _ s

end

/-! ### A reply that fills its place in a channel -/

/-- The element once the place of a request in an output channel is filled, and the tokens that no longer wait have left (R168). -/
def Elem.fillPlace (el : Elem) (o : Fin 4) (id : Nat) (bar : Bool) (k : Tok) : Elem :=
  let q := Claims.filled (vget el.outq o) id bar k
  { el with outq := vset el.outq o q }.afterOut o (takeToks q).2

theorem Elem.outq_fillPlace (el : Elem) (o : Fin 4) (id : Nat) (bar : Bool) (k : Tok) :
    vget (el.fillPlace o id bar k).outq o = (takeToks (Claims.filled (vget el.outq o) id bar k)).2 := by
  simp only [Elem.fillPlace, Elem.afterOut]
  exact Vector.getElem_set_self _

section
variable (s : State) (task : Nat) (vt e : Fin 16) (o : Fin 4)

/-- The channel's tokens are sent once the element has let them go. -/
theorem State.inputsOnly_drainOut : State.InputsOnly
    (s.updElem task vt e fun el => el.afterOut o (takeToks (vget (s.elem task vt e).outq o)).2) (s.drainOut task vt e o) :=
  .foldl (fun s (t : Tok) => s.inputsOnly_send task (.out vt e o) t.wide) _ _

theorem State.elem_emitReply {x : Inst} (hx : s.inst? task vt = some x) (id : Nat) (k : Tok) (bar : Bool) :
    ∃ q, (s.emitReply task vt e o id k bar).elem task vt e = { (x.elem e).fillPlace o id bar k with inq := q } := by
  set put : Elem → Elem := fun el => { el with outq := vset el.outq o (Claims.filled (vget el.outq o) id bar k) }
  set t := s.updElem task vt e put with ht
  have ht' : t.inst? task vt = some (x.setElem e (put (x.elem e))) := by
    rw [ht, State.inst?_updElem_same, hx, Option.map_some]
  have places : vget (t.elem task vt e).outq o = Claims.filled (vget (x.elem e).outq o) id bar k := by
    rw [State.elem_of_inst? ht', Inst.elem_setElem_same]
    exact Vector.getElem_set_self _
  obtain ⟨q, own⟩ := (t.inputsOnly_drainOut task vt e o).elem (ikey task vt) e
  refine ⟨q, own.trans ?_⟩
  have let_go := State.elem_updElem_same e (fun el => el.afterOut o (takeToks (vget (t.elem task vt e).outq o)).2) ht'
  rw [Inst.elem_setElem_same] at let_go
  exact congrArg (fun el : Elem => { el with inq := q }) (let_go.trans (by rw [places]))

/-- A change of an element takes nothing from a meter. -/
theorem State.meter_updElem (f : Elem → Elem) (wt : Fin 16) :
    ((s.updElem task vt e f).inst task wt).meter = (s.inst task wt).meter := by
  obtain same | changed := s.inst_updInst_cases task vt wt fun x => x.setElem e (f (x.elem e))
  · exact congrArg Inst.meter same
  · exact (congrArg Inst.meter changed :)

theorem State.meter_emitReply (id : Nat) (k : Tok) (bar : Bool) (wt : Fin 16) :
    ((s.emitReply task vt e o id k bar).inst task wt).meter = (s.inst task wt).meter := by
  refine ((State.inputsOnly_drainOut _ task vt e o).meter (ikey task wt)).trans ?_
  exact (State.meter_updElem _ task vt e _ wt).trans (s.meter_updElem task vt e _ wt)

end

/-! ### A reply delivered (R166-R168) -/

section
variable (el : Elem) (a : Acc) (v : Word) (p : Bool) (deps : List Nat)

theorem Elem.p_takeReply : (el.takeReply a v p deps).p = match a.pw with
    | some q => setBit el.p q.val p
    | none => el.p := by
  unfold Elem.takeReply
  cases a.dest <;> cases a.link <;> cases a.pw <;> rfl

/-- A reply leaves the channels and the port as they are. -/
theorem Elem.channels_takeReply : (el.takeReply a v p deps).outq = el.outq ∧ (el.takeReply a v p deps).portBlock = el.portBlock := by
  unfold Elem.takeReply
  cases a.dest <;> cases a.link <;> cases a.pw <;> exact ⟨rfl, rfl⟩

/-- A reply to a register is written there, and the register is pending no more (R166, R167). -/
theorem Elem.takeReply_reg {n : Fin 8} (dest : a.dest = .reg n) (link : a.link = none) :
    (el.takeReply a v p deps).d = vset el.d n v ∧ (el.takeReply a v p deps).pending n = false := by
  unfold Elem.takeReply
  rw [dest, link]
  cases a.pw <;> exact ⟨rfl, getLsbD_setBit_same _ false n.isLt⟩

/-- The reply also steps the register of the pointer, which is pending no more (R175). -/
theorem Elem.takeReply_link {n m : Fin 8} {off : Word} (dest : a.dest = .reg n) (link : a.link = some (m, off)) :
    (el.takeReply a v p deps).d = vset (vset el.d n v) m (v + off) ∧ (el.takeReply a v p deps).pending m = false := by
  unfold Elem.takeReply
  rw [dest, link]
  cases a.pw <;> exact ⟨rfl, getLsbD_setBit_same _ false m.isLt⟩

end

/-- The state once the reply v of the request numbered id is written to its element. -/
def State.written (s : State) (id : Nat) (a : Acc) (task : Nat) (e : Fin 16) (v : Word) (p : Bool) : State :=
  let deps := s.live ((id :: a.deps).eraseDups)
  let t := s.updElem task a.vt e fun el => el.takeReply a v p deps
  match a.dest with
  | .out o => t.emitReply task a.vt e o id ⟨0, v, deps⟩ ((s.elem task a.vt e).portBlock.contains id)
  | _ => t

/-- The state once the request numbered id is noted as answered. -/
def State.noted (s : State) (id : Nat) (a : Acc) (task : Nat) : State := ((s.setAcc id a).progress task).reap id

/-- A request that is still in flight has not been changed by the leaving of finished ones. -/
theorem State.get?_of_reap {s : State} {id : Nat} {b : Acc} (there : (s.reap id).accs.get? id = some b) : s.accs.get? id = some b := by
  unfold State.reap at there
  split at there
  · split at there
    · simp [Assoc.get?_del] at there
    · exact there
  · exact there

section
variable (s : State) (id : Nat) (a : Acc)

theorem State.insts_setAcc : (s.setAcc id a).insts = s.insts ∧ (s.setAcc id a).mem = s.mem := by
  unfold State.setAcc
  dsimp only
  split <;> exact ⟨rfl, rfl⟩

theorem State.inst?_setAcc (task : Nat) (vt : Fin 16) : (s.setAcc id a).inst? task vt = s.inst? task vt := by
  rw [State.inst?, (s.insts_setAcc id a).1, State.inst?]

theorem State.accs_setAcc : (s.setAcc id a).accs = s.accs.put id a := by
  unfold State.setAcc
  dsimp only
  split <;> rfl

theorem State.insts_reap : (s.reap id).insts = s.insts ∧ (s.reap id).mem = s.mem := by
  unfold State.reap
  split
  · split <;> exact ⟨rfl, rfl⟩
  · exact ⟨rfl, rfl⟩

variable (task : Nat)

theorem State.insts_noted : (s.noted id a task).insts = s.insts := by
  rw [State.noted, (State.insts_reap _ id).1]
  exact (s.insts_setAcc id a).1

theorem State.mem_noted : (s.noted id a task).mem = s.mem := by
  rw [State.noted, (State.insts_reap _ id).2]
  exact (s.insts_setAcc id a).2

/-- The request, where it is still in flight, is the one noted. -/
theorem State.acc_noted {b : Acc} (there : (s.noted id a task).accs.get? id = some b) : b = a := by
  have put : ((s.setAcc id a).progress task).accs.get? id = some a := by
    rw [show ((s.setAcc id a).progress task).accs = (s.setAcc id a).accs from rfl, s.accs_setAcc, Assoc.get?_put_same]
  exact (Option.some.inj (put.symm.trans (State.get?_of_reap there))).symm

end

section
variable {s : State} {id : Nat} {a : Acc} {task : Nat} {e : Fin 16} (ht : a.task = some task) (hn : a.node = .elem e)
  (v : Word) (p : Bool)
include ht hn

/-- A reply is written and noted, unless it is for a channel of an element that has executed DONE (R153). -/
theorem State.deliver_eq (takes : (s.elem task a.vt e).done = false ∨ ∀ o, a.dest ≠ .out o) :
    s.deliver id a v p = (s.written id a task e v p).noted id { a with answered := true } task := by
  unfold State.deliver State.written
  simp only [ht, hn]
  cases dest : a.dest with
  | out o =>
    rw [takes.resolve_right fun none => none o dest, Bool.false_and, if_neg Bool.false_ne_true]
    rfl
  | reg n =>
    rw [Bool.and_false, if_neg Bool.false_ne_true]
    rfl
  | none =>
    rw [Bool.and_false, if_neg Bool.false_ne_true]
    rfl

/-- A channel of an element that has executed DONE holds its reply. -/
theorem State.deliver_held (done : (s.elem task a.vt e).done = true) {o : Fin 4} (dest : a.dest = .out o) :
    s.deliver id a v p = s := by
  unfold State.deliver
  simp only [ht, hn, done, dest, Bool.and_self, if_true]

end

section
variable {s : State} {id : Nat} {a : Acc} {task : Nat} {e : Fin 16} {x : Inst} (hx : s.inst? task a.vt = some x)
  (v : Word) (p : Bool)
include hx

theorem State.elem_written_reg (dest : ∀ o, a.dest ≠ .out o) : (s.written id a task e v p).mem = s.mem
    ∧ (s.written id a task e v p).elem task a.vt e = (x.elem e).takeReply a v p (s.live ((id :: a.deps).eraseDups)) := by
  have own := State.elem_updElem_same e (fun el => el.takeReply a v p (s.live ((id :: a.deps).eraseDups))) hx
  unfold State.written
  cases hd : a.dest with
  | out o => exact absurd hd (dest o)
  | reg n => exact ⟨rfl, own⟩
  | none => exact ⟨rfl, own⟩

theorem State.elem_written_out {o : Fin 4} (dest : a.dest = .out o) : ∃ k : Tok, k.val = v ∧ k.side = 0 ∧ ∃ q,
    (s.written id a task e v p).elem task a.vt e
      = { ((x.elem e).takeReply a v p k.deps).fillPlace o id ((x.elem e).portBlock.contains id) k with inq := q } := by
  refine ⟨⟨0, v, s.live ((id :: a.deps).eraseDups)⟩, rfl, rfl, ?_⟩
  unfold State.written
  rw [dest, State.elem_of_inst? hx]
  set take : Elem → Elem := fun el => el.takeReply a v p (s.live ((id :: a.deps).eraseDups))
  have taken : (s.updElem task a.vt e take).inst? task a.vt = some (x.setElem e (take (x.elem e))) := by
    rw [State.inst?_updElem_same, hx, Option.map_some]
  obtain ⟨q, own⟩ := State.elem_emitReply _ task a.vt e o taken id ⟨0, v, s.live ((id :: a.deps).eraseDups)⟩
    ((x.elem e).portBlock.contains id)
  rw [Inst.elem_setElem_same] at own
  exact ⟨q, own⟩

omit hx in
theorem State.meter_written (wt : Fin 16) : ((s.written id a task e v p).inst task wt).meter = (s.inst task wt).meter := by
  have taken := s.meter_updElem task a.vt e (fun el => el.takeReply a v p (s.live ((id :: a.deps).eraseDups))) wt
  unfold State.written
  cases a.dest with
  | out o => exact (State.meter_emitReply _ task a.vt e o _ _ _ wt).trans taken
  | reg n => exact taken
  | none => exact taken

end

section
variable {s : State} {id : Nat} {a : Acc} {task : Nat} {e : Fin 16} {x : Inst} (ht : a.task = some task) (hn : a.node = .elem e)
  (hx : s.inst? task a.vt = some x) (v : Word) (p : Bool)
include ht hn hx

/-- A reply that is not for a channel changes no memory, and its element takes it. -/
theorem State.deliver_beside_out (dest : ∀ o, a.dest ≠ .out o) : (s.deliver id a v p).mem = s.mem
    ∧ (s.deliver id a v p).elem task a.vt e = (x.elem e).takeReply a v p (s.live ((id :: a.deps).eraseDups)) := by
  obtain ⟨mem, taken⟩ := State.elem_written_reg (id := id) (e := e) hx v p dest
  rw [State.deliver_eq ht hn v p (.inr dest), State.mem_noted, State.elem_of_insts (State.insts_noted _ id _ task)]
  exact ⟨mem, taken⟩

/-- A reply for a channel of an element that goes on fills its place there (R168). -/
theorem State.deliver_out {o : Fin 4} (dest : a.dest = .out o) (going : (x.elem e).done = false) :
    ∃ k : Tok, k.val = v ∧ k.side = 0 ∧ ∃ q, (s.deliver id a v p).elem task a.vt e
      = { ((x.elem e).takeReply a v p k.deps).fillPlace o id ((x.elem e).portBlock.contains id) k with inq := q } := by
  rw [State.deliver_eq ht hn v p (.inl (by rw [State.elem_of_inst? hx, going])),
    State.elem_of_insts (State.insts_noted _ id _ task)]
  exact State.elem_written_out hx v p dest

end

/-- A reply takes nothing from a meter. -/
theorem State.meter_deliver {s : State} {id : Nat} {a : Acc} {task : Nat} {e : Fin 16} (ht : a.task = some task)
    (hn : a.node = .elem e) (v : Word) (p : Bool) (wt : Fin 16) :
    ((s.deliver id a v p).inst task wt).meter = (s.inst task wt).meter := by
  by_cases takes : (s.elem task a.vt e).done = false ∨ ∀ o, a.dest ≠ .out o
  · rw [State.deliver_eq ht hn v p takes, State.inst_of_insts (State.insts_noted _ id _ task)]
    exact State.meter_written v p wt
  · obtain ⟨done, out⟩ := not_or.1 takes
    obtain ⟨o, dest⟩ := not_forall_not.1 out
    rw [State.deliver_held ht hn v p (Bool.not_eq_false _ |>.mp done) dest]

/-- The request of an element whose copy is there can be answered. -/
theorem State.pendingAcc_of {s : State} {id : Nat} {a : Acc} {task : Nat} {x : Inst} (flying : s.accs.get? id = some a)
    (ht : a.task = some task) (hx : s.inst? task a.vt = some x) (free : a.held = false) : s.pendingAcc id = some a := by
  simp only [State.pendingAcc, flying, free, ht, Option.bind_some, hx, Option.isNone_some, Bool.or_self, Bool.false_eq_true, if_false]

end Sys2Proof.Machine
end

section
/-! Answers of requests (R166-R168, R175): each event delivers the reply that its request carries. -/

namespace Sys2Proof.Machine

/-- The event of a request delivers the reply that the request carries. -/
theorem exec_replyOf {s : State} {id : Nat} {a : Acc} {mk : Nat → Instr} (pend : s.pendingAcc id = some a) (rule : a.isLook = false)
    (event : Claims.replyOf a.req = some mk) : exec (mk id) s = .next (s.deliverReply id a) := by
  cases req : a.req <;> rw [req] at event
  case rd l f =>
    cases event
    show execLoadReply id s = _
    simp only [execLoadReply, pend, req]
  case atom l op b =>
    cases event
    show execAtomicReply id s = _
    simp only [execAtomicReply, pend, req]
  case fe l op =>
    cases op <;> cases event
    all_goals
      show execLoadReply id s = _
      simp only [execLoadReply, pend, req]
  case sem c m op =>
    cases event
    show execSemwaitAnswer id s = _
    simp only [execSemwaitAnswer, pend, req]
  case bar g op =>
    cases event
    show execBarrierAnswer id s = _
    simp only [execBarrierAnswer, pend, req]
  case dir op =>
    cases event
    show execDirectoryReply id s = _
    simp only [execDirectoryReply, pend, req]
  case fut l op =>
    cases op <;> cases event
    show execFpollReply id s = _
    simp only [execFpollReply, pend, req, rule, Bool.false_eq_true, if_false]
  all_goals cases event

/-- Settles O35: the reply is written, and the request noted as answered. -/
theorem replies : Obligations.Replies := by
  unfold Obligations.Replies
  intro s id task a e x v mk flying ht hn hx free waits reply acquired rule event
  have delivers : s.deliverReply id a = s.deliver id a v (v != 0) := by
    simp only [State.deliverReply, reply, waits, acquired, Bool.not_false, Bool.and_self, if_true]
  have own := State.elem_of_inst? hx e
  refine ⟨s.deliver id a v (v != 0), ?_, fun going b flying => ?_, fun n dest => ?_, fun o dest going => ?_⟩
  · rw [exec_replyOf (State.pendingAcc_of flying ht hx free) rule event, delivers]
  · rw [State.deliver_eq ht hn _ _ (.inl (own ▸ going))] at flying
    rw [State.acc_noted _ id _ task flying]
  · have apart : ∀ o, a.dest ≠ .out o := fun o h => by rw [dest] at h; cases h
    obtain ⟨mem, taken⟩ := State.deliver_beside_out (id := id) ht hn hx v (v != 0) apart
    rw [taken]
    exact ⟨mem, Elem.p_takeReply _ a v _ _, fun link => Elem.takeReply_reg _ a v _ _ dest link,
      fun m off link => Elem.takeReply_link _ a v _ _ dest link⟩
  · obtain ⟨k, val, side, q, taken⟩ := State.deliver_out (id := id) ht hn hx v (v != 0) dest going
    refine ⟨k, val, side, ?_⟩
    rw [taken, ← (Elem.channels_takeReply (x.elem e) a v (v != 0) k.deps).1]
    exact Elem.outq_fillPlace _ o id _ k

end Sys2Proof.Machine
end


section
/-! Completions of pad accesses, fences, FILL and PKRD (R15, R166, R172, R183, R301, R302): what each event makes of its request, and the
statement that they make up. -/

namespace Sys2Proof.Machine

theorem four_le_padWindow (pad : Nat) : 4 ≤ padWindow pad := by
  unfold padWindow
  split
  · decide
  · next large =>
    have bits : 4 ≤ Nat.log2 (pad - 1) := (Nat.le_log2 (by omega)).2 (by omega)
    calc 4 ≤ 2 ^ 4 := by decide
      _ ≤ 2 ^ (Nat.log2 (pad - 1) + 1) := Nat.pow_le_pow_right (by decide) (by omega)

/-- The request once its unit has answered v: it has performed as widely as it will. -/
def Acc.served (a : Acc) (v : Word) : Acc := { a with reply := some v, perf := .span }

/-- A fence that has performed. -/
def Acc.fenceDone (a : Acc) (answered : Bool) : Acc := { a.served 0 with answered := answered }

section
variable {s : State} {id task : Nat} {a : Acc} (pend : s.pendingAcc id = some a) (ht : a.task = some task)
  (waits : a.answered = false)
include pend ht waits

/-- A pad load reads its bytes as its bank is reached (R15, R166). -/
theorem execLoadReply_reads {vt : Fin 16} {off n : Nat} (req : a.req = .padRd vt off n) (reply : a.reply = none)
    (ready : s.accReady a = true) (free : s.heapHeld task vt off n = false) (bank : s.bankHeld a = false) :
    let v := BitVec.ofNat 32 (leNat (s.padRead task (s.group task) vt off n))
    execLoadReply id s = .next ((s.setAcc id (a.served v)).deliver id (a.served v) v (v != 0)) := by
  simp only [execLoadReply, pend, req, ht, waits, reply, ready, free, bank, Option.isNone_none, Bool.not_true, Bool.or_self,
    Bool.and_false, Bool.false_eq_true, if_false, Option.getD_none, Acc.served]

omit waits in
/-- A pad store writes its bytes as its bank is reached (R15, R172). -/
theorem execStoreCompletion_writes {vt : Fin 16} {off n : Nat} {v : Word} (req : a.req = .padWr vt off n v) (perf : a.perf = .none)
    (ready : s.accReady a = true) (free : s.heapHeld task vt off n = false) (unheld : s.padHeld task a.vt a.node = false)
    (bank : s.bankHeld a = false) :
    execStoreCompletion id s = .next
      ((((s.padWrite task vt off (leBytes n v.toNat)).setAcc id (a.served 0)).complete id (a.served 0)).reap id) := by
  have fresh : (Perf.none != Perf.none) = false := rfl
  simp only [execStoreCompletion, pend, req, ht, perf, ready, free, unheld, bank, fresh, Bool.not_true, Bool.or_self,
    Bool.false_eq_true, if_false, Acc.served]

/-- The grant of a FILL raises the meter (R301). -/
theorem execFillGrant_raises {asked : Nat} {v : Word} (req : a.req = .fill asked) (reply : a.reply = some v) :
    let b := { a with tokVal := 0 }
    execFillGrant id s = .next (((s.updInst task a.vt fun x => { x with meter := x.meter + 256 * a.tokVal.toNat }).setAcc id b).deliver
      id b v (v.toNat < asked)) := by
  simp only [execFillGrant, pend, req, ht, reply, waits, Bool.false_eq_true, if_false]

/-- PKRD reads the balance of its context (R302). -/
theorem execPkrdReply_reads (req : a.req = .pkrd) (reply : a.reply = none) :
    let v := BitVec.ofNat 32 (min (s.ctx (s.group task).ctx).acct (2 ^ 32 - 1))
    execPkrdReply id s = .next ((s.setAcc id (a.served v)).deliver id (a.served v) v (v != 0)) := by
  simp only [execPkrdReply, pend, req, ht, waits, reply, Option.getD_none, Bool.false_eq_true, if_false, Acc.served]

omit ht in
/-- A fence that has performed delivers its completion token (R183). -/
theorem execStoreCompletion_fence (req : a.req = .fence) (done : s.unperformed a.deps (Scope.level a.scope) = false)
    (token : a.dest ≠ .none) :
    execStoreCompletion id s = .next ((s.setAcc id (a.fenceDone false)).deliver id (a.fenceDone false) 0 true) := by
  have sends : (a.dest == Dest.none) = false := beq_eq_false_iff_ne.2 token
  simp only [execStoreCompletion, pend, req, waits, done, sends, Bool.or_self, Bool.false_eq_true, if_false, Acc.fenceDone, Acc.served]

/-- A fence without a token ends, as it has performed, what it holds back (R183). -/
theorem execStoreCompletion_fence_silent {e : Fin 16} (req : a.req = .fence) (hn : a.node = .elem e)
    (done : s.unperformed a.deps (Scope.level a.scope) = false) (silent : a.dest = .none) :
    execStoreCompletion id s = .next (((s.setAcc id (a.fenceDone true)).updElem task a.vt e fun el =>
      { el with portBlock := el.portBlock.filter (· != id) }).reap id) := by
  have none : (Dest.none == Dest.none) = true := rfl
  simp only [execStoreCompletion, pend, req, ht, hn, waits, done, silent, none, Bool.or_self, Bool.false_eq_true, if_false,
    if_true, Acc.fenceDone, Acc.served]

end

/-- The place of a request is filled with a token that ends what it holds back. -/
theorem mem_barIds_filled {q : List Owed} {id : Nat} (place : .wait id ∈ q) (k : Tok) : id ∈ barIds (Claims.filled q id true k) := by
  refine List.mem_filterMap.2 ⟨.bar k id, List.mem_map.2 ⟨_, place, ?_⟩, rfl⟩
  simp only [if_true]

/-- What the request held back is held on exactly while its token waits in the channel (R183). -/
theorem Elem.mem_portBlock_fillPlace {el : Elem} {o : Fin 4} {id : Nat} (place : .wait id ∈ vget el.outq o) (closed : id ∈ el.portBlock)
    (k : Tok) : id ∈ (el.fillPlace o id true k).portBlock ↔ id ∈ barIds (vget (el.fillPlace o id true k).outq o) := by
  rw [Elem.outq_fillPlace]
  set q := Claims.filled (vget el.outq o) id true k with hq
  have filled : vget (vset el.outq o q) o = q := Vector.getElem_set_self _
  have mem : id ∈ barIds q := mem_barIds_filled place k
  simp only [Elem.fillPlace, Elem.afterOut, ← hq, filled, List.mem_filter, closed, true_and]
  rw [List.contains_iff_mem.2 mem, Bool.not_true, Bool.false_or, List.contains_iff_mem]

/-- A completion that is not for a channel changes no memory. -/
theorem State.mem_complete {s : State} {id : Nat} {a : Acc} {task : Nat} {e : Fin 16} {x : Inst} (ht : a.task = some task)
    (hn : a.node = .elem e) (hx : s.inst? task a.vt = some x) (dest : ∀ o, a.dest ≠ .out o) : (s.complete id a).mem = s.mem := by
  unfold State.complete
  split
  · exact (State.deliver_beside_out ht hn hx _ _ dest).1
  · rfl

/-- An answer to a register is written there, and no memory changes. -/
theorem State.answer_reg {s : State} {id : Nat} {a : Acc} {task : Nat} {e : Fin 16} {x : Inst} (ht : a.task = some task)
    (hn : a.node = .elem e) (hx : s.inst? task a.vt = some x) {n : Fin 8} (dest : a.dest = .reg n) (link : a.link = none)
    (v : Word) (p : Bool) : ((s.setAcc id a).deliver id a v p).mem = s.mem
      ∧ vget (((s.setAcc id a).deliver id a v p).elem task a.vt e).d n = v := by
  have apart : ∀ o, a.dest ≠ .out o := fun o h => by rw [dest] at h; cases h
  obtain ⟨mem, taken⟩ := State.deliver_beside_out (id := id) ht hn ((s.inst?_setAcc id a task a.vt).trans hx) v p apart
  rw [taken, (Elem.takeReply_reg _ a v p _ dest link).1]
  exact ⟨mem.trans (s.insts_setAcc id a).2, Vector.getElem_set_self _⟩

/-- A finished request leaves the state. -/
theorem State.get?_reap_finished {s : State} {id : Nat} {a : Acc} (there : s.accs.get? id = some a) (finished : a.finished = true) :
    (s.reap id).accs.get? id = none := by
  simp only [State.reap, there, finished, if_true, Assoc.get?_del]

/-- Settles O36, event by event. -/
theorem completions : Obligations.Completions := by
  unfold Obligations.Completions
  intro s id task a e x g flying ht hn hx hg free waits
  have pend := State.pendingAcc_of flying ht hx free
  obtain rfl := State.group_of_group? hg
  refine ⟨fun vt off n q req reply ready heap bank dest link => ?_,
    fun vt off n v req small perf ready heap pad bank => ?_, fun asked v req reply => ?_, fun q req reply dest link => ?_,
    fun req done => ⟨fun silent => ?_, fun o dest going closed place => ?_⟩⟩
  · exact ⟨_, execLoadReply_reads pend ht waits req reply ready heap bank,
      State.answer_reg (a := a.served _) ht hn hx dest link _ _⟩
  · refine ⟨_, execStoreCompletion_writes pend ht req perf ready heap pad bank, fun apart => ?_⟩
    set t := s.padWrite task vt off (leBytes n v.toNat)
    have mem : (((t.setAcc id (a.served 0)).complete id (a.served 0)).reap id).mem = t.mem := by
      rw [(State.insts_reap _ id).2, State.mem_complete (a := a.served 0) ht hn ((State.inst?_setAcc t id _ task a.vt).trans hx)
        apart, (State.insts_setAcc _ id _).2]
    rw [mem]
    exact Memory.read_writesBy_pad s.mem s _ (s.inst task vt) vt off v.toNat (small.trans (four_le_padWindow _)) (by omega)
  · refine ⟨_, execFillGrant_raises pend ht waits req reply, ?_⟩
    rw [State.meter_deliver (a := { a with tokVal := 0 }) ht hn, State.inst_of_insts (State.insts_setAcc _ id _).1,
      State.inst_updInst_same _ hx]
  · exact ⟨_, execPkrdReply_reads pend ht waits req reply, (State.answer_reg (a := a.served _) ht hn hx dest link _ _).2⟩
  · have copy := (s.inst?_setAcc id (a.fenceDone true) task a.vt).trans hx
    refine ⟨_, execStoreCompletion_fence_silent pend ht waits req hn done silent, ?_, ?_⟩
    · refine State.get?_reap_finished (a := a.fenceDone true) ?_ rfl
      exact (congrArg (Assoc.get? · id) (s.accs_setAcc id _)).trans (Assoc.get?_put_same _ _ _)
    · rw [State.elem_of_insts (State.insts_reap _ id).1, State.elem_updElem_same e _ copy]
  · have token : a.dest ≠ .none := by rw [dest]; exact nofun
    have copy := (s.inst?_setAcc id (a.fenceDone false) task a.vt).trans hx
    obtain ⟨k, val, side, q, (taken : State.elem _ task a.vt e = _)⟩ := State.deliver_out (id := id) (a := a.fenceDone false) ht hn
      copy 0 true dest going
    obtain ⟨queue, port⟩ := Elem.channels_takeReply (x.elem e) (a.fenceDone false) 0 true k.deps
    set el := (x.elem e).takeReply (a.fenceDone false) 0 true k.deps
    refine ⟨_, k, execStoreCompletion_fence pend waits req done token, val, side, ?_⟩
    rw [taken, List.contains_iff_mem.2 closed, ← queue]
    exact ⟨el.outq_fillPlace o id true k, Elem.mem_portBlock_fillPlace (queue ▸ place) (port ▸ closed) k⟩

end Sys2Proof.Machine
end

section
/-! The lanes that the lane-wise vector commands, VCMP and VSEL write (R195, R197, R202, R210, R211): the plan of their token step is
the shared lane-wise one, each lane of which is the row's result. -/

namespace Sys2Proof.Machine

/-! ### The lane-wise token step -/

/-- One lane of a lane-wise step: lane i of value x beside lane y of BB. -/
def Vec.lane (v : Vec) (r : VRun) (op : Nat) (c : VCmd) (i x y : Nat) : Nat × Ar :=
  let f := fmtOf c.fmt.val
  match op with
  | 0x40 => (if laneCmp c.rnd.val f x y then unitIn f else 0, {})
  | 0x41 => (if laneZero f x then scalarIn f (vecMode op c) (v.stoch f.bits i) r.cmd.b else y, {})
  | _ => laneOp op f (vecMode op c) (v.stoch f.bits i) r.cmd.b x y

/-- The lanes of BB that a lane-wise step reads. -/
def secondLanes (c : VCmd) (b : Option Wtok) : List Nat := b.elim [] fun t => lanesW (fmtOf c.fmt.val).bits t.val

/-- The token that a lane-wise step writes: the sideband of its BA token (R195) and the lanes one by one. -/
def Vec.laneTok (v : Vec) (r : VRun) (op : Nat) (c : VCmd) (a : Wtok) (b : Option Wtok) : Wtok where
  side := sideOf a.side a.side
  val := packLine (fmtOf c.fmt.val).bits ((lanesW (fmtOf c.fmt.val).bits a.val).zipIdx.map fun p =>
    (v.lane r op c p.2 p.1 ((secondLanes c b).getD p.2 0)).1)
  deps := a.deps ++ (b.map (·.deps)).getD []

/-- The step planned with one token fewer left of the command. -/
def VGo.counted (g : VGo) (r : VRun) : VGo := { g with vec := { g.vec with run := some { r with left := r.left - 1 } } }

theorem outs_vecLanes (v : Vec) (r : VRun) (op : Nat) (c : VCmd) (drops : Nat) (a : Wtok) (b : Option Wtok) :
    ((vecLanes v r op c drops a b).counted r).outs = [(c.bo.val, v.laneTok r op c a b)] := by
  cases b <;> simp only [VGo.counted, vecLanes, mapLanes, List.map_map] <;> rfl

section
variable (s : State) (y : At2) (r : VRun) {c : VCmd} {op : Nat} {a b : Wtok} {la lb : List Wtok}
  (ha : headData (y.x.slotToks .vector c.ba.val) = a :: la)
include ha

theorem State.vecPlan_lanes_two (hb : headData (y.x.slotToks .vector c.bb.val) = b :: lb)
    (hop : op ∈ [0x01, 0x02, 0x03, 0x04, 0x05, 0x06, 0x40, 0x41]) :
    s.vecPlan y r op c = .go ((vecLanes y.x.vec r op c 20 a (some b)).counted r) := by
  simp only [List.mem_cons, List.not_mem_nil, or_false] at hop
  rcases hop with rfl | rfl | rfl | rfl | rfl | rfl | rfl | rfl <;> simp only [State.vecPlan, ha, hb] <;> rfl

theorem State.vecPlan_lanes_one (hop : op ∈ [0x07, 0x08, 0x09, 0x0A]) :
    s.vecPlan y r op c = .go ((vecLanes y.x.vec r op c 20 a none).counted r) := by
  simp only [List.mem_cons, List.not_mem_nil, or_false] at hop
  rcases hop with rfl | rfl | rfl | rfl <;> simp only [State.vecPlan, ha] <;> rfl

end

/-! ### The rows -/

/-- The lane that a row of the lane-wise arithmetic gives: the exact result rounded once into a float format; an INT32 lane wraps, a
narrower integer lane saturates (R197, R202). -/
def Claims.laneResult (o : Nat × Bool × (Bool → Fv → Fv → Fv → Fv) × (Int → Int → Int → Int)) (f : Fmt) (m : Mode) (st : Nat)
    (k : Word) (x y : Nat) : Nat :=
  match f.float? with
  | some g => (g.ofFv m st (o.2.2.1 (m == .rdn) (fv32 k) (g.decode x) (g.decode y))).1
  | none => if f = .int32 then (wrapInt (o.2.2.2 k.toInt (intOf f x) (intOf f y))).1
            else (satInt f (o.2.2.2 k.toInt (intOf f x) (intOf f y))).1

theorem fst_intLane (f : Fmt) (x : Int) : (intLane f x).1 = if f = .int32 then (wrapInt x).1 else (satInt f x).1 := by
  cases f <;> rfl

theorem fst_laneOp {o : Nat × Bool × (Bool → Fv → Fv → Fv → Fv) × (Int → Int → Int → Int)} (ho : o ∈ Claims.laneRows) (f : Fmt)
    (m : Mode) (st : Nat) (k : Word) (x y : Nat) : (laneOp o.1 f m st k x y).1 = Claims.laneResult o f m st k x y := by
  simp only [Claims.laneRows, List.mem_cons, List.not_mem_nil, or_false] at ho
  cases hf : f.float? <;> rcases ho with rfl | rfl | rfl | rfl | rfl | rfl | rfl | rfl | rfl | rfl <;>
    simp only [laneOp, Claims.laneResult, hf, fst_intLane] <;> rfl

/-- A row plans one step of 20 drops, with one token of lanes as `Vec.lane` gives them. -/
theorem State.vecPlan_laneRow {o : Nat × Bool × (Bool → Fv → Fv → Fv → Fv) × (Int → Int → Int → Int)} (ho : o ∈ Claims.laneRows)
    (s : State) (y : At2) (r : VRun) {c : VCmd} {a b : Wtok} {la lb : List Wtok}
    (ha : headData (y.x.slotToks .vector c.ba.val) = a :: la) (hb : headData (y.x.slotToks .vector c.bb.val) = b :: lb) :
    s.vecPlan y r o.1 c = .go ((vecLanes y.x.vec r o.1 c 20 a (if o.2.1 then some b else none)).counted r) := by
  simp only [Claims.laneRows, List.mem_cons, List.not_mem_nil, or_false] at ho
  rcases ho with rfl | rfl | rfl | rfl | rfl | rfl | rfl | rfl | rfl | rfl
  iterate 6 exact s.vecPlan_lanes_two y r ha hb (by decide)
  all_goals exact s.vecPlan_lanes_one y r ha (by decide)

theorem Vec.fst_lane_row {o : Nat × Bool × (Bool → Fv → Fv → Fv → Fv) × (Int → Int → Int → Int)} (ho : o ∈ Claims.laneRows)
    (v : Vec) (r : VRun) (c : VCmd) (i x y : Nat) : (v.lane r o.1 c i x y).1
      = Claims.laneResult o (fmtOf c.fmt.val) (modeOf c.rnd.val) (v.stoch (fmtOf c.fmt.val).bits i) r.cmd.b x y := by
  rw [← fst_laneOp ho]
  simp only [Claims.laneRows, List.mem_cons, List.not_mem_nil, or_false] at ho
  rcases ho with rfl | rfl | rfl | rfl | rfl | rfl | rfl | rfl | rfl | rfl <;> rfl

/-- Settles O27: the plan of each row, then its lanes one by one. -/
theorem vectorLanes : Obligations.VectorLanes := by
  unfold Obligations.VectorLanes
  refine ⟨fun o ho s y r c a la lb b ha hb => ?_, fun s y r c a la lb b ha hb => ⟨?_, ?_⟩⟩
  · refine ⟨_, _, s.vecPlan_laneRow ho y r ha hb, rfl, outs_vecLanes .., rfl, ?_⟩
    refine congrArg (packLine _) (List.map_congr_left fun p _ => ?_)
    rw [Vec.fst_lane_row ho]
    cases o.2.1 <;> rfl
  · exact ⟨_, _, s.vecPlan_lanes_two y r ha hb (by decide), outs_vecLanes .., rfl⟩
  · exact ⟨_, _, s.vecPlan_lanes_two y r ha hb (by decide), outs_vecLanes .., rfl⟩

end Sys2Proof.Machine
end

section
/-! SUPPORT. What a token step of the vector node does once it is paid for (R194): the tokens that leave its buffers, those that follow
in them, the bytes of its tile's own pad, and the end of its command. -/

namespace Sys2Proof.Machine

/-! ### Tokens that leave mapped buffers -/

theorem le_foldl_max (l : List Nat) (a : Nat) : a ≤ l.foldl max a := by
  induction l generalizing a with
  | nil => exact le_rfl
  | cons b r ih => exact (le_max_left a b).trans (ih _)

/-- How many tokens of buffer b a step takes, D being taken already: of a buffer that two slots map, the larger number (log entry 25). -/
def Inst.takenOf (x : Inst) (n : Node) (b D : Nat) (l : List (Nat × Nat)) : Nat :=
  ((l.filter fun k => x.slot n k.1 == some b).map (·.2)).foldl max D

/-- What does not read the buffers stays. -/
theorem Inst.takeAll_keeps {β : Type} (proj : Inst → β) (keeps : ∀ x bufs, proj { x with bufs := bufs } = proj x) (x : Inst) (n : Node)
    (done : Assoc Nat) (l : List (Nat × Nat)) : proj (x.takeAll n done l) = proj x := by
  induction l generalizing x done with
  | nil => rfl
  | cons k r ih =>
    simp only [Inst.takeAll]
    split
    · next b hs =>
      rw [ih, Inst.slotTake, hs]
      exact keeps x _
    · exact ih x done

theorem Assoc.getD_put {α : Type} (m : Assoc α) (k : Nat) (a : α) (j : Nat) (d : α) :
    (Assoc.put m k a).getD j d = if k = j then a else Assoc.getD m j d := by
  simp only [Assoc.getD, Assoc.get?_put]
  split <;> rfl

theorem Inst.buf_slotTake {x : Inst} {n : Node} {k b : Nat} (hs : x.slot n k = some b) (m d : Nat) :
    (x.slotTake n k m).buf d = if b = d then (x.buf d).drop m else x.buf d := by
  simp only [Inst.slotTake, hs, Inst.buf_put]
  split
  · next h => rw [h]
  · rfl

theorem Inst.slot_slotTake (x : Inst) (n : Node) (k m j : Nat) : (x.slotTake n k m).slot n j = x.slot n j := by
  unfold Inst.slotTake
  split <;> rfl

theorem Inst.buf_takeAll (x : Inst) (n : Node) (done : Assoc Nat) (l : List (Nat × Nat)) (b : Nat) :
    (x.takeAll n done l).buf b = (x.buf b).drop (x.takenOf n b (done.getD b 0) l - done.getD b 0) := by
  induction l generalizing x done with
  | nil => simp [Inst.takeAll, Inst.takenOf]
  | cons k r ih =>
    obtain ⟨k, m⟩ := k
    unfold Inst.takeAll
    cases hs : x.slot n k with
    | none =>
      rw [ih]
      simp [Inst.takenOf, hs]
    | some c =>
      have same : ∀ D, (x.slotTake n k (m - done.getD c 0)).takenOf n b D r = x.takenOf n b D r := fun D => by
        simp only [Inst.takenOf, Inst.slot_slotTake]
      simp only [ih, same, Inst.buf_slotTake hs]
      by_cases h : c = b
      · subst h
        have cons : x.takenOf n c (done.getD c 0) ((k, m) :: r) = x.takenOf n c (max m (done.getD c 0)) r := by
          simp [Inst.takenOf, hs, max_comm]
        have grow : max m (done.getD c 0) ≤ x.takenOf n c (max m (done.getD c 0)) r := le_foldl_max _ _
        rw [cons, Assoc.getD_put, if_pos rfl, if_pos rfl, List.drop_drop]
        congr 1
        omega
      · have cons : x.takenOf n b (done.getD b 0) ((k, m) :: r) = x.takenOf n b (done.getD b 0) r := by
          simp [Inst.takenOf, hs, h]
        rw [cons, Assoc.getD_put, if_neg h, if_neg h]

/-! ### Operations beside the requests, the elements and the meter -/

/-- The registers that a step of an engine may write: none. It writes to buffers, as a firing does to a channel. -/
def engineWrites (task : Nat) (vt : Fin 16) : Writes := ⟨task, vt, 0, .o 0, none, none⟩

/-- The requests, the elements, the meter and the mapping of buffers are kept, pads stay in their places, and no byte changes but of
the tile's own pad. -/
structure State.EngineKeeps (task : Nat) (vt : Fin 16) (s t : State) : Prop where
  frame : State.Frame (engineWrites task vt) s t
  elems : (t.inst task vt).elems = (s.inst task vt).elems
  meter : (t.inst task vt).meter = (s.inst task vt).meter
  cfg : (t.inst task vt).cfg = (s.inst task vt).cfg

section
variable {task : Nat} {vt : Fin 16}

theorem State.EngineKeeps.refl (s : State) : State.EngineKeeps task vt s s := ⟨.refl _ s, rfl, rfl, rfl⟩

theorem State.EngineKeeps.trans {s t u : State} (h : State.EngineKeeps task vt s t) (k : State.EngineKeeps task vt t u) :
    State.EngineKeeps task vt s u :=
  ⟨h.frame.trans k.frame, k.elems.trans h.elems, k.meter.trans h.meter, k.cfg.trans h.cfg⟩

theorem State.EngineKeeps.slot {s t : State} (h : State.EngineKeeps task vt s t) (n : Node) (k : Nat) :
    (t.inst task vt).slot n k = (s.inst task vt).slot n k := by
  simp only [Inst.slot, h.cfg]

theorem State.EngineKeeps.of_insts {s t : State} (frame : State.Frame (engineWrites task vt) s t) (insts : t.insts = s.insts) :
    State.EngineKeeps task vt s t := by
  refine ⟨frame, ?_, ?_, ?_⟩ <;> rw [State.inst_of_insts insts]

/-- What a change of a copy keeps of it is kept of the copy. -/
theorem State.inst_updInst_keeps {β : Type} (proj : Inst → β) (s : State) (f : Inst → Inst) (keeps : ∀ x, proj (f x) = proj x) :
    proj ((s.updInst task vt f).inst task vt) = proj (s.inst task vt) := by
  obtain h | h := s.inst_updInst_cases task vt vt f <;> rw [h]
  exact keeps _

theorem State.engineKeeps_updInst (s : State) (f : Inst → Inst)
    (keeps : ∀ x, (f x).host = x.host ∧ (f x).elems = x.elems ∧ (f x).meter = x.meter ∧ (f x).cfg = x.cfg) :
    State.EngineKeeps task vt s (s.updInst task vt f) where
  frame := s.frame_updInst_beside (engineWrites task vt) f (fun x => (keeps x).1) fun x => (keeps x).2.1
  elems := State.inst_updInst_keeps (·.elems) s f fun x => (keeps x).2.1
  meter := State.inst_updInst_keeps (·.meter) s f fun x => (keeps x).2.2.1
  cfg := State.inst_updInst_keeps (·.cfg) s f fun x => (keeps x).2.2.2

theorem State.engineKeeps_countAt (s : State) (src n : Nat) : State.EngineKeeps task vt s (s.countAt task vt src n) :=
  .of_insts (s.frame_countAt _ task vt src n) (s.insts_countAt task vt src n)

theorem State.engineKeeps_padWrite (s : State) (off : Nat) (l : List Byte) :
    State.EngineKeeps task vt s (s.padWrite task vt off l) := by
  refine .of_insts ⟨rfl, rfl, rfl, rfl, rfl, rfl, .refl _ _, fun _ _ => .refl _, fun _ _ _ => rfl, fun _ => rfl,
    fun none => absurd rfl (none 0), fun a ha => ?_⟩ rfl
  exact Memory.read_writesBy_other _ _ _ _ a ha

/-! ### Tokens that an engine writes -/

theorem State.recordBuf_cutOnly (s : State) (g : Group) (n : Node) (b : Nat) (t : Wtok) :
    State.CutOnly task s (s.recordBuf task g vt n b t) := by
  unfold State.recordBuf
  repeat' split
  all_goals constructor

section
variable (s : State) {n : Node} {k b : Nat} (t : Wtok) (hs : (s.inst task vt).slot n k = some b)
include hs

/-- A token written to a mapped buffer is pushed there, the writer noted and the cut's record kept first. -/
theorem State.engPut_of_slot : ∃ u, State.EngineKeeps task vt s u ∧ (u.inst task vt).vec = (s.inst task vt).vec
    ∧ (∀ d, (u.inst task vt).buf d = (s.inst task vt).buf d) ∧ ∃ g : Group,
      (∀ off, u.padAddr g (u.inst task vt) vt off = u.padByte task vt off) ∧ s.engPut task vt n k t = u.pushBuf task g vt b t := by
  set w := s.updInst task vt fun x => { x with bufBy := x.bufBy.put b n } with hw
  have noted : State.EngineKeeps task vt s w := s.engineKeeps_updInst _ fun _ => ⟨rfl, rfl, rfl, rfl⟩
  have cut := w.recordBuf_cutOnly (task := task) (vt := vt) (w.group task) n b t
  set u := w.recordBuf task (w.group task) vt n b t with hu
  have copy : u.inst task vt = w.inst task vt := State.inst_of_insts cut.insts task vt
  refine ⟨u, noted.trans (.of_insts (cut.frame _) cut.insts), ?_, fun d => ?_, w.group task, fun off => ?_, ?_⟩
  · rw [copy]
    exact State.inst_updInst_keeps (·.vec) s _ fun _ => rfl
  · rw [copy]
    exact State.inst_updInst_keeps (·.buf d) s _ fun _ => rfl
  · rw [cut.padAddr, copy]
    exact ((cut.frame (engineWrites task vt)).pad off).symm
  · rw [State.engPut, hs]

end

/-- A token written to a slot follows in the buffer that the slot maps. -/
theorem State.engPut_spec (s : State) (n : Node) (k : Nat) (t : Wtok) :
    State.EngineKeeps task vt s (s.engPut task vt n k t)
      ∧ ((s.engPut task vt n k t).inst task vt).vec = (s.inst task vt).vec
      ∧ ∀ d, ((s.engPut task vt n k t).inst task vt).buf d
        = (s.inst task vt).buf d ++ if (s.inst task vt).slot n k = some d then [t] else [] := by
  cases hs : (s.inst task vt).slot n k with
  | none =>
    have same : s.engPut task vt n k t = s := by rw [State.engPut, hs]
    rw [same]
    exact ⟨.refl s, rfl, fun d => by simp⟩
  | some b =>
    obtain ⟨u, kept, vec, buf, g, place, pushed⟩ := s.engPut_of_slot t hs
    have copy : (u.pushBuf task g vt b t).inst task vt = _ := (u.inst_setInst task vt vt _).trans (if_pos rfl)
    rw [pushed]
    refine ⟨kept.trans ⟨State.frame_pushBuf (w := engineWrites task vt) place ⟨0, rfl⟩ b t, ?_, ?_, ?_⟩, ?_, fun d => ?_⟩
    · rw [copy]
    · rw [copy]
    · rw [copy]
    · rw [copy]
      exact vec
    · rw [State.buf_pushBuf, buf]
      simp

/-- A token that a step writes, with the requests that it still derives from (R437). -/
def State.putOut (task : Nat) (vt : Fin 16) (s : State) (o : Nat × Wtok) : State :=
  s.engPut task vt .vector o.1 { o.2 with deps := s.live o.2.deps.eraseDups }

/-- The sideband and the value of a token. -/
def Wtok.view (t : Wtok) : Side × Line := (t.side, t.val)

/-- The tokens that a step writes follow in their buffers, in their order. -/
theorem State.putOuts_spec (l : List (Nat × Wtok)) (s : State) :
    State.EngineKeeps task vt s (l.foldl (State.putOut task vt) s)
      ∧ ((l.foldl (State.putOut task vt) s).inst task vt).vec = (s.inst task vt).vec
      ∧ ∀ b, (((l.foldl (State.putOut task vt) s).inst task vt).buf b).map Wtok.view = ((s.inst task vt).buf b).map Wtok.view
        ++ (l.filter fun k => (s.inst task vt).slot .vector k.1 == some b).map fun k => k.2.view := by
  induction l generalizing s with
  | nil => exact ⟨.refl s, rfl, fun b => by simp⟩
  | cons o r ih =>
    obtain ⟨kept, vec, buf⟩ := s.engPut_spec (task := task) (vt := vt) .vector o.1 { o.2 with deps := s.live o.2.deps.eraseDups }
    obtain ⟨kepts, vecs, bufs⟩ := ih (s.putOut task vt o)
    refine ⟨kept.trans kepts, vecs.trans vec, fun b => (bufs b).trans ?_⟩
    have slot : ∀ k, ((s.putOut task vt o).inst task vt).slot .vector k = (s.inst task vt).slot .vector k := kept.slot .vector
    simp only [slot]
    rw [State.putOut, buf]
    by_cases h : (s.inst task vt).slot .vector o.1 = some b
    · simp [h, Wtok.view]
    · simp [h]

end

/-! ### The end of a token step -/

/-- Beside what a step of an engine keeps, the tokens of its tile's buffers are the same. -/
structure State.BuffersKept (task : Nat) (vt : Fin 16) (s t : State) : Prop extends State.EngineKeeps task vt s t where
  buf : ∀ b, (t.inst task vt).buf b = (s.inst task vt).buf b

section
variable {task : Nat} {vt : Fin 16}

theorem State.BuffersKept.trans {s t u : State} (h : State.BuffersKept task vt s t) (k : State.BuffersKept task vt t u) :
    State.BuffersKept task vt s u :=
  ⟨h.toEngineKeeps.trans k.toEngineKeeps, fun b => (k.buf b).trans (h.buf b)⟩

theorem State.buffersKept_updInst (s : State) (f : Inst → Inst)
    (keeps : ∀ x, (f x).host = x.host ∧ (f x).elems = x.elems ∧ (f x).meter = x.meter ∧ (f x).cfg = x.cfg)
    (bufs : ∀ x, (f x).bufs = x.bufs) : State.BuffersKept task vt s (s.updInst task vt f) :=
  ⟨s.engineKeeps_updInst f keeps, fun b => State.inst_updInst_keeps (·.buf b) s f fun x => by simp only [Inst.buf, bufs]⟩

theorem State.buffersKept_countAt (s : State) (src n : Nat) : State.BuffersKept task vt s (s.countAt task vt src n) :=
  ⟨s.engineKeeps_countAt src n, fun b => by rw [State.inst_of_insts (s.insts_countAt task vt src n)]⟩

/-- The begin of a command loads accumulators and holds a heap. -/
theorem State.buffersKept_vecBegin (s : State) (c : Cmd) : State.BuffersKept task vt s (s.vecBegin task vt c) :=
  s.buffersKept_updInst _ (fun _ => ⟨rfl, rfl, rfl, rfl⟩) fun _ => rfl

theorem State.buffersKept_vecEnd (s : State) : State.BuffersKept task vt s (s.vecEnd task vt) := by
  have clear : ∀ (s : State) (g : Vec → Vec),
      State.BuffersKept task vt s (s.updInst task vt fun x => { x with vec := g x.vec }) := fun s g =>
    s.buffersKept_updInst _ (fun _ => ⟨rfl, rfl, rfl, rfl⟩) fun _ => rfl
  unfold State.vecEnd
  dsimp only
  split
  · exact clear s ({ · with run := none })
  · exact ((clear s ({ · with run := none })).trans (clear _ ({ · with wait := none }))).trans (State.buffersKept_vecBegin _ _)

/-- What follows the tokens of a step: it is counted, and a command of which nothing is left ends. -/
def State.vecClose (s : State) (y : At2) (r : VRun) (run : Option VRun) : State :=
  let s := s.countAt y.task y.vt 0x11 1
  let s := if r.paid then s.countAt y.task y.vt 0x12 1 else s
  match run with
  | some r => if r.left = 0 then s.vecEnd y.task y.vt else s
  | none => s

theorem State.vecClose_spec (s : State) (y : At2) (r : VRun) (run : Option VRun) :
    State.BuffersKept y.task y.vt s (s.vecClose y r run)
      ∧ ∀ k, run = some k → k.left ≠ 0 → ((s.vecClose y r run).inst y.task y.vt).vec = (s.inst y.task y.vt).vec := by
  set t := (if r.paid then (s.countAt y.task y.vt 0x11 1).countAt y.task y.vt 0x12 1 else s.countAt y.task y.vt 0x11 1) with ht
  have counted : State.BuffersKept y.task y.vt s t ∧ t.insts = s.insts := by
    have one := s.buffersKept_countAt (task := y.task) (vt := y.vt) 0x11 1
    have kept := s.insts_countAt y.task y.vt 0x11 1
    rw [ht]
    split
    · exact ⟨one.trans (State.buffersKept_countAt _ _ _), (State.insts_countAt _ _ _ _ _).trans kept⟩
    · exact ⟨one, kept⟩
  obtain ⟨kept, insts⟩ := counted
  have closed : s.vecClose y r run = run.elim t fun k => if k.left = 0 then t.vecEnd y.task y.vt else t := by
    cases run <;> rfl
  rw [closed]
  cases run with
  | none => exact ⟨kept, fun k h => by cases h⟩
  | some k =>
    refine ⟨?_, fun j h left => ?_⟩
    · rw [Option.elim_some]
      split
      · exact kept.trans (State.buffersKept_vecEnd t)
      · exact kept
    · obtain rfl := Option.some.inj h
      rw [Option.elim_some, if_neg left, State.inst_of_insts insts]

/-- The copy once a step has taken its tokens, advanced its node, and counted tokens to a bank. -/
def Inst.vecStep (go : VGo) (x : Inst) : Inst :=
  let x := x.takeAll .vector [] go.takes
  let x := { x with vec := { go.vec with run := go.vec.run.map VRun.unpaid } }
  let x := match go.readers with
    | some (b, n) =>
      let i : Fin 8 := ⟨b % 8, Nat.mod_lt _ (by decide)⟩
      { x with mat := { x.mat with banks := vset x.mat.banks i { vget x.mat.banks i with readers := (vget x.mat.banks i).readers + n } } }
    | none => x
  x.setAr go.ar

theorem Inst.vecStep_eq (go : VGo) (x : Inst) : ∃ mat ar, x.vecStep go =
    { x.takeAll .vector [] go.takes with
      vec := { go.vec with run := go.vec.run.map VRun.unpaid }, mat := mat, arstat := ar } := by
  unfold Inst.vecStep
  dsimp only
  split
  · exact ⟨_, _, rfl⟩
  · exact ⟨_, _, rfl⟩

/-- What reads neither the buffers, the vector node, the banks nor ARSTAT is kept. -/
theorem Inst.vecStep_keeps {β : Type} (proj : Inst → β)
    (keeps : ∀ x bufs vec mat ar, proj { x with bufs := bufs, vec := vec, mat := mat, arstat := ar } = proj x) (go : VGo) (x : Inst) :
    proj (x.vecStep go) = proj x := by
  obtain ⟨mat, ar, e⟩ := x.vecStep_eq go
  rw [e]
  refine Eq.trans ?_ (Inst.takeAll_keeps proj (fun x bufs => keeps x bufs x.vec x.mat x.arstat) x .vector [] go.takes)
  exact keeps (x.takeAll .vector [] go.takes) _ _ mat ar

theorem Inst.vecStep_spec (go : VGo) (x : Inst) : (x.vecStep go).vec = { go.vec with run := go.vec.run.map VRun.unpaid }
    ∧ ∀ b, (x.vecStep go).buf b = (x.buf b).drop (x.takenOf .vector b 0 go.takes) := by
  obtain ⟨mat, ar, e⟩ := x.vecStep_eq go
  rw [e]
  exact ⟨rfl, x.buf_takeAll .vector [] go.takes⟩

/-- The state with the tokens and the bytes that a step writes. -/
def State.vecOut (s : State) (y : At2) (go : VGo) : State :=
  let s := s.updInst y.task y.vt (Inst.vecStep go)
  let s := match go.pad with
    | some (off, bs) => s.padWrite y.task y.vt off bs
    | none => s
  go.outs.foldl (State.putOut y.task y.vt) s

theorem State.vecDone_eq (s : State) (y : At2) (r : VRun) (go : VGo) :
    s.vecDone y r go = (s.vecOut y go).vecClose y r go.vec.run := by
  unfold State.vecDone State.vecOut State.vecClose Inst.vecStep State.putOut
  rfl

/-- A step that is paid for takes its tokens, writes its tokens behind those that its buffers keep, and leaves its node as planned. -/
theorem State.vecDone_spec {s : State} {y : At2} {x : Inst} (hx : s.inst? y.task y.vt = some x) (r : VRun) (go : VGo) :
    State.EngineKeeps y.task y.vt s (s.vecDone y r go)
      ∧ (∀ b, (((s.vecDone y r go).inst y.task y.vt).buf b).map Wtok.view
        = ((x.buf b).drop (x.takenOf .vector b 0 go.takes)).map Wtok.view
          ++ (go.outs.filter fun k => x.slot .vector k.1 == some b).map fun k => k.2.view)
      ∧ ∀ k, go.vec.run = some k → k.left ≠ 0 →
        ((s.vecDone y r go).inst y.task y.vt).vec = { go.vec with run := some k.unpaid } := by
  set t := s.updInst y.task y.vt (Inst.vecStep go) with ht
  have copy : t.inst y.task y.vt = x.vecStep go := State.inst_updInst_same _ hx
  have stepped : State.EngineKeeps y.task y.vt s t := s.engineKeeps_updInst _ fun x =>
    ⟨x.vecStep_keeps (·.host) (fun _ _ _ _ _ => rfl) go, x.vecStep_keeps (·.elems) (fun _ _ _ _ _ => rfl) go,
      x.vecStep_keeps (·.meter) (fun _ _ _ _ _ => rfl) go, x.vecStep_keeps (·.cfg) (fun _ _ _ _ _ => rfl) go⟩
  obtain ⟨u, mirrored, insts, out⟩ : ∃ u, State.EngineKeeps y.task y.vt t u ∧ u.insts = t.insts
      ∧ s.vecOut y go = go.outs.foldl (State.putOut y.task y.vt) u := by
    unfold State.vecOut
    dsimp only
    split
    · exact ⟨_, t.engineKeeps_padWrite _ _, rfl, rfl⟩
    · exact ⟨t, .refl t, rfl, rfl⟩
  have same : u.inst y.task y.vt = x.vecStep go := (State.inst_of_insts insts _ _).trans copy
  have slot : ∀ k, (x.vecStep go).slot .vector k = x.slot .vector k := fun k =>
    x.vecStep_keeps (·.slot .vector k) (fun _ _ _ _ _ => rfl) go
  obtain ⟨vec, buf⟩ := x.vecStep_spec go
  obtain ⟨put, putVec, putBuf⟩ := State.putOuts_spec (task := y.task) (vt := y.vt) go.outs u
  obtain ⟨close, closeVec⟩ := (s.vecOut y go).vecClose_spec y r go.vec.run
  rw [out] at close closeVec
  rw [State.vecDone_eq, out]
  refine ⟨((stepped.trans mirrored).trans put).trans close.toEngineKeeps, fun b => ?_, fun k hk left => ?_⟩
  · simp only [close.buf, putBuf, same, slot, buf]
  · rw [closeVec k hk left, putVec, same, vec, hk]
    rfl

end

end Sys2Proof.Machine
end

section
/-! The token step of a vector command at full and at half width (R194, R198, R498), the event of the node (R194), and the maps of copies
in which the event and the turn of the command part. -/

namespace Sys2Proof.Machine

/-! ### A step taken -/

/-- What the engine at the locus holds. -/
theorem State.engine_spec {s : State} {n : Node} {y : At2} (h : s.engine n = some y) :
    s.cur.node = n ∧ s.cur.task = y.task ∧ s.cur.vt = y.vt ∧ s.group? y.task = some y.g ∧ s.inst? y.task y.vt = some y.x := by
  unfold State.engine at h
  split at h
  · next g x hg hx =>
    split at h
    · next on =>
      cases h
      simp only [Bool.and_eq_true, beq_iff_eq] at on
      obtain ⟨⟨⟨⟨node, -⟩, -⟩, -⟩, -⟩ := on
      exact ⟨node, rfl, rfl, hg, hx⟩
    · cases h
  · cases h

/-- A command whose node is at the locus with its tokens, room, pad and drops there (R194). -/
structure State.VecReady (s : State) (y : At2) (r : VRun) (op : BitVec 8) (c : VCmd) (go : VGo) : Prop where
  engine : s.engine .vector = some y
  run : y.x.vec.run = some r
  word : r.cmd.word = encV op c
  left : r.left ≠ 0
  headA : Claims.dataHead y.x c.ba.val
  headB : Claims.dataHead y.x c.bb.val
  plan : s.vecPlan y r op.toNat c = .go go
  roomO : outsTo go.outs c.bo.val = 0 ∨ y.x.slotRoom .vector c.bo.val (outsTo go.outs c.bo.val) = true
  roomB : outsTo go.outs c.bb.val = 0 ∨ y.x.slotRoom .vector c.bb.val (outsTo go.outs c.bb.val) = true
  pad : go.pad = none ∨ s.padHeld y.task y.vt .vector = false
  covered : r.paid = true ∨ Safety.Covered y.x go.drops

section
variable {s : State} {y : At2} {r : VRun} {op : BitVec 8} {c : VCmd} {go : VGo}

/-- Data tokens at its heads let the command try a token step. -/
theorem State.vecRun_of_data (n : Nat) (left : r.left ≠ 0) (headA : Claims.dataHead y.x c.ba.val)
    (headB : Claims.dataHead y.x c.bb.val) : s.vecRun y r n c = s.vecTry y r n c := by
  have data : ∀ {k : Nat} {p : Prop} [Decidable p] {t : Wtok}, Claims.dataHead y.x k →
      (if p then (y.x.slotToks .vector k).head? else none) = some t → Side.ctl t.side = false := fun h e =>
    h _ (Option.ite_none_right_eq_some.1 e).2
  unfold State.vecRun
  simp only [if_neg left]
  split
  · next a ha =>
    rw [data headA ha, if_neg Bool.false_ne_true]
    split
    · next b hb => rw [data headB hb, if_neg Bool.false_ne_true]
    · rfl
  · next b _ hb => rw [data headB hb, if_neg Bool.false_ne_true]
  · rfl

variable (h : s.VecReady y r op c go)
include h

theorem State.VecReady.vecTurn : s.vecTurn op c = s.vecGo y r go := by
  have room : ([c.bo.val, c.bb.val].all fun k => outsTo go.outs k = 0 || y.x.slotRoom .vector k (outsTo go.outs k)) = true := by
    simpa using ⟨h.roomO, h.roomB⟩
  have pad : (go.pad.isSome && s.padHeld y.task y.vt .vector) = false := by
    obtain none | free := h.pad
    · rw [none]; rfl
    · rw [free, Bool.and_false]
  simp only [State.vecTurn, h.engine, h.run, if_pos h.word, State.vecRun_of_data _ h.left h.headA h.headB, State.vecTry, h.plan,
    room, pad, Bool.not_false, Bool.and_self, if_true]

end

/-- The state once a copy x has taken a debit of d drops for an engine. -/
def State.afterDebit (s : State) (task : Nat) (vt : Fin 16) (x : Inst) (d : Nat) : State :=
  ((s.setInst task vt (x.debit d)).progress task).countAt task vt 0x04 d

/-- Counting an event narrows no tile. -/
theorem State.halfWidth_countAt (s : State) (task : Nat) (vt : Fin 16) (src n : Nat) (g : Group) (c : Cmd) :
    (s.countAt task vt src n).halfWidth g c = s.halfWidth g c := by
  have kept : ∀ r ctx q, ((s.count r ctx (some task) src n).region q).half = (s.region q).half := fun r ctx q => by
    simp only [State.count, State.region, State.updRegion, Vector.getElem_set]
    split
    · next e => simp only [e]
    · rfl
  unfold State.countAt
  split
  · exact congrArg _ (kept _ _ _)
  · rfl

theorem State.halfWidth_afterDebit (s : State) (task : Nat) (vt : Fin 16) (x : Inst) (d : Nat) (g : Group) (c : Cmd) :
    (s.afterDebit task vt x d).halfWidth g c = s.halfWidth g c :=
  State.halfWidth_countAt _ task vt _ _ g c

section
variable {s : State} {task : Nat} {vt : Fin 16} {x : Inst} (hx : s.inst? task vt = some x)
include hx

theorem State.engDebit_of_covered {d : Nat} (cov : Safety.Covered x d) (n : Node) (c : Cmd) (k : State → State) :
    s.engDebit task vt n c d k = k (s.afterDebit task vt x d) := by
  unfold State.engDebit State.debit
  rw [State.inst_of_inst? hx]
  rcases Inst.pay_cases x d with ⟨_, a⟩ | ⟨_, _, b⟩ | ⟨e, _⟩
  · exact absurd a (by have := cov.1; omega)
  · exact absurd b (by have := cov.2; omega)
  · rw [e]; rfl

theorem State.frame_afterDebit (d : Nat) : State.Frame (engineWrites task vt) s (s.afterDebit task vt x d) := by
  have copy := State.inst_of_inst? hx
  have taken := s.frame_setInst (engineWrites task vt) (x.debit d) (congrArg Inst.host copy).symm (congrArg Inst.elems copy).symm
  have progress := (s.setInst task vt (x.debit d)).frame_updGroup (engineWrites task vt) task
    (fun g => { g with wd := 0, episode := none }) fun _ _ _ _ => rfl
  exact (taken.trans progress).trans (State.frame_countAt _ _ task vt _ _)

omit hx in
theorem State.inst?_afterDebit (d : Nat) : (s.afterDebit task vt x d).inst? task vt = some (x.debit d) := by
  rw [State.inst?, State.afterDebit, State.insts_countAt]
  exact Assoc.get?_put_same _ _ _

omit hx in
theorem State.mem_afterDebit (d : Nat) : (s.afterDebit task vt x d).mem = s.mem :=
  (State.mem_accs_countAt _ task vt _ _).1

end

/-! ### What the two kinds of step leave -/

/-- What a token step that completes leaves, r being the run that it found (R194): its tokens are taken and written, its debit is
taken unless a step before has taken it, and no byte of memory changes but of the tile's own pad. -/
structure State.VecStepped (s t : State) (y : At2) (r : VRun) (go : VGo) : Prop where
  meter : (t.inst y.task y.vt).meter + (if r.paid then 0 else go.drops) = y.x.meter
  elems : (t.inst y.task y.vt).elems = y.x.elems
  accs : t.accs = s.accs
  buf : ∀ b, ((t.inst y.task y.vt).buf b).map Wtok.view = ((y.x.buf b).drop (y.x.takenOf .vector b 0 go.takes)).map Wtok.view
    ++ (go.outs.filter fun k => y.x.slot .vector k.1 == some b).map fun k => k.2.view
  vec : ∀ k, go.vec.run = some k → k.left ≠ 0 → (t.inst y.task y.vt).vec = { go.vec with run := some k.unpaid }
  mem : ∀ a, (∀ off, a ≠ s.padAddr y.g y.x y.vt off) → t.mem.read a = s.mem.read a

/-- What the first step at half width leaves (R198): its debit is taken, and its run notes that. -/
structure State.VecPaid (s t : State) (y : At2) (r : VRun) (go : VGo) : Prop where
  meter : (t.inst y.task y.vt).meter + go.drops = y.x.meter
  elems : (t.inst y.task y.vt).elems = y.x.elems
  accs : t.accs = s.accs
  bufs : (t.inst y.task y.vt).bufs = y.x.bufs
  vec : (t.inst y.task y.vt).vec = { y.x.vec with run := some { r with paid := true } }
  mem : t.mem = s.mem

section
variable {s : State} {y : At2} {r : VRun} {op : BitVec 8} {c : VCmd} {go : VGo} (h : s.VecReady y r op c go)
include h

theorem State.VecReady.stepped (full : r.paid = true ∨ s.halfWidth y.g r.cmd = false) :
    s.VecStepped (s.vecTurn op c) y r go := by
  obtain ⟨-, -, -, hg, hx⟩ := State.engine_spec h.engine
  have pad : ∀ off, s.padByte y.task y.vt off = s.padAddr y.g y.x y.vt off := fun off => by
    rw [State.padByte, State.group_of_group? hg, State.inst_of_inst? hx]
  rw [h.vecTurn, State.vecGo]
  cases paid : r.paid with
  | true =>
    obtain ⟨kept, buf, vec⟩ := State.vecDone_spec hx r go
    have copy := State.inst_of_inst? hx
    refine ⟨?_, kept.elems.trans (congrArg _ copy), kept.frame.accs, buf, vec, fun a ha => ?_⟩
    · rw [if_pos paid]
      exact kept.meter.trans (congrArg _ copy)
    · exact kept.frame.bytes a fun off => (pad off).symm ▸ ha off
  | false =>
    have wide : s.halfWidth y.g r.cmd = false := full.resolve_left (by rw [paid]; exact Bool.false_ne_true)
    have cov : Safety.Covered y.x go.drops := h.covered.resolve_left (by rw [paid]; exact Bool.false_ne_true)
    have debited := State.frame_afterDebit hx go.drops
    have hx' := State.inst?_afterDebit (s := s) (task := y.task) (vt := y.vt) (x := y.x) go.drops
    have copy := State.inst_of_inst? hx'
    obtain ⟨kept, buf, vec⟩ := State.vecDone_spec hx' r go
    have bytes := (debited.trans kept.frame).bytes
    simp only [Bool.false_eq_true, if_false, State.engDebit_of_covered hx cov, State.halfWidth_afterDebit, wide]
    refine ⟨?_, ?_, (debited.trans kept.frame).accs, buf, vec, fun a ha => ?_⟩
    · rw [paid, kept.meter, copy]
      exact Inst.meter_debit cov
    · rw [kept.elems, copy]
      rfl
    · exact bytes a fun off => (pad off).symm ▸ ha off

theorem State.VecReady.halfPaid (unpaid : r.paid = false) (half : s.halfWidth y.g r.cmd = true) :
    s.VecPaid (s.vecTurn op c) y r go := by
  obtain ⟨-, -, -, -, hx⟩ := State.engine_spec h.engine
  have cov : Safety.Covered y.x go.drops := h.covered.resolve_left (by rw [unpaid]; exact Bool.false_ne_true)
  have noted : s.vecTurn op c = (s.afterDebit y.task y.vt y.x go.drops).updInst y.task y.vt fun x =>
      { x with vec := { x.vec with run := some { r with paid := true } } } := by
    simp only [h.vecTurn, State.vecGo, unpaid, Bool.false_eq_true, if_false, State.engDebit_of_covered hx cov,
      State.halfWidth_afterDebit, half, if_true]
  have copy : (s.vecTurn op c).inst y.task y.vt =
      { y.x.debit go.drops with vec := { y.x.vec with run := some { r with paid := true } } } := by
    rw [noted]
    exact State.inst_updInst_same _ (State.inst?_afterDebit _)
  refine ⟨?_, ?_, ?_, ?_, ?_, ?_⟩
  · rw [copy]
    exact Inst.meter_debit cov
  · rw [copy]
    rfl
  · rw [noted]
    exact (State.frame_afterDebit hx go.drops).accs
  · rw [copy]
    rfl
  · rw [copy]
  · rw [noted]
    exact State.mem_afterDebit go.drops

end

/-! ### The event of the node -/

theorem cmdOp_encV (op : BitVec 8) (x : VCmd) : cmdOp (encV op x) = op.toNat := by
  have field : (encV op x).extractLsb' 24 8 = op := by
    apply BitVec.eq_of_getLsbD_eq
    intro i hi
    simp only [encV, BitVec.getLsbD_extractLsb', BitVec.getLsbD_append]
    interval_cases i <;> simp
  exact congrArg BitVec.toNat field

/-- The fields of a V-word do not depend on its opcode. -/
theorem extract_encV (op : BitVec 8) (x : VCmd) {k l : Nat} (below : k + l ≤ 24) :
    (encV op x).extractLsb' k l = (encV 0 x).extractLsb' k l := by
  apply BitVec.eq_of_getLsbD_eq
  intro i hi
  have low : k + i < 24 := by omega
  simp only [BitVec.getLsbD_extractLsb', hi, decide_true, Bool.true_and]
  generalize k + i = j at low
  simp only [encV, BitVec.getLsbD_append]
  interval_cases j <;> simp

theorem vcmdOf_encV (op : BitVec 8) (x : VCmd) : vcmdOf (encV op x) = x := by
  have same : vcmdOf (encV op x) = vcmdOf (encV 0 x) := by
    simp only [vcmdOf, decV, extract_encV op x (k := 9) (l := 1) (by decide), extract_encV op x (k := 12) (l := 3) (by decide),
      extract_encV op x (k := 21) (l := 3) (by decide), extract_encV op x (k := 18) (l := 3) (by decide),
      extract_encV op x (k := 15) (l := 3) (by decide), extract_encV op x (k := 10) (l := 2) (by decide),
      extract_encV op x (k := 8) (l := 1) (by decide), extract_encV op x (k := 0) (l := 8) (by decide)]
  have zero : decV 0 (encV 0 x) .vadd = .ok (.vadd x) := (decV_enc 0 x .vadd rfl).2
  rw [same, vcmdOf, zero]

/-- A change in place that no value at its key feels changes nothing. -/
theorem Assoc.modify_of_fixed {α : Type} {m : Assoc α} {k : Nat} {f : α → α} (fixed : ∀ a, (k, a) ∈ m → f a = a) :
    Assoc.modify m k f = m := by
  have step : ∀ x ∈ m, (if x.1 = k then (x.1, f x.2) else x) = x := fun x hx => by
    split
    · next e => rw [fixed x.2 (e ▸ hx)]
    · rfl
  exact (List.map_congr_left step).trans (List.map_id' m)

/-- Where the key of its copy stands once, the event of the node is the turn of the command that runs. -/
theorem State.VecReady.tokenStep {s : State} {y : At2} {r : VRun} {op : BitVec 8} {c : VCmd} {go : VGo} (h : s.VecReady y r op c go)
    (recs : y.x.recs = y.x.mat.banks) (once : ∀ x, (ikey y.task y.vt, x) ∈ s.insts → x = y.x) (slot : s.cur.slot = 0) :
    exec (.vectorTokenStep ⟨y.task, y.vt⟩) s = .next (s.vecTurn op c) := by
  obtain ⟨node, task, vt, -, -⟩ := State.engine_spec h.engine
  have noted : s.updInst y.task y.vt (fun x => { x with recs := x.mat.banks }) = s := by
    rw [State.updInst, Assoc.modify_of_fixed]
    intro x hx
    rw [once x hx, ← recs]
  have here : { s with cur := { task := y.task, vt := y.vt, node := .vector, slot := 0 } } = s := by
    rw [← node, ← task, ← vt, ← slot]
  show execVectorTokenStep ⟨y.task, y.vt⟩ s = _
  simp only [execVectorTokenStep, noted, here, h.engine, h.run, State.vecTurn, h.word, if_true, cmdOp_encV, vcmdOf_encV]

/-- A row of the table runs the turn of its command. -/
theorem exec_vecRow {o : (VCmd → Instr) × BitVec 8} (ho : o ∈ Claims.vecRows) (c : VCmd) (s : State) :
    exec (o.1 c) s = .next (s.vecTurn o.2 c) := by
  simp only [Claims.vecRows, List.cons_append, List.nil_append, List.mem_cons, List.not_mem_nil, or_false] at ho
  rcases ho with rfl | rfl | rfl | rfl | rfl | rfl | rfl | rfl | rfl | rfl | rfl | rfl | rfl | rfl | rfl | rfl | rfl | rfl | rfl | rfl |
    rfl | rfl | rfl | rfl | rfl | rfl | rfl | rfl | rfl | rfl | rfl | rfl | rfl | rfl | rfl | rfl <;> rfl

/-! ### The statement, and the map of copies in which it fails -/

/-- What `Obligations.VectorStep` says, where the key of the copy stands once in the map of copies, as it does in rising order of key. -/
theorem vectorStep_of_once {o : (VCmd → Instr) × BitVec 8} (ho : o ∈ Claims.vecRows) {c : VCmd} {s : State} {y : At2} {r : VRun} {go : VGo}
    (h : s.VecReady y r o.2 c go) (recs : y.x.recs = y.x.mat.banks) (once : ∀ x, (ikey y.task y.vt, x) ∈ s.insts → x = y.x) :
    (r.paid = true ∨ s.halfWidth y.g r.cmd = false →
      ∃ t, exec (o.1 c) s = .next t ∧ (s.cur.slot = 0 → exec (.vectorTokenStep ⟨y.task, y.vt⟩) s = .next t) ∧ s.VecStepped t y r go)
    ∧ (r.paid = false → s.halfWidth y.g r.cmd = true →
      ∃ t, exec (o.1 c) s = .next t ∧ (s.cur.slot = 0 → exec (.vectorTokenStep ⟨y.task, y.vt⟩) s = .next t) ∧ s.VecPaid t y r go) :=
  ⟨fun full => ⟨_, exec_vecRow ho c s, h.tokenStep recs once, h.stepped full⟩,
    fun unpaid half => ⟨_, exec_vecRow ho c s, h.tokenStep recs once, h.halfPaid unpaid half⟩⟩

/-- VRDRN of accumulator 0 at half width (WID 01). -/
def drainHalf : VCmd := ⟨0, 0, 0, 0, 0, true, 0⟩

/-- The run of that command, its one token not yet written. -/
def drainRun : VRun := { cmd := { word := encV 0x33 drainHalf }, left := 1 }

/-- A copy that runs the command, with room in the buffer of its slots. -/
def drainCopy : Inst :=
  { cfg := { bufs := [some { tokens := 4 }], ports := List.replicate 40 (some 0) }
    vec := { run := some drainRun }, meter := 4096, stores := [⟨16, false⟩], armed := true, started := [.vector] }

/-- That copy and its group, as its node finds them. -/
def drainAt : At2 := ⟨0, 0, { state := .running }, drainCopy⟩

/-- A copy whose bank records differ from its banks. -/
def staleCopy : Inst := { recs := Vector.replicate 8 { km1 := 1 } }

/-- The locus at the node of the copy, whose key stands in the map of copies once or twice: a read finds the first entry, a change in
place changes both. -/
def drainState (twice : Bool) : State :=
  { State.reset with
    cur := ⟨0, 0, .vector, 0⟩, groups := [(0, drainAt.g)]
    insts := (0, drainCopy) :: if twice then [(0, staleCopy)] else [] }

theorem vecReady_drain (twice : Bool) :
    (drainState twice).VecReady drainAt drainRun 0x33 drainHalf (vecDrain drainCopy.vec drainRun drainHalf .fp32) where
  engine := by revert twice; decide +kernel
  run := rfl
  word := rfl
  left := by decide
  headA _ h := by cases h
  headB _ h := by cases h
  plan := by revert twice; decide +kernel
  roomO := .inr (by decide +kernel)
  roomB := .inr (by decide +kernel)
  pad := .inl rfl
  covered := .inr (by decide +kernel)

theorem halfWidth_drain (twice : Bool) : (drainState twice).halfWidth drainAt.g drainRun.cmd = true := by
  revert twice
  decide +kernel

/-- With its key once, the drain pays in its first step and changes nothing else. -/
theorem drain_pays : ∃ t, exec (.vrdrn drainHalf) (drainState false) = .next t
    ∧ (drainState false).VecPaid t drainAt drainRun (vecDrain drainCopy.vec drainRun drainHalf .fp32) := by
  have once : ∀ x, (ikey drainAt.task drainAt.vt, x) ∈ (drainState false).insts → x = drainAt.x := fun x hx =>
    (Prod.mk.inj (List.mem_singleton.1 hx)).2
  obtain ⟨t, turn, -, paid⟩ := (vectorStep_of_once (o := (.vrdrn, 0x33)) (by simp [Claims.vecRows]) (vecReady_drain false) rfl once).2
    rfl (halfWidth_drain false)
  exact ⟨t, turn, paid⟩

/-- K - 1 of bank record 0 in every entry of the map of copies after an outcome. -/
def recordRows : Out → List Nat
  | .next t => t.insts.map fun k => (vget k.2.recs 0).km1
  | _ => []

/-- Refutes O26: where the map of copies lists the key of a copy twice, VECTOR_TOKEN_STEP also writes the bank records of the second
entry, which the turn of the command leaves. Where the key stands once, all that O26 says holds (`vectorStep_of_once`). -/
theorem not_vectorStep : ¬ Obligations.VectorStep := by
  unfold Obligations.VectorStep
  intro holds
  have h := vecReady_drain true
  obtain ⟨-, half⟩ := holds (.vrdrn, 0x33) (by simp [Claims.vecRows]) drainHalf _ drainAt drainRun _ h.engine h.run h.word h.left rfl
    h.headA h.headB h.plan h.roomO h.roomB h.pad h.covered
  obtain ⟨t, turn, event, -⟩ := half rfl (halfWidth_drain true)
  have same : exec (.vrdrn drainHalf) (drainState true) = exec (.vectorTokenStep ⟨0, 0⟩) (drainState true) := turn.trans (event rfl).symm
  have differ : recordRows (exec (.vrdrn drainHalf) (drainState true)) ≠
      recordRows (exec (.vectorTokenStep ⟨0, 0⟩) (drainState true)) := by
    decide +kernel
  exact differ (congrArg recordRows same)

end Sys2Proof.Machine
end

section
/-! SUPPORT. What the shared operations of the matrix node leave of a copy (R228-R232, R238, R251): tokens written and taken, banks
settled, and the end of a row and of a command. -/

namespace Sys2Proof.Machine

/-! ### Banks -/

@[simp] theorem Mat.bank_setBank (m : Mat) (b : Fin 8) (k : Bank) (d : Fin 8) :
    (m.setBank b k).bank d = if b = d then k else m.bank d := by
  simp [Mat.bank, Mat.setBank, Vector.getElem_set, Fin.ext_iff]

/-- Two records of a bank hold the same weights, masks, scales and gradients in the same shape: they differ at most in what R228 and R232
keep of its use. -/
def Bank.SameContents (k l : Bank) : Prop :=
  ∃ st hold readers owed, l = { k with st := st, hold := hold, readers := readers, owedEvict := owed }

theorem Bank.SameContents.refl (k : Bank) : k.SameContents k := ⟨_, _, _, _, rfl⟩

theorem Bank.SameContents.trans {k l m : Bank} (h : k.SameContents l) (g : l.SameContents m) : k.SameContents m := by
  obtain ⟨_, _, _, _, rfl⟩ := h
  obtain ⟨st, hold, readers, owed, rfl⟩ := g
  exact ⟨st, hold, readers, owed, rfl⟩

theorem Bank.SameContents.grad {k l : Bank} (h : k.SameContents l) : l.grad = k.grad := by
  obtain ⟨_, _, _, _, rfl⟩ := h
  rfl

theorem Bank.SameContents.weights {k l : Bank} (h : k.SameContents l) : l.w = k.w := by
  obtain ⟨_, _, _, _, rfl⟩ := h
  rfl

theorem Bank.SameContents.kl {k l : Bank} (h : k.SameContents l) : l.kl = k.kl := by
  obtain ⟨_, _, _, _, rfl⟩ := h
  rfl

theorem Bank.SameContents.n {k l : Bank} (h : k.SameContents l) : l.n = k.n := by
  obtain ⟨_, _, _, _, rfl⟩ := h
  rfl

theorem Bank.SameContents.accumulate {k l : Bank} (h : k.SameContents l) : accumulate l = accumulate k := by
  obtain ⟨_, _, _, _, rfl⟩ := h
  rfl

theorem Bank.SameContents.gradRow {k l : Bank} (h : k.SameContents l) (x dy : List Nat) :
    (gradRow l x dy).1.grad = (gradRow k x dy).1.grad := by
  obtain ⟨_, _, _, _, rfl⟩ := h
  rfl

/-! ### Copies after an operation of the node -/

/-- The meter, the mapping of buffers, the accumulators and what the banks hold are kept. -/
structure Inst.RowKept (x z : Inst) : Prop where
  meter : z.meter = x.meter
  cfg : z.cfg = x.cfg
  acc : z.mat.acc = x.mat.acc
  bank : ∀ b, (x.mat.bank b).SameContents (z.mat.bank b)

/-- Beside these, the tokens of the buffers and the compute lane are kept. -/
structure Inst.Settled (x z : Inst) : Prop extends Inst.RowKept x z where
  bufs : z.bufs = x.bufs
  comp : z.mat.comp = x.mat.comp

theorem Inst.RowKept.refl (x : Inst) : x.RowKept x := ⟨rfl, rfl, rfl, fun _ => .refl _⟩

theorem Inst.RowKept.trans {x y z : Inst} (h : x.RowKept y) (k : y.RowKept z) : x.RowKept z :=
  ⟨k.meter.trans h.meter, k.cfg.trans h.cfg, k.acc.trans h.acc, fun b => (h.bank b).trans (k.bank b)⟩

theorem Inst.RowKept.of_mat {x z : Inst} (mat : z.mat = x.mat) (meter : z.meter = x.meter) (cfg : z.cfg = x.cfg) : x.RowKept z :=
  ⟨meter, cfg, congrArg Mat.acc mat, fun _ => mat ▸ .refl _⟩

theorem Inst.Settled.refl (x : Inst) : x.Settled x := ⟨.refl x, rfl, rfl⟩

theorem Inst.Settled.trans {x y z : Inst} (h : x.Settled y) (k : y.Settled z) : x.Settled z :=
  ⟨h.toRowKept.trans k.toRowKept, k.bufs.trans h.bufs, k.comp.trans h.comp⟩

/-- The map of slots is part of the configuration. -/
theorem Inst.slot_of_cfg {x z : Inst} (h : z.cfg = x.cfg) (n : Node) (k : Nat) : z.slot n k = x.slot n k := by
  simp only [Inst.slot, h]

theorem Inst.buf_of_bufs {x z : Inst} (h : z.bufs = x.bufs) (d : Nat) : z.buf d = x.buf d := by
  simp only [Inst.buf, h]

/-- The tokens of a mapped buffer follow the map and the buffers. -/
theorem Inst.slotToks_congr {x z : Inst} (cfg : z.cfg = x.cfg) (buf : ∀ b, z.buf b = x.buf b) (n : Node) (k : Nat) :
    z.slotToks n k = x.slotToks n k := by
  unfold Inst.slotToks
  rw [Inst.slot_of_cfg cfg]
  split
  · exact buf _
  · rfl

/-- Room in a mapped buffer follows the map and the tokens of that buffer. -/
theorem Inst.slotRoom_congr {x z : Inst} (cfg : z.cfg = x.cfg) {n : Node} {k : Nat}
    (buf : ∀ b, x.slot n k = some b → z.buf b = x.buf b) (m : Nat) : z.slotRoom n k m = x.slotRoom n k m := by
  unfold Inst.slotRoom
  rw [Inst.slot_of_cfg cfg]
  cases h : x.slot n k with
  | none => rfl
  | some b =>
    have desc : z.desc b = x.desc b := by simp only [Inst.desc, cfg]
    dsimp only
    rw [buf b h, desc]

/-- Taking tokens changes the buffers alone. -/
theorem Inst.slotTake_eq (x : Inst) (n : Node) (k m : Nat) : ∃ bufs, x.slotTake n k m = { x with bufs := bufs } := by
  unfold Inst.slotTake
  split
  · exact ⟨_, rfl⟩
  · exact ⟨x.bufs, rfl⟩

theorem Inst.rowKept_slotTake (x : Inst) (n : Node) (k m : Nat) : x.RowKept (x.slotTake n k m) := by
  obtain ⟨bufs, e⟩ := x.slotTake_eq n k m
  rw [e]
  exact ⟨rfl, rfl, rfl, fun _ => .refl _⟩

@[simp] theorem Inst.mat_slotTake (x : Inst) (n : Node) (k m : Nat) : (x.slotTake n k m).mat = x.mat := by
  obtain ⟨bufs, e⟩ := x.slotTake_eq n k m
  rw [e]

@[simp] theorem Inst.meter_slotTake (x : Inst) (n : Node) (k m : Nat) : (x.slotTake n k m).meter = x.meter :=
  (x.rowKept_slotTake n k m).meter

@[simp] theorem Inst.cfg_slotTake (x : Inst) (n : Node) (k m : Nat) : (x.slotTake n k m).cfg = x.cfg :=
  (x.rowKept_slotTake n k m).cfg

/-- A buffer that the slot does not map keeps its tokens. -/
theorem Inst.buf_slotTake_other {x : Inst} {n : Node} {k d : Nat} (h : x.slot n k ≠ some d) (m : Nat) :
    (x.slotTake n k m).buf d = x.buf d := by
  cases hs : x.slot n k with
  | none => simp only [Inst.slotTake, hs]
  | some b =>
    rw [Inst.buf_slotTake hs, if_neg]
    exact fun e => h (hs.trans (congrArg some e))

theorem Inst.slotToks_slotTake (x : Inst) (n : Node) (k m : Nat) : (x.slotTake n k m).slotToks n k = (x.slotToks n k).drop m := by
  unfold Inst.slotToks
  rw [Inst.slot_slotTake]
  cases hs : x.slot n k with
  | none => exact List.drop_nil.symm
  | some b => simp only [Inst.buf_slotTake hs, if_true]

/-- The copy with the matrix node set. -/
def Inst.withMat (x : Inst) (m : Mat) : Inst := { x with mat := m }

/-- The copy with the compute lane set. -/
def Inst.withComp (x : Inst) (c : Option MComp) : Inst := x.withMat { x.mat with comp := c }

theorem Inst.rowKept_withComp (x : Inst) (c : Option MComp) : x.RowKept (x.withComp c) := ⟨rfl, rfl, rfl, fun _ => .refl _⟩

/-- The copy with one bank set. -/
def Inst.withBank (x : Inst) (b : Fin 8) (k : Bank) : Inst := x.withMat (x.mat.setBank b k)

@[simp] theorem Inst.bank_withBank (x : Inst) (b : Fin 8) (k : Bank) (d : Fin 8) :
    (x.withBank b k).mat.bank d = if b = d then k else x.mat.bank d :=
  Mat.bank_setBank x.mat b k d

theorem Inst.settled_withBank (x : Inst) {b : Fin 8} {k : Bank} (same : (x.mat.bank b).SameContents k) : x.Settled (x.withBank b k) := by
  refine ⟨⟨rfl, rfl, rfl, fun d => ?_⟩, rfl, rfl⟩
  rw [Inst.bank_withBank]
  split
  · next e => exact e ▸ same
  · exact .refl _

/-! ### Operations of the node that leave the lanes -/

section
variable {s : State} {task : Nat} {vt : Fin 16} {x : Inst} (hx : s.inst? task vt = some x)
include hx

theorem State.inst?_updInst (f : Inst → Inst) : (s.updInst task vt f).inst? task vt = some (f x) := by simp [hx]

theorem State.inst?_updMat (f : Mat → Mat) : (s.updMat task vt f).inst? task vt = some (x.withMat (f x.mat)) :=
  State.inst?_updInst hx _

theorem State.inst?_setComp (c : Option MComp) :
    (s.updMat task vt fun m => { m with comp := c }).inst? task vt = some (x.withComp c) := State.inst?_updMat hx _

theorem State.inst?_countAt (src n : Nat) : (s.countAt task vt src n).inst? task vt = some x := by
  rw [State.inst?, State.insts_countAt]
  exact hx

theorem State.inst?_updBank (b : Fin 8) (f : Bank → Bank) :
    (s.updBank task vt b f).inst? task vt = some (x.withBank b (f (x.mat.bank b))) := State.inst?_updMat hx _

theorem State.updBank_settled (b : Fin 8) (f : Bank → Bank) (same : ∀ k : Bank, k.SameContents (f k)) :
    ∃ z, (s.updBank task vt b f).inst? task vt = some z ∧ x.Settled z :=
  ⟨_, State.inst?_updBank hx b f, x.settled_withBank (same _)⟩

theorem State.tell_settled (who : Teller) (l : List Tok) :
    ∃ z, (s.tell task vt who l).inst? task vt = some z ∧ x.Settled z :=
  ⟨_, State.inst?_updInst hx _, ⟨rfl, rfl, rfl, fun _ => .refl _⟩, rfl, rfl⟩

theorem State.settleBank_settled (b : Fin 8) : ∃ z, (s.settleBank task vt b).inst? task vt = some z ∧ x.Settled z := by
  unfold State.settleBank
  dsimp only
  split
  · obtain ⟨z, hz, settled⟩ := State.updBank_settled hx b (fun k => { k with st := .empty, owedEvict := false })
      fun k => ⟨_, _, _, _, rfl⟩
    split
    · obtain ⟨w, hw, told⟩ := State.tell_settled hz .late [⟨0, statusWord 0x03 b.val 0 0, []⟩]
      exact ⟨w, hw, settled.trans told⟩
    · exact ⟨z, hz, settled⟩
  · exact ⟨x, hx, .refl x⟩

omit hx in
theorem State.settleBanks_fold (l : List (Fin 8)) : ∀ {s : State} {x : Inst}, s.inst? task vt = some x →
    ∃ z, (l.foldl (fun s b => s.settleBank task vt b) s).inst? task vt = some z ∧ x.Settled z := by
  induction l with
  | nil => exact fun hx => ⟨_, hx, .refl _⟩
  | cons b r ih =>
    intro s x hx
    obtain ⟨y, hy, settled⟩ := State.settleBank_settled hx b
    obtain ⟨z, hz, rest⟩ := ih hy
    exact ⟨z, hz, settled.trans rest⟩

theorem State.settleBanks_settled : ∃ z, (s.settleBanks task vt).inst? task vt = some z ∧ x.Settled z :=
  State.settleBanks_fold _ hx

theorem State.dropHold_settled (c : Cmd) : ∃ z, (s.dropHold task vt c).inst? task vt = some z ∧ x.Settled z := by
  unfold State.dropHold
  split
  · exact State.updBank_settled hx (mBank c) (fun k => { k with hold := false }) fun k => ⟨_, _, _, _, rfl⟩
  · exact ⟨x, hx, .refl x⟩

theorem State.lowerReaders_settled (y : Side) (n : Nat) :
    ∃ z, (s.lowerReaders task vt y n).inst? task vt = some z ∧ x.Settled z := by
  unfold State.lowerReaders
  split
  · next b _ => exact State.updBank_settled hx b (fun k => { k with readers := k.readers - n }) fun k => ⟨_, _, _, _, rfl⟩
  · exact ⟨x, hx, .refl x⟩

/-! ### A token written -/

/-- A token written to a slot follows in the buffer that the slot maps, and the node is as it was. -/
theorem State.engPut_inst (n : Node) (k : Nat) (t : Wtok) : ∃ z, (s.engPut task vt n k t).inst? task vt = some z
    ∧ z.mat = x.mat ∧ z.meter = x.meter ∧ z.cfg = x.cfg
    ∧ ∀ d, z.buf d = x.buf d ++ if x.slot n k = some d then [t] else [] := by
  have copy := State.inst_of_inst? hx
  unfold State.engPut
  rw [copy]
  cases hs : x.slot n k with
  | none => exact ⟨x, hx, rfl, rfl, rfl, fun _ => by simp⟩
  | some b =>
    dsimp only
    set w := s.updInst task vt fun x => { x with bufBy := x.bufBy.put b n }
    have noted : w.inst task vt = { x with bufBy := x.bufBy.put b n } := State.inst_updInst_same _ hx
    have cut := w.recordBuf_cutOnly (task := task) (vt := vt) (w.group task) n b t
    have recorded := (State.inst_of_insts cut.insts task vt).trans noted
    have pushed : ((w.recordBuf task (w.group task) vt n b t).pushBuf task (w.group task) vt b t).inst? task vt = _ :=
      Assoc.get?_put_same _ _ _
    rw [recorded] at pushed
    refine ⟨_, pushed, rfl, rfl, rfl, fun d => ?_⟩
    refine (Inst.buf_put _ b d _).trans ?_
    by_cases e : b = d
    · subst e
      simp [Inst.buf]
    · simp [e, Inst.buf]

end

/-! ### The end of a row and of a command -/

/-- What a command that ends writes to buffer d: the token that it kept back, where there is room for it, with the end of all dimensions
(R249). -/
def Inst.lastOut (x : Inst) (kept : Option (Nat × Wtok)) (d : Nat) : List Wtok :=
  match kept with
  | some (k, t) => if x.slotRoom .matrix k 1 = true ∧ x.slot .matrix k = some d then [{ t with side := t.side ||| 0x2000 }] else []
  | none => []

section
variable {s : State} {task : Nat} {vt : Fin 16} {x : Inst} (hx : s.inst? task vt = some x)
include hx

/-- With nothing kept back, the end of a command tells at most. -/
theorem State.compEnd_of_kept_none {p : MComp} (comp : x.mat.comp = some p) (kept : p.kept = none) :
    ∃ z q, (s.compEnd task vt).inst? task vt = some z ∧ x.RowKept z ∧ z.bufs = x.bufs ∧ z.mat.comp = some q ∧ q.kept = none := by
  simp only [State.compEnd, State.inst_of_inst? hx, comp]
  split
  · exact ⟨x, p, hx, .refl x, rfl, comp, kept⟩
  · rw [kept]
    dsimp only
    split
    · exact ⟨x, p, hx, .refl x, rfl, comp, kept⟩
    · obtain ⟨z, hz, told⟩ := State.tell_settled
        (State.inst?_updMat hx fun m => { m with comp := some { p with kept := none, told := true } }) .comp
        (⟨0, statusWord (mOp p.cmd) (if usesHold p.cmd then (mBank p.cmd).val else 0) p.skip p.row, []⟩ :: p.endTok.toList)
      exact ⟨z, _, kept ▸ hz, (x.rowKept_withComp _).trans told.toRowKept, told.bufs, told.comp, rfl⟩

/-- What a command kept back goes out where there is room for it. -/
theorem State.compEnd_of_room {p : MComp} {k : Nat} {t : Wtok} (comp : x.mat.comp = some p) (finished : p.finished = true)
    (kept : p.kept = some (k, t)) (room : x.slotRoom .matrix k 1 = true) :
    ∃ z, (s.compEnd task vt).inst? task vt = some z ∧ x.RowKept z ∧ z.mat.comp = some { p with kept := none, finished := true }
      ∧ ∀ d, z.buf d = x.buf d ++ if x.slot .matrix k = some d then [{ t with side := t.side ||| 0x2000 }] else [] := by
  obtain ⟨z, hz, mat, meter, cfg, buf⟩ := State.engPut_inst
    (State.inst?_setComp hx (some { p with kept := none, finished := true })) .matrix k { t with side := t.side ||| 0x2000 }
  simp only [State.compEnd, State.inst_of_inst? hx, comp, finished, kept, room, Bool.not_true, Bool.false_eq_true, if_false, if_true]
  exact ⟨z, hz, (x.rowKept_withComp _).trans (.of_mat mat meter cfg), congrArg Mat.comp mat, buf⟩

/-- The two ends of a command that is done write what it kept back, then tell. -/
theorem State.compEnds_spec {p : MComp} (comp : x.mat.comp = some p) (finished : p.finished = true) :
    ∃ z, ((s.compEnd task vt).compEnd task vt).inst? task vt = some z ∧ x.RowKept z
      ∧ ∀ d, z.buf d = x.buf d ++ x.lastOut p.kept d := by
  cases kept : p.kept with
  | none =>
    obtain ⟨y, q, hy, first, same, comp', kept'⟩ := State.compEnd_of_kept_none hx comp kept
    obtain ⟨z, -, hz, second, same', -⟩ := State.compEnd_of_kept_none hy comp' kept'
    exact ⟨z, hz, first.trans second, fun d => by simp [Inst.buf_of_bufs (same'.trans same), Inst.lastOut]⟩
  | some o =>
    obtain ⟨k, t⟩ := o
    by_cases room : x.slotRoom .matrix k 1 = true
    · obtain ⟨y, hy, first, comp', buf⟩ := State.compEnd_of_room hx comp finished kept room
      obtain ⟨z, -, hz, second, same, -⟩ := State.compEnd_of_kept_none hy comp' rfl
      exact ⟨z, hz, first.trans second, fun d => by simp [Inst.buf_of_bufs same, buf, Inst.lastOut, room]⟩
    · have full : s.compEnd task vt = s := by
        simp [State.compEnd, State.inst_of_inst? hx, comp, finished, kept, room]
      rw [full, full]
      exact ⟨x, hx, .refl x, fun d => by simp [Inst.lastOut, room]⟩

/-- The end of a command keeps the accumulators and what the banks hold, and writes what was kept back. -/
theorem State.compFinish_spec (p : MComp) : ∃ z, (s.compFinish task vt p).inst? task vt = some z ∧ x.RowKept z
    ∧ ∀ d, z.buf d = x.buf d ++ x.lastOut p.kept d := by
  obtain ⟨y, hy, freed⟩ := State.dropHold_settled hx p.cmd
  obtain ⟨w, hw, settled⟩ := State.settleBanks_settled (State.inst?_setComp hy (some { p with finished := true }))
  obtain ⟨z, hz, ended, buf⟩ := State.compEnds_spec hw settled.comp rfl
  have kept : x.RowKept w := (freed.toRowKept.trans (y.rowKept_withComp _)).trans settled.toRowKept
  have bufs : ∀ d, w.buf d = x.buf d := Inst.buf_of_bufs (settled.bufs.trans freed.bufs)
  have last : ∀ d, w.lastOut p.kept d = x.lastOut p.kept d := fun d => by
    unfold Inst.lastOut
    split
    · rw [Inst.slotRoom_congr kept.cfg (fun b _ => bufs b), Inst.slot_of_cfg kept.cfg]
    · rfl
  refine ⟨z, hz, kept.trans ended, fun d => ?_⟩
  rw [buf, bufs]
  exact congrArg _ (last d)

/-- A row that ends is counted: the command ends with its last one, and goes on with the next after another. -/
theorem State.rowDone_spec (p : MComp) : ∃ z, (s.rowDone task vt p false).inst? task vt = some z ∧ x.RowKept z
    ∧ (p.row + 1 < mRows p.cmd → z.bufs = x.bufs ∧ z.mat.comp = some { p with row := p.row + 1, tok := 0, steer := none })
    ∧ (mRows p.cmd ≤ p.row + 1 → ∀ d, z.buf d = x.buf d ++ x.lastOut p.kept d) := by
  unfold State.rowDone
  dsimp only
  split
  · next last =>
    obtain ⟨z, hz, kept, buf⟩ := State.compFinish_spec hx { p with row := p.row + 1, tok := 0, steer := none }
    exact ⟨z, hz, kept, fun more => absurd last (by omega), fun _ => buf⟩
  · next more =>
    obtain ⟨z, hz, settled⟩ :=
      State.settleBanks_settled (State.inst?_setComp hx (some { p with row := p.row + 1, tok := 0, steer := none }))
    exact ⟨z, hz, (x.rowKept_withComp _).trans settled.toRowKept, fun _ => ⟨settled.bufs, settled.comp⟩, fun last => absurd last more⟩

end

end Sys2Proof.Machine
end

section
/-! The rows of MXMUL, MXMULT and MXMULS that hit a bank (R231, R236, R237, R243, R244). -/

namespace Sys2Proof.Machine

/-! ### The turn of the compute lane -/

/-- A command of the compute lane that has begun and is not done, its node at the locus (R235, R236). -/
structure State.LaneRuns (s : State) (y : At2) (p : MComp) : Prop where
  engine : s.engine .matrix = some y
  slot : s.cur.slot = 0
  comp : y.x.mat.comp = some p
  finished : p.finished = false
  begun : p.begun = true

/-- The event of an engine at the locus finds the locus as it is. -/
theorem State.cur_of_engine {s : State} {n : Node} {y : At2} (engine : s.engine n = some y) (slot : s.cur.slot = 0) :
    { s with cur := { task := y.task, vt := y.vt, node := n, slot := 0 } } = s := by
  obtain ⟨node, task, vt, -, -⟩ := State.engine_spec engine
  rw [← node, ← task, ← vt, ← slot]

section
variable {s : State} {y : At2} {p : MComp} (h : s.LaneRuns y p)
include h

theorem State.LaneRuns.inst? : s.inst? y.task y.vt = some y.x := (State.engine_spec h.engine).2.2.2.2

/-- The turn of the command that the compute lane holds is the lane's advance. -/
theorem State.LaneRuns.matTurn {w : Word} (word : p.cmd.word = w) : s.matTurn w = s.matComp y.task y.vt p := by
  have place : ¬ s.cur.slot = 3 := by rw [h.slot]; decide
  simp only [State.matTurn, h.engine, if_neg place, h.comp, if_pos word]

/-- The row step of the event is the lane's advance where no status token waits. -/
theorem State.LaneRuns.matrixRowStep (status : y.x.mat.status = []) :
    exec (.matrixRowStep ⟨y.task, y.vt⟩) s = .next (s.matComp y.task y.vt p) := by
  have copy := State.inst_of_inst? h.inst?
  have idle : s.matIdle y.task y.vt = s := by
    simp only [State.matIdle, copy, status, State.drainStatus, State.idleScales, h.comp, Option.isSome_some, if_true]
  show execMatrixRowStep ⟨y.task, y.vt⟩ s = _
  simp only [execMatrixRowStep, State.cur_of_engine h.engine h.slot, h.engine, idle, copy, h.comp]

theorem State.LaneRuns.matComp_mul (op : mOp p.cmd ∈ [0x10, 0x11, 0x12]) : s.matComp y.task y.vt p = s.mulRow y.task y.vt p := by
  simp only [List.mem_cons, List.not_mem_nil, or_false] at op
  unfold State.matComp
  rw [h.finished, h.begun]
  rcases op with e | e | e <;> rw [e] <;> rfl

end

/-! ### A row multiplied -/

/-- A run of keys set in rising order reads as set; every other key reads as before. -/
theorem Assoc.get?_putRange {α : Type} (m : Assoc α) (f : Nat → α) (a n i : Nat) :
    Assoc.get? ((List.range n).foldl (fun r j => Assoc.put r (a + j) (f j)) m) i =
      if a ≤ i ∧ i < a + n then some (f (i - a)) else Assoc.get? m i := by
  induction n with
  | zero => simp
  | succ n ih =>
    rw [List.range_succ, List.foldl_append, List.foldl_cons, List.foldl_nil, Assoc.get?_put, ih]
    by_cases e : a + n = i
    · subst e
      simp
    · have same : (a ≤ i ∧ i < a + (n + 1)) ↔ (a ≤ i ∧ i < a + n) := by omega
      simp only [e, same, if_false]

/-- The accumulators after row m of a bank with the given activations (R243). -/
def Mat.AccRow (m z : Mat) (k : Bank) (c : Cmd) (row : Nat) (acts : List Nat) : Prop :=
  ∀ i, z.acc.get? i = if row * 64 ≤ i ∧ i < row * 64 + k.n then
    some (accumulate k (mF c).af.toNat ((mF c).acc = 1) acts (m.acc.getD i 0) (i - row * 64)).1 else m.acc.get? i

theorem Mat.AccRow.cell {m z : Mat} {k : Bank} {c : Cmd} {row : Nat} {acts : List Nat} (h : m.AccRow z k c row acts) {j : Nat}
    (hj : j < k.n) : z.acc.getD (row * 64 + j) 0 =
      (accumulate k (mF c).af.toNat ((mF c).acc = 1) acts (m.acc.getD (row * 64 + j) 0) j).1 := by
  rw [Assoc.getD, h, if_pos ⟨Nat.le_add_right _ _, Nat.add_lt_add_left hj _⟩, Nat.add_sub_cancel_left]
  rfl

theorem Mat.AccRow.outside {m z : Mat} {k : Bank} {c : Cmd} {row : Nat} {acts : List Nat} (h : m.AccRow z k c row acts) {i : Nat}
    (hi : i < row * 64 ∨ row * 64 + k.n ≤ i) : z.acc.get? i = m.acc.get? i := by
  rw [h, if_neg]
  omega

/-- The activations of a row for a bank (R226). -/
def Cmd.acts (c : Cmd) (k : Bank) (bytes : List Byte) : List Nat := activations (mxAf (mF c).af.toNat) k.kl bytes

section
variable {s : State} {task : Nat} {vt : Fin 16} {x : Inst} (hx : s.inst? task vt = some x)
include hx

theorem State.multiply_spec (c : Cmd) (b : Fin 8) (row : Nat) (bytes : List Byte) :
    ∃ z, (s.multiply task vt c b row bytes).inst? task vt = some z ∧ z.meter = x.meter
      ∧ x.mat.AccRow z.mat (x.mat.bank b) c row (c.acts (x.mat.bank b) bytes) := by
  refine ⟨_, State.inst?_updInst hx _, rfl, fun i => ?_⟩
  show Assoc.get? (List.foldl _ x.mat.acc (List.map _ (List.range (x.mat.bank b).n))) i = _
  rw [List.foldl_map]
  refine (Assoc.get?_putRange x.mat.acc _ (row * 64) (x.mat.bank b).n i).trans ?_
  split
  · next inRow => rw [Nat.add_sub_cancel' inRow.1]; rfl
  · rfl

/-- A row that is paid for, its operand taken: it is multiplied, counted and done. -/
def State.mulHit (s : State) (task : Nat) (vt : Fin 16) (p : MComp) (b : Fin 8) (bytes : List Byte) : State :=
  ((s.multiply task vt p.cmd b p.row bytes).countAt task vt 0x0E 1).rowDone task vt p false

theorem State.mulHit_spec (p : MComp) (b : Fin 8) (bytes : List Byte) :
    ∃ z, (s.mulHit task vt p b bytes).inst? task vt = some z ∧ z.meter = x.meter
      ∧ x.mat.AccRow z.mat (x.mat.bank b) p.cmd p.row (p.cmd.acts (x.mat.bank b) bytes) := by
  obtain ⟨y, hy, meter, row⟩ := State.multiply_spec hx p.cmd b p.row bytes
  obtain ⟨z, hz, kept, -⟩ := State.rowDone_spec (State.inst?_countAt hy 0x0E 1) p
  exact ⟨z, hz, kept.meter.trans meter, fun i => kept.acc ▸ row i⟩

/-- The operand of a row of n tokens leaves its buffer, and the bank that counts them has as many fewer. -/
def State.takeRow (s : State) (task : Nat) (vt : Fin 16) (slot n : Nat) (side : Side) : State :=
  State.lowerReaders (s.updInst task vt fun x => x.slotTake .matrix slot n) task vt side n

theorem State.takeRow_kept (slot n : Nat) (side : Side) :
    ∃ z, (s.takeRow task vt slot n side).inst? task vt = some z ∧ x.RowKept z := by
  obtain ⟨z, hz, lowered⟩ := State.lowerReaders_settled (State.inst?_updInst hx fun x => x.slotTake .matrix slot n) side n
  exact ⟨z, hz, (x.rowKept_slotTake _ _ _).trans lowered.toRowKept⟩

variable {p : MComp}

/-- A row whose operand stands in a buffer hits the bank that the command names, or that the row's tag names (R231). -/
theorem State.mulRow_of_buffer {b : Fin 8} {t0 : Wtok} {r l : List Wtok} (src : mSrc p.cmd ≠ 6)
    (toks : x.slotToks .matrix (mSrc p.cmd) = t0 :: r) (data : Side.ctl t0.side = false)
    (row : rowOf (x.mat.pieces p.cmd) (t0 :: r) = .row l)
    (hit : (mF p.cmd).tag = 0 ∧ b = mBank p.cmd ∨ (mF p.cmd).tag ≠ 0 ∧ x.mat.fate ((mF p.cmd).msk = 1) t0.side = .hit b)
    (ok : hitFault p.cmd (x.mat.bank b) (x.mat.pieces p.cmd) = none) (cov : Safety.Covered x (x.mat.bank b).rowDrops) :
    s.mulRow task vt p = State.mulHit ((s.afterDebit task vt x (x.mat.bank b).rowDrops).takeRow task vt (mSrc p.cmd)
      (x.mat.pieces p.cmd) t0.side) task vt p b (l.flatMap fun w => lineBytes w.val) := by
  unfold State.mulRow
  simp only [State.inst_of_inst? hx, if_neg src, toks, data, Bool.false_eq_true, if_false, row]
  rcases hit with ⟨tag, rfl⟩ | ⟨tag, fate⟩
  · simp only [if_pos tag, ok, State.engDebit_of_covered hx cov]
    rfl
  · simp only [if_neg tag, fate, ok, State.engDebit_of_covered hx cov]
    rfl

/-- A row whose operand stands in the pad hits the bank that the command names (R237). -/
theorem State.mulRow_of_pad (src : mSrc p.cmd = 6) (ok : hitFault p.cmd (x.mat.bank (mBank p.cmd)) (x.mat.pieces p.cmd) = none)
    (cov : Safety.Covered x (x.mat.bank (mBank p.cmd)).rowDrops) :
    s.mulRow task vt p = State.mulHit (s.afterDebit task vt x (x.mat.bank (mBank p.cmd)).rowDrops) task vt p (mBank p.cmd)
      ((List.range (x.mat.pieces p.cmd)).flatMap fun j => s.padPiece task vt p.cmd p.row j) := by
  unfold State.mulRow
  simp only [State.inst_of_inst? hx, if_pos src, ok, State.engDebit_of_covered hx cov]
  rfl

omit hx in
/-- What a row taken from a buffer multiplies, the readers lowered, is what it found. -/
theorem Inst.RowKept.accRow {x z w : Inst} (h : x.RowKept z) {b : Fin 8} {c : Cmd} {row : Nat} {bytes : List Byte}
    (k : z.mat.AccRow w.mat (z.mat.bank b) c row (c.acts (z.mat.bank b) bytes)) :
    x.mat.AccRow w.mat (x.mat.bank b) c row (c.acts (x.mat.bank b) bytes) := by
  have same := h.bank b
  unfold Mat.AccRow Cmd.acts at k ⊢
  rw [same.kl, same.n, same.accumulate, h.acc] at k
  exact k

end

/-! ### The statement -/

/-- Settles O28: the turn of the command and the event are the lane's advance, which takes the operand and its debit and multiplies. -/
theorem matrixMultiply : Obligations.MatrixMultiply := by
  unfold Obligations.MatrixMultiply
  refine ⟨?buffer, ?pad⟩
  case buffer =>
    intro s y p b t0 r l engine slot status comp finished begun op
    dsimp only
    intro src toks data row hit ok cov
    have h : s.LaneRuns y p := ⟨engine, slot, comp, finished, begun⟩
    have advance := (h.matComp_mul op).trans (State.mulRow_of_buffer h.inst? src toks data row hit ok cov)
    obtain ⟨w, hw, taken⟩ := State.takeRow_kept (State.inst?_afterDebit (s := s) (task := y.task) (vt := y.vt) (x := y.x) _)
      (mSrc p.cmd) (y.x.mat.pieces p.cmd) t0.side
    obtain ⟨z, hz, meter, acc⟩ := State.mulHit_spec hw p b (l.flatMap fun w => lineBytes w.val)
    have rowOk := taken.accRow acc
    rw [← advance] at hz
    refine ⟨_, fun x hx => congrArg _ (h.matTurn hx), fun x hx => congrArg _ (h.matTurn hx), fun x hx => congrArg _ (h.matTurn hx),
      h.matrixRowStep status, ?_⟩
    rw [State.inst_of_inst? hz]
    refine ⟨?_, fun j hj => rowOk.cell hj, fun i hi => rowOk.outside hi⟩
    rw [meter, taken.meter]
    exact (Inst.meter_debit cov).le
  case pad =>
    intro s y p engine slot status comp finished begun op src
    dsimp only
    intro ok cov
    have h : s.LaneRuns y p := ⟨engine, slot, comp, finished, begun⟩
    have mul : mOp p.cmd ∈ [0x10, 0x11, 0x12] := by
      simp only [List.mem_cons, List.not_mem_nil, or_false] at op ⊢
      omega
    have advance := (h.matComp_mul mul).trans (State.mulRow_of_pad h.inst? src ok cov)
    obtain ⟨z, hz, meter, rowOk⟩ := State.mulHit_spec (State.inst?_afterDebit (s := s) (task := y.task) (vt := y.vt) (x := y.x) _)
      p (mBank p.cmd) ((List.range (y.x.mat.pieces p.cmd)).flatMap fun j => s.padPiece y.task y.vt p.cmd p.row j)
    rw [← advance] at hz
    refine ⟨_, fun x hx => congrArg _ (h.matTurn hx), fun x hx => congrArg _ (h.matTurn hx), h.matrixRowStep status, ?_⟩
    rw [State.inst_of_inst? hz]
    refine ⟨?_, fun j hj => rowOk.cell hj, fun i hi => rowOk.outside hi⟩
    rw [meter]
    exact (Inst.meter_debit cov).le

end Sys2Proof.Machine
end

section
/-! A data token of MXLD or MXLDT (R239, R240). -/

namespace Sys2Proof.Machine

/-! ### The turn of the load lane -/

/-- A load that has entered LOADING and is not done, its node at the locus, no command of its word in the compute lane (R235). -/
structure State.LoadRuns (s : State) (y : At2) (l : MLoad) : Prop where
  engine : s.engine .matrix = some y
  slot : s.cur.slot = 0
  load : y.x.mat.load = some l
  apart : ∀ p, y.x.mat.comp = some p → p.cmd.word ≠ l.cmd.word
  entered : l.entered = true
  finished : l.finished = false

section
variable {s : State} {y : At2} {l : MLoad} (h : s.LoadRuns y l)
include h

theorem State.LoadRuns.inst? : s.inst? y.task y.vt = some y.x := (State.engine_spec h.engine).2.2.2.2

/-- The turn of the load's command is its lane's advance. -/
theorem State.LoadRuns.matTurn {w : Word} (word : l.cmd.word = w) : s.matTurn w = s.matLoad y.task y.vt l := by
  have place : ¬ s.cur.slot = 3 := by rw [h.slot]; decide
  subst word
  cases comp : y.x.mat.comp with
  | none => simp only [State.matTurn, h.engine, if_neg place, comp, h.load, if_true]
  | some p => simp only [State.matTurn, h.engine, if_neg place, comp, h.load, if_neg (h.apart p comp), if_true]

/-- The load step of the event is its lane's advance where no status token waits. -/
theorem State.LoadRuns.matrixLoadToken (status : y.x.mat.status = []) :
    exec (.matrixLoadToken ⟨y.task, y.vt⟩) s = .next (s.matLoad y.task y.vt l) := by
  show execMatrixLoadToken ⟨y.task, y.vt⟩ s = _
  simp only [execMatrixLoadToken, State.cur_of_engine h.engine h.slot, h.engine, status, State.drainStatus,
    State.inst_of_inst? h.inst?, h.load]

end

/-! ### One token -/

/-- Parts of a load: columns of MXLD, rows of MXLDT. -/
def Bank.parts (k : Bank) (c : Cmd) : Nat := if mOp c = 2 then k.kl else k.n

/-- Values of one part. -/
def Bank.partSize (k : Bank) (c : Cmd) : Nat := if mOp c = 2 then k.n else k.kv

/-- The values gathered with those of a token. -/
def MLoad.gathered (l : MLoad) (k : Bank) (t : Wtok) : List Nat := l.got ++ lanesW (8 * k.wb) t.val

section
variable {s : State} {task : Nat} {vt : Fin 16} {x : Inst} (hx : s.inst? task vt = some x)
include hx

theorem State.loadEnd_bank (l : MLoad) : ∃ z, (s.loadEnd task vt l).inst? task vt = some z
    ∧ ∀ b, (x.mat.bank b).SameContents (z.mat.bank b) := by
  obtain ⟨y, hy, resident⟩ := State.updBank_settled hx (mBank l.cmd) (fun k => { k with st := .resident }) fun k => ⟨_, _, _, _, rfl⟩
  obtain ⟨z, hz, told⟩ := State.tell_settled (State.inst?_updMat hy fun m => { m with load := some { l with finished := true } })
    .load [⟨0, statusWord (mOp l.cmd) (mBank l.cmd).val 0 0, []⟩]
  exact ⟨z, hz, fun b => (resident.bank b).trans (told.bank b)⟩

/-- After a part: the load ends where it is full, and goes on otherwise. -/
def State.loadNext (s : State) (task : Nat) (vt : Fin 16) (l : MLoad) (full : Bool) : State :=
  if full then s.loadEnd task vt l else s.updMat task vt fun m => { m with load := some l }

theorem State.loadNext_bank (l : MLoad) (full : Bool) : ∃ z, (s.loadNext task vt l full).inst? task vt = some z
    ∧ ∀ b, (x.mat.bank b).SameContents (z.mat.bank b) := by
  cases full with
  | true => exact State.loadEnd_bank hx l
  | false => exact ⟨_, State.inst?_updMat hx fun m => { m with load := some l }, fun _ => .refl _⟩

variable {l : MLoad} {t : Wtok} {r : List Wtok} (entered : l.entered = true) (finished : l.finished = false)
  (col : l.col < (x.mat.bank (mBank l.cmd)).parts l.cmd) (toks : x.slotToks .matrix (mSrc l.cmd) = t :: r)
  (data : Side.ctl t.side = false) (cov : Safety.Covered x 8)
include entered finished col toks data cov

/-- A token that leaves its part open is gathered. -/
theorem State.matLoad_of_open (short : (l.gathered (x.mat.bank (mBank l.cmd)) t).length < (x.mat.bank (mBank l.cmd)).partSize l.cmd) :
    s.matLoad task vt l = ((s.afterDebit task vt x 8).updInst task vt fun x => x.slotTake .matrix (mSrc l.cmd) 1).updMat task vt
      fun m => { m with load := some { l with got := l.gathered (x.mat.bank (mBank l.cmd)) t } } := by
  unfold Bank.parts at col
  unfold Bank.partSize MLoad.gathered at short
  unfold State.matLoad
  simp only [State.inst_of_inst? hx, entered, finished, Bool.false_eq_true, if_false, Bool.not_true, Nat.not_le.2 col, decide_false,
    Bool.false_and, toks, data, col, if_true, State.engDebit_of_covered hx cov, Nat.not_le.2 short]
  rfl

/-- A token that completes its part places it in the bank. -/
theorem State.matLoad_of_whole (whole : (x.mat.bank (mBank l.cmd)).partSize l.cmd ≤ (l.gathered (x.mat.bank (mBank l.cmd)) t).length) :
    ∃ full, s.matLoad task vt l = State.loadNext
      (((s.afterDebit task vt x 8).updInst task vt fun x => x.slotTake .matrix (mSrc l.cmd) 1).updBank task vt (mBank l.cmd) fun k =>
        k.place (decide (mOp l.cmd = 2)) l.col
          ((l.gathered (x.mat.bank (mBank l.cmd)) t).take ((x.mat.bank (mBank l.cmd)).partSize l.cmd)))
      task vt { l with entered := true, finished := false, got := [], col := l.col + 1 } full := by
  unfold Bank.parts at col
  unfold Bank.partSize MLoad.gathered at whole ⊢
  unfold State.matLoad
  simp only [State.inst_of_inst? hx, entered, finished, Bool.false_eq_true, if_false, Bool.not_true, Nat.not_le.2 col, decide_false,
    Bool.false_and, toks, data, col, if_true, State.engDebit_of_covered hx cov, whole]
  exact ⟨_, rfl⟩

end

/-! ### The statement -/

/-- Settles O29: the turn of the command and the event are the load lane's advance, which takes a token and 8 drops and gathers or places. -/
theorem matrixLoads : Obligations.MatrixLoads := by
  unfold Obligations.MatrixLoads
  intro s y l t0 r engine slot status load apart entered finished
  dsimp only
  intro col toks data cov
  simp only [decide_eq_true_eq] at col ⊢
  have h : s.LoadRuns y l := ⟨engine, slot, load, apart, entered, finished⟩
  have taken := State.inst?_updInst (State.inst?_afterDebit (s := s) (task := y.task) (vt := y.vt) (x := y.x) 8)
    fun x => x.slotTake .matrix (mSrc l.cmd) 1
  refine ⟨_, fun x hx => congrArg _ (h.matTurn hx), fun x hx => congrArg _ (h.matTurn hx), h.matrixLoadToken status,
    fun short => ?_, fun whole _ => ?_⟩
  · have gathered := State.inst?_updMat taken fun m =>
      { m with load := some { l with got := l.gathered (y.x.mat.bank (mBank l.cmd)) t0 } }
    rw [State.matLoad_of_open h.inst? entered finished col toks data cov short, State.inst_of_inst? gathered]
    have meter := (y.x.debit 8).meter_slotTake .matrix (mSrc l.cmd) 1
    exact ⟨rfl, (congrArg (· + 8) meter).trans (Inst.meter_debit cov)⟩
  · obtain ⟨full, placed⟩ := State.matLoad_of_whole h.inst? entered finished col toks data cov whole
    obtain ⟨z, hz, kept⟩ := State.loadNext_bank (State.inst?_updBank taken _ _)
      { l with entered := true, finished := false, got := [], col := l.col + 1 } full
    rw [placed, State.inst_of_inst? hz, (kept _).weights, Inst.bank_withBank, if_pos rfl, Inst.mat_slotTake]
    rfl

end Sys2Proof.Machine
end

section
/-! MXRES and MXEVICT, which take effect at once (R228, R241, R242). -/

namespace Sys2Proof.Machine

theorem mOp_of_word {c : Cmd} {op : BitVec 8} {f : MFields} (h : c.word = f.word op) : mOp c = op.toNat :=
  (congrArg cmdOp h).trans (mFieldsOf_word op f).1

/-- A command that waits at the port with both lanes idle, its debit not taken, the node at the locus (R235). -/
structure State.WaitsAlone (s : State) (y : At2) (c : Cmd) : Prop where
  engine : s.engine .matrix = some y
  comp : y.x.mat.comp = none
  load : y.x.mat.load = none
  wait : y.x.mat.wait = some c
  paid : y.x.mat.paid = false

section
variable {s : State} {y : At2} {c : Cmd} (h : s.WaitsAlone y c)
include h

theorem State.WaitsAlone.inst? : s.inst? y.task y.vt = some y.x := (State.engine_spec h.engine).2.2.2.2

/-- The turn of the command begins it. -/
theorem State.WaitsAlone.matTurn (slot : s.cur.slot = 0) {w : Word} (word : c.word = w) : s.matTurn w = s.matBegin y.task y.vt := by
  have place : ¬ s.cur.slot = 3 := by rw [slot]; decide
  simp only [State.matTurn, h.engine, if_neg place, h.comp, h.load, h.wait, if_pos word]

/-- COMMAND_BEGIN begins it too. -/
theorem State.WaitsAlone.commandBegin (slot : s.cur.slot = 0) :
    exec (.commandBegin ⟨y.task, y.vt⟩ .matrix) s = .next (s.matBegin y.task y.vt) := by
  show execCommandBegin ⟨y.task, y.vt⟩ .matrix s = _
  simp only [execCommandBegin, State.cur_of_engine h.engine slot, h.engine, State.cmdBegin]

/-- In the place of the debit alone its turn takes that (R283). -/
theorem State.WaitsAlone.matTurn_prepay (slot : s.cur.slot = 3) {w : Word} (word : c.word = w) :
    s.matTurn w = s.prepay y.task y.vt c := by
  simp only [State.matTurn, h.engine, if_pos slot, h.wait, if_pos word]

/-- An immediate command that begins takes effect. -/
theorem State.WaitsAlone.matBegin (op : mOp c = 0x03 ∨ mOp c = 0x04) : s.matBegin y.task y.vt = s.matNow y.task y.vt c := by
  have atOnce : (decide (mOp c = 0x03) || decide (mOp c = 0x04)) = true := by simpa using op
  simp only [State.matBegin, State.inst_of_inst? h.inst?, h.wait, if_pos atOnce]

end

section
variable {s : State} {task : Nat} {vt : Fin 16} {x : Inst} (hx : s.inst? task vt = some x)
include hx

/-- What is told of an immediate command leaves the meter and the banks. -/
theorem State.tellLate_spec (w : Word) : ∃ z, (s.tellLate task vt w).inst? task vt = some z ∧ z.meter = x.meter
    ∧ z.mat.banks = x.mat.banks :=
  ⟨_, State.inst?_updInst hx _, rfl, rfl⟩

/-- MXRES of an EMPTY bank (R241). -/
theorem State.matNow_reserve {c : Cmd} (op : mOp c = 0x04) (empty : (x.mat.bank (mBank c)).st = .empty) (cov : Safety.Covered x 4) :
    ∃ z, (s.matNow task vt c).inst? task vt = some z ∧ z.meter + 4 = x.meter ∧ z.mat.bank (mBank c) =
      { x.mat.bank (mBank c) with
        st := .loading, expid := BitVec.ofNat 16 c.a.toNat, gen := (x.mat.bank (mBank c)).gen + 1, rsv := true } := by
  have other : ¬ mOp c = 0x03 := by rw [op]; decide
  have paid := State.inst?_afterDebit (s := s) (task := task) (vt := vt) (x := x) 4
  have cleared := State.inst?_updMat paid fun m => { m with wait := none, paid := false }
  have named := State.inst?_updMat cleared fun m => { m with sbank := mBank c }
  obtain ⟨z, hz, meter, banks⟩ := State.tellLate_spec (State.inst?_updBank named (mBank c) fun k =>
    if k.st == .empty then { k with st := .loading, expid := BitVec.ofNat 16 c.a.toNat, gen := k.gen + 1, rsv := true } else k)
    (statusWord 0x04 (mBank c).val 0 0)
  simp only [State.matNow, State.inst_of_inst? hx, if_neg other, empty, beq_self_eq_true, Bool.true_or, if_true,
    State.engDebit_of_covered hx cov]
  refine ⟨z, hz, meter ▸ Inst.meter_debit cov, ?_⟩
  have found : (x.mat.bank (mBank c)).st == .empty := by rw [empty]; rfl
  rw [Mat.bank, banks]
  refine (Inst.bank_withBank _ _ _ _).trans ((if_pos rfl).trans ?_)
  exact if_pos found

/-- A RESIDENT bank that nothing reads is emptied (R228). -/
theorem State.evict_unread {b : Fin 8} (resident : (x.mat.bank b).st = .resident) (readers : (x.mat.bank b).readers = 0)
    (hold : (x.mat.bank b).hold = false) :
    ∃ z, (s.evict task vt b).inst? task vt = some z ∧ z.meter = x.meter ∧ (z.mat.bank b).st = .empty := by
  obtain ⟨z, hz, meter, banks⟩ := State.tellLate_spec (State.inst?_updBank hx b fun k => { k with st := .empty, rsv := false })
    (statusWord 0x03 b.val 0 0)
  have emptied : (z.mat.bank b).st = .empty := by
    rw [Mat.bank, banks]
    exact congrArg Bank.st ((Inst.bank_withBank _ _ _ _).trans (if_pos rfl))
  simp only [State.evict, State.inst_of_inst? hx, resident, readers, hold, decide_true, Bool.not_false, Bool.and_self, if_true]
  exact ⟨z, hz, meter, emptied⟩

/-- MXEVICT of such a bank (R242). -/
theorem State.matNow_evict {c : Cmd} (op : mOp c = 0x03) (resident : (x.mat.bank (mBank c)).st = .resident)
    (readers : (x.mat.bank (mBank c)).readers = 0) (hold : (x.mat.bank (mBank c)).hold = false) (paid : x.mat.paid = false)
    (cov : Safety.Covered x 4) : ∃ z, (s.matNow task vt c).inst? task vt = some z ∧ z.meter + 4 = x.meter
      ∧ (z.mat.bank (mBank c)).st = .empty := by
  have cleared := State.inst?_updMat (State.inst?_afterDebit (s := s) (task := task) (vt := vt) (x := x) 4)
    fun m => { m with wait := none, paid := false }
  obtain ⟨z, hz, meter, emptied⟩ := State.evict_unread cleared (b := mBank c) resident readers hold
  have loaded : ((BankSt.resident == .loading) && !(x.mat.bank (mBank c)).rsv) = false := rfl
  simp only [State.matNow, State.inst_of_inst? hx, if_pos op, resident, loaded, paid, Bool.false_eq_true, if_false,
    State.engDebit_of_covered hx cov]
  exact ⟨z, hz, meter ▸ Inst.meter_debit cov, emptied⟩

/-- The debit of an MXEVICT alone (R283). -/
theorem State.prepay_evict {c : Cmd} (op : mOp c = 0x03) (resident : (x.mat.bank (mBank c)).st = .resident) (paid : x.mat.paid = false)
    (cov : Safety.Covered x 4) : ∃ z, (s.prepay task vt c).inst? task vt = some z ∧ z.meter + 4 = x.meter
      ∧ z.mat = { x.mat with paid := true } := by
  have noted := State.inst?_updMat (State.inst?_afterDebit (s := s) (task := task) (vt := vt) (x := x) 4) fun m => { m with paid := true }
  have takes : (decide (mOp c = 0x03) && !x.mat.paid
      && !((x.mat.bank (mBank c)).st == .loading && !(x.mat.bank (mBank c)).rsv)) = true := by
    rw [op, paid, resident]
    rfl
  simp only [State.prepay, State.inst_of_inst? hx, takes, if_true, State.engDebit_of_covered hx cov]
  exact ⟨_, noted, Inst.meter_debit cov, rfl⟩

end

end Sys2Proof.Machine
end

section
/-! The rows of MXZERO, MXDRN, MXGDRN and MXGRAD (R247-R250). -/

namespace Sys2Proof.Machine

/-- The end of level 0 and the end of level 1 (R249). -/
theorem bothEnds : (0x1000 : Side) ||| 0x2000 = 0x3000 := by decide

/-! ### Rows of accumulators cleared -/

/-- A map whose keys are kept where a test holds reads as absent elsewhere. -/
theorem Assoc.get?_filterKeys {α : Type} (m : Assoc α) (keep : Nat → Bool) (i : Nat) :
    Assoc.get? (m.filter fun x => keep x.1) i = if keep i then Assoc.get? m i else none := by
  induction m with
  | nil => simp
  | cons x r ih =>
    obtain ⟨j, a⟩ := x
    by_cases h : keep j = true
    · rw [List.filter_cons, if_pos h, Assoc.get?_cons, Assoc.get?_cons, ih]
      by_cases e : j = i
      · subst e
        simp [h]
      · simp [e]
    · rw [List.filter_cons, if_neg h, ih, Assoc.get?_cons]
      by_cases e : j = i
      · subst e
        simp [h]
      · simp [e]

theorem Mat.acc_clearRow (m : Mat) (r i : Nat) : (m.clearRow r).acc.get? i = if i / 64 = r then none else m.acc.get? i := by
  refine (Assoc.get?_filterKeys m.acc (fun k => k / 64 != r) i).trans ?_
  by_cases h : i / 64 = r <;> simp [h]

theorem Mat.acc_clearRows (m : Mat) (a n i : Nat) : ((List.range n).foldl (fun m j => m.clearRow (a + j)) m).acc.get? i =
    if a ≤ i / 64 ∧ i / 64 < a + n then none else m.acc.get? i := by
  induction n with
  | zero => simp
  | succ n ih =>
    rw [List.range_succ, List.foldl_append, List.foldl_cons, List.foldl_nil, Mat.acc_clearRow, ih]
    by_cases e : i / 64 = a + n
    · have inside : a ≤ i / 64 ∧ i / 64 < a + (n + 1) := by omega
      rw [if_pos e, if_pos inside]
    · have same : (a ≤ i / 64 ∧ i / 64 < a + (n + 1)) ↔ (a ≤ i / 64 ∧ i / 64 < a + n) := by omega
      simp only [e, same, if_false]

section
variable {s : State} {task : Nat} {vt : Fin 16} {x : Inst} (hx : s.inst? task vt = some x)
include hx

/-- MXZERO clears its rows and no other (R250). -/
theorem State.zeroRows_spec (p : MComp) (cov : Safety.Covered x 4) :
    ∃ z, (s.zeroRows task vt p).inst? task vt = some z ∧ z.meter + 4 = x.meter ∧ ∀ i, z.mat.acc.get? i =
      if p.cmd.a.toNat ≤ i / 64 ∧ i / 64 < p.cmd.a.toNat + mRows p.cmd then none else x.mat.acc.get? i := by
  have cleared := State.inst?_updMat (State.inst?_afterDebit (s := s) (task := task) (vt := vt) (x := x) 4) fun m =>
    let m := (List.range (mRows p.cmd)).foldl (fun m i => m.clearRow (p.cmd.a.toNat + i)) m
    if (mF p.cmd).acc = 1 then { m with banks := m.banks.map fun k => { k with grad := [] } } else m
  obtain ⟨z, hz, kept, -⟩ := State.compFinish_spec cleared { p with row := mRows p.cmd }
  unfold State.zeroRows
  simp only [State.engDebit_of_covered hx cov]
  refine ⟨z, hz, kept.meter ▸ Inst.meter_debit cov, fun i => ?_⟩
  rw [kept.acc, ← Mat.acc_clearRows]
  show (if _ then _ else _ : Mat).acc.get? i = _
  split <;> rfl

/-! ### Drains (R249) -/

/-- Format of the tokens that a drain to slot k writes. -/
def Inst.drainFmt (x : Inst) (k : Nat) : Fmt := fmtOf ((x.slot .matrix k).elim 0 fun b => (x.desc b).fmt)

/-- The next token of the row that a drain to slot k converts, and what its conversion sets. -/
def Inst.drainTok (x : Inst) (p : MComp) (k : Nat) (side : Side) : Wtok × Ar :=
  let l := rowToken (if (mF p.cmd).wf = 2 then .int32 else .fp32) (x.drainFmt k)
    (fun i => x.mat.acc.getD ((p.cmd.a.toNat + p.row) * 64 + i) 0) p.tok
  (⟨side, l.1, p.cmd.deps⟩, l.2)

omit hx in
/-- The last token of a row becomes the last of all. -/
theorem Inst.drainTok_ends (x : Inst) (p : MComp) (k : Nat) :
    { (x.drainTok p k 0x1000).1 with side := (x.drainTok p k 0x1000).1.side ||| 0x2000 } = (x.drainTok p k 0x3000).1 :=
  congrArg (fun side => { (x.drainTok p k 0).1 with side := side }) bothEnds

/-- A drained row ends: it is cleared unless it is kept, and done. -/
def State.rowEnd (s : State) (task : Nat) (vt : Fin 16) (p : MComp) : State :=
  (if (mF p.cmd).acc = 1 then s else s.updMat task vt fun m => m.clearRow (p.cmd.a.toNat + p.row)).rowDone task vt p false

theorem State.rowEnd_spec (p : MComp) : ∃ z, (s.rowEnd task vt p).inst? task vt = some z ∧ z.meter = x.meter ∧ z.cfg = x.cfg
    ∧ (∀ i, z.mat.acc.get? i = if (mF p.cmd).acc ≠ 1 ∧ i / 64 = p.cmd.a.toNat + p.row then none else x.mat.acc.get? i)
    ∧ (p.row + 1 < mRows p.cmd → z.bufs = x.bufs ∧ z.mat.comp = some { p with row := p.row + 1, tok := 0, steer := none })
    ∧ (mRows p.cmd ≤ p.row + 1 → ∀ d, z.buf d = x.buf d ++ x.lastOut p.kept d) := by
  unfold State.rowEnd
  by_cases keep : (mF p.cmd).acc = 1
  · obtain ⟨z, hz, kept, more, last⟩ := State.rowDone_spec hx p
    rw [if_pos keep]
    exact ⟨z, hz, kept.meter, kept.cfg, fun i => by simp [keep, kept.acc], more, last⟩
  · obtain ⟨z, hz, kept, more, last⟩ :=
      State.rowDone_spec (State.inst?_updMat hx fun m => m.clearRow (p.cmd.a.toNat + p.row)) p
    rw [if_neg keep]
    refine ⟨z, hz, kept.meter, kept.cfg, fun i => ?_, more, last⟩
    rw [kept.acc]
    exact (Mat.acc_clearRow _ _ _).trans (if_congr (and_iff_right keep).symm rfl rfl)

/-- The token that a command kept back, if any, goes out as it is. -/
def State.putKept (s : State) (task : Nat) (vt : Fin 16) (kept : Option (Nat × Wtok)) : State :=
  match kept with
  | some (j, t) => s.engPut task vt .matrix j t
  | none => s

theorem State.putKept_inst (kept : Option (Nat × Wtok)) : ∃ z, (s.putKept task vt kept).inst? task vt = some z
    ∧ z.mat = x.mat ∧ z.meter = x.meter ∧ z.cfg = x.cfg
    ∧ ∀ d, z.buf d = x.buf d ++ kept.elim [] fun o => if x.slot .matrix o.1 = some d then [o.2] else [] := by
  cases kept with
  | none => exact ⟨x, hx, rfl, rfl, rfl, fun d => by simp⟩
  | some o => exact State.engPut_inst hx .matrix o.1 o.2

/-- A token of a drain to slot k that is paid for, after a steering token or not: the token kept back before it goes out, and it is kept
back in its turn. -/
def State.drainPut (s : State) (task : Nat) (vt : Fin 16) (p : MComp) (k : Nat) (steered : Bool) : State :=
  let x := s.inst task vt
  let last := p.tok + 1 = (x.drainFmt k).bytes
  let u := x.drainTok p k (if last then 0x1000 else 0)
  let s := s.updInst task vt fun y => Inst.setAr (if steered then y.slotTake .matrix (mSrc p.cmd) 1 else y) u.2
  let s := s.putKept task vt p.kept
  let p := { p with kept := some (k, u.1) }
  if last then s.rowEnd task vt p
  else s.updMat task vt fun m => { m with comp := some { p with tok := p.tok + 1, steer := some k } }

end

/-- A drain whose room and drops are there puts a token. -/
theorem State.drainStep_put {s : State} {y : At2} (hx : s.inst? y.task y.vt = some y.x) {p : MComp} {k : Nat}
    (toSlot : Claims.drainsTo y p k) (narrow : y.x.slotIs .matrix k true (· ≤ 7) = true)
    (room : ∀ j w, p.kept = some (j, w) → y.x.slotRoom .matrix j 1 = true) (cov : Safety.Covered y.x 8) :
    ∃ steered, (steered = true → mSrc p.cmd ≠ 6) ∧
      s.drainStep y.task y.vt p = (s.afterDebit y.task y.vt y.x 8).drainPut y.task y.vt p k steered := by
  have paid := State.inst_of_inst? (State.inst?_afterDebit (s := s) (task := y.task) (vt := y.vt) (x := y.x) 8)
  have free : ¬ (!match p.kept with | some (j, _) => y.x.slotRoom .matrix j 1 | none => true) = true := by
    split
    · next j w kept => simp [room j w kept]
    · simp
  unfold State.drainStep State.drainPut
  simp only [State.inst_of_inst? hx, paid, State.engDebit_of_covered hx cov]
  rcases toSlot with steer | ⟨steer, ⟨src, rfl⟩ | ⟨src, small, t, r, toks, data, value⟩⟩
  · refine ⟨false, nofun, ?_⟩
    simp only [steer, narrow, Bool.not_true, Bool.false_eq_true, if_false]
    exact (if_neg free).trans rfl
  · refine ⟨false, nofun, ?_⟩
    simp only [steer, if_pos src, narrow, Bool.not_true, Bool.false_eq_true, if_false]
    exact (if_neg free).trans rfl
  · refine ⟨true, fun _ => src, ?_⟩
    have low : ¬ 16 ≤ k := by omega
    have kept : ¬ 8 ≤ k := by omega
    simp only [steer, if_neg src, toks, data, value, if_neg low, if_neg kept, narrow, Bool.not_true, Bool.false_eq_true, if_false]
    exact (if_neg free).trans rfl

/-- What a token of a drain to slot k leaves of a copy x that has paid for it: the token is kept back, the one kept back before it goes
out, and the last token of a row ends the row (R249). -/
structure Inst.Drained (x z : Inst) (p : MComp) (k : Nat) : Prop where
  meter : z.meter = x.meter
  within : ¬ p.tok + 1 = (x.drainFmt k).bytes → z.mat.acc = x.mat.acc
    ∧ z.mat.comp = some { p with tok := p.tok + 1, steer := some k, kept := some (k, (x.drainTok p k 0).1) }
  cells : p.tok + 1 = (x.drainFmt k).bytes → ∀ i, z.mat.acc.get? i =
    if (mF p.cmd).acc ≠ 1 ∧ i / 64 = p.cmd.a.toNat + p.row then none else x.mat.acc.get? i
  next : p.tok + 1 = (x.drainFmt k).bytes → p.row + 1 < mRows p.cmd → z.mat.comp =
    some { p with row := p.row + 1, tok := 0, steer := none, kept := some (k, (x.drainTok p k 0x1000).1) }
  final : p.tok + 1 = (x.drainFmt k).bytes ∧ mRows p.cmd ≤ p.row + 1 → p.kept = none → x.slotRoom .matrix k 1 = true →
    ∀ b, x.slot .matrix k = some b → (mSrc p.cmd = 6 ∨ x.slot .matrix (mSrc p.cmd) ≠ some b) →
      z.buf b = x.buf b ++ [(x.drainTok p k 0x3000).1]
  before : ∀ j w d, ¬ (p.tok + 1 = (x.drainFmt k).bytes ∧ mRows p.cmd ≤ p.row + 1) → p.kept = some (j, w) →
    x.slot .matrix j = some d → (mSrc p.cmd = 6 ∨ x.slot .matrix (mSrc p.cmd) ≠ some d) → z.buf d = x.buf d ++ [w]

/-- The copy once the steering token of a row, if there is one, has left its buffer. -/
def Inst.steerTake (x : Inst) (steered : Bool) (src : Nat) : Inst := if steered then x.slotTake .matrix src 1 else x

theorem Inst.steerTake_spec (x : Inst) {steered : Bool} {src : Nat} (own : steered = true → src ≠ 6) :
    (x.steerTake steered src).mat = x.mat ∧ (x.steerTake steered src).meter = x.meter ∧ (x.steerTake steered src).cfg = x.cfg
      ∧ ∀ d, (src = 6 ∨ x.slot .matrix src ≠ some d) → (x.steerTake steered src).buf d = x.buf d := by
  cases steered with
  | false => exact ⟨rfl, rfl, rfl, fun _ _ => rfl⟩
  | true =>
    exact ⟨x.mat_slotTake _ _ _, x.meter_slotTake _ _ _, x.cfg_slotTake _ _ _, fun d other =>
      Inst.buf_slotTake_other (other.resolve_left (own rfl)) 1⟩

theorem State.drainPut_spec {s : State} {task : Nat} {vt : Fin 16} {x : Inst} (hx : s.inst? task vt = some x) (p : MComp) (k : Nat)
    {steered : Bool} (own : steered = true → mSrc p.cmd ≠ 6) :
    ∃ z, (s.drainPut task vt p k steered).inst? task vt = some z ∧ x.Drained z p k := by
  obtain ⟨takeMat, takeMeter, takeCfg, takeBuf⟩ := x.steerTake_spec own
  obtain ⟨w, hw, putMat, putMeter, putCfg, putBuf⟩ := State.putKept_inst (State.inst?_updInst hx fun y =>
    Inst.setAr (y.steerTake steered (mSrc p.cmd)) (x.drainTok p k (if p.tok + 1 = (x.drainFmt k).bytes then 0x1000 else 0)).2) p.kept
  have mat : w.mat = x.mat := putMat.trans takeMat
  have meter : w.meter = x.meter := putMeter.trans takeMeter
  have cfg : w.cfg = x.cfg := putCfg.trans takeCfg
  have buf : ∀ d, (mSrc p.cmd = 6 ∨ x.slot .matrix (mSrc p.cmd) ≠ some d) →
      w.buf d = x.buf d ++ p.kept.elim [] fun o => if x.slot .matrix o.1 = some d then [o.2] else [] := fun d other => by
    have slot := Inst.slot_of_cfg takeCfg .matrix
    rw [← takeBuf d other]
    simp only [← slot]
    exact putBuf d
  unfold State.drainPut
  simp only [State.inst_of_inst? hx]
  by_cases last : p.tok + 1 = (x.drainFmt k).bytes
  · simp only [if_pos last] at hw ⊢
    obtain ⟨z, hz, endMeter, -, cells, next, final⟩ := State.rowEnd_spec hw { p with kept := some (k, (x.drainTok p k 0x1000).1) }
    refine ⟨z, hz, endMeter.trans meter, absurd last, fun _ i => mat ▸ cells i, fun _ more => (next more).2,
      fun ⟨_, ends⟩ kept room b hb other => ?_, fun j t d more kept hj other => ?_⟩
    · have free : w.slotRoom .matrix k 1 = true := by
        rw [Inst.slotRoom_congr cfg fun e he => ?_, room]
        cases hb.symm.trans he
        rw [buf b other, kept]
        exact List.append_nil _
      have out : w.lastOut (some (k, (x.drainTok p k 0x1000).1)) b = [(x.drainTok p k 0x3000).1] := by
        simp only [Inst.lastOut, free, Inst.slot_of_cfg cfg, hb, and_self, if_true]
        exact congrArg (fun t => [t]) (x.drainTok_ends p k)
      rw [final ends, buf b other, kept, out, Option.elim_none, List.append_nil]
    · have goes : p.row + 1 < mRows p.cmd := by
        by_contra ends
        exact more ⟨last, not_lt.1 ends⟩
      rw [Inst.buf_of_bufs (next goes).1, buf d other, kept]
      simp only [Option.elim_some, hj, if_true]
  · simp only [if_neg last] at hw ⊢
    refine ⟨_, State.inst?_updMat hw _, meter, fun _ => ⟨(congrArg Mat.acc mat :), rfl⟩, fun h => absurd h last, fun h => absurd h last,
      fun h => absurd h.1 last, fun j t d _ kept hj other => ?_⟩
    refine (buf d other).trans ?_
    rw [kept]
    simp only [Option.elim_some, hj, if_true]

section
variable {s : State} {task : Nat} {vt : Fin 16} {x : Inst} (hx : s.inst? task vt = some x)
include hx

/-- A row that a steering token discards leaves without a debit, its token with it (R249). -/
theorem State.drainStep_discard {p : MComp} {t : Wtok} {r : List Wtok} (src : mSrc p.cmd ≠ 6) (steer : p.steer = none)
    (toks : x.slotToks .matrix (mSrc p.cmd) = t :: r) (data : Side.ctl t.side = false) (low : 8 ≤ t.val.toNat % 2 ^ 32)
    (high : t.val.toNat % 2 ^ 32 < 16) :
    s.drainStep task vt p = (s.updInst task vt fun y => y.slotTake .matrix (mSrc p.cmd) 1).rowEnd task vt p := by
  unfold State.drainStep
  simp only [State.inst_of_inst? hx, steer, if_neg src, toks, data, Bool.false_eq_true, if_false, Nat.not_le.2 high, if_pos low]
  rfl

/-! ### Gradients drained (R248) -/

/-- The next token of a bank's gradients that a drain to slot k converts, and what its conversion sets. -/
def Inst.gradTok (x : Inst) (p : MComp) (k : Nat) : Wtok × Ar :=
  let last := p.tok + 1 = (x.drainFmt k).bytes
  let l := rowToken .fp32 (x.drainFmt k) (fun i => (x.mat.bank (mBank p.cmd)).grad.getD (p.row * 64 + i) 0) p.tok
  (⟨(if last then 0x1000 else 0) ||| (if last ∧ p.row = 31 then 0x2000 else 0), l.1, p.cmd.deps⟩, l.2)

/-- What follows a token of the gradients: the command ends with the last, and goes on with the next token or row otherwise. -/
def State.gradNext (s : State) (task : Nat) (vt : Fin 16) (p : MComp) (last : Prop) [Decidable last] : State :=
  if last ∧ p.row = 31 then
    State.compFinish (if (mF p.cmd).acc = 0 then s.updBank task vt (mBank p.cmd) fun k => { k with grad := [] } else s) task vt
      { p with row := 32 }
  else if last then s.updMat task vt fun m => { m with comp := some { p with row := p.row + 1, tok := 0 } }
  else s.updMat task vt fun m => { m with comp := some { p with tok := p.tok + 1 } }

theorem State.gradDrain_put {p : MComp} (room : x.slotRoom .matrix (p.cmd.b.toNat % 8) 1 = true) (cov : Safety.Covered x 8) :
    s.gradDrain task vt p =
      (((s.afterDebit task vt x 8).updInst task vt fun y => y.setAr (x.gradTok p (p.cmd.b.toNat % 8)).2).engPut task vt .matrix
        (p.cmd.b.toNat % 8) (x.gradTok p (p.cmd.b.toNat % 8)).1).gradNext task vt p
          (p.tok + 1 = (x.drainFmt (p.cmd.b.toNat % 8)).bytes) := by
  unfold State.gradDrain
  simp only [State.inst_of_inst? hx, if_pos room, State.engDebit_of_covered hx cov]
  rfl

theorem State.gradNext_spec {p : MComp} (kept : p.kept = none) (last : Prop) [Decidable last] :
    ∃ z, (s.gradNext task vt p last).inst? task vt = some z ∧ z.meter = x.meter ∧ (∀ d, z.buf d = x.buf d)
      ∧ (¬ last → z.mat.comp = some { p with tok := p.tok + 1 })
      ∧ (last → p.row ≠ 31 → z.mat.comp = some { p with row := p.row + 1, tok := 0 })
      ∧ (z.mat.bank (mBank p.cmd)).grad =
        if last ∧ p.row = 31 ∧ (mF p.cmd).acc = 0 then [] else (x.mat.bank (mBank p.cmd)).grad := by
  unfold State.gradNext
  by_cases ends : last ∧ p.row = 31
  · obtain ⟨y, hy, meter, bufs, grad⟩ : ∃ y, (if (mF p.cmd).acc = 0 then s.updBank task vt (mBank p.cmd) fun k => { k with grad := [] }
        else s).inst? task vt = some y ∧ y.meter = x.meter ∧ y.bufs = x.bufs ∧ (y.mat.bank (mBank p.cmd)).grad =
          if (mF p.cmd).acc = 0 then [] else (x.mat.bank (mBank p.cmd)).grad := by
      split
      · refine ⟨_, State.inst?_updBank hx _ _, rfl, rfl, ?_⟩
        rw [Inst.bank_withBank, if_pos rfl]
      · exact ⟨x, hx, rfl, rfl, rfl⟩
    obtain ⟨z, hz, finished, buf⟩ := State.compFinish_spec hy { p with row := 32 }
    rw [if_pos ends]
    refine ⟨z, hz, finished.meter.trans meter, fun d => ?_, fun more => absurd ends.1 more, fun _ more => absurd ends.2 more, ?_⟩
    · rw [buf, ← Inst.buf_of_bufs bufs d, kept]
      exact List.append_nil _
    · rw [(finished.bank _).grad, grad]
      simp only [ends.1, ends.2, true_and]
  · have keeps : ¬ (last ∧ p.row = 31 ∧ (mF p.cmd).acc = 0) := fun h => ends ⟨h.1, h.2.1⟩
    rw [if_neg ends, if_neg keeps]
    by_cases h : last
    · rw [if_pos h]
      exact ⟨_, State.inst?_updMat hx _, rfl, fun _ => rfl, absurd h, fun _ _ => rfl, rfl⟩
    · rw [if_neg h]
      exact ⟨_, State.inst?_updMat hx _, rfl, fun _ => rfl, fun _ => rfl, fun e => absurd e h, rfl⟩

/-! ### Gradients of a pair of rows (R247) -/

/-- A pair of rows that hits a bank and is paid for: it leaves its buffers, the bank's gradients take its products, and the row is done. -/
def State.gradHit (s : State) (task : Nat) (vt : Fin 16) (p : MComp) (b : Fin 8) (t : Wtok) (dy : List Wtok) : State :=
  let s := s.updInst task vt fun x => (x.slotTake .matrix (mSrc p.cmd) 1).slotTake .matrix (mSrc p.cmd + 1) 2
  let s := (s.lowerReaders task vt t.side 1).updInst task vt fun x =>
    let (k, ar) := gradRow (x.mat.bank b) (lanesW 16 t.val) (dy.flatMap fun d => lanesW 16 d.val)
    Inst.setAr { x with mat := x.mat.setBank b k } ar
  (s.countAt task vt 0x0E 1).rowDone task vt p false

theorem State.gradHit_spec (p : MComp) (b : Fin 8) (t : Wtok) (dy : List Wtok) :
    ∃ z, (s.gradHit task vt p b t dy).inst? task vt = some z ∧ z.meter = x.meter ∧ (z.mat.bank b).grad =
      (gradRow (x.mat.bank b) (lanesW 16 t.val) (dy.flatMap fun d => lanesW 16 d.val)).1.grad := by
  have taken := (x.rowKept_slotTake .matrix (mSrc p.cmd) 1).trans (Inst.rowKept_slotTake _ .matrix (mSrc p.cmd + 1) 2)
  obtain ⟨y, hy, lowered⟩ := State.lowerReaders_settled
    (State.inst?_updInst hx fun x => (x.slotTake .matrix (mSrc p.cmd) 1).slotTake .matrix (mSrc p.cmd + 1) 2) t.side 1
  have kept := taken.trans lowered.toRowKept
  have added := State.inst?_updInst hy fun x =>
    let (k, ar) := gradRow (x.mat.bank b) (lanesW 16 t.val) (dy.flatMap fun d => lanesW 16 d.val)
    Inst.setAr { x with mat := x.mat.setBank b k } ar
  obtain ⟨z, hz, done, -⟩ := State.rowDone_spec (State.inst?_countAt added 0x0E 1) p
  refine ⟨z, hz, done.meter.trans kept.meter, ?_⟩
  rw [(done.bank b).grad, ← (kept.bank b).gradRow]
  exact congrArg Bank.grad ((Mat.bank_setBank _ _ _ _).trans (if_pos rfl))

theorem State.gradStep_hit {p : MComp} {b : Fin 8} {t u : Wtok} {ra rb dy : List Wtok}
    (hit : (mF p.cmd).tag = 0 ∧ b = mBank p.cmd ∨ (mF p.cmd).tag ≠ 0 ∧ x.mat.fate ((mF p.cmd).msk = 1) t.side = .hit b)
    (toksA : x.slotToks .matrix (mSrc p.cmd) = t :: ra) (toksB : x.slotToks .matrix (mSrc p.cmd + 1) = u :: rb)
    (dataA : Side.ctl t.side = false) (dataB : Side.ctl u.side = false) (row : rowOf 2 (u :: rb) = .row dy)
    (sp : (x.mat.bank b).sp = 0) (wfmt : (x.mat.bank b).wfmt = 0) (cov : Safety.Covered x (x.mat.bank b).rowDrops) :
    s.gradStep task vt p = (s.afterDebit task vt x (x.mat.bank b).rowDrops).gradHit task vt p b t dy := by
  have dense : ((x.mat.bank b).sp != 0 || (x.mat.bank b).wfmt != 0) = false := by rw [sp, wfmt]; rfl
  unfold State.gradStep
  simp only [State.inst_of_inst? hx, toksA, toksB, dataA, dataB, Bool.false_eq_true, if_false, row]
  rcases hit with ⟨tag, rfl⟩ | ⟨tag, fate⟩
  · simp only [if_pos tag, dense, Bool.false_eq_true, if_false, State.engDebit_of_covered hx cov]
    rfl
  · simp only [if_neg tag, fate, dense, Bool.false_eq_true, if_false, State.engDebit_of_covered hx cov]
    rfl

end

end Sys2Proof.Machine
end

section
/-! MXRES, MXEVICT, MXZERO, MXDRN, MXGDRN and MXGRAD: what each leaves, from the advance that its turn is (R228, R241, R242, R247-R250). -/

namespace Sys2Proof.Machine

/-! ### The advance of each command -/

section
variable {s : State} {y : At2} {p : MComp} (h : s.LaneRuns y p)
include h

theorem State.LaneRuns.matComp_grad (op : mOp p.cmd = 0x20) : s.matComp y.task y.vt p = s.gradStep y.task y.vt p := by
  unfold State.matComp
  rw [h.finished, h.begun, op]
  rfl

theorem State.LaneRuns.matComp_gradDrain (op : mOp p.cmd = 0x21) : s.matComp y.task y.vt p = s.gradDrain y.task y.vt p := by
  unfold State.matComp
  rw [h.finished, h.begun, op]
  rfl

theorem State.LaneRuns.matComp_drain (op : mOp p.cmd = 0x30) : s.matComp y.task y.vt p = s.drainStep y.task y.vt p := by
  unfold State.matComp
  rw [h.finished, h.begun, op]
  rfl

theorem State.LaneRuns.matComp_zero (op : mOp p.cmd = 0x31) : s.matComp y.task y.vt p = s.zeroRows y.task y.vt p := by
  unfold State.matComp
  rw [h.finished, h.begun, op]
  rfl

end

/-! ### The tokens of a drain -/

/-- The lanes of a converted token (R78). -/
theorem rowToken_line (src dst : Fmt) (cells : Nat → Word) (part : Nat) : (rowToken src dst cells part).1 =
    packLine dst.bits ((List.range dst.lanes).map fun i => (convert src dst .rne 0 (cells (part * dst.lanes + i)).toNat).1) :=
  congrArg (packLine dst.bits) List.map_map

theorem Inst.drainFmt_of_slot {x : Inst} {k b : Nat} (slot : x.slot .matrix k = some b) : x.drainFmt k = fmtOf (x.desc b).fmt := by
  rw [Inst.drainFmt, slot]
  rfl

/-- A token of the accumulators for buffer b. -/
theorem Inst.drainTok_of_slot {x : Inst} {k b : Nat} (slot : x.slot .matrix k = some b) (p : MComp) (side : Side) :
    (x.drainTok p k side).1 = ⟨side, packLine (fmtOf (x.desc b).fmt).bits ((List.range (fmtOf (x.desc b).fmt).lanes).map fun i =>
      (convert (if (mF p.cmd).wf = 2 then .int32 else .fp32) (fmtOf (x.desc b).fmt) .rne 0
        (x.mat.acc.getD ((p.cmd.a.toNat + p.row) * 64 + (p.tok * (fmtOf (x.desc b).fmt).lanes + i)) 0).toNat).1), p.cmd.deps⟩ := by
  rw [← Inst.drainFmt_of_slot slot]
  exact congrArg (Wtok.mk side · p.cmd.deps) (rowToken_line _ _ _ _)

/-- The ends that a token of the gradients carries (R248). -/
theorem Inst.gradTok_side (last : Prop) [Decidable last] (row : Nat) :
    ((if last then 0x1000 else 0) ||| (if last ∧ row = 31 then 0x2000 else 0) : Side) =
      if last then (if row = 31 then 0x3000 else 0x1000) else 0 := by
  by_cases h : last <;> by_cases r : row = 31 <;> simp [h, r]

/-- A token of the gradients for buffer b. -/
theorem Inst.gradTok_of_slot {x : Inst} {k b : Nat} (slot : x.slot .matrix k = some b) (p : MComp) :
    (x.gradTok p k).1 = ⟨if p.tok + 1 = (fmtOf (x.desc b).fmt).bytes then (if p.row = 31 then 0x3000 else 0x1000) else 0,
      packLine (fmtOf (x.desc b).fmt).bits ((List.range (fmtOf (x.desc b).fmt).lanes).map fun i =>
        (convert .fp32 (fmtOf (x.desc b).fmt) .rne 0 ((x.mat.bank (mBank p.cmd)).grad.getD (p.row * 64 +
          (p.tok * (fmtOf (x.desc b).fmt).lanes + i)) 0).toNat).1), p.cmd.deps⟩ := by
  rw [← Inst.drainFmt_of_slot slot, ← Inst.gradTok_side]
  exact congrArg (Wtok.mk _ · p.cmd.deps) (rowToken_line _ _ _ _)

/-! ### The statement -/

/-- Settles O30: an immediate command's turn takes its debit and its effect, and the turn of a command in the compute lane is that lane's
advance, whose row or token is said above for each command. -/
theorem matrixBanksAndRows : Obligations.MatrixBanksAndRows := by
  unfold Obligations.MatrixBanksAndRows
  refine ⟨?banks, ?rows⟩
  case banks =>
    intro s y c engine comp load wait paid cov
    have h : s.WaitsAlone y c := ⟨engine, comp, load, wait, paid⟩
    refine ⟨fun x slot word empty => ?reserve, fun x word resident readers hold => ?evict⟩
    case reserve =>
      have op : mOp c = 0x04 := mOp_of_word word
      obtain ⟨z, hz, meter, bank⟩ := State.matNow_reserve h.inst? op empty cov
      rw [← h.matBegin (.inr op)] at hz
      refine ⟨_, congrArg Host.Outcome.next (h.matTurn slot word), h.commandBegin slot, ?_⟩
      rw [State.inst_of_inst? hz]
      exact ⟨meter, bank⟩
    case evict =>
      have op : mOp c = 0x03 := mOp_of_word word
      refine ⟨fun slot => ?_, fun slot => ?_⟩
      · obtain ⟨z, hz, meter, emptied⟩ := State.matNow_evict h.inst? op resident readers hold paid cov
        rw [← h.matBegin (.inl op)] at hz
        refine ⟨_, congrArg Host.Outcome.next (h.matTurn slot word), h.commandBegin slot, ?_⟩
        rw [State.inst_of_inst? hz]
        exact ⟨meter, emptied⟩
      · obtain ⟨z, hz, meter, mat⟩ := State.prepay_evict h.inst? op resident paid cov
        refine ⟨_, congrArg Host.Outcome.next (h.matTurn_prepay slot word), ?_⟩
        rw [State.inst_of_inst? hz]
        exact ⟨meter, mat⟩
  case rows =>
    intro s y p engine slot comp finished begun
    have h : s.LaneRuns y p := ⟨engine, slot, comp, finished, begun⟩
    refine ⟨fun x word cov => ?zero, fun x k b word toSlot hb narrow room cov => ?drain,
      fun x t0 r word src steer kept toks data low high => ?discard, fun x b word kept hb room cov => ?gradDrain,
      fun x b t0 u0 ra rb dy word => ?grad⟩
    case zero =>
      obtain ⟨z, hz, meter, acc⟩ := State.zeroRows_spec h.inst? p cov
      rw [← h.matComp_zero (mOp_of_word word)] at hz
      refine ⟨_, congrArg Host.Outcome.next (h.matTurn word), ?_⟩
      rw [State.inst_of_inst? hz]
      refine ⟨meter.le, fun i low high => ?_, fun i outside => ?_⟩
      · rw [acc, if_pos]
        omega
      · rw [acc, if_neg]
        omega
    case drain =>
      obtain ⟨steered, own, put⟩ := State.drainStep_put h.inst? toSlot narrow room cov
      obtain ⟨z, hz, drained⟩ := State.drainPut_spec (State.inst?_afterDebit (s := s) (task := y.task) (vt := y.vt) (x := y.x) 8) p k own
      rw [← put, ← h.matComp_drain (mOp_of_word word)] at hz
      obtain ⟨meter, within, cells, next, final, before⟩ := drained
      have mapped : (y.x.debit 8).slot .matrix k = some b := hb
      simp only [Inst.drainFmt_of_slot mapped, Inst.drainTok_of_slot mapped] at within cells next final before
      refine ⟨_, congrArg Host.Outcome.next (h.matTurn word), ?_⟩
      rw [State.inst_of_inst? hz]
      exact ⟨meter ▸ Inst.meter_debit cov, within, cells, next, fun ends kept free other => final ends kept free b hb other, before⟩
    case discard =>
      obtain ⟨z, hz, meter, cfg, acc, more, last⟩ := State.rowEnd_spec
        (State.inst?_updInst h.inst? fun y => y.slotTake .matrix (mSrc p.cmd) 1) p
      have buf : ∀ d, z.buf d = (y.x.slotTake .matrix (mSrc p.cmd) 1).buf d := fun d => by
        rcases lt_or_ge (p.row + 1) (mRows p.cmd) with goes | ends
        · exact Inst.buf_of_bufs (more goes).1 d
        · rw [last ends, kept]
          exact List.append_nil _
      rw [← State.drainStep_discard h.inst? src steer toks data low high, ← h.matComp_drain (mOp_of_word word)] at hz
      refine ⟨_, congrArg Host.Outcome.next (h.matTurn word), ?_⟩
      rw [State.inst_of_inst? hz]
      refine ⟨meter.trans (y.x.meter_slotTake _ _ _), ?_, fun i => ?_⟩
      · rw [Inst.slotToks_congr cfg buf, Inst.slotToks_slotTake, toks]
        rfl
      · rw [acc, Inst.mat_slotTake]
    case gradDrain =>
      obtain ⟨w, hw, mat, meter, -, buf⟩ := State.engPut_inst (State.inst?_updInst
        (State.inst?_afterDebit (s := s) (task := y.task) (vt := y.vt) (x := y.x) 8) fun x =>
          x.setAr (y.x.gradTok p (p.cmd.b.toNat % 8)).2) .matrix (p.cmd.b.toNat % 8) (y.x.gradTok p (p.cmd.b.toNat % 8)).1
      obtain ⟨z, hz, nextMeter, nextBuf, within, next, grad⟩ := State.gradNext_spec hw kept
        (p.tok + 1 = (y.x.drainFmt (p.cmd.b.toNat % 8)).bytes)
      have mapped : (Inst.setAr (y.x.debit 8) (y.x.gradTok p (p.cmd.b.toNat % 8)).2).slot .matrix (p.cmd.b.toNat % 8) = some b := hb
      rw [← State.gradDrain_put h.inst? room cov, ← h.matComp_gradDrain (mOp_of_word word)] at hz
      rw [Inst.drainFmt_of_slot hb] at within next grad
      rw [mat] at grad
      refine ⟨_, congrArg Host.Outcome.next (h.matTurn word), ?_⟩
      rw [State.inst_of_inst? hz]
      refine ⟨?_, ?_, within, next, grad⟩
      · rw [nextMeter, meter]
        exact Inst.meter_debit cov
      · rw [nextBuf, buf, if_pos mapped, Inst.gradTok_of_slot hb]
        rfl
    case grad =>
      dsimp only
      intro hit toksA toksB dataA dataB row sp wfmt cov
      obtain ⟨z, hz, meter, grad⟩ := State.gradHit_spec (State.inst?_afterDebit (s := s) (task := y.task) (vt := y.vt) (x := y.x)
        (y.x.mat.bank b).rowDrops) p b t0 dy
      rw [← State.gradStep_hit h.inst? hit toksA toksB dataA dataB row sp wfmt cov, ← h.matComp_grad (mOp_of_word word)] at hz
      refine ⟨_, congrArg Host.Outcome.next (h.matTurn word), ?_⟩
      rw [State.inst_of_inst? hz, meter]
      exact ⟨(Inst.meter_debit cov).le, grad⟩

end Sys2Proof.Machine
end

section
/-! SBND, SSTOP and the token of a walk (R257-R264): what a stream engine's advance leaves, and the turns and the event that make it. -/

namespace Sys2Proof.Machine

/-! ### A copy with one of its stream engines set -/

@[simp] theorem Inst.stream_setStream (x : Inst) (n : Node) (e : Stream) : (x.setStream n e).stream n = e := by
  unfold Inst.setStream Inst.stream
  split <;> rfl

@[simp] theorem Inst.meter_setStream (x : Inst) (n : Node) (e : Stream) : (x.setStream n e).meter = x.meter := by
  unfold Inst.setStream
  split <;> rfl

@[simp] theorem Inst.buf_setStream (x : Inst) (n : Node) (e : Stream) (b : Nat) : (x.setStream n e).buf b = x.buf b := by
  unfold Inst.setStream
  split <;> rfl

theorem State.inst?_touchAll (s : State) (tile ctx : Nat) (l : List Loc) (task : Nat) (vt : Fin 16) :
    (s.touchAll tile ctx l).inst? task vt = s.inst? task vt := by
  induction l generalizing s with
  | nil => rfl
  | cons p r ih => exact (ih _).trans ((s.copiesKept_touch tile ctx p).inst? task vt)

section
variable {s : State} {task : Nat} {vt : Fin 16} {x : Inst} (hx : s.inst? task vt = some x) (n : Node)
include hx

theorem State.inst?_updStream (f : Stream → Stream) :
    (s.updStream task vt n f).inst? task vt = some (x.setStream n (f (x.stream n))) :=
  State.inst?_updInst hx _

/-- Two changes of a stream engine, one after the other. -/
theorem State.stream_updStream_updStream (f g : Stream → Stream) :
    (((s.updStream task vt n f).updStream task vt n g).inst task vt).stream n = g (f (x.stream n)) := by
  rw [State.inst_of_inst? (State.inst?_updStream (State.inst?_updStream hx n f) n g), Inst.stream_setStream, Inst.stream_setStream]

/-- SBND at an idle engine sets the bound that it names (R262). -/
theorem State.strBegin_bound {c : Cmd} {k : Nest} (run : (x.stream n).run = none) (wait : (x.stream n).wait = some c)
    (op : wOp c = 0x02) (nest : x.nest (wNest c) = some k) (level : (wFieldsOf c.word).level.toNat < k.levels.length)
    (bound : (wFieldsOf c.word).btok = 1 ∨ c.a.toNat ≤ 2 ^ 20) :
    (((s.strBegin task vt n).inst task vt).stream n).wait = none
      ∧ (((s.strBegin task vt n).inst task vt).stream n).bnds.get? (wNest c * 5 + (wFieldsOf c.word).level.toNat) =
        some (if (wFieldsOf c.word).btok = 1 then .token else .fixed c.a.toNat) := by
  have other : ¬ wOp c = 0x03 := by rw [op]; decide
  have allowed : (decide ((wFieldsOf c.word).level.toNat < k.levels.length)
      && (decide ((wFieldsOf c.word).btok = 1) || decide (c.a.toNat ≤ 1048576))) = true := by
    simpa using ⟨level, bound⟩
  simp only [State.strBegin, State.inst_of_inst? hx, wait, if_neg other, run, Option.isSome_none, Bool.false_eq_true, if_false,
    if_pos op, nest, if_pos allowed, State.stream_updStream_updStream hx]
  exact ⟨trivial, Assoc.get?_put_same _ _ _⟩

/-- SSTOP takes effect as it begins (R263). -/
theorem State.strBegin_stop {c : Cmd} (wait : (x.stream n).wait = some c) (op : wOp c = 0x03) :
    ((s.strBegin task vt n).inst task vt).stream n = Stream.halt { x.stream n with wait := none } (wNest c) := by
  simp only [State.strBegin, State.inst_of_inst? hx, wait, if_pos op]
  exact State.stream_updStream_updStream hx n _ _

end

/-! ### The turns of the commands and the event -/

/-- A stream engine at the locus (R256). -/
structure State.StreamAt (s : State) (y : At2) (n : Node) : Prop where
  node : n = .streamA ∨ n = .streamB
  engine : s.engine n = some y
  slot : s.cur.slot = 0

section
variable {s : State} {y : At2} {n : Node} (h : s.StreamAt y n)
include h

theorem State.StreamAt.inst? : s.inst? y.task y.vt = some y.x := (State.engine_spec h.engine).2.2.2.2

theorem State.StreamAt.cur : s.cur.node = n := (State.engine_spec h.engine).1

/-- The turn of the command that runs is the engine's advance. -/
theorem State.StreamAt.strTurn_run {r : SRun} {w : Word} (run : (y.x.stream n).run = some r) (word : r.cmd.word = w) :
    s.strTurn w = s.strRun y n r := by
  simp only [State.strTurn, h.cur, if_pos h.node, h.engine, run, if_pos word]

/-- STREAM_TOKEN is the advance of a command that runs. -/
theorem State.StreamAt.streamToken_run {r : SRun} (run : (y.x.stream n).run = some r) :
    exec (.streamToken ⟨y.task, y.vt⟩ n) s = .next (s.strRun y n r) := by
  show execStreamToken ⟨y.task, y.vt⟩ n s = _
  simp only [execStreamToken, State.cur_of_engine h.engine h.slot, if_pos h.node, h.engine, run]

/-- The turn of a command that waits at an idle engine begins it. -/
theorem State.StreamAt.strTurn_idle {c : Cmd} {w : Word} (run : (y.x.stream n).run = none) (wait : (y.x.stream n).wait = some c)
    (word : c.word = w) : s.strTurn w = s.strBegin y.task y.vt n := by
  simp only [State.strTurn, h.cur, if_pos h.node, h.engine, run, wait, if_pos word]

/-- STREAM_TOKEN begins what waits at an idle engine. -/
theorem State.StreamAt.streamToken_idle (run : (y.x.stream n).run = none) :
    exec (.streamToken ⟨y.task, y.vt⟩ n) s = .next (s.strBegin y.task y.vt n) := by
  show execStreamToken ⟨y.task, y.vt⟩ n s = _
  simp only [execStreamToken, State.cur_of_engine h.engine h.slot, if_pos h.node, h.engine, run]

/-- The turn of an SSTOP that waits while another command runs begins it (R263). -/
theorem State.StreamAt.strTurn_stop {r : SRun} {c : Cmd} {w : Word} (run : (y.x.stream n).run = some r)
    (wait : (y.x.stream n).wait = some c) (word : c.word = w) (op : wOp c = 0x03) (apart : r.cmd.word ≠ c.word) :
    s.strTurn w = s.strBegin y.task y.vt n := by
  subst word
  simp only [State.strTurn, h.cur, if_pos h.node, h.engine, run, if_neg apart, wait, Option.any_some, op, beq_self_eq_true,
    Bool.and_self, if_true]

end

/-! ### The token of a walk at a position whose element can be read (R258, R264) -/

/-- What a token that is paid for leaves: the token in the walk's buffer, the translations used, the position left. -/
def State.strPut (s : State) (y : At2) (n : Node) (r : SRun) (k : Nest) (t : Wtok) (l : List Loc) : State :=
  let s := (s.dropAccs r.reads).engPut y.task y.vt n (wOut r.cmd) t
  ((s.countAt y.task y.vt 0x13 1).touchAll (s.globalTile y.g y.x) y.g.ctx l).updStream y.task y.vt n
    fun e => { e with run := some { r with walk := r.walk.leave k.levels.length, reads := [] } }

theorem State.strPut_spec {s : State} {y : At2} {x : Inst} (hx : s.inst? y.task y.vt = some x) (n : Node) (r : SRun)
    (k : Nest) (t : Wtok) (l : List Loc) :
    ∃ z, (s.strPut y n r k t l).inst? y.task y.vt = some z ∧ z.meter = x.meter
      ∧ (z.stream n).run = some { r with walk := r.walk.leave k.levels.length, reads := [] }
      ∧ ∀ d, z.buf d = x.buf d ++ if x.slot n (wOut r.cmd) = some d then [t] else [] := by
  have kept : (s.dropAccs r.reads).inst? y.task y.vt = some x := hx
  obtain ⟨z, hz, -, meter, -, buf⟩ := State.engPut_inst kept n (wOut r.cmd) t
  refine ⟨_, State.inst?_updStream ((State.inst?_touchAll _ _ _ l _ _).trans (State.inst?_countAt hz 0x13 1)) n _, ?_, ?_, fun d => ?_⟩
  · rw [Inst.meter_setStream, meter]
  · rw [Inst.stream_setStream]
  · rw [Inst.buf_setStream, buf]

/-- The coordinates at which a walk stands. -/
def SRun.place (r : SRun) (k : Nest) (o : Obj) : List Int := r.walk.coords k.levels (descAxes o.desc) []

/-- The byte of the element at which a walk stands. -/
def SRun.byte (r : SRun) (k : Nest) (o : Obj) : Nat := byteAt o.desc (r.place k o)

/-- The handle of a walk. -/
def SRun.handle (r : SRun) (k : Nest) : Nat := (k.handle.number r.cmd).getD 0

/-- The token of the element at which a walk stands, of a buffer of 4-byte tokens (R258). -/
def State.walkToken (s : State) (task : Nat) (r : SRun) (k : Nest) (obj : Nat) (o : Obj) : Wtok :=
  ⟨r.walk.dim k.levels.length,
    (extend (descFormat o.desc) (s.readObj (some task) obj o (r.byte k o) (descFormat o.desc).bytes).1).setWidth 512,
    s.live r.cmd.deps⟩

/-- A walk stands at a position whose element passes its tests on this die, with room and drops for its token (R161-R164, R258, R264). -/
structure State.WalkReads (s : State) (y : At2) (n : Node) (r : SRun) (k : Nest) (obj : Nat) (o : Obj) (b : Nat) : Prop where
  run : (y.x.stream n).run = some r
  stopped : r.stopped = false
  reads : r.reads = []
  nest : y.x.nest (wNest r.cmd) = some k
  here : r.walk.pass k.levels (y.x.stream n).bnds (wNest r.cmd) r.cmd.a r.cmd.b (y.x.stream n).bnd.toks = .here
  object : s.objOf y.g.ctx y.task (r.handle k) = some (obj, o)
  slot : y.x.slot n (wOut r.cmd) = some b
  room : y.x.slotRoom n (wOut r.cmd) 1 = true
  narrow : (y.x.desc b).wide = false
  inside : inExtent o.desc (r.place k o) = true
  lane : laneCoords o.desc (k.levels.getD 0 {}).axis (r.place k o) 0 = some (r.place k o)
  test : ∃ l d cls fr, s.checkLane y.task y.g y.x (r.handle k) (r.byte k o) false = .ok l d cls fr
  near : s.laneAsks y.task obj (r.byte k o) = false
  stored : s.objs.get? obj = some o
  covered : Safety.Covered y.x 2

section
variable {s : State} {y : At2} {n : Node} {r : SRun} {k : Nest} {obj : Nat} {o : Obj} {b : Nat}
  (at0 : s.StreamAt y n) (h : s.WalkReads y n r k obj o b)
include h

/-- The value of an element that no request has to be asked for. -/
theorem State.WalkReads.fetch : s.fetch y.task (descFormat o.desc) [some ⟨obj, r.byte k o, r.handle k⟩] [] =
    .ready [(s.readObj (some y.task) obj o (r.byte k o) (descFormat o.desc).bytes).1] := by
  simp [State.fetch, h.near, State.readOf, h.stored]

/-- The lanes of a walk into a buffer of 4-byte tokens: the element at which it stands. -/
theorem State.WalkReads.lanes : ((List.range 1).map fun i => (laneCoords o.desc (k.levels.getD 0 {}).axis
    (r.walk.coords k.levels (descAxes o.desc) []) i).map fun c => (⟨obj, byteAt o.desc c, (k.handle.number r.cmd).getD 0⟩ : Loc)) =
    [some ⟨obj, r.byte k o, r.handle k⟩] := by
  have lane : laneCoords o.desc (k.levels.getD 0 {}).axis (r.walk.coords k.levels (descAxes o.desc) []) 0 = some (r.place k o) := h.lane
  rw [show List.range 1 = [0] from rfl, List.map_singleton, lane]
  rfl

include at0

/-- The advance of a walk that stands at a position tries its token. -/
theorem State.WalkReads.strRun : s.strRun y n r = s.strToken y.task y.vt n r k := by
  simp only [State.strRun, h.nest, State.strWalk, State.inst_of_inst? at0.inst?, h.run, h.stopped, Bool.false_eq_true, if_false, h.here]

/-- The token of the walk waits for the page of its element, and is paid for and written where that is open. -/
theorem State.WalkReads.strToken : s.strToken y.task y.vt n r k =
    if s.pageOpen obj (r.byte k o) then
      (s.afterDebit y.task y.vt y.x 2).strPut y n r k (s.walkToken y.task r k obj o) [⟨obj, r.byte k o, r.handle k⟩]
    else s := by
  obtain ⟨-, -, -, hg, hx⟩ := State.engine_spec at0.engine
  obtain ⟨l, d, cls, fr, test⟩ := h.test
  have object : s.objOf y.g.ctx y.task ((k.handle.number r.cmd).getD 0) = some (obj, o) := h.object
  have inside : inExtent o.desc (r.walk.coords k.levels (descAxes o.desc) []) = true := h.inside
  have tests : Tests.of (([some (⟨obj, r.byte k o, r.handle k⟩ : Loc)]).filterMap fun p => p.map fun p =>
      s.checkLane y.task y.g y.x ((k.handle.number r.cmd).getD 0) p.byte false) = .pass (max cls 0) :=
    congrArg (fun c => Tests.of [c]) test
  have live : (s.afterDebit y.task y.vt y.x 2).live r.cmd.deps = s.live r.cmd.deps := by
    simp only [State.live, (State.frame_afterDebit hx 2).accs]
  unfold State.strToken
  simp only [State.group_of_group? hg, State.inst_of_inst? hx, object, h.slot, h.room, Bool.not_true, Bool.false_eq_true, if_false,
    inside, h.narrow, h.lanes, tests, h.reads, h.fetch, State.engDebit_of_covered hx h.covered, live, List.any_cons, List.any_nil,
    Option.any_some, Bool.or_false, List.isEmpty_nil, if_true]
  cases s.pageOpen obj (r.byte k o) with
  | true =>
    simp only [Bool.not_true, Bool.false_eq_true, if_false, if_true, State.strPut, h.reads]
    rfl
  | false => rfl

/-- SWALK and STREAM_TOKEN at a position whose element can be read and whose page is open: the token for 2 drops, and the position
left (R258, R261, R264). -/
theorem State.WalkReads.swalk (page : s.pageOpen obj (r.byte k o) = true) {x : SWalk} (word : r.cmd.word = wordOf (.swalk x)) :
    ∃ t, exec (.swalk x) s = .next t ∧ exec (.streamToken ⟨y.task, y.vt⟩ n) s = .next t
      ∧ (t.inst y.task y.vt).meter + 2 = y.x.meter
      ∧ ((t.inst y.task y.vt).stream n).run = some { r with walk := r.walk.leave k.levels.length }
      ∧ (t.inst y.task y.vt).buf b = y.x.buf b ++ [s.walkToken y.task r k obj o] := by
  obtain ⟨z, hz, meter, run, buf⟩ := State.strPut_spec (State.inst?_afterDebit (s := s) (task := y.task) (vt := y.vt) (x := y.x) 2)
    n r k (s.walkToken y.task r k obj o) [⟨obj, r.byte k o, r.handle k⟩]
  have written := (h.strRun at0).trans ((h.strToken at0).trans (if_pos page))
  refine ⟨_, congrArg Host.Outcome.next ((at0.strTurn_run h.run word).trans written),
    (at0.streamToken_run h.run).trans (congrArg _ written), ?_⟩
  rw [State.inst_of_inst? hz]
  refine ⟨?_, ?_, ?_⟩
  · rw [meter]
    exact Inst.meter_debit h.covered
  · rw [run, ← h.reads]
  · exact (buf b).trans (congrArg _ (if_pos h.slot))

/-- Where the page of its element is not open neither changes anything. -/
theorem State.WalkReads.swalk_waits (page : s.pageOpen obj (r.byte k o) = false) {x : SWalk} (word : r.cmd.word = wordOf (.swalk x)) :
    exec (.swalk x) s = .next s ∧ exec (.streamToken ⟨y.task, y.vt⟩ n) s = .next s := by
  have waits : s.strRun y n r = s := by rw [h.strRun at0, h.strToken at0, page, if_neg Bool.false_ne_true]
  exact ⟨congrArg Host.Outcome.next ((at0.strTurn_run h.run word).trans waits), (at0.streamToken_run h.run).trans (congrArg _ waits)⟩

end

/-! ### SBND and SSTOP (R262, R263) -/

section
variable {s : State} {y : At2} {n : Node} (h : s.StreamAt y n)
include h

/-- SBND at an idle engine, and STREAM_TOKEN, set the bound (R262). -/
theorem State.StreamAt.sbnd {x : SBnd} {c : Cmd} {k : Nest} (run : (y.x.stream n).run = none) (wait : (y.x.stream n).wait = some c)
    (word : c.word = wordOf (.sbnd x)) (op : wOp c = 0x02) (nest : y.x.nest (wNest c) = some k)
    (level : (wFieldsOf c.word).level.toNat < k.levels.length) (bound : (wFieldsOf c.word).btok = 1 ∨ c.a.toNat ≤ 2 ^ 20) :
    ∃ t, exec (.sbnd x) s = .next t ∧ exec (.streamToken ⟨y.task, y.vt⟩ n) s = .next t
      ∧ ((t.inst y.task y.vt).stream n).wait = none
      ∧ ((t.inst y.task y.vt).stream n).bnds.get? (wNest c * 5 + (wFieldsOf c.word).level.toNat) =
          some (if (wFieldsOf c.word).btok = 1 then .token else .fixed c.a.toNat) :=
  ⟨_, congrArg Host.Outcome.next (h.strTurn_idle run wait word), h.streamToken_idle run,
    State.strBegin_bound h.inst? n run wait op nest level bound⟩

/-- SSTOP stops the walk of its nest that runs, and is done (R263). -/
theorem State.StreamAt.sstop {x : SStop} {c : Cmd} {r : SRun} (run : (y.x.stream n).run = some r) (wait : (y.x.stream n).wait = some c)
    (word : c.word = wordOf (.sstop x)) (op : wOp c = 0x03) (apart : r.cmd.word ≠ c.word) (same : wNest r.cmd = wNest c) :
    ∃ t, exec (.sstop x) s = .next t ∧ ((t.inst y.task y.vt).stream n).run = some { r with stopped := true }
      ∧ ((t.inst y.task y.vt).stream n).wait = none := by
  refine ⟨_, congrArg Host.Outcome.next (h.strTurn_stop run wait word op apart), ?_⟩
  rw [State.strBegin_stop h.inst? n wait op]
  refine ⟨?_, rfl⟩
  show (y.x.stream n).run.map _ = _
  rw [run, Option.map_some, if_pos same]

end

/-! ### The statement, and the page at which it fails -/

/-- A nest of four positions on the first axis of the object that handle 1 names. -/
def rowNest : Nest := { handle := .h 1, levels := [{ axis := some 0, count := .num 4 }] }

/-- SWALK of nest 0 into buffer 0, at its first position. -/
def rowRun : SRun := { cmd := { word := wordOf (.swalk ⟨0, 0⟩) }, walk := { bnd := #v[4, 0, 0, 0, 0], fresh := 0 } }

/-- A copy whose stream engine A runs that walk. -/
def rowCopy : Inst :=
  { cfg := { bufs := [some { tokens := 4 }], ports := List.replicate 40 (some 0), nests := [some rowNest] }
    sa := { run := some rowRun }, meter := 4096, stores := [⟨16, false⟩], armed := true, started := [.streamA] }

def rowAt : At2 := ⟨0, 0, { state := .running }, rowCopy⟩

/-- Sixteen FP32 elements in one page, which a port of this die accepts accesses of or, its entry being about to change, holds back (R335,
R339). -/
def rowObj (held : Bool) : Obj := { desc := 16 * 2 ^ 64, pages := [(0, { held := held })] }

/-- The locus at the engine, its tile's translation of the page cached. -/
def rowState (held : Bool) : State :=
  { State.reset with
    cur := ⟨0, 0, .streamA, 0⟩, groups := [(0, rowAt.g)], insts := [(0, rowCopy)], objs := [(1, rowObj held)]
    slots := [(1, { obj := 1 })], keys := [(0, {})], tiles := [(0, { cache := [{ key := 1 }] })] }

theorem streamAt_row (held : Bool) : (rowState held).StreamAt rowAt .streamA where
  node := .inl rfl
  engine := by revert held; decide +kernel
  slot := rfl

/-- What O31 asks of the page: it is valid and not moving. -/
theorem pageReady_row (held : Bool) : (rowState held).pageReady 1 (rowRun.byte rowNest (rowObj held)) = true := by
  revert held
  decide +kernel

theorem pageOpen_row (held : Bool) : (rowState held).pageOpen 1 (rowRun.byte rowNest (rowObj held)) = !held := by
  revert held
  decide +kernel

theorem walkReads_row (held : Bool) : (rowState held).WalkReads rowAt .streamA rowRun rowNest 1 (rowObj held) 0 where
  run := rfl
  stopped := rfl
  reads := rfl
  nest := by decide +kernel
  here := by decide +kernel
  object := by revert held; decide +kernel
  slot := by decide +kernel
  room := by decide +kernel
  narrow := by decide +kernel
  inside := by revert held; decide +kernel
  lane := by revert held; decide +kernel
  test := ⟨⟨1, 0, 1⟩, 16 * 2 ^ 64, 0, false, by revert held; decide +kernel⟩
  near := by revert held; decide +kernel
  stored := rfl
  covered := by decide +kernel

/-- With the page open the walk writes its token. -/
theorem row_writes : ∃ t, exec (.swalk ⟨0, 0⟩) (rowState false) = .next t ∧ (t.inst 0 0).meter + 2 = rowCopy.meter := by
  obtain ⟨t, turn, -, meter, -⟩ := (walkReads_row false).swalk (streamAt_row false) (pageOpen_row false) rfl
  exact ⟨t, turn, meter⟩

/-- Refutes O31: where the page of the element is valid and not moving but held back, its entry being about to change, SWALK waits and
takes no drops. Where it is open, SWALK does all that O31 says (`State.WalkReads.swalk`), and so do SBND and SSTOP
(`State.StreamAt.sbnd`, `State.StreamAt.sstop`). -/
theorem not_streams : ¬ Obligations.Streams := by
  unfold Obligations.Streams
  intro holds
  have at0 := streamAt_row true
  have h := walkReads_row true
  obtain ⟨-, -, walk⟩ := holds .streamA at0.node _ rowAt at0.engine at0.slot
  obtain ⟨t, turn, -, meter, -⟩ := walk ⟨0, 0⟩ rowRun rowNest 1 (rowObj true) 0 _ h.run rfl h.stopped h.reads h.nest h.here h.object
    h.slot h.room h.narrow rfl h.inside h.lane h.test (pageReady_row true) h.near h.stored h.covered
  have same : t = rowState true :=
    Host.Outcome.next.inj (turn.symm.trans (h.swalk_waits at0 (pageOpen_row true) rfl).1)
  rw [same] at meter
  exact absurd meter (by decide +kernel)

end Sys2Proof.Machine
end

section
/-! The end of a box of CPYB and the end of a copy command (R258, R270, R276), from the advance of the copy engine that each is. -/

namespace Sys2Proof.Machine

/-! ### The turn of a copy command and the events of its engine -/

/-- The copy engine at the locus with a command that runs, no position of a unit being left to take (R265, R267). -/
structure State.CopyAt (s : State) (y : At2) (r : CRun) : Prop where
  engine : s.engine .copy = some y
  slot : s.cur.slot = 0
  run : y.x.cpy.run = some r
  moves : r.moves = []

section
variable {s : State} {y : At2} {r : CRun} (h : s.CopyAt y r)
include h

theorem State.CopyAt.inst? : s.inst? y.task y.vt = some y.x := (State.engine_spec h.engine).2.2.2.2

theorem State.CopyAt.group? : s.group? y.task = some y.g := (State.engine_spec h.engine).2.2.2.1

/-- The turn of the command that runs is the engine's advance. -/
theorem State.CopyAt.cpyTurn {w : Word} (word : r.cmd.word = w) : s.cpyTurn w = s.cpyRun y r := by
  simp only [State.cpyTurn, h.engine, h.run, if_pos word]

/-- An event of the engine whose test the run passes is the engine's advance. -/
theorem State.CopyAt.cpyEvent {test : CRun → Bool} (passes : test r = true) : s.cpyEvent ⟨y.task, y.vt⟩ test = s.cpyRun y r := by
  simp only [State.cpyEvent, State.cur_of_engine h.engine h.slot, h.engine, h.run, if_pos passes]

/-- The advance of a command that has moved everything ends it. -/
theorem State.CopyAt.cpyRun_end (atEnd : r.atEnd = true) : s.cpyRun y r = s.cpyFinish y.task y.vt r := by
  simp only [State.cpyRun, h.moves, List.isEmpty_nil, Bool.not_true, Bool.false_eq_true, if_false, atEnd, if_true]

/-- COPY_COMPLETION of such a command (R270). -/
theorem State.CopyAt.copyCompletion (atEnd : r.atEnd = true) :
    exec (.copyCompletion ⟨y.task, y.vt⟩) s = .next (s.cpyFinish y.task y.vt r) := by
  have passes : (r.moves.isEmpty && r.atEnd) = true := by rw [h.moves, atEnd]; rfl
  exact congrArg Host.Outcome.next ((h.cpyEvent (test := fun r => r.moves.isEmpty && r.atEnd) passes).trans (h.cpyRun_end atEnd))

end

/-! ### A box of CPYB whose bytes have all been moved (R276) -/

/-- The state with a bit of a byte of memory set. -/
def State.setMemBit (s : State) (a k : Nat) : State := { s with mem := s.mem.write a (s.mem.read a ||| BitVec.ofNat 8 (2 ^ k)) }

theorem State.inst?_updRun {s : State} {task : Nat} {vt : Fin 16} {x : Inst} (hx : s.inst? task vt = some x) (f : CRun → CRun) :
    (s.updRun task vt f).inst? task vt = some { x with cpy := { x.cpy with run := x.cpy.run.map f } } := State.inst?_updInst hx _

/-- A run of CPYB whose box has been moved and has performed, its bit's byte free to write (R220, R276, R388). -/
structure State.BoxMoved (s : State) (y : At2) (r : CRun) : Prop extends s.CopyAt y r where
  atEnd : r.atEnd = false
  record : walks r.cmd = false
  begun : r.k = 1
  moved : r.boxLen ≤ r.byte
  more : 4096 * r.box < r.rcd.2.2.toNat
  performed : s.cpyOwing r = false
  pad : s.padHeld y.task y.vt .copy = false
  heap : s.heapHeld y.task (s.boxBit y.task y.vt r).1 (s.boxBit y.task y.vt r).2.1 1 = false

/-- The place of a box's bit in memory. -/
def State.boxAddr (s : State) (y : At2) (r : CRun) : Nat :=
  let q := s.boxBit y.task y.vt r
  s.padAddr y.g (s.inst y.task q.1) q.1 q.2.1

section
variable {s : State} {y : At2} {r : CRun} (h : s.BoxMoved y r)
include h

/-- The advance of the engine sets the box's bit and goes on to the next box. -/
theorem State.BoxMoved.cpyRun : s.cpyRun y r = (s.setMemBit (s.boxAddr y r) (s.boxBit y.task y.vt r).2.2).updRun y.task y.vt
    fun r => { r with box := r.box + 1, k := 0, byte := 0, writes := [] } := by
  have begun : ¬ r.k = 0 := by rw [h.begun]; decide
  simp only [State.cpyRun, h.moves, List.isEmpty_nil, Bool.not_true, Bool.not_false, Bool.false_eq_true, if_false, h.atEnd, h.record, if_true,
    State.cpyBox, if_neg (Nat.not_le.2 h.more), begun, h.moved, State.boxEnd, h.performed, h.pad, h.heap, Bool.or_self,
    State.group_of_group? h.group?]
  rfl

/-- BOX_COMPLETE of such a box. -/
theorem State.BoxMoved.boxComplete : exec (.boxComplete ⟨y.task, y.vt⟩) s = .next (s.cpyRun y r) := by
  have passes : (r.moves.isEmpty && !walks r.cmd && !r.atEnd && decide (r.k = 1) && decide (r.boxLen ≤ r.byte)) = true := by
    simp [h.moves, h.record, h.atEnd, h.begun, h.moved]
  exact congrArg Host.Outcome.next (h.toCopyAt.cpyEvent
    (test := fun r => r.moves.isEmpty && !walks r.cmd && !r.atEnd && decide (r.k = 1) && decide (r.boxLen ≤ r.byte)) passes)

end

/-! ### The end of a command (R258, R270) -/

/-- The copy with its copy engine idle. -/
def Inst.cpyIdle (x : Inst) : Inst := { x with cpy := { x.cpy with run := none } }

/-- A command has moved everything, its writes have performed, no END is owed to OUT, and no other command waits. -/
structure State.CopyEnds (s : State) (y : At2) (r : CRun) : Prop extends s.CopyAt y r where
  atEnd : r.atEnd = true
  performed : s.cpyOwing r = false
  alone : y.x.cpy.wait = none
  noEnd : toBuf r.cmd = false ∨ (y.x.nest (yF r.cmd).nest.toNat).any (·.endTok) = false

/-- An engine that becomes idle where no command waits begins none. -/
theorem State.cpyBegin_idle {s : State} {task : Nat} {vt : Fin 16} {x : Inst} (hx : s.inst? task vt = some x)
    (alone : x.cpy.wait = none) :
    State.cpyBegin (s.updInst task vt Inst.cpyIdle) task vt = s.updInst task vt Inst.cpyIdle := by
  have copy : (s.updInst task vt Inst.cpyIdle).inst task vt = x.cpyIdle := State.inst_updInst_same _ hx
  have waits : x.cpyIdle.cpy.wait = none := alone
  have idle : x.cpyIdle.cpy.run = none := rfl
  simp only [State.cpyBegin, copy, waits, idle]

/-- What the addition to a semaphore of its kernel leaves: the request, at the scope that R270 asks for. -/
def State.semAdded (s : State) (y : At2) (c : Cmd) : State :=
  let (s, ids) := s.engReqs y.task y.vt .copy c [.sem y.g.ctx (yF c).sem.toFin (.add 1)]
  ids.foldl (fun s i => s.updAcc i fun a =>
    { a with scope := if yOp c = 7 then .span else .group, order := .rel, answered := true, staged := false, perf := .none }) s

/-- One request of an engine is the next request. -/
theorem State.engReqs_singleton (s : State) (task : Nat) (vt : Fin 16) (n : Node) (c : Cmd) (q : Req) :
    ∃ a, s.engReqs task vt n c [q] = (s.addAcc a, [s.nextId]) ∧ a.req = q := ⟨_, rfl, rfl⟩

/-- The request is there under its number. -/
theorem State.acc_semAdded (s : State) (y : At2) (c : Cmd) :
    ∃ a, (s.semAdded y c).accs.get? s.nextId = some a ∧ a.req = .sem y.g.ctx (yF c).sem.toFin (.add 1) := by
  obtain ⟨a, sent, req⟩ := s.engReqs_singleton y.task y.vt .copy c (.sem y.g.ctx (yF c).sem.toFin (.add 1))
  simp only [State.semAdded, sent, List.foldl_cons, List.foldl_nil, State.updAcc, State.addAcc, Assoc.get?_modify, Assoc.get?_put_same,
    if_true, Option.map_some]
  exact ⟨_, rfl, req⟩

/-- The copies are as they were. -/
theorem State.inst?_semAdded (s : State) (y : At2) (c : Cmd) (task : Nat) (vt : Fin 16) :
    (s.semAdded y c).inst? task vt = s.inst? task vt := rfl

section
variable {s : State} {y : At2} {r : CRun} (h : s.CopyEnds y r)
include h

theorem State.CopyEnds.noToken : (toBuf r.cmd && ((y.x.nest (yF r.cmd).nest.toNat).any (·.endTok)) && decide (r.byte = 0)) = false := by
  rcases h.noEnd with e | e <;> simp [e]

/-- Without a semaphore the engine becomes idle. -/
theorem State.CopyEnds.cpyFinish_plain (sem : (yF r.cmd).semen = 0) :
    s.cpyFinish y.task y.vt r = s.updInst y.task y.vt Inst.cpyIdle := by
  have none : ¬ (yF r.cmd).semen = 1 := by rw [sem]; decide
  simp only [State.cpyFinish, State.inst_of_inst? h.inst?, h.performed, Bool.false_eq_true, if_false, h.noToken, if_neg none]
  exact State.cpyBegin_idle h.inst? h.alone

/-- With a semaphore of the kernel it takes 4 drops and sends the addition first. -/
theorem State.CopyEnds.cpyFinish_sem (sem : (yF r.cmd).semen = 1) (owned : y.g.img.ownsSem (yF r.cmd).sem.toFin = true)
    (cov : Safety.Covered y.x 4) :
    s.cpyFinish y.task y.vt r = ((s.afterDebit y.task y.vt y.x 4).semAdded y r.cmd).updInst y.task y.vt Inst.cpyIdle := by
  have kept := (State.inst?_semAdded (s.afterDebit y.task y.vt y.x 4) y r.cmd y.task y.vt).trans (State.inst?_afterDebit 4)
  simp only [State.cpyFinish, State.inst_of_inst? h.inst?, State.group_of_group? h.group?, h.performed, Bool.false_eq_true, if_false,
    h.noToken, if_pos sem, owned, Bool.not_true, Bool.false_and, if_true, State.engDebit_of_covered h.inst? cov]
  exact State.cpyBegin_idle kept h.alone

end

/-! ### The statement -/

/-- Settles O33: the advance at the end of a box writes one bit and changes the run; the advance at the end of a command idles the engine,
after the request to the semaphore where it names one. -/
theorem copyBoxesAndEnds : Obligations.CopyBoxesAndEnds := by
  unfold Obligations.CopyBoxesAndEnds
  refine ⟨?box, ?ends⟩
  case box =>
    intro s y r x engine slot run moves atEnd word record begun moved more performed pad
    dsimp only
    intro heap
    have h : s.BoxMoved y r := ⟨⟨engine, slot, run, moves⟩, atEnd, record, begun, moved, more, performed, pad, heap⟩
    have kept : (s.setMemBit (s.boxAddr y r) (s.boxBit y.task y.vt r).2.2).inst? y.task y.vt = some y.x := h.inst?
    refine ⟨_, congrArg Host.Outcome.next (h.toCopyAt.cpyTurn word), h.boxComplete, ?_⟩
    rw [h.cpyRun, State.inst_of_inst? (State.inst?_updRun kept _)]
    refine ⟨Memory.read_write_same _ _ _, fun b hb => Memory.read_write_other _ _ hb, ?_⟩
    rw [run]
    rfl
  case ends =>
    intro s y r engine slot run moves atEnd performed alone noEnd
    have h : s.CopyEnds y r := ⟨⟨engine, slot, run, moves⟩, atEnd, performed, alone, noEnd⟩
    refine ⟨fun sem => ?_, fun sem owned cov => ?_⟩
    · refine ⟨_, h.toCopyAt.copyCompletion atEnd, ?_⟩
      rw [h.cpyFinish_plain sem, State.inst_updInst_same _ h.inst?]
      exact ⟨rfl, rfl, rfl⟩
    · obtain ⟨a, sent, req⟩ := (s.afterDebit y.task y.vt y.x 4).acc_semAdded y r.cmd
      have fresh : (s.afterDebit y.task y.vt y.x 4).nextId = s.nextId := (State.copiesKept_countAt _ y.task y.vt 0x04 4).nextId
      have kept := (State.inst?_semAdded (s.afterDebit y.task y.vt y.x 4) y r.cmd y.task y.vt).trans (State.inst?_afterDebit 4)
      refine ⟨_, a, h.toCopyAt.copyCompletion atEnd, ?_⟩
      rw [h.cpyFinish_sem sem owned cov, State.inst_updInst_same _ kept, ← fresh]
      exact ⟨rfl, sent, req, Inst.meter_debit cov⟩

end Sys2Proof.Machine
end

section
/-! SUPPORT. What the taking of a unit's positions leaves of a copy (R268, R277): reads, writes, tokens and the seal of a full commit buffer
touch no element and no buffer but OUT, and give no drops back. -/

namespace Sys2Proof.Machine

/-! ### What is kept -/

/-- The elements, the configuration, the command of the copy engine and the buffers other than OUT are the same, and no drop has come
back. -/
structure Inst.UnitKept (out : Option Nat) (x z : Inst) : Prop where
  elems : z.elems = x.elems
  cfg : z.cfg = x.cfg
  meter : z.meter ≤ x.meter
  cmd : z.cpy.run.map CRun.cmd = x.cpy.run.map CRun.cmd
  buf : ∀ b, out ≠ some b → z.buf b = x.buf b

theorem Inst.UnitKept.refl (out : Option Nat) (x : Inst) : x.UnitKept out x := ⟨rfl, rfl, le_rfl, rfl, fun _ _ => rfl⟩

theorem Inst.UnitKept.trans {out : Option Nat} {x y z : Inst} (h : x.UnitKept out y) (k : y.UnitKept out z) : x.UnitKept out z :=
  ⟨k.elems.trans h.elems, k.cfg.trans h.cfg, k.meter.trans h.meter, k.cmd.trans h.cmd, fun b hb => (k.buf b hb).trans (h.buf b hb)⟩

/-- Staged entries, stores and the wait at handover are none of what is kept. -/
theorem Inst.UnitKept.of_rest {out : Option Nat} {x z : Inst} (elems : z.elems = x.elems) (cfg : z.cfg = x.cfg) (meter : z.meter ≤ x.meter)
    (cpy : z.cpy = x.cpy) (bufs : z.bufs = x.bufs) : x.UnitKept out z :=
  ⟨elems, cfg, meter, by rw [cpy], fun b _ => Inst.buf_of_bufs bufs b⟩

/-- The same of a copy in two states. -/
def State.UnitKept (task : Nat) (vt : Fin 16) (out : Option Nat) (s t : State) : Prop := (s.inst task vt).UnitKept out (t.inst task vt)

section
variable {task : Nat} {vt : Fin 16} {out : Option Nat}

theorem State.UnitKept.refl (s : State) : State.UnitKept task vt out s s := Inst.UnitKept.refl out _

theorem State.UnitKept.trans {s t u : State} (h : State.UnitKept task vt out s t) (k : State.UnitKept task vt out t u) :
    State.UnitKept task vt out s u := Inst.UnitKept.trans h k

theorem State.UnitKept.of_insts {s t : State} (h : t.insts = s.insts) : State.UnitKept task vt out s t := by
  rw [State.UnitKept, State.inst_of_insts h]
  exact Inst.UnitKept.refl out _

theorem State.unitKept_updInst (s : State) (f : Inst → Inst) (keeps : ∀ x, Inst.UnitKept out x (f x)) :
    State.UnitKept task vt out s (s.updInst task vt f) := by
  obtain h | h := s.inst_updInst_cases task vt vt f <;> rw [State.UnitKept, h]
  · exact Inst.UnitKept.refl out _
  · exact keeps _

theorem State.unitKept_updRun (s : State) (f : CRun → CRun) (cmd : ∀ r, (f r).cmd = r.cmd) :
    State.UnitKept task vt out s (s.updRun task vt f) :=
  s.unitKept_updInst _ fun x => ⟨rfl, rfl, le_rfl, by
    have same : CRun.cmd ∘ f = CRun.cmd := funext cmd
    rw [Option.map_map, same], fun _ _ => rfl⟩

end

/-! ### Operations that leave every copy -/

theorem State.insts_foldl {α : Type} (f : State → α → State) (keeps : ∀ s a, (f s a).insts = s.insts) (l : List α) (s : State) :
    (l.foldl f s).insts = s.insts := by
  induction l generalizing s with
  | nil => rfl
  | cons a r ih => exact (ih _).trans (keeps s a)

theorem State.insts_engReqs (s : State) (task : Nat) (vt : Fin 16) (n : Node) (c : Cmd) (l : List Req) :
    (s.engReqs task vt n c l).1.insts = s.insts := by
  suffices each : ∀ (f : State × List Nat → Req → State × List Nat), (∀ p q, (f p q).1.insts = p.1.insts) →
      ∀ p, (l.foldl f p).1.insts = p.1.insts by
    refine each _ ?_ _
    exact fun _ _ => rfl
  intro f keeps
  induction l with
  | nil => exact fun _ => rfl
  | cons q r ih => exact fun p => (ih _).trans (keeps p q)

theorem State.insts_answer (s : State) (id : Nat) (v : Word) (p : Perf) : (s.answer id v p).insts = s.insts := by
  have hub : ∀ a, (s.hubAnswer a v).insts = s.insts := fun a => by
    unfold State.hubAnswer
    repeat' split
    all_goals rfl
  have foreign : ∀ (t : State) d m, ((t.dropForeign id).sendTo d m).insts = t.insts := fun _ _ _ => rfl
  have merged : ∀ (t : State) c, (t.mergeClock c).insts = t.insts := fun _ _ => rfl
  unfold State.answer
  split
  · next a _ =>
    split
    · dsimp only
      split <;> simp only [foreign, merged]
    · rw [(State.insts_reap _ id).1, (State.insts_setAcc _ id _).1, hub a]
  · rfl

theorem State.insts_acquireSpan (s : State) (a : Acc) (obj byte n : Nat) : (s.acquireSpan a obj byte n).insts = s.insts := by
  unfold State.acquireSpan
  split
  · refine State.insts_foldl _ ?_ _ s
    exact fun _ _ => rfl
  · rfl

/-- A word that is filled answers what waits for it, and touches no copy (R178). -/
theorem State.insts_feWake (s : State) (obj byte : Nat) : (s.feWake obj byte).insts = s.insts := by
  refine State.insts_foldl _ (fun s x => ?_) _ s
  dsimp only
  split
  · have answered : ∀ t : State, t.insts = s.insts → ((t.undeferAll x.1).answer x.1 (s.wordAt obj byte) .span).insts = s.insts :=
      fun t same => (State.insts_answer _ _ _ _).trans same
    have acquired : ((s.accs.get? x.1).elim s fun a => s.acquireSpan a obj byte 4).insts = s.insts := by
      cases s.accs.get? x.1 with
      | none => rfl
      | some a => exact s.insts_acquireSpan a obj byte 4
    split
    · exact answered _ acquired
    · exact answered _ acquired
  · rfl

theorem State.insts_writeCells (s : State) (die obj : Nat) (l : List (Nat × Byte)) : (s.writeCells die obj l).insts = s.insts := by
  obtain ⟨m, b, k, e, -⟩ := s.writeCells_eq die obj l
  rw [e]

theorem State.insts_stampWord (s : State) (clock : List (BitVec 16)) (obj byte : Nat) : (s.stampWord clock obj byte).insts = s.insts := by
  unfold State.stampWord
  split <;> rfl

theorem State.insts_storeObj (s : State) (die obj byte : Nat) (bs : List Byte) : (s.storeObj die obj byte bs).insts = s.insts := by
  unfold State.storeObj State.storeCells
  dsimp only
  have stamped : ∀ (t : State) (l : List Nat), (l.foldl (fun s w => s.stampWord [] obj w) t).insts = t.insts := fun t l =>
    State.insts_foldl _ (fun s w => s.insts_stampWord [] obj w) l t
  have written : ∀ (l : List Nat) (f : Nat → List (Nat × Byte)), (l.foldl (fun s p => s.writeCells die obj (f p)) s).insts = s.insts :=
    fun l f => State.insts_foldl _ (fun s p => s.insts_writeCells die obj (f p)) l s
  split
  · split
    · exact (State.insts_foldl _ (fun s w => s.insts_feWake obj w) _ _).trans ((stamped _ _).trans (written _ _))
    · exact (stamped _ _).trans (written _ _)
  · exact (stamped _ _).trans (written _ _)

/-! ### The commit buffer (R173, R294) -/

section
variable {task : Nat} {vt : Fin 16} {out : Option Nat} (s : State)

theorem State.unitKept_setInst {x : Inst} (keeps : (s.inst task vt).UnitKept out x) : State.UnitKept task vt out s (s.setInst task vt x) := by
  rw [State.UnitKept, State.inst_setInst, if_pos rfl]
  exact keeps

theorem State.unitKept_waitStore : State.UnitKept task vt out s (s.waitStore task vt) :=
  State.unitKept_updInst s.mark _ fun _ => .of_rest rfl rfl le_rfl rfl rfl

theorem State.unitKept_openCut (closer : Option Nat) : State.UnitKept task vt out s (s.openCut task vt closer) := by
  simp only [State.UnitKept, State.inst, State.openCut, State.updGroup_keeps, Assoc.getD, Assoc.get?_mapAll]
  cases s.insts.get? (ikey task vt) with
  | none => exact .refl out _
  | some x =>
    simp only [Option.map_some, Option.getD_some]
    split
    · exact .of_rest rfl rfl le_rfl rfl rfl
    · exact .refl out _

/-- The seal that a full commit buffer asks for takes its debit, waits or stops the group (R173, R294). -/
theorem State.unitKept_sealFull (n : Node) : State.UnitKept task vt out s (s.sealFull task vt n) := by
  have queued : State.UnitKept task vt out s (s.queueSeal task vt n none) := .of_insts rfl
  unfold State.sealFull State.wantSeal State.openSeal State.debit
  dsimp only
  split
  · rcases Inst.pay_cases (s.inst task vt) (64 + (s.inst task vt).uncovered) with ⟨e, -⟩ | ⟨e, -⟩ | ⟨e, -⟩ <;> rw [e]
    · exact .of_insts rfl
    · exact queued.trans (State.unitKept_waitStore _)
    · have taken := s.unitKept_setInst (out := out) (x := (s.inst task vt).debit (64 + (s.inst task vt).uncovered))
        (.of_rest rfl rfl (Nat.sub_le _ _) rfl rfl)
      dsimp only
      refine (taken.trans (.of_insts ?_)).trans (State.unitKept_openCut _ none)
      exact State.insts_countAt _ task vt _ _
  · exact .refl s

theorem State.unitKept_stageLine (n : Node) (obj byte : Nat) (bs : List Byte) (accs : List Nat) :
    State.UnitKept task vt out s (s.stageLine task vt n obj byte bs accs) := by
  unfold State.stageLine State.stage
  dsimp only
  split
  · exact State.unitKept_updInst { s with stageNo := s.stageNo + 1 } _ fun _ => .of_rest rfl rfl le_rfl rfl rfl
  · exact State.unitKept_updInst { s with stageNo := s.stageNo + 1 } _ fun _ => .of_rest rfl rfl le_rfl rfl rfl

theorem State.unitKept_stageMore (after obj byte : Nat) (bs : List Byte) :
    State.UnitKept task vt out s (s.stageMore task vt after obj byte bs) :=
  (s.unitKept_stageLine .copy obj byte bs []).trans (State.unitKept_updInst _ _ fun _ => .of_rest rfl rfl le_rfl rfl rfl)

theorem State.unitKept_engReqs (n : Node) (c : Cmd) (l : List Req) : State.UnitKept task vt out s (s.engReqs task vt n c l).1 :=
  .of_insts (s.insts_engReqs task vt n c l)

/-! ### One lane and all lanes written (R268) -/

theorem State.unitKept_laneWrite {c : Cmd} {f : Fmt} {v : Nat} {p : Nat × Nat × Nat} {t : State} {ids : List Nat}
    (written : s.laneWrite task vt c f v p = some (t, ids)) : State.UnitKept task vt out s t := by
  obtain ⟨obj, byte, h⟩ := p
  unfold State.laneWrite at written
  dsimp only at written
  split at written
  · cases written
    exact .refl s
  · split at written
    · split at written
      · cases written
        exact s.unitKept_updRun _ fun _ => rfl
      · split at written
        · cases written
          exact .of_insts rfl
        · cases written
          exact .of_insts (s.insts_storeObj _ _ _ _)
    · split at written
      · cases written
      · split at written
        · cases written
          exact s.unitKept_stageMore _ _ _ _
        · cases written
          refine ((s.unitKept_engReqs .copy c [.wr ⟨obj, byte, h⟩ f.bytes v]).trans (.of_insts ?_)).trans (State.unitKept_stageLine _ _ _ _ _ _)
          refine State.insts_foldl _ ?_ _ _
          exact fun _ _ => rfl

theorem State.unitKept_lanesWrite (c : Cmd) (f : Fmt) (l : List (MSrc × Option (Nat × Nat × Nat))) :
    State.UnitKept task vt out s (State.lanesWrite task vt c f l s).2.1 := by
  induction l generalizing s with
  | nil => exact .refl s
  | cons lane r ih =>
    obtain ⟨src, dst⟩ := lane
    unfold State.lanesWrite
    split
    · next e => cases e
    · next e =>
      cases e
      split
      · exact State.unitKept_sealFull _ _
      · next written => exact (State.unitKept_laneWrite _ written).trans (ih _)
    · next e =>
      cases e
      exact ih _

/-! ### A token written to OUT -/

theorem State.cpy_engPut (n : Node) (k : Nat) (t : Wtok) : ((s.engPut task vt n k t).inst task vt).cpy = (s.inst task vt).cpy := by
  unfold State.engPut
  split
  · next b _ =>
    set w := s.updInst task vt fun x => { x with bufBy := x.bufBy.put b n }
    have cut := w.recordBuf_cutOnly (task := task) (vt := vt) (w.group task) n b t
    have pushed : ((w.recordBuf task (w.group task) vt n b t).pushBuf task (w.group task) vt b t).inst task vt = _ :=
      (State.inst_setInst _ task vt vt _).trans (if_pos rfl)
    dsimp only
    rw [pushed, State.inst_of_insts cut.insts]
    exact State.inst_updInst_keeps (·.cpy) s _ fun _ => rfl
  · rfl

theorem State.unitKept_engPut {k : Nat} (slot : (s.inst task vt).slot .copy k = out) (t : Wtok) :
    State.UnitKept task vt out s (s.engPut task vt .copy k t) := by
  obtain ⟨kept, -, buf⟩ := s.engPut_spec (task := task) (vt := vt) .copy k t
  refine ⟨kept.elems, kept.cfg, kept.meter.le, by rw [State.cpy_engPut], fun b hb => ?_⟩
  rw [buf, slot, if_neg hb, List.append_nil]

/-! ### The flits of CPYX (R277, R492) -/

theorem State.unitKept_sendCells (r : CRun) : State.UnitKept task vt out s (s.sendCells task vt r) :=
  (s.unitKept_engReqs .copy r.cmd _).trans (State.unitKept_updRun _ _ fun _ => rfl)

theorem State.unitKept_readFlits {r : CRun} {f : Fmt} {t : State} (asked : s.readFlits task vt r f = some t) :
    State.UnitKept task vt out s t := by
  unfold State.readFlits at asked
  dsimp only at asked
  split at asked
  · split at asked
    · cases asked
      exact .refl s
    · cases asked
      exact (State.UnitKept.of_insts (t := s.dropAccs r.reads) rfl).trans (State.unitKept_updRun _ _ fun _ => rfl)
  · split at asked
    · cases asked
    · cases asked
      exact (s.unitKept_engReqs .copy r.cmd _).trans (State.unitKept_updRun _ _ fun _ => rfl)

end

/-! ### Positions taken -/

/-- The command that the copy engine runs writes its tokens to buffer `out`, to none where it has no OUT. -/
def State.WritesTo (task : Nat) (vt : Fin 16) (out : Option Nat) (s : State) : Prop :=
  ∀ r, (s.inst task vt).cpy.run = some r → (s.inst task vt).slot .copy (yF r.cmd).out.toNat = out

section
variable {task : Nat} {vt : Fin 16} {out : Option Nat}

theorem State.UnitKept.writesTo {s t : State} (h : State.UnitKept task vt out s t) (w : s.WritesTo task vt out) : t.WritesTo task vt out := by
  intro r run
  have cmd := h.cmd
  rw [run, Option.map_some, eq_comm, Option.map_eq_some_iff] at cmd
  obtain ⟨q, runs, same⟩ := cmd
  rw [Inst.slot_of_cfg h.cfg, ← same]
  exact w q runs

/-- Positions taken in order (R268). -/
theorem State.unitKept_cpyMoves (fuel : Nat) (s : State) (w : s.WritesTo task vt out) :
    State.UnitKept task vt out s (State.cpyMoves task vt fuel s) := by
  induction fuel generalizing s with
  | zero => exact .refl s
  | succ fuel ih =>
    have goesOn : ∀ {t : State} {f : CRun → CRun}, State.UnitKept task vt out s t → (∀ r, (f r).cmd = r.cmd) →
        State.UnitKept task vt out s (State.cpyMoves task vt fuel (t.updRun task vt f)) := fun kept cmd => by
      have noted := kept.trans (State.unitKept_updRun _ _ cmd)
      exact noted.trans (ih _ (noted.writesTo w))
    unfold State.cpyMoves
    split
    · exact .refl s
    · next r run =>
      split
      · have cleared : State.UnitKept task vt out s (if r.got.isEmpty then s else s.updRun task vt fun r => { r with got := [] }) := by
          split
          · exact .refl s
          · exact s.unitKept_updRun _ fun _ => rfl
        dsimp only
        split
        · exact cleared
        · exact cleared.trans (State.unitKept_sendCells _ _)
      · next m0 rest _ =>
        dsimp only
        split
        · exact .refl s
        split
        · exact .refl s
        split
        · exact .refl s
        · exact (s.unitKept_engReqs .copy r.cmd _).trans (State.unitKept_updRun _ _ fun _ => rfl)
        · have dropped : State.UnitKept task vt out s (s.dropAccs r.reads) := .of_insts rfl
          split
          · exact goesOn (dropped.trans ((s.dropAccs r.reads).unitKept_engPut (w r run) _)) fun _ => rfl
          · have written := fun f l => dropped.trans ((s.dropAccs r.reads).unitKept_lanesWrite r.cmd f l)
            split
            · exact goesOn (written _ _) fun _ => rfl
            · exact (written _ _).trans (State.unitKept_updRun _ _ fun _ => rfl)

end

end Sys2Proof.Machine
end

section
/-! A unit of a walking copy command (R257, R267, R268, R335, R532): what gathering it reads, what its begin takes, and the statement on
units. -/

namespace Sys2Proof.Machine

/-! ### Gathering -/

section
variable {s t : State} {task : Nat} {g : Group} {x : Inst} {n : Nest}

/-- Gathering reads the state through the positions alone. -/
theorem State.gather_congr (same : ∀ r tok, t.position task g x n r tok = s.position task g x n r tok) (fuel : Nat) (u : UnitIn) :
    t.gather task g x n fuel u = s.gather task g x n fuel u := by
  induction fuel generalizing u with
  | zero => rfl
  | succ fuel ih =>
    unfold State.gather
    simp only [same, ih]

/-- A change of a copy changes neither handles, objects, pages nor translations. -/
theorem State.gather_updInst (vt : Fin 16) (f : Inst → Inst) (fuel : Nat) (u : UnitIn) :
    (s.updInst task vt f).gather task g x n fuel u = s.gather task g x n fuel u :=
  State.gather_congr (s := s) (t := s.updInst task vt f) (fun _ _ => rfl) fuel u

/-- The command of a unit is that of its run. -/
theorem State.gather_cmd (fuel : Nat) {u v : UnitIn} (got : s.gather task g x n fuel u = .got v) : v.run.cmd = u.run.cmd := by
  induction fuel generalizing u with
  | zero => cases got; rfl
  | succ fuel ih =>
    have ended : ∀ {w : UnitIn}, Gather.got w = .got v → w.run.cmd = u.run.cmd → v.run.cmd = u.run.cmd := by
      rintro w ⟨⟩ same
      exact same
    have more : ∀ {w : UnitIn}, s.gather task g x n fuel w = .got v → w.run.cmd = u.run.cmd → v.run.cmd = u.run.cmd :=
      fun rest same => (ih rest).trans same
    have control : ∀ {p q : Prop} [Decidable p] [Decidable q] {a b w : UnitIn},
        (if p then .got a else if q then .got b else s.gather task g x n fuel w) = .got v →
        a.run.cmd = u.run.cmd → b.run.cmd = u.run.cmd → w.run.cmd = u.run.cmd → v.run.cmd = u.run.cmd := by
      intro p q _ _ a b w got ha hb hw
      split at got
      · exact ended got ha
      split at got
      · exact ended got hb
      · exact more got hw
    unfold State.gather at got
    dsimp only at got
    rcases ite_eq_iff.1 got with ⟨-, got⟩ | ⟨-, got⟩
    · exact ended got rfl
    rcases ite_eq_iff.1 got with ⟨-, got⟩ | ⟨-, got⟩
    · exact ended got rfl
    rcases ite_eq_iff.1 got with ⟨-, got⟩ | ⟨-, got⟩
    · split at got
      · cases got
      rcases ite_eq_iff.1 got with ⟨-, got⟩ | ⟨-, got⟩
      · exact control got rfl rfl rfl
      · exact more got rfl
    split at got
    · rcases ite_eq_iff.1 got with ⟨-, got⟩ | ⟨-, got⟩
      · exact more got rfl
      · exact ended got rfl
    · rcases ite_eq_iff.1 got with ⟨-, got⟩ | ⟨-, got⟩
      · split at got
        · cases got
        rcases ite_eq_iff.1 got with ⟨-, got⟩ | ⟨-, got⟩
        · exact control got rfl rfl rfl
        · exact more got rfl
      · exact more got rfl
    · exact more got rfl
    · exact ended got rfl

end

/-! ### The begin of a unit -/

/-- The copy once a unit has taken its tokens of IN, its positions standing in the run. -/
def Inst.unitTaken (x : Inst) (u : UnitIn) : Inst :=
  let x := if 0 < u.taken then x.slotTake .copy (yF u.run.cmd).inp.toNat u.taken else x
  { x with cpy := { x.cpy with run := some { u.run with moves := u.moves } } }

/-- Tokens taken from a slot, where there are any to take, change the buffers alone. -/
theorem Inst.unitTaken_eq (x : Inst) (u : UnitIn) : ∃ bufs, x.unitTaken u =
    { x with bufs := bufs, cpy := { x.cpy with run := some { u.run with moves := u.moves } } } := by
  unfold Inst.unitTaken
  dsimp only
  split
  · obtain ⟨bufs, e⟩ := x.slotTake_eq .copy (yF u.run.cmd).inp.toNat u.taken
    exact ⟨bufs, by rw [e]⟩
  · exact ⟨x.bufs, rfl⟩

/-- The buffer of IN without the tokens of the unit. -/
theorem Inst.buf_unitTaken {x : Inst} {u : UnitIn} {b : Nat} (slot : x.slot .copy (yF u.run.cmd).inp.toNat = some b) :
    (x.unitTaken u).buf b = (x.buf b).drop u.taken := by
  show (if 0 < u.taken then x.slotTake .copy (yF u.run.cmd).inp.toNat u.taken else x).buf b = _
  split
  · rw [Inst.buf_slotTake slot, if_pos rfl]
  · next none => rw [Nat.eq_zero_of_not_pos none, List.drop_zero]

/-- Tokens that leave a slot make room. -/
theorem Inst.slotRoom_slotTake {x : Inst} {n : Node} {j m : Nat} (room : x.slotRoom n j m = true) (k i : Nat) :
    (x.slotTake n k i).slotRoom n j m = true := by
  unfold Inst.slotRoom at room ⊢
  rw [Inst.slot_slotTake]
  split at room
  · next b hb =>
    have desc : (x.slotTake n k i).desc b = x.desc b := by simp only [Inst.desc, Inst.cfg_slotTake]
    have fewer : roomCount ((x.slotTake n k i).buf b) ≤ roomCount (x.buf b) := by
      by_cases same : x.slot n k = some b
      · rw [Inst.buf_slotTake same, if_pos rfl]
        exact ((List.drop_sublist i _).filter _).length_le
      · rw [Inst.buf_slotTake_other same]
    simp only [decide_eq_true_eq, desc] at room ⊢
    omega
  · cases room

section
variable {s : State} {task : Nat} {vt : Fin 16} {x : Inst} (hx : s.inst? task vt = some x) {u : UnitIn} {cls d : Nat}
  (moves : u.moves ≠ []) (stray : u.stray = none) (pages : ∀ m ∈ u.moves, m.all s.pageOpen = true)
  (room : toBuf u.run.cmd = true → x.slotRoom .copy (yF u.run.cmd).out.toNat
    (x.unitTokens u.run.cmd (u.moves.filter fun m => m.out.isSome).length) = true)
  (tests : Tests.of u.tests = .pass cls) (drops : d = if yOp u.run.cmd = 7 then 128 else unitDrops cls) (cov : Safety.Covered x d)
include hx moves stray pages room tests drops cov

/-- A unit whose tests pass and whose pages are there takes its debit and its tokens, then asks for what it reads elsewhere or takes its
positions (R267, R335). -/
theorem State.cpyUnit_begins : ∃ (t : State) (r : CRun) (f : Fmt), t.inst? task vt = some ((x.debit d).unitTaken u)
    ∧ s.cpyUnit task vt u = (t.readFlits task vt r f).getD (State.cpyMoves task vt 66 t) := by
  have moved : u.moves.isEmpty = false := by simpa using moves
  have fits : (toBuf u.run.cmd && !x.slotRoom .copy (yF u.run.cmd).out.toNat
      (x.unitTokens u.run.cmd (u.moves.filter fun m => m.out.isSome).length)) = false := by
    cases out : toBuf u.run.cmd with
    | false => rfl
    | true => rw [room out]; rfl
  have opens : (u.moves.any fun m => !m.all s.pageOpen) = false := by simpa using pages
  subst drops
  simp only [State.cpyUnit, State.inst_of_inst? hx, moved, Bool.false_eq_true, if_false, fits, tests, opens, stray,
    State.engDebit_of_covered hx cov]
  refine ⟨_, _, _, ?_, rfl⟩
  rw [State.inst?_touchAll]
  exact State.inst?_countAt (State.inst?_updInst (State.inst?_afterDebit _) fun x => x.unitTaken u) 0x14 1

end

/-! ### The advance of a walking command -/

/-- The control tokens at the head of IN that a command discards before its next unit (R532). -/
def Inst.stale (x : Inst) (c : Cmd) : Nat :=
  if fromBuf c || indexed c then ((x.slotToks .copy (yF c).inp.toNat).takeWhile fun t => dropped t.side).length else 0

/-- The copy without them. -/
def Inst.pastStale (x : Inst) (c : Cmd) : Inst :=
  if x.stale c = 0 then x else x.slotTake .copy (yF c).inp.toNat (x.stale c)

theorem Inst.pastStale_eq (x : Inst) (c : Cmd) : ∃ bufs, x.pastStale c = { x with bufs := bufs } := by
  unfold Inst.pastStale
  split
  · exact ⟨x.bufs, rfl⟩
  · exact x.slotTake_eq _ _ _

/-- The buffer of IN without them. -/
theorem Inst.buf_pastStale {x : Inst} {c : Cmd} {b : Nat} (slot : x.slot .copy (yF c).inp.toNat = some b) :
    (x.pastStale c).buf b = (x.buf b).drop (x.stale c) := by
  unfold Inst.pastStale
  split
  · next none => rw [none, List.drop_zero]
  · rw [Inst.buf_slotTake slot, if_pos rfl]

theorem Inst.slotRoom_pastStale {x : Inst} {j m : Nat} (room : x.slotRoom .copy j m = true) (c : Cmd) :
    (x.pastStale c).slotRoom .copy j m = true := by
  unfold Inst.pastStale
  split
  · exact room
  · exact Inst.slotRoom_slotTake room _ _

/-- The state in which the engine has discarded them. -/
def State.pastStale (s : State) (y : At2) (c : Cmd) : State :=
  if y.x.stale c = 0 then s else s.updInst y.task y.vt fun x => x.slotTake .copy (yF c).inp.toNat (y.x.stale c)

/-- A walking command whose next unit has been gathered (R267). -/
structure State.UnitGathered (s : State) (y : At2) (r : CRun) (n : Nest) (u : UnitIn) : Prop extends s.CopyAt y r where
  atEnd : r.atEnd = false
  walk : walks r.cmd = true
  nest : y.x.nest (yF r.cmd).nest.toNat = some n
  got : s.gather y.task y.g y.x n 2048
    { run := r, toks := (y.x.slotToks .copy (yF r.cmd).inp.toNat).drop (y.x.stale r.cmd) } = .got u

section
variable {s : State} {y : At2} {r : CRun} {n : Nest} {u : UnitIn} (h : s.UnitGathered y r n u)
include h

theorem State.UnitGathered.inst?_pastStale : (s.pastStale y r.cmd).inst? y.task y.vt = some (y.x.pastStale r.cmd) := by
  unfold State.pastStale Inst.pastStale
  split
  · exact h.inst?
  · exact State.inst?_updInst h.inst? _

/-- The advance of the engine begins the unit. -/
theorem State.UnitGathered.cpyRun : s.cpyRun y r = (s.pastStale y r.cmd).cpyUnit y.task y.vt u := by
  have got : (s.pastStale y r.cmd).gather y.task y.g y.x n 2048
      { run := r, toks := (y.x.slotToks .copy (yF r.cmd).inp.toNat).drop (y.x.stale r.cmd) } = .got u := by
    unfold State.pastStale
    split
    · exact h.got
    · exact (State.gather_updInst _ _ _ _).trans h.got
  unfold State.pastStale Inst.stale at got ⊢
  simp only [State.cpyRun, h.moves, List.isEmpty_nil, Bool.not_true, Bool.false_eq_true, if_false, h.atEnd, h.walk, h.nest, got]

/-- COPY_UNIT of it. -/
theorem State.UnitGathered.copyUnit : exec (.copyUnit ⟨y.task, y.vt⟩) s = .next (s.cpyRun y r) := by
  have passes : (!r.moves.isEmpty || (!r.atEnd && (walks r.cmd || decide (r.k = 0) || decide (r.byte < r.boxLen)))) = true := by
    simp [h.atEnd, h.walk]
  exact congrArg Host.Outcome.next (h.toCopyAt.cpyEvent
    (test := fun r => !r.moves.isEmpty || (!r.atEnd && (walks r.cmd || decide (r.k = 0) || decide (r.byte < r.boxLen)))) passes)

/-- What the advance leaves where the unit's tests pass and its pages are there. -/
theorem State.UnitGathered.cpyRun_spec {cls d : Nat} (moves : u.moves ≠ []) (pages : ∀ m ∈ u.moves, m.all s.pageOpen = true)
    (stray : u.stray = none) (room : toBuf u.run.cmd = true → y.x.slotRoom .copy (yF u.run.cmd).out.toNat
      (y.x.unitTokens u.run.cmd (u.moves.filter fun m => m.out.isSome).length) = true)
    (tests : Tests.of u.tests = .pass cls) (drops : d = if yOp u.run.cmd = 7 then 128 else unitDrops cls) (cov : Safety.Covered y.x d) :
    ((s.cpyRun y r).inst y.task y.vt).meter + d ≤ y.x.meter ∧ ((s.cpyRun y r).inst y.task y.vt).elems = y.x.elems
      ∧ ∀ b, y.x.slot .copy (yF r.cmd).inp.toNat = some b → y.x.slot .copy (yF r.cmd).out.toNat ≠ some b →
        ((s.cpyRun y r).inst y.task y.vt).buf b = (y.x.buf b).drop (y.x.stale r.cmd + u.taken) := by
  obtain ⟨bufs, past⟩ := y.x.pastStale_eq r.cmd
  have cmd : u.run.cmd = r.cmd := State.gather_cmd 2048 h.got
  have opens : ∀ m ∈ u.moves, m.all (s.pastStale y r.cmd).pageOpen = true := by
    unfold State.pastStale
    split
    · exact pages
    · exact pages
  have fits : toBuf u.run.cmd = true → (y.x.pastStale r.cmd).slotRoom .copy (yF u.run.cmd).out.toNat
      ((y.x.pastStale r.cmd).unitTokens u.run.cmd (u.moves.filter fun m => m.out.isSome).length) = true := fun out => by
    have same : (y.x.pastStale r.cmd).unitTokens = y.x.unitTokens := by rw [past]; rfl
    rw [same]
    exact Inst.slotRoom_pastStale (room out) r.cmd
  have cov' : Safety.Covered (y.x.pastStale r.cmd) d := by rw [past]; exact cov
  obtain ⟨t, q, f, hz, begins⟩ := State.cpyUnit_begins h.inst?_pastStale moves stray opens fits tests drops cov'
  obtain ⟨left, taken⟩ := ((y.x.pastStale r.cmd).debit d).unitTaken_eq u
  set z := ((y.x.pastStale r.cmd).debit d).unitTaken u
  have copy : t.inst y.task y.vt = z := State.inst_of_inst? hz
  have cfg : z.cfg = y.x.cfg := by rw [taken, past]; rfl
  have writes : t.WritesTo y.task y.vt (y.x.slot .copy (yF r.cmd).out.toNat) := by
    intro p run
    rw [copy, taken] at run
    obtain rfl := Option.some.inj run
    rw [copy, Inst.slot_of_cfg cfg]
    exact congrArg (fun c => y.x.slot .copy (yF c).out.toNat) cmd
  have kept : State.UnitKept y.task y.vt (y.x.slot .copy (yF r.cmd).out.toNat) t (s.cpyRun y r) := by
    rw [h.cpyRun, begins]
    cases asked : t.readFlits y.task y.vt q f with
    | some v => exact t.unitKept_readFlits asked
    | none => exact State.unitKept_cpyMoves 66 t writes
  rw [State.UnitKept, copy] at kept
  refine ⟨?_, ?_, fun b inp out => ?_⟩
  · have meter : z.meter + d = y.x.meter := by
      rw [taken]
      exact (Inst.meter_debit cov').trans (by rw [past])
    exact (Nat.add_le_add_right kept.meter d).trans meter.le
  · rw [kept.elems, taken, past]
    rfl
  · have mapped : ((y.x.pastStale r.cmd).debit d).slot .copy (yF u.run.cmd).inp.toNat = some b := by
      rw [cmd, past]
      exact inp
    rw [kept.buf b out, Inst.buf_unitTaken mapped]
    exact (congrArg (List.drop u.taken) (Inst.buf_pastStale inp)).trans List.drop_drop

end

/-! ### The statement -/

/-- Settles O32: the turn of the command and the event are the engine's advance, which discards, takes the unit's debit and its tokens, and
whose positions, taken or waiting, leave the rest. -/
theorem copyUnits : Obligations.CopyUnits := by
  unfold Obligations.CopyUnits
  intro s y r n u cls engine slot run idle atEnd walk nest
  dsimp only
  intro got moves pages stray room tests cov
  have h : s.UnitGathered y r n u := ⟨⟨engine, slot, run, idle⟩, atEnd, walk, nest, got⟩
  have turn : ∀ {w : Word}, r.cmd.word = w → Host.Outcome.next (s.cpyTurn w) = (.next (s.cpyRun y r) : Out) := fun word =>
    congrArg Host.Outcome.next (h.toCopyAt.cpyTurn word)
  exact ⟨s.cpyRun y r, fun _ => turn, fun _ => turn, fun _ => turn, fun _ => turn, fun _ => turn, fun _ => turn, h.copyUnit,
    h.cpyRun_spec moves pages stray room tests rfl cov⟩

end Sys2Proof.Machine
end

section
/-! A fold that meets a part that is PARKED (R475, R502). -/

namespace Sys2Proof.Machine

/-- A group of two tiles that has halted to fold onto one (R391): its alternative is there, and nothing of it is under way. -/
def haltedForFold : Group := { state := .halted, why := some (.shrink false), img := { gw := 2, alt2 := [(0, {}), (1, {})] } }

/-- That group in a part in power state p, whose regions hold its image and whose context has the packets of the surcharge. -/
def foldState (p : PSt) : State :=
  { State.reset with
    pst := p, groups := [(0, haltedForFold)], insts := [(0, {}), (1, { host := 1 })], ctxs := [(0, { acct := 100 })]
    regions := Vector.replicate 64 { caches := Vector.replicate 4 { st := .ready } } }

/-- In a running part the group moves onto its host for 16 packets. -/
theorem fold_moves : ∃ t, exec (.fold 0 false) (foldState .run) = .next t ∧ (t.group 0).fold = 2 ∧ (t.group 0).state = .folded
    ∧ (t.ctx 0).acct + 16 = 100 :=
  ⟨_, rfl, by decide +kernel, by decide +kernel, by decide +kernel⟩

/-- While no group runs the move waits (R475). -/
theorem execFold_parked {s : State} {task : Nat} {g : Group} {w : Bool} (hg : s.group? task = some g) (halted : g.state = .halted)
    (why : g.why = some (.shrink w)) (parked : s.parkedNow = true) (four : Bool) : exec (.fold task four) s = .next s := by
  have stands : g.live = false := by simp [Group.live, halted]
  show Host.Outcome.next _ = _
  simp [hg, stands, halted, why, parked]

/-- Refutes O44: a group that has halted for its fold and may move stays halted in its rectangle while the part is PARKED, in which no
group runs (R475, R502); O44 has it move in every power state. In a running part the same group moves (`fold_moves`). -/
theorem not_folds : ¬ Obligations.Folds := by
  unfold Obligations.Folds
  intro holds
  obtain ⟨-, moves, -⟩ := holds (foldState .parked) 0 haltedForFold rfl
  obtain ⟨t, turn, fold, -⟩ := moves false rfl rfl (by decide) (by decide +kernel) (by decide +kernel) (by decide +kernel) (by decide)
    (by decide +kernel) (by decide +kernel)
  have same : t = foldState .parked :=
    Host.Outcome.next.inj (turn.symm.trans (execFold_parked rfl rfl rfl rfl false))
  rw [same] at fold
  exact absurd fold (by decide +kernel)

end Sys2Proof.Machine
end

section
/-! Groups, regions and contexts after the operations of the sequencer, and the stores and timers of a group (R285-R288, R470). -/

namespace Sys2Proof.Machine

/-! ### Groups, regions and contexts after an update -/

@[simp] theorem State.group?_setGroup (s : State) (task : Nat) (g : Group) : (s.setGroup task g).group? task = some g :=
  Assoc.get?_put_same _ _ _

/-- A stop that is not a page fault stands at once in a group that had none (R303). -/
theorem State.group?_raise {s : State} {task : Nat} {g : Group} (hg : s.group? task = some g) (going : g.stop = none) (code : Nat)
    (vt : Fin 16) (node : Node) (opc slot : Nat) : (s.raise task (.fault code vt node opc slot)).group? task
      = some { g with stop := some (.fault code vt node opc slot) } := by
  show (State.updGroup { s with fired := true } task _).group? task = _
  rw [State.group?_updGroup_same, show State.group? { s with fired := true } task = some g from hg]
  simp [Group.stopped, going]

theorem State.region_updRegion (s : State) (r : Nat) (f : Region → Region) : (s.updRegion r f).region r = f (s.region r) := by
  simp [State.region, State.updRegion]

/-- An event counted changes the counters of regions alone. -/
theorem State.undr_countAt (s : State) (task : Nat) (vt : Fin 16) (src n r : Nat) :
    ((s.countAt task vt src n).region r).undr = (s.region r).undr := by
  unfold State.countAt
  split
  · next g _ =>
    simp only [State.count, State.region, State.updRegion, Vector.getElem_set]
    split
    · next same => simp [same]
    · rfl
  · rfl

theorem State.group?_countAt (s : State) (task : Nat) (vt : Fin 16) (src n k : Nat) : (s.countAt task vt src n).group? k = s.group? k :=
  (s.copiesKept_countAt task vt src n).group? k

theorem State.ctxs_countAt (s : State) (task : Nat) (vt : Fin 16) (src n : Nat) : (s.countAt task vt src n).ctxs = s.ctxs := by
  unfold State.countAt
  split <;> rfl

theorem State.ctx_of_get? {s : State} {n : Nat} {c : Ctx} (hc : s.ctxs.get? n = some c) : s.ctx n = c := by
  simp [State.ctx, Assoc.getD, hc]

/-- The context once an entry stands in its fault ring (R468). -/
def Ctx.logged (c : Ctx) (kind record : Nat) : Ctx :=
  { c with ring := c.ring.put c.prod.toNat (kind + record * 2 ^ 128), prod := c.prod + 1, irq := c.irq + 1 }

theorem State.get?_ringPut {s : State} {n : Nat} {c : Ctx} (hc : s.ctxs.get? n = some c) (kind record : Nat) :
    (s.ringPut n kind record).ctxs.get? n = some (c.logged kind record) :=
  (Assoc.get?_modify s.ctxs n (Ctx.logged · kind record) n).trans (by rw [if_pos rfl, hc, Option.map_some])

theorem State.ringFull_of_room {s : State} {n : Nat} {c : Ctx} (hc : s.ctxs.get? n = some c) (room : c.prod + 1 ≠ c.cons) :
    s.ringFull n = false := by
  simpa only [State.ringFull, State.ctx_of_get? hc, beq_eq_false_iff_ne] using room

/-! ### Stores (R285-R288) -/

section
variable {s : State} {l : At} {g : Group} {x : Inst} (hg : s.group? l.task = some g) (hx : s.inst? l.task l.vt = some x)
include hg hx

/-- The next store of a tile that the dispenser serves is built (R285, R286). -/
theorem execStoreBuild_builds (armed : x.armed = true) (placed : g.state ≠ .halted) (admits : s.admits (s.physRegion g.region) = true)
    (half : x.unspent < 2) (left : x.unbuilt (s.packets l.task) ≠ 0) :
    ∃ t, exec (.storeBuild l) s = .next t ∧ t.inst l.task l.vt =
      { x with handover := false, stores := x.stores ++ [⟨nextStore (x.unbuilt (s.packets l.task)), s.pst == .boost⟩] } := by
  refine ⟨s.buildStore l.task l.vt, ?_, ?_⟩
  · show Host.Outcome.next _ = _
    simp [hg, hx, armed, placed, admits, half]
  · rw [State.buildStore, State.inst_updInst_same _ hx]
    simp only [if_neg left]

/-- A store in use that ends too early stops its group, and its region counts it (R288). -/
theorem execStoreUnderrun_stops (live : g.live = true) (inUse : x.unspent ≠ 0) :
    ∃ t, exec (.storeUnderrun l) s = .next t ∧ (t.group l.task).stop = some (.fault 0x11 l.vt .seq 0 0)
      ∧ (t.region (s.physRegion g.region)).undr =
          let n := (s.region (s.physRegion g.region)).undr
          if n = 0xFFFFFFFF then n else n + 1 := by
  have going : g.stop = none := by
    simp only [Group.live, Bool.and_eq_true, Option.isNone_iff_eq_none] at live
    exact live.1.2
  have stops : exec (.storeUnderrun l) s = .next (((s.raise l.task (.fault 0x11 l.vt .seq 0 0)).updRegion (s.physRegion g.region) fun r =>
      { r with undr := if r.undr = 0xFFFFFFFF then r.undr else r.undr + 1 }).countAt l.task l.vt 0x09 1) := by
    show Host.Outcome.next _ = _
    simp only [hg, hx, live, inUse, ne_eq, not_false_eq_true, decide_true, Bool.and_self, if_true]
    rfl
  refine ⟨_, stops, ?_, ?_⟩
  · refine congrArg Group.stop (State.group_of_group? (g := { g with stop := some (.fault 0x11 l.vt .seq 0 0) }) ?_)
    exact (State.group?_countAt _ _ _ _ _ _).trans (State.group?_raise hg going 0x11 l.vt .seq 0 0)
  · rw [State.undr_countAt, State.region_updRegion]
    rfl

end

/-- A count of 32 bits that stays at its greatest value. -/
theorem toNat_saturated (n : Word) : (if n = 0xFFFFFFFF then n else n + 1).toNat = min (2 ^ 32 - 1) (n.toNat + 1) := by
  split
  · next full => subst full; rfl
  · next room =>
    have below : n.toNat ≠ 0xFFFFFFFF := fun e => room (BitVec.eq_of_toNat_eq e)
    rw [BitVec.toNat_add]
    have := n.isLt
    simp
    omega

/-! ### The watchdog and slow remotes (R470) -/

section
variable {s : State} {task : Nat} {g : Group} (hg : s.group? task = some g)
include hg

/-- The watchdog counts below its limit. -/
theorem execWatchdogExpiry_counts {n : Nat} (counts : s.counts task g = true) (on : (s.ctx g.ctx).wdlim ≠ 0)
    (below : g.wd + n < (s.ctx g.ctx).wdlim.toNat) :
    exec (.watchdogExpiry task n) s = .next (s.setGroup task { g with wd := g.wd + n }) := by
  have on : (s.ctx g.ctx).wdlim.toNat ≠ 0 := fun e => on (BitVec.eq_of_toNat_eq e)
  show Host.Outcome.next _ = _
  simp [hg, counts, on, below]

/-- At its limit the watchdog stops a group that waits for no other die. -/
theorem execWatchdogExpiry_stops {n : Nat} (counts : s.counts task g = true) (on : (s.ctx g.ctx).wdlim ≠ 0)
    (atLimit : (s.ctx g.ctx).wdlim.toNat ≤ g.wd + n) (alone : s.remoteWaits task = []) :
    exec (.watchdogExpiry task n) s = .next (s.raise task (.fault 0x70 0 .seq 0 0)) := by
  have on : (s.ctx g.ctx).wdlim.toNat ≠ 0 := fun e => on (BitVec.eq_of_toNat_eq e)
  show Host.Outcome.next _ = _
  simp [hg, counts, on, not_lt.2 atLimit, alone]

/-- At its limit an episode opens for the oldest remote access, and the context's ring takes its record. -/
theorem execWatchdogExpiry_opens {n id : Nat} {a : Acc} {r : List (Nat × Acc)} {c : Ctx} (counts : s.counts task g = true)
    (on : (s.ctx g.ctx).wdlim ≠ 0) (atLimit : (s.ctx g.ctx).wdlim.toNat ≤ g.wd + n) (waits : s.remoteWaits task = (id, a) :: r)
    (first : g.episode = none) (hc : s.ctxs.get? g.ctx = some c) (room : c.prod + 1 ≠ c.cons) :
    ∃ t record, exec (.watchdogExpiry task n) s = .next t ∧ t.ctxs.get? g.ctx = some (c.logged 4 record)
      ∧ t.group? task = some { g with wd := (s.ctx g.ctx).wdlim.toNat, episode := some id } := by
  have on : (s.ctx g.ctx).wdlim.toNat ≠ 0 := fun e => on (BitVec.eq_of_toNat_eq e)
  set record := faultRecord task g.lastCut 0x61 g.ctx (s.ctx g.ctx).vf 6 0 0 0 0 with isRecord
  set p := (s.setGroup task { g with wd := (s.ctx g.ctx).wdlim.toNat, episode := some id }).ringPut g.ctx 4 record
  refine ⟨p.countAt task 0 0x23 1, record, ?_, ?_, ?_⟩
  · show Host.Outcome.next _ = _
    simp only [hg, counts, on, not_lt.2 atLimit, waits, first, State.ringFull_of_room hc room, Bool.not_true, decide_false, Bool.or_self,
      Bool.false_eq_true, if_false, Option.isSome_none]
    rfl
  · rw [State.ctxs_countAt]
    exact State.get?_ringPut hc 4 record
  · exact (State.group?_countAt _ _ _ _ _ _).trans (s.group?_setGroup task _)

/-- The reply that an episode waits for has not come in time. -/
theorem execRemoteRetrainExpiry_stops {id : Nat} {a : Acc} (episode : g.episode = some id) (there : s.accs.get? id = some a)
    (remote : a.remote = true) (waits : a.reply = none) :
    exec (.remoteRetrainExpiry task) s = .next (s.raise task (.fault 0x60 a.vt a.node a.opc a.rule)) := by
  show Host.Outcome.next _ = _
  simp [hg, episode, there, remote, waits]

end

/-! ### The statement -/

/-- Settles O42, event by event. -/
theorem storesAndTimers : Obligations.StoresAndTimers := by
  unfold Obligations.StoresAndTimers
  refine ⟨fun s l g x hg hx => ⟨fun armed placed admits half left => ?_, fun live inUse => ?_⟩, fun s task g hg => ⟨?_, ?_⟩⟩
  · obtain ⟨t, turn, copy⟩ := execStoreBuild_builds hg hx armed placed admits half left
    exact ⟨t, turn, by rw [copy]; rfl, by rw [copy]⟩
  · obtain ⟨t, turn, stop, undr⟩ := execStoreUnderrun_stops hg hx live inUse
    exact ⟨t, turn, stop, by rw [undr]; exact toNat_saturated _⟩
  · intro n state going power served on
    have counts : s.counts task g = true := by
      rcases state with e | e | e <;> simp [State.counts, e, going, power, served]
    refine ⟨fun below => ?_, fun atLimit alone => ?_, fun id a r c atLimit waits first hc room => ?_⟩
    · refine ⟨_, execWatchdogExpiry_counts hg counts on below, ?_⟩
      rw [State.group_of_group? (s.group?_setGroup task _)]
      exact ⟨rfl, going⟩
    · exact ⟨_, execWatchdogExpiry_stops hg counts on atLimit alone,
        congrArg Group.stop (State.group_of_group? (State.group?_raise hg going _ _ _ _ _))⟩
    · obtain ⟨t, record, turn, ring, group⟩ := execWatchdogExpiry_opens hg counts on atLimit waits first hc room
      refine ⟨t, c.logged 4 record, turn, ?_⟩
      rw [State.group_of_group? group]
      exact ⟨rfl, going, ring, rfl⟩
  · intro id a episode there remote waits going
    exact ⟨_, execRemoteRetrainExpiry_stops hg episode there remote waits,
      congrArg Group.stop (State.group_of_group? (State.group?_raise hg going _ _ _ _ _))⟩

end Sys2Proof.Machine
end

section
/-! A tile is made ready and armed, control tokens reach its nodes, RECFG reconfigures it or parks (R281, R290, R371-R376, R382, R504). -/

namespace Sys2Proof.Machine

/-! ### What folds keep -/

/-- What a fold's steps keep, the fold keeps. -/
theorem foldl_keeps {σ α β : Type} (proj : σ → β) {f : σ → α → σ} (keeps : ∀ c a, proj (f c a) = proj c) (l : List α) (c : σ) :
    proj (l.foldl f c) = proj c := by
  induction l generalizing c with
  | nil => rfl
  | cons a r ih => exact (ih _).trans (keeps c a)

/-- A group that runs again mirrors its arrival counters; its copies and the memory stay. -/
theorem State.remirror_keeps (s : State) (task : Nat) : (s.remirror task).insts = s.insts ∧ (s.remirror task).mem = s.mem := by
  unfold State.remirror
  dsimp only
  constructor
  · rw [foldl_keeps State.insts]
    · rfl
    · exact fun _ _ => rfl
  · rw [foldl_keeps State.mem]
    · rfl
    · exact fun _ _ => rfl

theorem State.groupArmed_keeps (s : State) (task : Nat) : (s.groupArmed task).insts = s.insts ∧ (s.groupArmed task).mem = s.mem := by
  unfold State.groupArmed
  split
  · exact ⟨rfl, rfl⟩
  · next g _ =>
    by_cases saved : g.saved = true
    · simp only [saved, if_true]
      exact State.remirror_keeps _ task
    · simp only [if_neg saved]
      split
      · exact State.remirror_keeps _ task
      · exact ⟨rfl, rfl⟩

/-! ### A tile made ready (R373) -/

section
variable (s : State) (task : Nat) (g : Group) (vt : Fin 16)

/-- Whether another copy of the host tile is armed does not turn on the copy itself. -/
theorem State.hostArmed_setInst (x : Inst) (host : Nat) : (s.setInst task vt x).hostArmed task g vt host = s.hostArmed task g vt host := by
  unfold State.hostArmed
  congr 1
  funext v
  by_cases same : v = vt
  · simp [same]
  · have other : (s.setInst task vt x).inst? task v = s.inst? task v :=
      Assoc.get?_put_other _ _ (fun e => same (ikey_inj.1 e))
    rw [other]

/-- The pad of a tile on which no other copy stands is scrubbed whole. -/
theorem State.scrubPad_alone {x : Inst} (alone : s.hostArmed task g vt x.host = false) :
    s.scrubPad task g vt x = { s with mem := s.mem.clear (s.globalTile g x * 262144) 262144 } := by
  rw [State.scrubPad, alone, if_neg Bool.false_ne_true]

end

theorem State.globalTile_of_host {s : State} {g : Group} {x y : Inst} (same : y.host = x.host) : s.globalTile g y = s.globalTile g x := by
  simp only [State.globalTile, Group.tileOf, same]

/-- What the preparation of a copy leaves: its meter, its host tile, and whether it is armed. -/
structure Inst.Prepares (x y : Inst) : Prop where
  armed : y.armed = x.armed
  meter : y.meter = x.meter
  host : y.host = x.host

section
variable {s : State} {task : Nat} {vt : Fin 16} {x : Inst} (hx : s.inst? task vt = some x)
include hx

/-- The port tokens of a tile that arms are still to be taken (R373). -/
theorem State.inst?_portTokens (g : Group) : ∃ y, (s.portTokens task g vt).inst? task vt = some y ∧ x.Prepares y ∧ y.cleared = [] := by
  set same := (s.tile (s.globalTile g (s.inst task vt))).lastCtx == some g.ctx
  exact ⟨_, State.inst?_updInst hx fun x => { x with cleared := [], tagged := if same then x.nodes else [], started := [], halted := [] },
    ⟨rfl, rfl, rfl⟩, rfl⟩

theorem State.inst?_buildStore : ∃ y, (s.buildStore task vt).inst? task vt = some y ∧ x.Prepares y ∧ y.cleared = x.cleared := by
  unfold State.buildStore
  dsimp only
  rw [State.inst?_updInst hx]
  split
  · exact ⟨_, rfl, ⟨rfl, rfl, rfl⟩, rfl⟩
  · exact ⟨_, rfl, ⟨rfl, rfl, rfl⟩, rfl⟩

end

/-- A tile made ready for a new dispatch holds the copy at arm, and its pad is zero where no other copy stands on it. -/
theorem State.readyTile_new (s : State) (task : Nat) (g : Group) (vt : Fin 16) {k : Task} (new : k.resume = none)
    (alone : s.hostArmed task g vt (g.hostOf vt).1 = false) :
    ∃ y, (s.readyTile task g vt k).inst? task vt = some y
      ∧ Inst.Prepares (freshInst (g.img.tiles.getD vt.val {}) g.args task vt (g.hostOf vt).1 k.p) y ∧ y.ready = true ∧ y.cleared = []
      ∧ (s.readyTile task g vt k).mem = s.mem.clear (s.globalTile g y * 262144) 262144 := by
  set x := freshInst (g.img.tiles.getD vt.val {}) g.args task vt (g.hostOf vt).1 k.p
  set u := (s.setInst task vt x).scrubPad task g vt x
  have scrub : u = { s.setInst task vt x with mem := s.mem.clear (s.globalTile g x * 262144) 262144 } :=
    State.scrubPad_alone _ task g vt ((s.hostArmed_setInst task g vt x _).trans alone)
  have hu : u.inst? task vt = some x := by rw [scrub]; exact Assoc.get?_put_same _ _ _
  have eq : s.readyTile task g vt k = ((u.portTokens task g vt).buildStore task vt).updInst task vt fun x => { x with ready := true } := by
    rw [State.readyTile, new]
  rw [eq]
  clear_value u x
  obtain ⟨y, hy, told, cleared⟩ := State.inst?_portTokens hu g
  obtain ⟨z, hz, built, still⟩ := State.inst?_buildStore hy
  have host := built.host.trans told.host
  refine ⟨{ z with ready := true }, State.inst?_updInst hz _, ⟨built.armed.trans told.armed, built.meter.trans told.meter, host⟩, rfl,
    still.trans cleared, ?_⟩
  have kept : (((u.portTokens task g vt).buildStore task vt).updInst task vt fun x => { x with ready := true }).mem = u.mem := rfl
  have tile : s.globalTile g { z with ready := true } = s.globalTile g x := State.globalTile_of_host host
  rw [kept, scrub, tile]

theorem Group.not_allArmed {s : State} {task : Nat} {g : Group} {vt : Fin 16} (mem : vt ∈ g.vts) (unarmed : (s.inst task vt).armed = false) :
    s.allArmed task g = false := by
  rw [State.allArmed, List.all_eq_false]
  exact ⟨vt, mem, by simp [unarmed]⟩

section
variable {s : State} {l : At} {g : Group} {k : Task} (hg : s.group? l.task = some g) (hk : s.tasks.get? l.task = some k)
  (arming : g.state = .arming) (going : g.stop = none) (own : l.vt ∈ g.vts) (unarmed : (s.inst l.task l.vt).armed = false)
  (admits : s.admits (s.physRegion g.region) = true) (args : s.argsHere l.task = true)
include hg hk arming going own unarmed admits args

/-- TILE_ARM takes the arming of its tile one step on, and with the last tile the group runs. -/
theorem execTileArm_steps : exec (.tileArm l) s = .next
    (if (s.armStep l.task g l.vt k).allArmed l.task g then (s.armStep l.task g l.vt k).groupArmed l.task else s.armStep l.task g l.vt k) := by
  show Host.Outcome.next _ = _
  simp [hg, hk, arming, going, own, unarmed, admits, args]

/-- The first step makes a tile of a new dispatch ready (R373). -/
theorem execTileArm_ready (saved : g.saved = false) (new : k.resume = none) (unready : (s.inst l.task l.vt).ready = false)
    (alone : s.hostArmed l.task g l.vt (g.hostOf l.vt).1 = false) :
    ∃ t y, exec (.tileArm l) s = .next t ∧ t.inst l.task l.vt = y ∧ y.ready = true ∧ y.armed = false ∧ y.meter = 256 * k.p
      ∧ y.cleared = [] ∧ t.mem = s.mem.clear (s.globalTile g y * 262144) 262144 := by
  obtain ⟨y, there, made, ready, cleared, mem⟩ := s.readyTile_new l.task g l.vt new alone
  have step : s.armStep l.task g l.vt k = s.readyTile l.task g l.vt k := by simp [State.armStep, unready, saved]
  have copy := State.inst_of_inst? there
  have not_yet : (s.armStep l.task g l.vt k).allArmed l.task g = false :=
    Group.not_allArmed own (by rw [step, copy, made.armed]; rfl)
  refine ⟨_, y, (execTileArm_steps hg hk arming going own unarmed admits args).trans ?_, copy, ready, made.armed, made.meter,
    cleared, mem⟩
  rw [not_yet, if_neg Bool.false_ne_true, step]

/-- The last step takes the arm debit (R282, R290). -/
theorem execTileArm_armed (saved : g.saved = false) (prepared : (s.inst l.task l.vt).prepared = true)
    (cov : Safety.Covered (s.inst l.task l.vt) 1536) :
    ∃ t, exec (.tileArm l) s = .next t ∧ (t.inst l.task l.vt).armed = true
      ∧ (t.inst l.task l.vt).meter + 1536 = (s.inst l.task l.vt).meter ∧ t.mem = s.mem := by
  set x := s.inst l.task l.vt with isX
  set p := s.afterDebit l.task l.vt x 1536
  set a := p.updInst l.task l.vt fun x => { x with armed := true, sinceCut := 0, sinceOpen := 0 } with isA
  have ready : x.ready = true := by
    simp only [Inst.prepared, Bool.and_eq_true] at prepared
    exact prepared.1
  have debit : s.armDebit l.task l.vt = a := by
    rw [State.armDebit, State.debit, ← isX]
    rcases Inst.pay_cases x 1536 with ⟨-, short⟩ | ⟨-, -, wait⟩ | ⟨e, -⟩
    · exact absurd cov.1 (by omega)
    · exact absurd cov.2 (by omega)
    · rw [e]
      rfl
  have step : s.armStep l.task g l.vt k = a := by
    simp only [State.armStep, ← isX, ready, prepared, saved, debit, Bool.not_true, Bool.false_eq_true, if_false]
  have copy : a.inst? l.task l.vt = some { x.debit 1536 with armed := true, sinceCut := 0, sinceOpen := 0 } :=
    State.inst?_updInst (State.inst?_afterDebit _) _
  have turn := execTileArm_steps hg hk arming going own unarmed admits args
  rw [step] at turn
  have kept : ∃ t, exec (.tileArm l) s = .next t ∧ t.insts = a.insts ∧ t.mem = a.mem := by
    refine ⟨_, turn, ?_⟩
    split
    · exact a.groupArmed_keeps l.task
    · exact ⟨rfl, rfl⟩
  obtain ⟨t, turn, insts, mem⟩ := kept
  refine ⟨t, turn, ?_, ?_, mem.trans (State.mem_afterDebit _)⟩
  · rw [State.inst_of_insts insts, State.inst_of_inst? copy]
  · have debited : (t.inst l.task l.vt).meter = (x.debit 1536).meter := by rw [State.inst_of_insts insts, State.inst_of_inst? copy]
    rw [debited]
    exact Inst.meter_debit cov

end

end Sys2Proof.Machine
end

section
/-! The control tokens that reach the nodes of a tile, RECFG, and the statement on the control of a tile (R281, R290, R371-R376, R382,
R504). -/

namespace Sys2Proof.Machine

/-! ### START, CRST, CTXSW, HALTC and DRAIN (R374-R376, R389, R504) -/

/-- A counter that CRST reaches is zero, one of another selection stays. -/
theorem Ctr.crst_zero (c : Ctr) {tile : Nat} (mode : (c.crst tile).sel.toNat / 2 ^ 61 % 4 = 2)
    (own : (c.crst tile).sel.toNat / 2 ^ 32 % 16 = tile) : (c.crst tile).val = 0 := by
  have sel : (c.crst tile).sel = c.sel := by
    unfold Ctr.crst
    dsimp only
    split <;> rfl
  rw [sel] at mode own
  simp only [Ctr.crst, mode, own, and_self, if_true]

section
variable {s : State} {l : At} {g : Group} {x : Inst} {n : Node} (hg : s.group? l.task = some g) (hx : s.inst? l.task l.vt = some x)
include hx

theorem execCtxsw_tags (ready : x.ready = true) (node : n ∈ x.nodes) (untagged : n ∉ x.tagged) :
    exec (.ctxsw l n) s = .next (s.setInst l.task l.vt { x with tagged := x.tagged ++ [n] }) := by
  show Host.Outcome.next _ = _
  simp [hx, ready, node, untagged]

include hg

omit hx in
theorem execHaltc_halts (halts : g.halts = true) : exec (.haltc l n) s = .next (s.updInst l.task l.vt fun x =>
    if x.halted.contains n then x else { x with halted := x.halted ++ [n] }) := by
  show Host.Outcome.next _ = _
  simp [hg, halts]

theorem execStart_starts (armed : x.armed = true) (live : g.live = true) (resident : g.isResident l.vt x = true) (node : n ∈ x.nodes)
    (tagged : n ∈ x.tagged) (cleared : n ∈ x.cleared) (waits : n ∉ x.started)
    (clear : ((s.region (s.physRegion g.region)).ingress.any fun p => p.task == l.task) = false) :
    ∃ t, exec (.start l n) s = .next t ∧ (t.inst l.task l.vt).started = x.started ++ [n] := by
  set y : Inst := { x with started := x.started ++ [n], halted := x.halted.filter (· != n) }
  set start := (s.updTask l.task fun t => if t.state == .armed then { t with state := .running } else t).setInst l.task l.vt y
  have copy : start.inst? l.task l.vt = some y := Assoc.get?_put_same _ _ _
  have turn : exec (.start l n) s = .next ((start.taskAccs l.task).foldl (fun s z =>
      if z.2.vt == l.vt && z.2.node == n && z.2.held then s.setAcc z.1 { z.2 with held := false } else s) start) := by
    have takes : (g.live && g.isResident l.vt x && x.armed && x.nodes.contains n && x.tagged.contains n && x.cleared.contains n
        && !x.started.contains n && !(s.region (s.physRegion g.region)).ingress.any (·.task == l.task)) = true := by
      simp [live, resident, armed, node, tagged, cleared, waits, clear]
    show Host.Outcome.next _ = _
    simp only [hg, hx]
    rw [if_pos takes]
  refine ⟨_, turn, ?_⟩
  rw [State.inst_of_insts (foldl_keeps State.insts ?_ _ _), State.inst_of_inst? copy]
  intro s a
  split
  · exact (s.insts_setAcc _ _).1
  · rfl

theorem execCrst_clears (ready : x.ready = true) (node : n ∈ x.nodes) (first : n ∉ x.cleared) :
    ∃ t, exec (.crst l n) s = .next t
      ∧ (t.inst l.task l.vt).cleared = x.cleared ++ [n] ∧ (t.inst l.task l.vt).discards = x.discards.put (Node.key n) 0
      ∧ (∀ k : Fin 16, vget t.hubCtrs k = (vget s.hubCtrs k).crst (g.tileOf x))
      ∧ ∀ k : Fin 8, vget (t.region (s.physRegion g.region)).ctrs k
          = (vget (s.region (s.physRegion g.region)).ctrs k).crst (g.tileOf x) := by
  set y : Inst := { x with cleared := x.cleared ++ [n], discards := x.discards.put (Node.key n) 0 }
  set z := s.setInst l.task l.vt y
  have copy : z.inst? l.task l.vt = some y := Assoc.get?_put_same _ _ _
  set t := { z with hubCtrs := z.hubCtrs.map fun c => Ctr.crst c (g.tileOf x) }.updRegion (s.physRegion g.region)
    fun r => { r with ctrs := r.ctrs.map fun c => Ctr.crst c (g.tileOf x) } with isT
  have copyT : t.inst l.task l.vt = y := (State.inst_of_insts rfl l.task l.vt).trans (State.inst_of_inst? copy)
  refine ⟨t, ?_, ?_, ?_, ?_, ?_⟩
  · have takes : (x.ready && x.nodes.contains n && !x.cleared.contains n) = true := by simp [ready, node, first]
    show Host.Outcome.next _ = _
    simp only [hg, hx]
    rw [if_pos takes]
    rfl
  · rw [copyT]
  · rw [copyT]
  · exact fun k => Vector.getElem_map _ _
  · intro k
    rw [isT, State.region_updRegion]
    exact Vector.getElem_map _ _

omit hx in
theorem execDrain_counts (draining : g.draining = true) :
    exec (.drain l) s = .next (s.updInst l.task l.vt fun x => { x with drain := s.drainOf l.task l.vt }) := by
  show Host.Outcome.next _ = _
  obtain ⟨⟩ := g
  cases draining
  simp only [hg]

end

/-! ### RECFG (R371, R382) -/

theorem State.ingress_startFetch (s : State) (r q : Nat) : ((s.startFetch r).region q).ingress = (s.region q).ingress := by
  have kept : ∀ f : Region → Region, (∀ x, (f x).ingress = x.ingress) → ((s.updRegion r f).region q).ingress = (s.region q).ingress := by
    intro f keeps
    simp only [State.region, State.updRegion, Vector.getElem_set]
    split
    · next same => rw [keeps]; simp only [same]
    · rfl
  unfold State.startFetch
  dsimp only
  split
  · rfl
  · split
    · split
      · exact kept _ fun _ => rfl
      · rfl
    · rfl

section
variable {s : State} {l : At} {g : Group} {x : Inst} {kid : Nat} {i : Image} (hg : s.group? l.task = some g)
  (hx : s.inst? l.task l.vt = some x) (image : s.imageOf g.ctx kid = some i)
  (clear : ((s.region (s.physRegion g.region)).ingress.any fun p => p.task == l.task) = false)
include hg hx image clear

/-- A copy at rest takes the configuration that the other kernel has for it; the rest of the copy stays. -/
theorem execRecfg_takes (held : s.imageHeld (s.physRegion g.region) g.ctx kid = true) (armed : x.armed = true)
    (idle : x.enginesIdle = true) (performed : s.groupPerformed l.task l.vt = true) (between : g.cut = none) (empty : g.flight = []) :
    ∃ t, exec (.recfg l kid) s = .next t ∧ t.inst? l.task l.vt = some (x.recfg (i.tiles.getD l.vt.val {})) := by
  apply Exists.intro
  constructor
  · show Host.Outcome.next _ = _
    simp only [hg, hx, image, clear, held, armed, idle, performed, between, empty, Option.isNone_none, List.isEmpty_nil, Bool.not_true,
      Bool.and_self, Bool.false_eq_true, if_false, if_true]
    rfl
  · exact Assoc.get?_put_same _ _ _

/-- While the region does not hold the kernel's image the token parks at its ingress (R371). -/
theorem execRecfg_parks (absent : s.imageHeld (s.physRegion g.region) g.ctx kid = false)
    (room : (s.region (s.physRegion g.region)).ingress.length < 16) :
    ∃ t, exec (.recfg l kid) s = .next t ∧ (t.region (s.physRegion g.region)).ingress
      = (s.region (s.physRegion g.region)).ingress ++ [{ task := l.task, recfg := some (l.vt, kid) }] := by
  refine ⟨s.parkAt (s.physRegion g.region) { task := l.task, recfg := some (l.vt, kid) }, ?_, ?_⟩
  · show Host.Outcome.next _ = _
    simp only [hg, hx, image, clear, absent, Bool.not_false, Bool.false_eq_true, if_false, if_true]
  · rw [State.parkAt, if_pos room, State.ingress_startFetch, State.region_updRegion]

end

/-! ### FLUSH (R376, R378) -/

/-- The buffers that a node of a copy empties. -/
def Image.ownBufs (i : Image) (x : Inst) (vt : Fin 16) (n : Node) : List Nat :=
  (List.range 32).filter fun b => i.consumer x (.buf vt ⟨b % 32, Nat.mod_lt _ (by decide)⟩) == some (vt, n)

theorem Image.mem_ownBufs {i : Image} {x : Inst} {vt : Fin 16} {n : Node} (b : Fin 32) :
    b.val ∈ i.ownBufs x vt n ↔ i.consumer x (.buf vt b) = some (vt, n) := by
  have same : (⟨b.val % 32, Nat.mod_lt _ (by decide)⟩ : Fin 32) = b := Fin.ext (Nat.mod_eq_of_lt b.isLt)
  simp only [Image.ownBufs, List.mem_filter, List.mem_range, b.isLt, true_and, beq_iff_eq, same]

/-- A flush leaves y of the copy x and counts k tokens: the buffers that the node empties hold none, the others what they held, and the
node's own channels none. -/
structure Inst.Flushes (i : Image) (vt : Fin 16) (n : Node) (x y : Inst) (k : Nat) : Prop where
  discards : y.discards = x.discards
  bufs : y.bufs = x.bufs.filter fun z => !(i.ownBufs x vt n).contains z.1
  elem : ∀ e, n = .elem e → ∀ c, (vget (y.elem e).inq c).toks = []
  counted : n = .vector ∨ n = .matrix → k = ((i.ownBufs x vt n).map fun b => dataToks ((x.buf b).map (·.side))).sum
  streamA : n = .streamA → y.sa.bnd.toks = []
  streamB : n = .streamB → y.sb.bnd.toks = []
  copy : n = .copy → y.cpy.bnd.toks = []

theorem Inst.Flushes.buf {i : Image} {vt : Fin 16} {n : Node} {x y : Inst} {k : Nat} (h : Inst.Flushes i vt n x y k) (b : Nat) :
    y.buf b = if b ∈ i.ownBufs x vt n then [] else x.buf b := by
  simp only [Inst.buf, Assoc.getD, h.bufs, Assoc.get?_filterKeys x.bufs (fun b => !(i.ownBufs x vt n).contains b)]
  by_cases own : b ∈ i.ownBufs x vt n <;> simp [own]

theorem State.flushNode_flushes {s : State} {task : Nat} {vt : Fin 16} {x : Inst} (hx : s.inst? task vt = some x) (n : Node) :
    ∃ k y, s.flushNode task vt n = (k, s.setInst task vt y) ∧ Inst.Flushes (s.group task).img vt n x y k := by
  unfold State.flushNode
  rw [State.inst_of_inst? hx]
  cases n with
  | elem e => exact ⟨_, _, rfl, rfl, rfl, by rintro _ ⟨⟩ c; simp [vget], by simp, nofun, nofun, nofun⟩
  | vector => exact ⟨_, _, rfl, rfl, rfl, nofun, fun _ => rfl, nofun, nofun, nofun⟩
  | matrix => exact ⟨_, _, rfl, rfl, rfl, nofun, fun _ => rfl, nofun, nofun, nofun⟩
  | streamA => exact ⟨_, _, rfl, rfl, rfl, nofun, by simp, fun _ => rfl, nofun, nofun⟩
  | streamB => exact ⟨_, _, rfl, rfl, rfl, nofun, by simp, nofun, fun _ => rfl, nofun⟩
  | copy => exact ⟨_, _, rfl, rfl, rfl, nofun, by simp, nofun, nofun, fun _ => rfl⟩
  | seq => exact ⟨_, _, rfl, rfl, rfl, nofun, by simp, nofun, nofun, nofun⟩

theorem execFlush_flushes {s : State} {l : At} {g : Group} {x : Inst} (hg : s.group? l.task = some g)
    (hx : s.inst? l.task l.vt = some x) (committing : g.state = .committing) (performed : s.performedAll l.task = true) (n : Node) :
    ∃ t y k, exec (.flush l n) s = .next t ∧ t.mem = s.mem ∧ Inst.Flushes g.img l.vt n x y k
      ∧ t.inst l.task l.vt = { y with discards := x.discards.put (Node.key n) (x.discards.getD (Node.key n) 0 + k) } := by
  obtain ⟨k, y, flushed, flushes⟩ := State.flushNode_flushes hx n
  rw [State.group_of_group? hg] at flushes
  have copy : (s.setInst l.task l.vt y).inst? l.task l.vt = some y := Assoc.get?_put_same _ _ _
  apply Exists.intro
  refine ⟨y, k, ?_, ?_, flushes, ?_⟩
  · show Host.Outcome.next _ = _
    simp only [hg, hx, committing, performed, flushed, beq_self_eq_true, Bool.and_self, if_true]
    rfl
  · rfl
  · rw [State.inst_of_inst? (State.inst?_updInst copy _), flushes.discards]

theorem dataToks_sides (l : List Wtok) : dataToks (l.map (·.side)) = (l.filter fun k => !Side.ctl k.side).length := by
  simp [dataToks, List.filter_map, Function.comp_def]

/-! ### The statement -/

/-- Settles O40: TILE_ARM by its first and its last step, each control token by the rule of its node, RECFG by whether the region holds the
image. -/
theorem tileControl : Obligations.TileControl := by
  unfold Obligations.TileControl
  intro s l g hg
  constructor
  · intro k hk arming going saved new own unarmed admits args
    constructor
    · intro unready alone
      obtain ⟨t, y, turn, rfl, ready, still, meter, cleared, mem⟩ :=
        execTileArm_ready hg hk arming going own unarmed admits args saved new unready alone
      refine ⟨t, turn, ready, still, meter, cleared, fun a low high => ?_⟩
      rw [mem, Memory.read_clear, if_pos (by omega)]
    · exact execTileArm_armed hg hk arming going own unarmed admits args saved
  · intro x n hx node
    refine ⟨?_, ?_, ?_, ?_, ?_, ?_, ?_, ?_⟩
    · intro armed live resident tagged cleared waits clear
      exact execStart_starts hg hx armed live resident node tagged cleared waits clear
    · intro ready first
      obtain ⟨t, turn, cleared, discards, hub, region⟩ := execCrst_clears hg hx ready node first
      refine ⟨t, turn, by simp [cleared], by rw [discards, Assoc.getD_put, if_pos rfl], fun k => ?_, fun k => ?_⟩
      · rw [hub]
        exact Ctr.crst_zero _
      · rw [region]
        exact Ctr.crst_zero _
    · intro ready untagged
      exact ⟨_, execCtxsw_tags hx ready node untagged, by rw [State.inst_setInst, if_pos rfl]; simp⟩
    · intro halts
      refine ⟨_, execHaltc_halts hg halts, ?_⟩
      rw [State.inst_of_inst? (State.inst?_updInst hx _)]
      split
      · next already => simpa using already
      · simp
    · intro draining
      exact ⟨_, execDrain_counts hg draining, by rw [State.inst_of_inst? (State.inst?_updInst hx _)]⟩
    · intro e isElem committing performed
      obtain ⟨t, y, k, turn, -, flushes, copy⟩ := execFlush_flushes hg hx committing performed n
      exact ⟨t, turn, by rw [copy]; exact flushes.elem e isElem⟩
    · intro committing performed
      obtain ⟨t, y, k, turn, mem, flushes, copy⟩ := execFlush_flushes hg hx committing performed n
      refine ⟨t, turn, mem, ?_⟩
      rw [copy]
      refine ⟨fun b own => ?_, fun b foreign => ?_, fun counted => ?_, flushes.streamA, flushes.streamB, flushes.copy⟩
      · exact (flushes.buf b).trans (if_pos (Image.mem_ownBufs b |>.2 own))
      · exact (flushes.buf b).trans (if_neg (mt (Image.mem_ownBufs b).1 foreign))
      · rw [Assoc.getD_put, if_pos rfl, flushes.counted counted]
        simp only [dataToks_sides]
        rfl
    · intro kid i image clear
      constructor
      · intro held armed idle performed between empty
        obtain ⟨t, turn, copy⟩ := execRecfg_takes hg hx image clear held armed idle performed between empty
        exact ⟨t, turn, by rw [State.inst_of_inst? copy]; rfl, by rw [State.inst_of_inst? copy]; rfl⟩
      · exact execRecfg_parks hg hx image clear

end Sys2Proof.Machine
end

section
/-! SUPPORT. What of a group no token, request or debit changes: its course, the number and the passages of its cut among it. -/

namespace Sys2Proof.Machine

/-! ### The course of a cut and of a group -/

/-- The number of a cut and the nodes that have passed it. -/
def Cut.course (c : Cut) : Nat × List (Fin 16 × Node) := (c.no, c.passed)

theorem Cut.course_reach (c : Cut) (n : Fin 16 × Node) : (c.reach n).course = c.course := by
  unfold Cut.reach
  split <;> rfl

theorem Cut.course_reaches (l : List (Fin 16 × Node)) (c : Cut) : (l.foldl Cut.reach c).course = c.course :=
  foldl_keeps Cut.course Cut.course_reach l c

/-- The course of a group: where it stands in its dispatch, between its cuts, and towards the host. -/
structure Course where
  ctx : Nat
  fold : Nat
  vts : List (Fin 16)
  state : GState
  why : Option Why
  asked : Option Why
  draining : Bool
  cut : Option (Nat × List (Fin 16 × Node))
  lastCut : Nat
  nextCut : Nat

def Group.course (g : Group) : Course :=
  ⟨g.ctx, g.fold, g.vts, g.state, g.why, g.asked, g.draining, g.cut.map Cut.course, g.lastCut, g.nextCut⟩

/-- A cut that records more of what arrives is the same in its course. -/
theorem Group.course_setCut {g : Group} {c d : Cut} (hc : g.cut = some c) (same : d.course = c.course) :
    Group.course { g with cut := some d } = g.course := by
  simp only [Group.course, hc, Option.map_some, same]
  rfl

theorem Group.course_mapCut (g : Group) {f : Cut → Cut} (same : ∀ c, (f c).course = c.course) :
    Group.course { g with cut := g.cut.map f } = g.course := by
  cases hc : g.cut with
  | none => simp only [Group.course, hc]; rfl
  | some c => exact Group.course_setCut hc (same c)

theorem Group.course_stopped (g : Group) (inStep : Bool) (st : Stop) : (g.stopped inStep st).course = g.course := by
  unfold Group.stopped
  split
  · split <;> rfl
  · rfl
  · rfl
  · rfl

/-! ### States that agree on the course of every group -/

/-- Every group is on the same course in both states. -/
def State.CourseKept (s t : State) : Prop := ∀ k, (t.group? k).map Group.course = (s.group? k).map Group.course

theorem State.CourseKept.of_groups {s t : State} (groups : t.groups = s.groups) : State.CourseKept s t := fun k => by
  rw [State.group?, groups, State.group?]

theorem State.CourseKept.refl (s : State) : State.CourseKept s s := fun _ => rfl

theorem State.CourseKept.trans {s t u : State} (h : State.CourseKept s t) (k : State.CourseKept t u) : State.CourseKept s u :=
  fun i => (k i).trans (h i)

theorem State.CourseKept.foldl {α : Type} {f : State → α → State} (step : ∀ s x, State.CourseKept s (f s x)) (l : List α) (s : State) :
    State.CourseKept s (l.foldl f s) := by
  induction l generalizing s with
  | nil => exact .refl s
  | cons x r ih => exact (step s x).trans (ih _)

theorem State.CourseKept.group? {s t : State} (h : State.CourseKept s t) {task : Nat} {g : Group} (hg : s.group? task = some g) :
    ∃ g', t.group? task = some g' ∧ g'.course = g.course := by
  have same := h task
  rw [hg, Option.map_some] at same
  exact Option.map_eq_some_iff.1 same

/-- The cut of a group whose course is kept. -/
theorem Group.cut_of_course {g g' : Group} (same : g'.course = g.course) {c : Cut} (hc : g.cut = some c) :
    ∃ d, g'.cut = some d ∧ d.no = c.no ∧ d.passed = c.passed := by
  have cuts : g'.cut.map Cut.course = g.cut.map Cut.course := congrArg Course.cut same
  rw [hc, Option.map_some] at cuts
  obtain ⟨d, hd, course⟩ := Option.map_eq_some_iff.1 cuts
  exact ⟨d, hd, congrArg Prod.fst course, congrArg Prod.snd course⟩

theorem Group.no_cut_of_course {g g' : Group} (same : g'.course = g.course) (hc : g.cut = none) : g'.cut = none := by
  have cuts : g'.cut.map Cut.course = g.cut.map Cut.course := congrArg Course.cut same
  rw [hc] at cuts
  exact Option.map_eq_none_iff.1 cuts

section
variable (s : State) (task : Nat)

/-- A change of the group that keeps its course. -/
theorem State.courseKept_updGroup {f : Group → Group} (keeps : ∀ g, s.group? task = some g → (f g).course = g.course) :
    State.CourseKept s (s.updGroup task f) := by
  intro k
  simp only [State.group?, State.updGroup_groups, Assoc.get?_modify]
  split
  · next same =>
    subst same
    cases hg : s.groups.get? task with
    | none => rfl
    | some g => exact congrArg some (keeps g hg)
  · rfl

theorem State.courseKept_setGroup {g h : Group} (hg : s.group? task = some g) (keeps : h.course = g.course) :
    State.CourseKept s (s.setGroup task h) := by
  intro k
  by_cases same : task = k
  · subst same
    rw [State.group?_setGroup, hg, Option.map_some, Option.map_some, keeps]
  · rw [State.group?, State.setGroup_groups, Assoc.get?_put_other _ _ (Ne.symm same), State.group?]

theorem State.courseKept_updInst (vt : Fin 16) (f : Inst → Inst) : State.CourseKept s (s.updInst task vt f) := .of_groups rfl

theorem State.courseKept_setInst (vt : Fin 16) (x : Inst) : State.CourseKept s (s.setInst task vt x) := .of_groups rfl

theorem State.courseKept_updElem (vt e : Fin 16) (f : Elem → Elem) : State.CourseKept s (s.updElem task vt e f) := .of_groups rfl

theorem State.courseKept_progress : State.CourseKept s (s.progress task) := s.courseKept_updGroup task fun _ _ => rfl

theorem State.courseKept_countAt (vt : Fin 16) (src n : Nat) : State.CourseKept s (s.countAt task vt src n) :=
  .of_groups (s.copiesKept_countAt task vt src n).groups

theorem State.courseKept_raise (st : Stop) : State.CourseKept s (s.raise task st) :=
  State.courseKept_updGroup { s with fired := true } task fun g _ => g.course_stopped _ st

/-- A debit outside a firing keeps every course where what follows it does. -/
theorem State.courseKept_debit (vt : Fin 16) (n : Node) (opc d : Nat) {wait : State} {k : State → State}
    (waits : State.CourseKept s wait) (goes : ∀ u, State.CourseKept u (k u)) : State.CourseKept s (s.debit task vt n opc d wait k) := by
  unfold State.debit
  split
  · exact waits.trans (State.courseKept_updInst _ task vt _)
  · exact s.courseKept_raise task _
  · exact ((s.courseKept_setInst task vt _).trans (State.courseKept_progress _ task)).trans
      ((State.courseKept_countAt _ task vt 0x04 d).trans (goes _))

end

/-! ### Tokens -/

section
variable (s : State) (task : Nat)

/-- The bookkeeping of a cut that was read from the state. -/
theorem State.courseKept_setCut {c d : Cut} (hc : (s.group task).cut = some c) (same : d.course = c.course) :
    State.CourseKept s (s.updGroup task fun g => { g with cut := some d }) := by
  refine s.courseKept_updGroup task fun g hg => Group.course_setCut (c := c) ?_ same
  rw [← hc, State.group_of_group? hg]

theorem State.courseKept_cairnArrives (n : Nat) (p : Ep) : State.CourseKept s (s.cairnArrives task (s.group task) n p) := by
  unfold State.cairnArrives
  split
  · exact .refl s
  · next c hc =>
    refine s.courseKept_setCut task hc ?_
    split
    · exact Cut.course_reach _ _
    · rfl

theorem State.courseKept_recordArrival (n : Nat) (p : Ep) (t : Wtok) :
    State.CourseKept s (s.recordArrival task (s.group task) n p t) := by
  unfold State.recordArrival
  split
  · next c nd hc _ =>
    have set : ∀ d : Cut, d.course = c.course → State.CourseKept s (s.updGroup task fun g => { g with cut := some d }) :=
      fun d same => s.courseKept_setCut task hc same
    dsimp only
    split
    · split
      · exact .refl s
      · split
        · exact set _ rfl
        · split
          · exact .refl s
          · exact set _ rfl
    · split
      · exact set _ rfl
      · exact .refl s
  · exact .refl s

theorem State.courseKept_pushBuf (g : Group) (vt : Fin 16) (b : Nat) (t : Wtok) : State.CourseKept s (s.pushBuf task g vt b t) :=
  .of_groups rfl

/-- A token that reaches a consumer leaves every group on its course. -/
theorem State.courseKept_land (n : Nat) (p : Ep) (t : Wtok) : State.CourseKept s (s.land task (s.group task) n p t) := by
  have cairn := s.courseKept_cairnArrives task n p
  have noted := s.courseKept_recordArrival task n p t
  cases p with
  | inp vt e c =>
    simp only [State.land]
    split
    · exact cairn
    · exact noted.trans (State.courseKept_updElem _ task vt e _)
  | buf vt b =>
    simp only [State.land]
    split
    · split
      · exact cairn
      · exact cairn.trans (State.courseKept_updInst _ task vt _)
    · exact noted.trans (State.courseKept_pushBuf _ task _ vt b.val t)
  | bnd vt k =>
    simp only [State.land]
    split
    · exact cairn
    · exact noted.trans (State.courseKept_updInst _ task vt _)
  | out vt e o => exact .refl s
  | mst vt => exact .refl s
  | cmd vt k => exact .refl s

theorem State.courseKept_sendEdge (x : Edge × Nat) (t : Wtok) : State.CourseKept s (s.sendEdge task x t) := by
  unfold State.sendEdge
  dsimp only
  split
  · split
    · exact s.courseKept_updElem task _ _ _
    · exact s.courseKept_land task x.2 _ t
  · exact s.courseKept_updGroup task fun _ _ => rfl

theorem State.courseKept_send (p : Ep) (t : Wtok) : State.CourseKept s (s.send task p t) :=
  .foldl (fun s x => s.courseKept_sendEdge task x t) _ s

variable (vt e : Fin 16)

theorem State.courseKept_emit (o : Fin 4) (t : Tok) : State.CourseKept s (s.emit task vt e o t) :=
  .foldl (fun s (t : Tok) => s.courseKept_send task (.out vt e o) t.wide) _ _

theorem State.courseKept_takePull (g : Group) (o : Fin 4) : State.CourseKept s (s.takePull task g vt e o) := by
  unfold State.takePull
  split
  · exact s.courseKept_updElem task vt e _
  · exact .refl s

/-- A result written to its destination leaves every group on its course. -/
theorem State.courseKept_result (h : Here) (el : Elem) (dst : Dst) (tok : Tok) (val : Word) (pd : Fin 8) (pw : Bool) :
    State.CourseKept s (s.result h el dst tok val pd pw) := by
  cases dst with
  | d n => exact .of_groups rfl
  | o o =>
    have out : ∀ u : State, State.CourseKept u (u.out h o tok) := fun u =>
      (u.courseKept_takePull u.cur.task u.cur.vt h.e h.g o).trans (State.courseKept_emit _ _ _ _ o tok)
    exact State.CourseKept.trans (t := s.putHere h (el.pw pw pd val tok.deps)) (.of_groups rfl) (out _)
  | pred => exact .of_groups rfl
  | none => exact .of_groups rfl

theorem State.courseKept_landChan (c : Fin 4) : State.CourseKept s (s.landChan task vt e c) :=
  (s.courseKept_updElem task vt e _).trans (.foldl (fun u (t : Tok) => u.courseKept_land task _ _ t.wide) _ _)

theorem State.courseKept_landElem : State.CourseKept s (s.landElem task vt e) :=
  .foldl (fun s c => s.courseKept_landChan task vt e c) _ s

theorem Cut.course_addBehinds (k n : Nat) (c : Cut) : ((List.range n).foldl (fun (c : Cut) _ => c.addBehind k) c).course = c.course :=
  foldl_keeps Cut.course (f := fun c _ => c.addBehind k) (fun _ _ => rfl) _ c

theorem State.courseKept_pullArrive (c : Fin 4) (n : Nat) : State.CourseKept s (s.pullArrive task vt e c n) := by
  unfold State.pullArrive
  dsimp only
  split
  · next x k _ =>
    split
    · next v p o _ =>
      have added := s.courseKept_updElem task v p fun el => { el with pulls := vset el.pulls o (vget el.pulls o + n) }
      split
      · next cut hc =>
        have set : ∀ (f : Elem → Elem) (d : Cut), d.course = cut.course →
            State.CourseKept s ((s.updElem task v p f).updGroup task fun g => { g with cut := some d }) :=
          fun f d same => (s.courseKept_updElem task v p f).trans (State.courseKept_setCut _ task hc same)
        split
        · split
          · exact added
          · exact set _ _ rfl
        · split
          · exact set _ _ (Cut.course_addBehinds _ n cut)
          · exact added
      · exact added
    · exact .refl s
  · exact .refl s

theorem State.courseKept_flushReqs (c : Fin 4) : State.CourseKept s (s.flushReqs task vt e c) := by
  unfold State.flushReqs
  dsimp only
  split
  · exact .refl s
  · exact (s.courseKept_updElem task vt e _).trans (State.courseKept_pullArrive _ task vt e c _)

end

end Sys2Proof.Machine
end

section
/-! SUPPORT. What the hub's own bookkeeping leaves alone: the pool, the directory and the links change no group, no copy, no memory and no
fault ring; a request answered or failed, and an entry that performs, leave every group on its course. -/

namespace Sys2Proof.Machine

/-! ### The hub's bookkeeping -/

/-- What of a context its fault ring shows (R468). -/
def Ctx.journal (c : Ctx) : Assoc Nat × BitVec 8 × BitVec 8 × Nat := (c.ring, c.prod, c.cons, c.vf)

/-- Both states have the same groups, copies, memory and fault rings. -/
structure State.HubOnly (s t : State) : Prop where
  groups : t.groups = s.groups
  insts : t.insts = s.insts
  mem : t.mem = s.mem
  rings : ∀ c, (t.ctxs.get? c).map Ctx.journal = (s.ctxs.get? c).map Ctx.journal

/-- Nothing of this changes with the other fields. -/
theorem State.HubOnly.of_eq {s t : State} (groups : t.groups = s.groups) (insts : t.insts = s.insts) (mem : t.mem = s.mem)
    (ctxs : t.ctxs = s.ctxs) : State.HubOnly s t := ⟨groups, insts, mem, fun c => by rw [ctxs]⟩

theorem State.HubOnly.refl (s : State) : State.HubOnly s s := .of_eq rfl rfl rfl rfl

theorem State.HubOnly.trans {s t u : State} (h : State.HubOnly s t) (k : State.HubOnly t u) : State.HubOnly s u :=
  ⟨k.groups.trans h.groups, k.insts.trans h.insts, k.mem.trans h.mem, fun c => (k.rings c).trans (h.rings c)⟩

/-- What follows a change of other fields. -/
theorem State.HubOnly.after {s u t : State} (k : State.HubOnly u t) (groups : u.groups = s.groups) (insts : u.insts = s.insts)
    (mem : u.mem = s.mem) (ctxs : u.ctxs = s.ctxs) : State.HubOnly s t := State.HubOnly.trans (.of_eq groups insts mem ctxs) k

theorem State.HubOnly.foldl {α : Type} {f : State → α → State} (step : ∀ s x, State.HubOnly s (f s x)) (l : List α) (s : State) :
    State.HubOnly s (l.foldl f s) := by
  induction l generalizing s with
  | nil => exact .refl s
  | cons x r ih => exact (step s x).trans (ih _)

section
variable (s : State)

theorem State.hubOnly_updTask (n : Nat) (f : Task → Task) : State.HubOnly s (s.updTask n f) := .of_eq rfl rfl rfl rfl

theorem State.hubOnly_addAcc (a : Acc) : State.HubOnly s (s.addAcc a) := .of_eq rfl rfl rfl rfl

theorem State.hubOnly_sendTo (d : Nat) (m : Msg) : State.HubOnly s (s.sendTo d m) := .of_eq rfl rfl rfl rfl

theorem State.hubOnly_tellAll (m : Msg) : State.HubOnly s (s.tellAll m) := .foldl (fun s d => s.hubOnly_sendTo d m) _ s

theorem State.hubOnly_countAt (task : Nat) (vt : Fin 16) (src n : Nat) : State.HubOnly s (s.countAt task vt src n) := by
  unfold State.countAt
  split
  · exact .of_eq rfl rfl rfl rfl
  · exact .refl s

/-- A context changed beside its fault ring. -/
theorem State.hubOnly_updCtx (ctx : Nat) {f : Ctx → Ctx} (keeps : ∀ c, (f c).journal = c.journal) : State.HubOnly s (s.updCtx ctx f) := by
  refine ⟨rfl, rfl, rfl, fun c => ?_⟩
  simp only [State.updCtx_ctxs, Assoc.get?_modify]
  split
  · rw [Option.map_map]
    exact congrArg (Option.map · _) (funext keeps)
  · rfl

theorem State.hubOnly_updQueue (ctx : Nat) (q : Fin 16) (f : Queue → Queue) : State.HubOnly s (s.updQueue ctx q f) :=
  s.hubOnly_updCtx ctx fun _ => rfl

theorem State.hubOnly_account (ctx : Nat) (f : Nat → Nat) : State.HubOnly s (s.account ctx f) :=
  (s.hubOnly_updCtx ctx (f := fun c => { c with acct := min (f c.acct) (2 ^ 48 - 1) }) fun _ => rfl).trans (.of_eq rfl rfl rfl rfl)

/-! ### Objects, slots and names -/

theorem State.hubOnly_unrefObj (obj : Nat) : State.HubOnly s (s.unrefObj obj) := .of_eq rfl rfl rfl rfl

theorem State.hubOnly_freeHandle (key : Nat) : State.HubOnly s (s.freeHandle key) := by
  unfold State.freeHandle
  split
  · exact .refl s
  · exact .of_eq rfl rfl rfl rfl

theorem State.hubOnly_updSlots (ctx : Nat) (f : Slot → Option Slot) : State.HubOnly s (s.updSlots ctx f) := by
  refine .foldl (fun s x => ?_) _ s
  split
  · split
    · exact .of_eq rfl rfl rfl rfl
    · exact s.hubOnly_freeHandle x.1
  · exact .refl s

theorem State.hubOnly_share (obj : Nat) : State.HubOnly s (s.share obj) := by
  unfold State.share
  split
  · exact (State.hubOnly_tellAll _ _).after rfl rfl rfl rfl
  · exact .refl s

theorem State.hubOnly_updName (ctx id : Nat) (f : NameEnt → NameEnt) : State.HubOnly s (s.updName ctx id f) := .of_eq rfl rfl rfl rfl

theorem State.hubOnly_dropName (ctx id : Nat) : State.HubOnly s (s.dropName ctx id) := by
  unfold State.dropName
  split
  · split
    · exact .of_eq rfl rfl rfl rfl
    · exact .refl s
  · exact .refl s

theorem State.hubOnly_dropNames (ctx : Nat) : State.HubOnly s (s.dropNames ctx) := .foldl (fun s _ => s.hubOnly_dropName ctx _) _ s

theorem State.hubOnly_unlist (ids : List Nat) : State.HubOnly s (s.unlist ids) := .of_eq rfl rfl rfl rfl

theorem State.hubOnly_unpinObj (obj : Nat) : State.HubOnly s (s.unpinObj obj) :=
  (State.HubOnly.foldl (fun s _ => s.hubOnly_tellAll _) _ _).after rfl rfl rfl rfl

theorem State.hubOnly_bindName (ctx : Nat) (b : BindEnt) : State.HubOnly s (s.bindName ctx b) := by
  have named := s.hubOnly_updName ctx b.name fun e => { e with obj := b.obj }
  have bound : ∀ u : State, State.HubOnly u (match b.obj with
      | some o => (u.share o).unpinObj o
      | none => u) := fun u => by
    split
    · exact (u.hubOnly_share _).trans (State.hubOnly_unpinObj _ _)
    · exact .refl u
  unfold State.bindName
  dsimp only
  split
  · exact (named.trans (bound _)).trans (State.hubOnly_unrefObj _ _)
  · exact named.trans (bound _)

/-! ### The pool of tasks -/

theorem State.hubOnly_updSpread (first : Nat) (f : Task → Task) : State.HubOnly s (s.updSpread first f) := .of_eq rfl rfl rfl rfl

theorem State.hubOnly_ownFuture (first : Nat) (op : FutOp) : State.HubOnly s (s.ownFuture first op) := by
  unfold State.ownFuture
  split
  · exact .refl s
  · split
    · exact .refl s
    · split
      · exact .of_eq rfl rfl rfl rfl
      · exact .of_eq rfl rfl rfl rfl

theorem State.hubOnly_countTrigger (first : Nat) : State.HubOnly s (s.countTrigger first) := by
  unfold State.countTrigger
  split
  · exact .refl s
  · dsimp only
    split
    · exact (State.hubOnly_ownFuture _ first _).after rfl rfl rfl rfl
    · exact .of_eq rfl rfl rfl rfl

theorem State.hubOnly_kernelGone (ctx kid : Nat) : State.HubOnly s (s.kernelGone ctx kid) := by
  unfold State.kernelGone
  split
  · split
    · exact (s.hubOnly_updCtx ctx (f := fun c => { c with kernels := c.kernels.del kid }) fun _ => rfl).trans (.of_eq rfl rfl rfl rfl)
    · exact .refl s
  · exact .refl s

theorem State.hubOnly_leavePool (no : Nat) (t : Task) : State.HubOnly s (s.leavePool no t) := by
  have left : State.HubOnly s (State.updQueue { s with tasks := s.tasks.del no } t.ctx t.trec.queue fun q => { q with count := q.count - 1 }) :=
    (State.hubOnly_updQueue { s with tasks := s.tasks.del no } _ _ _).after rfl rfl rfl rfl
  have triggered : ∀ u : State, State.HubOnly u (if t.triggered then u else u.countTrigger t.first) := fun u => by
    split
    · exact .refl u
    · exact u.hubOnly_countTrigger _
  have alone : ∀ u : State, State.HubOnly u (if u.tasks.any fun x => x.2.first == t.first then u
      else { u with spreads := u.spreads.del t.first }) := fun u => by
    split
    · exact .refl u
    · exact .of_eq rfl rfl rfl rfl
  exact ((left.trans (triggered _)).trans (alone _)).trans (State.hubOnly_kernelGone _ _ _)

theorem State.hubOnly_writeWords (obj desc : Nat) (n : Nat) : ∀ (s : State) (c : Nat) (bs : List Byte),
    State.HubOnly s (s.writeWords obj desc c bs n).2 := by
  induction n with
  | zero => exact fun s _ _ => .refl s
  | succ n ih => exact fun s c bs => (s.hubOnly_addAcc _).trans (ih _ _ _)

theorem State.hubOnly_retireOne (no : Nat) : State.HubOnly s (s.retireOne no) := by
  unfold State.retireOne
  split
  · exact .refl s
  · next t _ =>
    split
    · split
      · exact .refl s
      · exact s.hubOnly_leavePool no _
    · split
      · exact s.hubOnly_leavePool no _
      · next obj o c _ =>
        split
        · exact s.hubOnly_updTask no _
        · have words := State.hubOnly_writeWords obj o.desc 16 s c (completionRecord no t)
          generalize s.writeWords obj o.desc c (completionRecord no t) 16 = w at words
          exact words.trans (w.2.hubOnly_updTask no _)

theorem State.hubOnly_faultOwn (no : Nat) : State.HubOnly s (s.faultOwn no) := by
  unfold State.faultOwn
  split
  · split
    · exact .refl s
    · exact s.hubOnly_ownFuture _ _
  · exact .refl s

theorem State.hubOnly_abortWaiting (no : Nat) : State.HubOnly s (s.abortWaiting no) :=
  ((s.hubOnly_updTask no _).trans (State.hubOnly_faultOwn _ no)).trans (State.hubOnly_retireOne _ no)

theorem State.hubOnly_abortOrphans : State.HubOnly s s.abortOrphans :=
  .foldl (fun s (x : Nat × Task) => s.hubOnly_abortWaiting x.1) _ s

theorem State.hubOnly_retire (no : Nat) : State.HubOnly s (s.retire no) := (s.hubOnly_retireOne no).trans (State.hubOnly_abortOrphans _)

theorem State.hubOnly_failWaiter (first : Nat) : State.HubOnly s (s.failWaiter first) := by
  unfold State.failWaiter
  split
  · exact s.hubOnly_sendTo _ _
  · refine .foldl (fun s no => ?_) _ s
    split
    · split
      · exact s.hubOnly_abortWaiting no
      · exact .refl s
    · exact .refl s

theorem State.hubOnly_hubJoin (ctx waiter first : Nat) (ref : Word) (slot : Nat) : State.HubOnly s (s.hubJoin ctx waiter first ref slot) := by
  unfold State.hubJoin
  split
  · exact s.hubOnly_addAcc _
  · exact s.hubOnly_failWaiter first

theorem State.hubOnly_addTasks (ctx first : Nat) (r : TaskRec) (parent : Option Nat) (open_ : Nat) (l : List Nat) : ∀ (s : State) (i : Nat),
    State.HubOnly s (s.addTasks ctx first r parent open_ i l) := by
  induction l with
  | nil => exact fun s _ => .refl s
  | cons slot l ih =>
    intro s i
    rw [State.addTasks]
    refine (ih _ _).after ?_ ?_ ?_ ?_
    all_goals
      split
      · rfl
      · rfl

theorem State.hubOnly_declare (ctx : Nat) (r : TaskRec) (slots : List Nat) (parent : Option Nat) :
    State.HubOnly s (s.declare ctx r slots parent) := by
  unfold State.declare
  refine State.HubOnly.trans ?_ (.foldl (fun s (x : Word × Nat) => s.hubOnly_hubJoin ctx _ _ x.1 _) _ _)
  exact (State.hubOnly_addTasks ctx _ r parent _ slots _ 0).after rfl rfl rfl rfl

end

end Sys2Proof.Machine
end

section
/-! SUPPORT. Steps that leave every group on its course and the memory as it is: requests answered and failed, entries performed, messages
sent, and what a completed cut releases. -/

namespace Sys2Proof.Machine

/-- Every group is on the same course in both states, and the memory is the same. -/
structure State.Steady (s t : State) : Prop where
  courses : State.CourseKept s t
  mem : t.mem = s.mem

theorem State.Steady.of_eq {s t : State} (groups : t.groups = s.groups) (mem : t.mem = s.mem) : State.Steady s t := ⟨.of_groups groups, mem⟩

theorem State.Steady.refl (s : State) : State.Steady s s := .of_eq rfl rfl

theorem State.Steady.trans {s t u : State} (h : State.Steady s t) (k : State.Steady t u) : State.Steady s u :=
  ⟨h.courses.trans k.courses, k.mem.trans h.mem⟩

/-- What follows a change beside the groups and the memory. -/
theorem State.Steady.after {s u t : State} (k : State.Steady u t) (groups : u.groups = s.groups) (mem : u.mem = s.mem) : State.Steady s t :=
  State.Steady.trans (.of_eq groups mem) k

theorem State.Steady.foldl {α : Type} {f : State → α → State} (step : ∀ s x, State.Steady s (f s x)) (l : List α) (s : State) :
    State.Steady s (l.foldl f s) := by
  induction l generalizing s with
  | nil => exact .refl s
  | cons x r ih => exact (step s x).trans (ih _)

theorem State.HubOnly.steady {s t : State} (h : State.HubOnly s t) : State.Steady s t := .of_eq h.groups h.mem

section
variable (s : State)

/-! ### Requests answered, performed and failed -/

theorem State.steady_updInst (task : Nat) (vt : Fin 16) (f : Inst → Inst) : State.Steady s (s.updInst task vt f) := .of_eq rfl rfl

theorem State.steady_updAcc (id : Nat) (f : Acc → Acc) : State.Steady s (s.updAcc id f) := .of_eq rfl rfl

theorem State.steady_raise (task : Nat) (st : Stop) : State.Steady s (s.raise task st) := ⟨s.courseKept_raise task st, rfl⟩

/-- A request noted where its group's cut and record have it. -/
theorem State.steady_setAcc (id : Nat) (a : Acc) : State.Steady s (s.setAcc id a) := by
  refine ⟨?_, (s.insts_setAcc id a).2⟩
  unfold State.setAcc
  dsimp only
  split
  · exact .of_groups rfl
  · next t _ =>
    refine State.CourseKept.trans (.of_groups rfl) (State.courseKept_updGroup { s with accs := s.accs.put id a } t fun g _ => ?_)
    exact Group.course_mapCut { g with back := CutRec.updAcc g.back id a } fun _ => rfl

theorem State.steady_reap (id : Nat) : State.Steady s (s.reap id) := by
  unfold State.reap
  split
  · split
    · exact .of_eq rfl rfl
    · exact .refl s
  · exact .refl s

theorem State.steady_perform (id : Nat) (p : Perf) : State.Steady s (s.perform id p) := by
  unfold State.perform
  split
  · split
    · exact (s.steady_setAcc id _).trans (State.steady_reap _ id)
    · exact .refl s
  · exact .refl s

theorem State.steady_performAll (l : List Nat) (p : Perf) : State.Steady s (s.performAll l p) := .foldl (fun s i => s.steady_perform i p) l s

theorem State.steady_entrySent (task : Nat) (vt : Fin 16) (no : Nat) : State.Steady s (s.entrySent task vt no) :=
  (s.steady_updInst task vt _).trans (State.steady_performAll _ _ _)

theorem State.steady_lineSent (task : Nat) (vt : Fin 16) (no : Nat) (done : List Held) : State.Steady s (s.lineSent task vt no done) := by
  unfold State.lineSent
  split
  · exact (s.steady_updInst task vt _).trans (State.steady_performAll _ _ _)
  · exact .refl s

theorem State.steady_afterStaged (a : Acc) (id : Nat) : State.Steady s (s.afterStaged a id) := by
  unfold State.afterStaged
  split
  · split
    · exact (s.steady_updAcc id _).trans (State.steady_lineSent _ _ _ _ _)
    · exact s.steady_entrySent _ _ _
    · exact .refl s
  · exact .refl s

theorem State.steady_hubAnswer (a : Acc) (v : Word) : State.Steady s (s.hubAnswer a v) := by
  unfold State.hubAnswer
  split
  · split
    · exact .of_eq rfl rfl
    · exact .refl s
  · split
    · exact ⟨s.courseKept_updGroup _ fun _ _ => rfl, rfl⟩
    · exact .refl s
  · exact .refl s

theorem State.hubOnly_dropForeign (id : Nat) : State.HubOnly s (s.dropForeign id) := .of_eq rfl rfl rfl rfl

theorem State.hubOnly_mergeClock (c : List (BitVec 16)) : State.HubOnly s (s.mergeClock c) := by
  unfold State.mergeClock
  exact .of_eq rfl rfl rfl rfl

theorem State.steady_answer (id : Nat) (v : Word) (p : Perf) : State.Steady s (s.answer id v p) := by
  unfold State.answer
  split
  · split
    · next a _ _ =>
      have dropped : ∀ (u : State) (m : Msg), State.HubOnly u ((u.dropForeign id).sendTo a.rule m) := fun u m =>
        (u.hubOnly_dropForeign id).trans (State.hubOnly_sendTo _ a.rule m)
      have merged : ∀ m : Msg, State.HubOnly s (((s.mergeClock a.clock).dropForeign id).sendTo a.rule m) := fun m =>
        (s.hubOnly_mergeClock a.clock).trans (dropped _ m)
      dsimp only
      split
      · exact (merged _).steady
      · exact (dropped s _).steady
      · exact (merged _).steady
      · exact (merged _).steady
      · exact (merged _).steady
      · exact (dropped s _).steady
    · exact ((s.steady_hubAnswer _ v).trans (State.steady_setAcc _ id _)).trans (State.steady_reap _ id)
  · exact .refl s

theorem State.steady_failAcc (id : Nat) : State.Steady s (s.failAcc id) := by
  unfold State.failAcc
  split
  · exact .refl s
  · next a _ =>
    split
    · exact .of_eq rfl rfl
    · next t _ =>
      have failed := (s.steady_setAcc id { a with remote := false }).trans (State.steady_raise _ t (.fault 0x60 a.vt a.node a.opc a.rule))
      dsimp only
      split
      · exact failed.trans (State.steady_afterStaged _ a id)
      · exact failed.trans (.of_eq rfl rfl)

/-! ### Messages sent (R481, R486-R489) -/

theorem State.steady_form (n : Fin 8) (dst : Nat) (m : Msg) : State.Steady s (s.form n dst m) := by
  constructor
  · refine .of_groups ?_
    unfold State.form
    dsimp only [State.push, State.countHub]
    simp only [apply_ite State.groups, ite_self]
  · unfold State.form
    dsimp only [State.push, State.countHub]
    simp only [apply_ite State.mem, ite_self]

/-- A message tried is sent, or lost with the access that it carries. -/
theorem State.steady_trySend (t : Tx) {u : State} (sent : s.trySend t = some u) : State.Steady s u := by
  have lost : ∀ (w : Bool) (l : State), State.Steady s l → (if w then none else some l) = some u → State.Steady s u := by
    rintro (_ | _) l steady taken
    · cases taken
      exact steady
    · cases taken
  have failed : State.Steady s (match t.formed, t.msg with
      | some _, _ => s
      | none, .probe => { s with probed := s.probed &&& ~~~(BitVec.ofNat 16 (2 ^ t.dst)) }
      | none, m => m.request.elim s s.failAcc) := by
    split
    · exact .refl s
    · exact .of_eq rfl rfl
    · cases t.msg.request with
      | none => exact .refl s
      | some id => exact s.steady_failAcc id
  unfold State.trySend at sent
  dsimp only at sent
  split at sent
  · exact lost _ _ failed sent
  · split at sent
    · exact lost _ _ failed sent
    · obtain ⟨-, sent⟩ := Option.ite_none_left_eq_some.1 sent
      split at sent
      · cases sent
        exact .of_eq rfl rfl
      · obtain ⟨-, sent⟩ := Option.ite_none_left_eq_some.1 sent
        cases sent
        exact s.steady_form _ _ _

theorem State.steady_sendAll (l : List Tx) : ∀ (blocked : List Nat) (s : State), State.Steady s (State.sendAll l blocked s) := by
  induction l with
  | nil => exact fun _ s => .refl s
  | cons t ts ih =>
    intro blocked s
    rw [State.sendAll]
    split
    · exact (ih _ _).after rfl rfl
    · split
      · next u sent => exact (s.steady_trySend t sent).trans (ih _ _)
      · exact (ih _ _).after rfl rfl

theorem State.steady_transmit : State.Steady s s.transmit := by
  have asked : State.Steady s (if s.tx.any fun t => t.formed.isNone && t.msg.counted then s.askClocks s.lagging else s) := by
    split
    · unfold State.askClocks
      refine .foldl (fun s k => ?_) _ s
      exact .of_eq rfl rfl
    · exact .refl s
  exact asked.trans ((State.steady_sendAll _ [] _).after rfl rfl)

/-! ### What a completed cut releases (R292, R297, R329) -/

theorem State.steady_openDo (id : Nat) (a : Acc) (ctx task obj : Nat) (probe : Bool) : State.Steady s (s.openDo id a ctx task obj probe) := by
  unfold State.openDo
  split
  · exact s.steady_answer id _ _
  · split
    · exact s.steady_answer id _ _
    · exact (State.steady_answer _ id _ _).after rfl rfl

theorem State.steady_serveWaiters (ctx name : Nat) : State.Steady s (s.serveWaiters ctx name) := by
  unfold State.serveWaiters
  split
  · refine (State.Steady.foldl (fun s id => ?_) _ _).after rfl rfl
    split
    · split
      · exact s.steady_openDo id _ _ _ _ _
      · exact .refl s
    · exact .refl s
  · exact .refl s

theorem State.steady_releaseBinds (ctx : Nat) (l : List BindEnt) : State.Steady s (s.releaseBinds ctx l) := by
  have bound := State.HubOnly.foldl (fun s b => s.hubOnly_bindName ctx b) l s
  have served : ∀ u : State, State.Steady u (l.foldl (fun s b => if b.obj.isSome then s.serveWaiters ctx b.name else s) u) :=
    .foldl (fun s b => by
      split
      · exact s.steady_serveWaiters ctx b.name
      · exact .refl s) l
  have dropped : ∀ u : State, State.HubOnly u (l.foldl (fun s b =>
      (s.updName ctx b.name fun e => { e with refs := e.refs - 1 }).dropName ctx b.name) u) :=
    .foldl (fun s b => (s.hubOnly_updName ctx b.name _).trans (State.hubOnly_dropName _ ctx b.name)) l
  exact (bound.steady.trans (served _)).trans (dropped _).steady

theorem State.hubOnly_releaseSpawn (ctx task id w : Nat) (slots : List Nat) : State.HubOnly s (s.releaseSpawn ctx task id w slots) := by
  unfold State.releaseSpawn
  split
  · exact .refl s
  · dsimp only
    split
    · exact ((State.hubOnly_declare _ ctx _ slots none).trans (State.hubOnly_updSpread _ _ _)).after rfl rfl rfl rfl
    · exact ((State.hubOnly_addTasks ctx _ _ none 0 slots _ 0).trans (.foldl (fun s no => s.hubOnly_abortWaiting no) _ _)).after
        rfl rfl rfl rfl

theorem State.steady_releaseJoin (task : Nat) (vt : Fin 16) (e : Staged) (spawn no : Nat) (ref : Word) :
    State.Steady s (s.releaseJoin task vt e spawn no ref) := by
  have sent := s.steady_entrySent task vt e.no
  unfold State.releaseJoin
  dsimp only
  split
  · exact sent
  · split
    · exact sent
    · split
      · exact .of_eq rfl rfl
      · exact (sent.trans (State.hubOnly_updSpread _ _ _).steady).trans (State.hubOnly_failWaiter _ _).steady

theorem State.hubOnly_releaseTrigger (task : Nat) : State.HubOnly s (s.releaseTrigger task) := by
  unfold State.releaseTrigger
  split
  · exact .refl s
  · split
    · exact (s.hubOnly_updTask task _).trans (State.hubOnly_countTrigger _ _)
    · exact .refl s

theorem State.steady_applyHub (task : Nat) (vt : Fin 16) (e : Staged) : State.Steady s (s.applyHub task vt e) := by
  have sent := s.steady_entrySent task vt e.no
  unfold State.applyHub
  dsimp only
  split
  · exact (sent.trans (State.steady_releaseBinds _ _ _)).trans (State.hubOnly_countAt _ task vt _ _).steady
  · exact sent.trans (State.hubOnly_releaseSpawn _ _ _ _ _ _).steady
  · exact s.steady_releaseJoin task vt e _ _ _
  · exact sent.trans (State.hubOnly_releaseTrigger _ task).steady
  · exact sent

theorem State.steady_sweep (task : Nat) : State.Steady s (s.sweep task) := by
  unfold State.sweep
  split
  · exact .refl s
  · exact .foldl (fun s vt => s.steady_updInst task vt _) _ s

theorem State.steady_settle (task : Nat) (n : Nat) : ∀ s, State.Steady s (State.settle n s task) := by
  induction n with
  | zero => exact fun s => .refl s
  | succ n ih =>
    intro s
    rw [State.settle]
    split
    · exact (s.steady_applyHub task _ _).trans (ih _)
    · exact s.steady_sweep task

theorem State.steady_settleAll : State.Steady s s.settleAll := .foldl (fun s (g : Nat × Group) => State.steady_settle g.1 _ s) _ s

/-- The request that a completed cut releases last (R187). -/
theorem State.steady_releaseCloser (task id no : Nat) : State.Steady s (s.releaseCloser task id no) := by
  unfold State.releaseCloser
  split
  · exact .refl s
  · split
    · split
      · exact s.steady_setAcc id _
      · exact (s.steady_answer id _ _).trans (State.steady_raise _ task _)
    · exact s.steady_setAcc id _

end

end Sys2Proof.Machine
end

section
/-! A cut opens, is seeded, passes its nodes and completes (R294, R297, R384, R385). -/

namespace Sys2Proof.Machine

/-! ### A seal that waited (R294) -/

/-- A debit outside a firing that is covered is taken. -/
theorem State.debit_of_covered {s : State} {task : Nat} {vt : Fin 16} {x : Inst} (hx : s.inst? task vt = some x) {d : Nat}
    (cov : Safety.Covered x d) (n : Node) (opc : Nat) (wait : State) (k : State → State) :
    s.debit task vt n opc d wait k = k (s.afterDebit task vt x d) := by
  rw [State.debit, State.inst_of_inst? hx]
  rcases Inst.pay_cases x d with ⟨-, short⟩ | ⟨-, -, wait⟩ | ⟨e, -⟩
  · exact absurd cov.1 (by omega)
  · exact absurd cov.2 (by omega)
  · rw [e]
    rfl

theorem State.group?_afterDebit {s : State} {task : Nat} {g : Group} (hg : s.group? task = some g) (vt : Fin 16) (x : Inst) (d : Nat) :
    (s.afterDebit task vt x d).group? task = some { g with wd := 0, episode := none } := by
  rw [State.afterDebit, State.group?_countAt]
  exact State.group?_updGroup_of hg _

section
variable {s : State} {task : Nat} {g : Group} {vt : Fin 16} {x : Inst} (hg : s.group? task = some g) (hx : s.inst? task vt = some x)
  (n : Node) (closer : Option Nat)
include hg hx

/-- The other seals wait on while one opens. -/
theorem State.seals_openSeal_of_covered (cov : Safety.Covered x (64 + x.uncovered)) :
    ((s.openSeal task vt n closer).group task).seals = g.seals := by
  have opens : s.openSeal task vt n closer = (s.afterDebit task vt x (64 + x.uncovered)).openCut task vt closer := by
    rw [State.openSeal, State.inst_of_inst? hx]
    exact State.debit_of_covered hx cov n _ _ _
  rw [opens, State.group_of_group? (State.group?_openCut (State.group?_afterDebit hg vt x _) vt closer)]
  rfl

theorem execImplicitSeal_opens (live : g.live = true) {r : List (Fin 16 × Node × Option Nat)} (seals : g.seals = (vt, n, closer) :: r)
    (free : g.cut = none) (cov : Safety.Covered x (64 + x.uncovered)) :
    ∃ t c, exec (.implicitSeal ⟨task, vt⟩) s = .next t ∧ (t.group task).cut = some c ∧ c.no = g.nextCut ∧ c.closer = closer
      ∧ (t.group task).seals = r ∧ (t.inst task vt).meter + (64 + x.uncovered) = x.meter := by
  set u := s.updGroup task fun g => { g with seals := r } with hu
  have hug : u.group? task = some { g with seals := r } := State.group?_updGroup_of hg _
  have hux : u.inst? task vt = some x := hx
  obtain ⟨⟨c, cut, no, closes⟩, meter⟩ := State.openSeal_of_covered hux n hug closer cov
  refine ⟨u.openSeal task vt n closer, c, ?_, cut, no, closes, State.seals_openSeal_of_covered hug hux n closer cov, meter⟩
  show Host.Outcome.next _ = _
  simp [hg, seals, live, free, hu]

end

/-! ### Seeding (R384) -/

/-- The least value of a list below a bound, when all lie at the bound or above. -/
theorem foldl_min_of_le {α : Type} (f : α → Nat) (l : List α) {a : Nat} (above : ∀ m ∈ l, a ≤ f m) :
    l.foldl (fun m n => min m (f n)) a = a := by
  induction l with
  | nil => rfl
  | cons y r ih =>
    rw [List.foldl_cons, Nat.min_eq_left (above y List.mem_cons_self)]
    exact ih fun m hm => above m (List.mem_cons_of_mem _ hm)

/-- The least value of a list is that of its minimal member. -/
theorem foldl_min_of_mem {α : Type} (f : α → Nat) {n : α} (l : List α) (mem : n ∈ l) (least : ∀ m ∈ l, f n ≤ f m) :
    ∀ a, f n ≤ a → l.foldl (fun m n => min m (f n)) a = f n := by
  induction l with
  | nil => exact absurd mem List.not_mem_nil
  | cons y r ih =>
    intro a bound
    have rest : ∀ m ∈ r, f n ≤ f m := fun m hm => least m (List.mem_cons_of_mem _ hm)
    rw [List.foldl_cons]
    obtain rfl | later := List.mem_cons.1 mem
    · rw [Nat.min_eq_right bound]
      exact foldl_min_of_le f r rest
    · exact ih later rest _ (Nat.le_min.2 ⟨bound, least y List.mem_cons_self⟩)

theorem Cut.mem_sent_reach (c : Cut) (n m : Fin 16 × Node) : m ∈ (c.reach n).sent ↔ m ∈ c.sent ∨ m = n := by
  unfold Cut.reach
  split
  · next there =>
    have : n ∈ c.sent := List.contains_iff_mem.1 there
    exact ⟨.inl, fun h => h.elim id fun e => e ▸ this⟩
  · simp

/-- The nodes that seeding reaches are added to those that the CAIRN has reached. -/
theorem Cut.mem_sent_reaches (l : List (Fin 16 × Node)) (m : Fin 16 × Node) : ∀ c : Cut,
    m ∈ (l.foldl Cut.reach c).sent ↔ m ∈ c.sent ∨ m ∈ l := by
  induction l with
  | nil => simp
  | cons y r ih =>
    intro c
    rw [List.foldl_cons, ih, Cut.mem_sent_reach, List.mem_cons]
    tauto

theorem execCairnSeed_reaches {s : State} {task : Nat} {g : Group} (hg : s.group? task = some g) (live : g.live = true) {c : Cut}
    (hc : g.cut = some c) : ∃ t d, exec (.cairnSeed task) s = .next t ∧ (t.group task).cut = some d ∧ d.no = c.no ∧ d.passed = c.passed
      ∧ (∀ n, n ∈ c.sent → n ∈ d.sent)
      ∧ ∀ n ∈ s.groupNodes task, c.hasPassed n = false →
          (∀ m ∈ s.groupNodes task, c.hasPassed m = false → (s.inst task n.1).cfg.stage n.2 ≤ (s.inst task m.1).cfg.stage m.2) →
          (s.inst task n.1).cfg.stage n.2 ≤ 16 → n ∈ d.sent := by
  set stage : Fin 16 × Node → Nat := fun n => (s.inst task n.1).cfg.stage n.2 with isStage
  set todo := (s.groupNodes task).filter fun n => !c.hasPassed n with isTodo
  set low := todo.foldl (fun m n => min m (stage n)) 16 with isLow
  set d := (todo.filter fun n => stage n == low).foldl Cut.reach c with isD
  have turn : exec (.cairnSeed task) s = .next (s.setGroup task { g with cut := some d }) := by
    show Host.Outcome.next _ = _
    simp only [hg, live, hc]
    rfl
  have course : d.course = c.course := Cut.course_reaches _ c
  refine ⟨_, d, turn, by rw [State.group_of_group? (State.group?_setGroup _ _ _)], congrArg Prod.fst course, congrArg Prod.snd course,
    fun n sent => (Cut.mem_sent_reaches _ n c).2 (.inl sent), fun n mem waits least bound => ?_⟩
  have inTodo : ∀ m, m ∈ todo ↔ m ∈ s.groupNodes task ∧ c.hasPassed m = false := fun m => by simp [isTodo]
  have lowest : low = stage n := foldl_min_of_mem stage todo ((inTodo n).2 ⟨mem, waits⟩)
    (fun m hm => least m ((inTodo m).1 hm).1 ((inTodo m).1 hm).2) 16 bound
  refine (Cut.mem_sent_reaches _ n c).2 (.inr (List.mem_filter.2 ⟨(inTodo n).2 ⟨mem, waits⟩, ?_⟩))
  rw [lowest, beq_self_eq_true]

/-! ### Passage (R385) -/

section
variable (s : State) (task : Nat) (vt : Fin 16) (n : Node)

theorem Cut.course_updRec (c : Cut) (f : InstRec → InstRec) : (c.updRec vt f).course = c.course := rfl

theorem State.course_recordNode (c : Cut) : (s.recordNode task c vt n).course = c.course := by
  unfold State.recordNode
  refine (foldl_keeps Cut.course (fun c v => foldl_keeps Cut.course (fun c b => ?_) _ c) _ _).trans rfl
  dsimp only
  split
  · rfl
  · rfl

theorem State.course_recordPads (c : Cut) : (s.recordPads task c).course = c.course := by
  unfold State.recordPads
  exact foldl_keeps Cut.course (fun c v => c.course_updRec v _) _ c

theorem State.courseKept_engineCairn (no : Nat) : State.CourseKept s (s.engineCairn task vt n no) := by
  refine .foldl (fun s k => ?_) _ s
  dsimp only
  split
  · exact .refl s
  · split
    · exact .refl s
    · split
      · exact s.courseKept_updInst task vt _
      · exact s.courseKept_updGroup task fun g _ => g.course_mapCut fun c =>
          foldl_keeps Cut.course (fun c m => c.course_reach (vt, m)) _ c

/-- CAIRN sent on leaves every group on its course. -/
theorem State.courseKept_sendCairn (no : Nat) : State.CourseKept s (s.sendCairn task vt n no) := by
  unfold State.sendCairn
  split
  · next e =>
    refine State.CourseKept.trans (.foldl (fun s o => s.courseKept_send task (.out vt e o) _) _ s) (.foldl (fun s ch => ?_) _ _)
    split
    · split
      · refine s.courseKept_updGroup task fun g _ => g.course_mapCut fun c => ?_
        split
        · exact Cut.course_reach _ _
        · rfl
      · exact .refl s
    · exact .refl s
  · exact (s.courseKept_engineCairn task vt .matrix no).trans (State.courseKept_send _ task (.mst vt) _)
  · exact s.courseKept_engineCairn task vt n no

theorem State.courseKept_payLines : State.CourseKept s (s.payLines ⟨task, vt⟩) := by
  unfold State.payLines
  dsimp only
  split
  · exact .refl s
  · exact s.courseKept_debit task vt .seq _ _ (.refl s) fun u => u.courseKept_updInst task vt _

/-- What the step has sent to a node lands before the node passes (R385). -/
def State.landNode (s : State) (task : Nat) (vt : Fin 16) (n : Node) : State :=
  match n with
  | .elem e => ([0, 1, 2, 3] : List (Fin 4)).foldl (fun s c => s.flushReqs task vt e c) (s.landElem task vt e)
  | _ => s

/-- The state with the node's entries covered by the cut numbered no (R300). -/
def State.coverNode (s : State) (task : Nat) (vt : Fin 16) (n : Node) (no : Nat) : State :=
  s.updInst task vt fun x => { x with staged := x.staged.map fun e =>
    if e.node == n && e.cut.isNone then { e with cut := some no } else e }

/-- The record of a cut that the node has just passed: it holds the pads once every node has passed (R388). -/
def State.closeRecord (s : State) (task : Nat) (c : Cut) : Cut := if (s.groupNodes task).all c.hasPassed then s.recordPads task c else c

/-- The debit of the lines of a tile is due once its last node has passed the cut (R300). -/
def State.oweLines (s : State) (task : Nat) (vt : Fin 16) (c : Cut) : State :=
  let x := s.inst task vt
  let owed := (x.staged.filter fun e => e.cut == some c.no && !e.paid).length
  if x.nodes.all fun m => c.hasPassed (vt, m) then s.updInst task vt fun x => { x with lines := owed } else s

/-- The cut with the node among those that have passed it. -/
def State.passedBy (s : State) (task : Nat) (vt : Fin 16) (n : Node) (c : Cut) : Cut :=
  let c := s.recordNode task c vt n
  { c with passed := c.passed ++ [(vt, n)] }

theorem State.courseKept_landNode : State.CourseKept s (s.landNode task vt n) := by
  unfold State.landNode
  split
  · next e => exact (s.courseKept_landElem task vt e).trans (.foldl (fun s c => s.courseKept_flushReqs task vt e c) _ _)
  · exact .refl s

theorem State.course_passedBy (c : Cut) : (s.passedBy task vt n c).course = (c.no, c.passed ++ [(vt, n)]) :=
  have noted := s.course_recordNode task vt n c
  Prod.ext (congrArg Prod.fst noted :) (congrArg (·.2 ++ [(vt, n)]) noted :)

theorem State.course_closeRecord (c : Cut) : (s.closeRecord task c).course = c.course := by
  unfold State.closeRecord
  split
  · exact s.course_recordPads task c
  · rfl

theorem State.courseKept_oweLines (c : Cut) : State.CourseKept s (s.oweLines task vt c) := by
  unfold State.oweLines
  dsimp only
  split
  · exact s.courseKept_updInst task vt _
  · exact .refl s

/-- A passage step by step: what was sent lands, the node is recorded, its entries are covered, CAIRN goes on. -/
theorem State.pass_eq {u : State} (landed : s.landNode task vt n = u) {c : Cut} (hc : (u.group task).cut = some c) :
    s.pass task vt n =
      let d := u.passedBy task vt n c
      let v := u.coverNode task vt n d.no
      let e := v.closeRecord task d
      ((v.updGroup task fun g => { g with cut := some e }).sendCairn task vt n e.no).oweLines task vt e := by
  unfold State.pass
  cases n with
  | elem e =>
    dsimp only [State.landNode] at landed ⊢
    rw [landed, hc]
    rfl
  | _ =>
    dsimp only [State.landNode] at landed ⊢
    rw [landed, hc]
    rfl

/-- A node that passes is the last of those that have passed the cut. -/
theorem State.pass_passed {g : Group} (hg : s.group? task = some g) {c : Cut} (hc : g.cut = some c) :
    ∃ h d, (s.pass task vt n).group? task = some h ∧ h.cut = some d ∧ d.passed = c.passed ++ [(vt, n)] := by
  obtain ⟨g', hg', same⟩ := (s.courseKept_landNode task vt n).group? hg
  obtain ⟨c', hc', no, passed⟩ := Group.cut_of_course same hc
  have cut : ((s.landNode task vt n).group task).cut = some c' := by rw [State.group_of_group? hg', hc']
  rw [s.pass_eq task vt n rfl cut]
  dsimp only
  set u := s.landNode task vt n
  set d := u.passedBy task vt n c' with isD
  set v := u.coverNode task vt n d.no
  set e := v.closeRecord task d with isE
  have put : (v.updGroup task fun g => { g with cut := some e }).group? task = some { g' with cut := some e } := State.group?_updGroup_of hg' _
  obtain ⟨h, hh, kept⟩ := ((State.courseKept_sendCairn _ task vt n e.no).trans (State.courseKept_oweLines _ task vt e)).group? put
  obtain ⟨f, hf, -, still⟩ := Group.cut_of_course kept rfl
  have course : e.course = (c'.no, c'.passed ++ [(vt, n)]) := (v.course_closeRecord task d).trans (u.course_passedBy task vt n c')
  exact ⟨h, f, hh, hf, by rw [still, ← passed]; exact congrArg Prod.snd course⟩

end

/-- A node that a CAIRN has reached passes at its boundary; the debit of its tile's lines leaves the cut as it is (R300, R385). -/
theorem execCairnPassage_passes {s : State} {task : Nat} {g : Group} (hg : s.group? task = some g) (live : g.live = true) {c : Cut}
    (hc : g.cut = some c) {vt : Fin 16} {n : Node} {x : Inst} (hx : s.inst? task vt = some x) (resident : g.isResident vt x = true)
    (goes : x.nodeLive n = true) (node : n ∈ x.nodes) (reached : (vt, n) ∈ c.sent) (waits : c.hasPassed (vt, n) = false)
    (boundary : s.boundary task vt n = true) :
    ∃ t d, exec (.cairnPassage ⟨task, vt⟩ n) s = .next t ∧ (t.group task).cut = some d ∧ d.passed = c.passed ++ [(vt, n)] := by
  have due : s.passDue ⟨task, vt⟩ n = s.pass task vt n := by
    simp [State.passDue, hg, hx, live, resident, goes, node, boundary, Group.due, hc, reached, waits]
  obtain ⟨h, d, hh, hd, passed⟩ := s.pass_passed task vt n hg hc
  obtain ⟨k, hk, same⟩ := (State.courseKept_payLines _ task vt).group? hh
  obtain ⟨e, he, -, still⟩ := Group.cut_of_course same hd
  refine ⟨_, e, ?_, by rw [State.group_of_group? hk, he], still.trans passed⟩
  show Host.Outcome.next _ = _
  rw [due]

/-! ### Completion (R297) -/

/-- The entries that the cut numbered no covers are released as it completes (R296, R297). -/
def State.releaseEntries (s : State) (task : Nat) (g : Group) (no : Nat) : State :=
  g.vts.foldl (fun s vt => s.updInst task vt fun x =>
    { x with sinceCut := x.sinceOpen, staged := x.staged.map fun e =>
      if e.cut = some no then { e with released := true, after := 0 } else { e with after := 0 } }) s

/-- A cut whose nodes have all passed completes: it is the last one, and none is in progress. -/
theorem execCutComplete_completes {s : State} {task : Nat} {g : Group} (hg : s.group? task = some g) (live : g.live = true) {c : Cut}
    (hc : g.cut = some c) (ready : s.cutReady task g c = true) :
    ∃ t, exec (.cutComplete task) s = .next t ∧ (t.group task).cut = none ∧ (t.group task).lastCut = c.no := by
  have turn : exec (.cutComplete task) s = .next (s.completeCut task g c) := by
    show Host.Outcome.next _ = _
    simp [hg, hc, live, ready]
  refine ⟨_, turn, ?_⟩
  set h : Group := { g with cut := none, back := c.record, lastCut := c.no, atCut := true, why := match c.shrink with
    | some four => some (.shrink four)
    | none => g.why } with isH
  have closed : ∀ u : State, State.CourseKept u (match c.closer with
      | some id => u.releaseCloser task id c.no
      | none => u) := fun u => by
    split
    · exact (u.steady_releaseCloser task _ _).courses
    · exact .refl u
  have settled : ∀ (u : State) (objs : List Nat) (f : Slot → Option Slot),
      State.CourseKept u (((objs.foldl State.share u).updSlots g.ctx f).countAt task 0 0x0B 1).settleAll := fun u objs f =>
    (((State.HubOnly.foldl (fun u o => u.hubOnly_share o) objs u).trans (State.hubOnly_updSlots _ g.ctx f)).trans
      (State.hubOnly_countAt _ task 0 _ _)).steady.courses.trans (State.steady_settleAll _).courses
  have rest : ∃ u : State, u.group? task = some h ∧ State.CourseKept u (s.completeCut task g c) := by
    refine ⟨(s.releaseEntries task g c.no).setGroup task h, State.group?_setGroup _ _ _, ?_⟩
    exact (closed _).trans (settled _ _ _)
  obtain ⟨u, hu, kept⟩ := rest
  obtain ⟨k, hk, same⟩ := kept.group? hu
  rw [State.group_of_group? hk]
  exact ⟨Group.no_cut_of_course same rfl, congrArg Course.lastCut same⟩

/-! ### The statement -/

/-- Settles O37: a seal that waited, a seeding, a passage and a completion, each by the rule of its event. -/
theorem cuts : Obligations.Cuts := by
  unfold Obligations.Cuts
  intro s task g hg live
  refine ⟨fun vt node closer r x seals free hx cov => execImplicitSeal_opens hg hx node closer live seals free cov, fun c hc => ⟨?_, ?_, ?_⟩⟩
  · exact execCairnSeed_reaches hg live hc
  · intro vt n x hx resident goes node reached waits boundary _
    exact execCairnPassage_passes hg live hc hx resident goes node reached waits boundary
  · exact execCutComplete_completes hg live hc

end Sys2Proof.Machine
end

section
/-! SEAL, FILL and PKRD (R298, R300-R302): a seal opens the next cut, a grant is debited from the account, a balance is asked for. -/

namespace Sys2Proof.Machine

/-! ### What a firing's debit, its result and an opening cut leave -/

section
variable (s : State) (h : Here)

theorem State.courseKept_paid (d : Nat) : State.CourseKept s (Safety.paid s h d) :=
  ((State.CourseKept.of_groups (s := s) (t := s.mark.setInst s.cur.task s.cur.vt (h.x.debit d)) rfl).trans
    (State.courseKept_progress _ s.cur.task)).trans
    ((State.courseKept_countAt _ _ s.cur.vt _ _).trans (State.courseKept_countAt _ _ s.cur.vt _ _))

theorem State.cur_paid (d : Nat) : (Safety.paid s h d).cur = s.cur :=
  (State.copiesKept_countAt _ _ s.cur.vt _ _).cur.trans (State.copiesKept_countAt _ _ s.cur.vt _ _).cur

/-- A result takes nothing from a meter. -/
theorem State.meter_result (el : Elem) (dst : Dst) (tok : Tok) (val : Word) (pd : Fin 8) (pw : Bool) (wt : Fin 16) :
    ((s.result h el dst tok val pd pw).inst s.cur.task wt).meter = (s.inst s.cur.task wt).meter := by
  have put : ∀ el, ((s.putHere h el).inst s.cur.task wt).meter = (s.inst s.cur.task wt).meter := fun el => by
    obtain same | changed := s.inst_updInst_cases s.cur.task s.cur.vt wt fun x => x.setElem h.e el
    · exact congrArg Inst.meter same
    · exact (congrArg Inst.meter changed :)
  cases dst with
  | d n => exact put _
  | o o =>
    have pulled : ∀ u : State, ((u.takePull s.cur.task h.g s.cur.vt h.e o).inst s.cur.task wt).meter = (u.inst s.cur.task wt).meter :=
      fun u => by
        unfold State.takePull
        split
        · exact u.meter_updElem s.cur.task s.cur.vt h.e _ wt
        · rfl
    have sent : ∀ u : State, ((u.emit s.cur.task s.cur.vt h.e o tok).inst s.cur.task wt).meter = (u.inst s.cur.task wt).meter := fun u =>
      ((State.inputsOnly_drainOut _ s.cur.task s.cur.vt h.e o).meter (ikey s.cur.task wt)).trans
        ((State.meter_updElem _ s.cur.task s.cur.vt h.e _ wt).trans (u.meter_updElem s.cur.task s.cur.vt h.e _ wt))
    exact ((sent _).trans (pulled _)).trans (put _)
  | pred => exact put _
  | none => exact put _

/-- A result for a register stands there. -/
theorem State.d_result {x : Inst} (hx : s.inst? s.cur.task s.cur.vt = some x) (el : Elem) (n : Fin 8) (tok : Tok) (val : Word) (pd : Fin 8)
    (pw : Bool) : vget ((s.result h el (.d n) tok val pd pw).elem s.cur.task s.cur.vt h.e).d n = val := by
  have copy : (s.result h el (.d n) tok val pd pw).inst? s.cur.task s.cur.vt
      = some (x.setElem h.e ((el.pw pw pd val tok.deps).setD n val tok.deps)) := by
    refine (s.inst?_updInst_same s.cur.task s.cur.vt _).trans ?_
    rw [hx, Option.map_some]
  rw [State.elem_of_inst? copy, Inst.elem_setElem_same]
  exact Vector.getElem_set_self _

/-- A cut that opens takes nothing from a meter. -/
theorem State.meter_openCut (task : Nat) (vt wt : Fin 16) (closer : Option Nat) :
    ((s.openCut task vt closer).inst task wt).meter = (s.inst task wt).meter := by
  simp only [State.inst, State.openCut, Assoc.getD, Assoc.get?_mapAll, State.updGroup_keeps]
  cases s.insts.get? (ikey task wt) with
  | none => rfl
  | some x =>
    rw [Option.map_some]
    split <;> rfl

theorem State.ctxs_sendReq (el : Elem) (dst : Dst) (a : Acc) : (s.sendReq h el dst a).ctxs = s.ctxs := by
  cases dst with
  | o o =>
    simp only [State.sendReq, State.takePull]
    split <;> rfl
  | d n => rfl
  | pred => rfl
  | none => rfl

end

theorem State.beside_account (s : State) (n : Nat) (f : Nat → Nat) : State.Beside s (s.account n f) := .of_insts rfl rfl rfl rfl rfl

theorem State.inst?_account (s : State) (n : Nat) (f : Nat → Nat) (task : Nat) (vt : Fin 16) :
    (s.account n f).inst? task vt = s.inst? task vt := rfl

/-- The account of a context after a change of it. -/
theorem State.acct_account {s : State} {n : Nat} {c : Ctx} (hc : s.ctxs.get? n = some c) (f : Nat → Nat) :
    ((s.account n f).ctx n).acct = min (f c.acct) (2 ^ 48 - 1) := by
  have changed : (s.account n f).ctxs.get? n = some { c with acct := min (f c.acct) (2 ^ 48 - 1) } :=
    (Assoc.get?_modify s.ctxs n (fun c => { c with acct := min (f c.acct) (2 ^ 48 - 1) }) n).trans (by rw [if_pos rfl, hc, Option.map_some])
  rw [State.ctx_of_get? changed]

/-! ### The instructions -/

section
variable {s : State} {h : Here} (hh : s.here = some h)
include hh

/-- A SEAL pays for its lines and opens the next cut (R298, R300). -/
theorem execSeal_opens {x : EaDp} (gate : s.gate h x.trig = true) (takes : Safety.takes s h x.dst) (free : h.g.cut = none)
    (unused : h.g.sealUse = false) (cov : Safety.Covered h.x (64 + h.x.uncovered)) :
    ∃ t c, exec (.seal x) s = .next t ∧ (t.group s.cur.task).cut = some c ∧ c.no = h.g.nextCut ∧ c.passed = []
      ∧ (t.group s.cur.task).nextCut = (if 2 ^ 32 - 1 ≤ h.g.nextCut then 1 else h.g.nextCut + 1)
      ∧ (∀ n, x.dst = .d n → vget (t.elem s.cur.task s.cur.vt h.e).d n = BitVec.ofNat 32 h.g.nextCut)
      ∧ Safety.debited s t h (64 + h.x.uncovered) := by
  set d := 64 + h.x.uncovered
  set u := s.updGroup s.cur.task fun g => { g with sealUse := true }
  set p := Safety.paid u h d with isP
  have hp : p.inst? s.cur.task s.cur.vt = some (h.x.debit d) := State.inst?_paid (s := u) d
  have cur : p.cur = s.cur := u.cur_paid h d
  set no := BitVec.ofNat 32 h.g.nextCut
  set r := p.result h h.el x.dst ⟨0, no, p.fireDeps h x.trig []⟩ no x.pd x.pw with isR
  have turn : exec (.seal x) s = .next (r.openCut p.cur.task p.cur.vt none) := by
    obtain ⟨ok, room⟩ := takes
    show execSeal x s = _
    simp only [execSeal, hh, gate, ok, room, free, unused, Option.isNone_none, Bool.not_false, Bool.and_self, if_true]
    exact congrArg Host.Outcome.next (State.charge_of_covered u h _ d _ cov)
  rw [cur] at turn
  obtain ⟨-, hg, -, -⟩ := State.here_spec hh
  have marked : State.CourseKept s u := s.courseKept_updGroup s.cur.task fun _ _ => rfl
  have kept : State.CourseKept s r := (marked.trans (u.courseKept_paid h d)).trans
    (p.courseKept_result h h.el x.dst _ no x.pd x.pw)
  obtain ⟨g, hr, same⟩ := kept.group? hg
  have next : g.nextCut = h.g.nextCut := congrArg Course.nextCut same
  have opened := State.group_of_group? (State.group?_openCut hr s.cur.vt none)
  refine ⟨_, { no := g.nextCut, closer := none }, turn, congrArg Group.cut opened, next, rfl, ?_, fun n dst => ?_, ?_⟩
  · rw [opened, ← next]
    rfl
  · rw [(State.beside_openCut r s.cur.task s.cur.vt none).elem, isR, dst, ← cur]
    exact p.d_result h (cur ▸ hp) h.el n _ no x.pd x.pw
  · rw [Safety.debited, State.meter_openCut]
    have meter := p.meter_result h h.el x.dst ⟨0, no, p.fireDeps h x.trig []⟩ no x.pd x.pw s.cur.vt
    rw [cur] at meter
    rw [isR, meter, State.inst_of_inst? hp]
    exact Inst.meter_debit cov

/-- A PKRD debits its drops and asks the hub for the balance (R302). -/
theorem execPkrd_sends {x : EaDp} (gate : s.gate h x.trig = true) (takes : Safety.takes s h x.dst) (cov : Safety.Covered h.x 4) :
    ∃ t, exec (.pkrd x) s = .next t ∧ Safety.Sends s t h .pkrd (destOf x.dst) ∧ Safety.debited s t h 4 := by
  obtain ⟨ok, room⟩ := takes
  have turn : exec (.pkrd x) s = .next ((Safety.paid s h 4).sendReq h h.el x.dst
      { req := .pkrd, scope := .device, opc := 0x6F, deps := (Safety.paid s h 4).fireDeps h x.trig [],
        pw := if x.pw then some x.pd else none, perf := .span }) := by
    show execPkrd x s = _
    simp only [execPkrd, hh, gate, ok, room, Bool.and_self, if_true, State.charge_of_covered s h _ _ _ cov]
  exact ⟨_, turn, State.sends_after_paid hh x.dst _ (Elem.Same.refl _), State.debited_after_paid hh x.dst _ cov⟩

/-- A FILL debits its drops, and the account by what it is granted; its request carries the grant (R301). -/
theorem execFill_grants {x : EaDap} {c : Ctx} (gate : s.gate h x.trig = true) (okA : h.el.okA x.sa = true) (takes : Safety.takes s h x.dst)
    (cov : Safety.Covered h.x 16) (hc : s.ctxs.get? h.g.ctx = some c) {n : Nat}
    (isN : n = s.grant h (s.packets s.cur.task) (h.el.readA x.sa).val.toNat) :
    ∃ t, exec (.fill x) s = .next t ∧ Safety.Sends s t h (.fill (h.el.readA x.sa).val.toNat) (destOf x.dst)
      ∧ (t.ctx h.g.ctx).acct = min (c.acct - n) (2 ^ 48 - 1) ∧ (t.inst s.cur.task s.cur.vt).granted = h.x.granted + n
      ∧ Safety.debited s t h 16 := by
  obtain ⟨ok, room⟩ := takes
  set p := Safety.paid s h 16 with isP
  have before := State.beside_paid hh 16
  have frame := State.frame_paid (dst := .none) (ctr := none) (prd := none) hh 16
  set y := p.updInst s.cur.task s.cur.vt fun y => { y with granted := y.granted + n }
  set v := y.account h.g.ctx fun b => b - n with isV
  set el := h.el.dequeue (p.pullHere h) (SrcA.takes x.sa)
  have granted : p.grant h (p.packets s.cur.task) (h.el.readA x.sa).val.toNat = n := by
    rw [isN, State.grant, State.grant, State.packets, State.packets, State.ctx, State.ctx, frame.ctxs, frame.tasks]
  set a : Acc :=
    { req := .fill (h.el.readA x.sa).val.toNat, scope := .device, opc := 0x6E, deps := v.fireDeps h x.trig (h.el.readA x.sa).deps
      pw := if x.pw then some x.pd else none, reply := some (BitVec.ofNat 32 n), perf := .span, tokVal := BitVec.ofNat 32 n }
  have turn : exec (.fill x) s = .next (v.sendReq h el x.dst a) := by
    have cur : p.cur = s.cur := before.cur
    show execFill x s = _
    simp only [execFill, hh, gate, okA, ok, room, Bool.and_self, if_true]
    rw [State.charge_of_covered s h _ _ _ cov, ← isP, cur, granted]
  have added : State.Beside p y := p.beside_updInst s.cur.task s.cur.vt fun _ => rfl
  have beside : State.Beside s v := (before.trans added).trans (y.beside_account _ _)
  have copy : y.inst? s.cur.task s.cur.vt = some { h.x.debit 16 with granted := h.x.granted + n } :=
    State.inst?_updInst (State.inst?_paid 16) _
  rw [← State.inst?_account y h.g.ctx fun b => b - n, ← isV, ← beside.cur] at copy
  have acct : (v.ctx h.g.ctx).acct = min (c.acct - n) (2 ^ 48 - 1) := State.acct_account (s := y) (frame.ctxs ▸ hc) _
  clear_value v y
  have sent := State.sent_sendReq v h el x.dst a
  obtain ⟨m, own⟩ := sent.inst? (x := { h.x.debit 16 with granted := h.x.granted + n }) copy
  rw [beside.cur] at own
  refine ⟨_, turn, ?_, ?_, ?_, ?_⟩
  · exact sent.sends beside copy (h.el.same_dequeue _ _)
  · rw [State.ctx, State.ctxs_sendReq]
    exact acct
  · rw [State.inst_of_inst? own]
    rfl
  · rw [Safety.debited, State.inst_of_inst? own]
    exact Inst.meter_debit cov

end

/-- Settles O24: a seal opens its cut beside its result; a grant and a balance are requests of the element. -/
theorem cutInstructions : Obligations.CutInstructions := by
  unfold Obligations.CutInstructions
  intro s h hh
  refine ⟨fun x gate takes => ⟨?_, ?_⟩, fun x c gate okA takes cov hc => ?_⟩
  · exact execSeal_opens hh gate takes
  · exact execPkrd_sends hh gate takes
  · refine execFill_grants hh gate okA takes cov hc ?_
    rw [State.grant, State.ctx_of_get? hc]

end Sys2Proof.Machine
end

section
/-! SUPPORT. A rollback, a settlement and the end of a group leave the packets and the retries of every task, and every fault ring, as they
are; the group that ends is no more, nor are its copies (R282, R304, R307). -/

namespace Sys2Proof.Machine

/-- What a dispatch owes and has tried: its packets and its retries. -/
def Task.budget (t : Task) : Nat × Nat := (t.p, t.rtry)

/-- Both states have the same budgets and fault rings. -/
structure State.BooksKept (s t : State) : Prop where
  budgets : ∀ n, (t.tasks.get? n).map Task.budget = (s.tasks.get? n).map Task.budget
  rings : ∀ c, (t.ctxs.get? c).map Ctx.journal = (s.ctxs.get? c).map Ctx.journal

/-- Nothing of this changes with the other fields. -/
theorem State.BooksKept.of_eq {s t : State} (tasks : t.tasks = s.tasks) (ctxs : t.ctxs = s.ctxs) : State.BooksKept s t :=
  ⟨fun n => by rw [tasks], fun c => by rw [ctxs]⟩

theorem State.BooksKept.refl (s : State) : State.BooksKept s s := .of_eq rfl rfl

theorem State.BooksKept.trans {s t u : State} (h : State.BooksKept s t) (k : State.BooksKept t u) : State.BooksKept s u :=
  ⟨fun n => (k.budgets n).trans (h.budgets n), fun c => (k.rings c).trans (h.rings c)⟩

/-- What follows a change of other fields. -/
theorem State.BooksKept.after {s u t : State} (k : State.BooksKept u t) (tasks : u.tasks = s.tasks) (ctxs : u.ctxs = s.ctxs) :
    State.BooksKept s t := State.BooksKept.trans (.of_eq tasks ctxs) k

theorem State.BooksKept.foldl {α : Type} {f : State → α → State} (step : ∀ s x, State.BooksKept s (f s x)) (l : List α) (s : State) :
    State.BooksKept s (l.foldl f s) := by
  induction l generalizing s with
  | nil => exact .refl s
  | cons x r ih => exact (step s x).trans (ih _)

theorem State.BooksKept.task {s t : State} (h : State.BooksKept s t) {n : Nat} {k : Task} (hk : s.tasks.get? n = some k) :
    ∃ j, t.tasks.get? n = some j ∧ j.p = k.p ∧ j.rtry = k.rtry := by
  have same := h.budgets n
  rw [hk, Option.map_some] at same
  obtain ⟨j, hj, budget⟩ := Option.map_eq_some_iff.1 same
  exact ⟨j, hj, congrArg Prod.fst budget, congrArg Prod.snd budget⟩

/-- The context whose fault ring is kept. -/
theorem Ctx.of_rings {s t : State} {n : Nat} (rings : (t.ctxs.get? n).map Ctx.journal = (s.ctxs.get? n).map Ctx.journal) {c : Ctx}
    (hc : s.ctxs.get? n = some c) : ∃ d, t.ctxs.get? n = some d ∧ d.ring = c.ring ∧ d.prod = c.prod ∧ d.vf = c.vf := by
  rw [hc, Option.map_some] at rings
  obtain ⟨d, hd, same⟩ := Option.map_eq_some_iff.1 rings
  exact ⟨d, hd, congrArg (·.1) same, congrArg (·.2.1) same, congrArg (·.2.2.2) same⟩

section
variable (s : State)

theorem State.books_updInst (task : Nat) (vt : Fin 16) (f : Inst → Inst) : State.BooksKept s (s.updInst task vt f) := .of_eq rfl rfl

theorem State.books_updGroup (task : Nat) (f : Group → Group) : State.BooksKept s (s.updGroup task f) := .of_eq rfl rfl

theorem State.books_setAcc (id : Nat) (a : Acc) : State.BooksKept s (s.setAcc id a) := by
  unfold State.setAcc
  dsimp only
  split <;> exact .of_eq rfl rfl

theorem State.books_countAt (task : Nat) (vt : Fin 16) (src n : Nat) : State.BooksKept s (s.countAt task vt src n) := by
  unfold State.countAt
  split <;> exact .of_eq rfl rfl

/-- A task changed beside its budget. -/
theorem State.books_updTask (no : Nat) {f : Task → Task} (keeps : ∀ t, (f t).budget = t.budget) : State.BooksKept s (s.updTask no f) := by
  refine ⟨fun n => ?_, fun _ => rfl⟩
  simp only [State.updTask_tasks, Assoc.get?_modify]
  split
  · rw [Option.map_map]
    exact congrArg (Option.map · _) (funext keeps)
  · rfl

theorem State.books_account (ctx : Nat) (f : Nat → Nat) : State.BooksKept s (s.account ctx f) := by
  refine ⟨fun n => ?_, (s.hubOnly_account ctx f).rings⟩
  unfold State.account State.retest
  rw [Assoc.get?_mapAll, Option.map_map]
  refine congrArg (Option.map · _) (funext fun t => ?_)
  rw [Function.comp]
  split <;> rfl

/-! ### Rollback (R304) -/

theorem State.books_dropName (ctx id : Nat) : State.BooksKept s (s.dropName ctx id) := by
  unfold State.dropName
  split
  · split <;> exact .of_eq rfl rfl
  · exact .refl s

theorem State.books_voidBind (ctx : Nat) (b : BindEnt) : State.BooksKept s (s.voidBind ctx b) := by
  unfold State.voidBind
  dsimp only
  split <;> exact (State.books_dropName _ ctx b.name).after rfl rfl

theorem State.books_updQueue (ctx : Nat) (q : Fin 16) (f : Queue → Queue) : State.BooksKept s (s.updQueue ctx q f) :=
  ⟨fun _ => rfl, (s.hubOnly_updQueue ctx q f).rings⟩

theorem State.books_voidEntries (ctx : Nat) (l : List Staged) : State.BooksKept s (s.voidEntries ctx l) := by
  refine .foldl (fun s e => ?_) l s
  split
  · split
    · exact .refl s
    · exact .foldl (fun s b => s.books_voidBind ctx b) _ s
  · split
    · exact .refl s
    · split
      · exact s.books_updQueue ctx _ _
      · exact .refl s
  · exact .refl s

theorem State.books_landGrants (task : Nat) : State.BooksKept s (s.landGrants task) := by
  refine .foldl (fun s x => ?_) _ s
  split
  · exact (s.books_updInst task _ _).trans (State.books_setAcc _ _ _)
  · exact .refl s

theorem State.books_updSlots (ctx : Nat) (f : Slot → Option Slot) : State.BooksKept s (s.updSlots ctx f) := by
  refine .foldl (fun s x => ?_) _ s
  split
  · split
    · exact .of_eq rfl rfl
    · unfold State.freeHandle
      split <;> exact .of_eq rfl rfl
  · exact .refl s

theorem State.books_restoreTile (task : Nat) (vt : Fin 16) (r : InstRec) : State.BooksKept s (s.restoreTile task vt r) := .of_eq rfl rfl

theorem State.books_remirror (task : Nat) : State.BooksKept s (s.remirror task) :=
  (State.BooksKept.foldl (fun s _ => s.books_updGroup task _) _ _).after rfl rfl

theorem State.books_dropNames (ctx : Nat) : State.BooksKept s (s.dropNames ctx) := .foldl (fun s _ => s.books_dropName ctx _) _ s

theorem State.books_unlist (ids : List Nat) : State.BooksKept s (s.unlist ids) := .of_eq rfl rfl

theorem State.books_withAccs (m : Assoc Acc) : State.BooksKept s { s with accs := m } := .of_eq rfl rfl

/-- A rollback restores tiles, requests, names and slots, no task and no fault ring. -/
theorem State.books_rollback (task : Nat) (abort : Bool) : State.BooksKept s (s.rollback task abort) := by
  unfold State.rollback
  split
  · exact .refl s
  · next g _ =>
    refine .trans ?_ (State.books_countAt _ task 0 _ _)
    refine .trans ?_ (State.books_remirror _ task)
    refine .trans ?_ (State.books_updGroup _ task _)
    refine .trans ?_ (.foldl (fun s vt => s.books_restoreTile task vt _) _ _)
    refine .trans ?_ (State.books_updSlots _ g.ctx _)
    refine .trans ?_ (State.books_withAccs _ _)
    refine .trans ?_ (State.books_dropNames _ g.ctx)
    refine .trans ?_ (State.books_unlist _ _)
    exact (s.books_landGrants task).trans (.foldl (fun s vt => s.books_voidEntries g.ctx _) _ _)

/-! ### Settlement and the end of a group (R282, R284) -/

theorem State.books_settleMeters (task d : Nat) : State.BooksKept s (s.settleMeters task d) := by
  unfold State.settleMeters
  split
  · exact .refl s
  · next g _ =>
    refine .trans ?_ (State.books_countAt _ task 0 _ _)
    refine .trans ?_ (State.books_countAt _ task 0 _ _)
    refine .trans ?_ (State.books_account _ g.ctx _)
    refine .foldl (fun s vt => ?_) _ s
    refine .trans ?_ (State.books_countAt _ task vt _ _)
    refine .trans ?_ (State.books_countAt _ task vt _ _)
    exact (s.books_updInst task vt _).trans (State.books_countAt _ task vt _ _)

theorem State.groups_countAt (task : Nat) (vt : Fin 16) (src n : Nat) : (s.countAt task vt src n).groups = s.groups :=
  (s.copiesKept_countAt task vt src n).groups

theorem State.groups_settleMeters (task d : Nat) : (s.settleMeters task d).groups = s.groups := by
  unfold State.settleMeters
  split
  · rfl
  · next g _ =>
    dsimp only
    rw [State.groups_countAt, State.groups_countAt, (State.hubOnly_account _ g.ctx _).groups]
    refine foldl_keeps State.groups (fun s vt => ?_) _ s
    rw [State.groups_countAt, State.groups_countAt, State.groups_countAt]
    rfl

theorem State.books_endGroup (task : Nat) : State.BooksKept s (s.endGroup task) := by
  have changed : ∀ (u : State) (ctx : Nat) (f : Ctx → Ctx), (∀ c, (f c).journal = c.journal) → State.BooksKept u (u.updCtx ctx f) :=
    fun u ctx f keeps => ⟨fun _ => rfl, (u.hubOnly_updCtx ctx keeps).rings⟩
  have left : ∀ g : Group, State.BooksKept s (s.leaveRect task g) := fun g => by
    unfold State.leaveRect
    dsimp only
    split <;> exact .of_eq rfl rfl
  unfold State.endGroup
  split
  · exact .refl s
  · next g _ =>
    refine .trans ?_ (changed _ g.ctx _ fun _ => rfl)
    exact (left g).trans (.of_eq rfl rfl)

/-- The group that ends is no more. -/
theorem State.group?_endGroup (task : Nat) : (s.endGroup task).group? task = none := by
  unfold State.endGroup
  split
  · next none => exact none
  · exact (Assoc.get?_del _ task task).trans (if_pos rfl)

/-- With the group its copies go. -/
theorem State.inst?_endGroup {task : Nat} {g : Group} (hg : s.group? task = some g) (vt : Fin 16) :
    (s.endGroup task).inst? task vt = none := by
  have copies : ∃ m : Assoc Inst, (s.endGroup task).insts = m.filter fun x => x.1 / 16 != task := by
    unfold State.endGroup
    rw [hg]
    exact ⟨_, rfl⟩
  obtain ⟨m, copies⟩ := copies
  have own : ikey task vt / 16 = task := by
    unfold ikey
    omega
  rw [State.inst?, copies, Assoc.get?_filterKeys m fun k => k / 16 != task, own, bne_self_eq_false, if_neg Bool.false_ne_true]

end

end Sys2Proof.Machine
end

section
/-! A dispatch ends in a shortfall, in a group fault or in its commit (R299, R303-R307, R395, R466, R467). -/

namespace Sys2Proof.Machine

/-! ### The group that aborts and the task that goes back to its queue -/

section
variable (s : State) (task : Nat)

/-- A dispatch that aborts leaves no group, and the fault rings as they are (R466). -/
theorem State.abortGroup_ends (endc fcode stop : Nat) : (s.abortGroup task endc fcode stop).group? task = none
    ∧ ∀ c, ((s.abortGroup task endc fcode stop).ctxs.get? c).map Ctx.journal = (s.ctxs.get? c).map Ctx.journal := by
  set u := (s.settleMeters task stop).endGroup task with isU
  have books : State.BooksKept s u := (s.books_settleMeters task stop).trans (State.books_endGroup _ task)
  have retired : State.HubOnly u (s.abortGroup task endc fcode stop) :=
    ((u.hubOnly_updTask task _).trans (State.hubOnly_faultOwn _ task)).trans (State.hubOnly_retire _ task)
  refine ⟨?_, fun c => (retired.rings c).trans (books.rings c)⟩
  rw [State.group?, retired.groups]
  exact State.group?_endGroup _ task

/-- A task that goes back to its queue leaves no group; what is changed of it is told of its budget (R307). -/
theorem State.backToQueue_waits {k : Task} (hk : s.tasks.get? task = some k) {f : Task → Task} {p rtry : Nat}
    (changes : ∀ t, t.budget = k.budget → (f t).p = p ∧ (f t).rtry = rtry) :
    (s.backToQueue task f).group? task = none ∧ ∃ j, (s.backToQueue task f).tasks.get? task = some j ∧ j.p = p ∧ j.rtry = rtry := by
  obtain ⟨m, hm, hp, hr⟩ := (s.books_endGroup task).task hk
  have budget : m.budget = k.budget := Prod.ext hp hr
  obtain ⟨newP, newR⟩ := changes m budget
  refine ⟨State.group?_endGroup s task, ?_⟩
  unfold State.backToQueue State.makeReady
  simp only [State.updTask_tasks, Assoc.get?_modify, if_true, hm, Option.map_some]
  exact ⟨_, rfl, newP, newR⟩

end

/-! ### Shortfall (R303-R307) -/

section
variable {s : State} {task : Nat} {g : Group} (hg : s.group? task = some g) (quiet : s.quiet task = true)
include hg quiet

section
variable {vt : Fin 16} {node : Node} {opc d : Nat} (stop : g.stop = some (.short vt node opc d)) {k : Task} (hk : s.tasks.get? task = some k)
include stop hk

/-- A shortfall with no retry left ends the dispatch (R307). -/
theorem execShortfall_aborts (none_left : s.policy k = 0 ∨ 3 ≤ k.rtry) : ∃ t, exec (.shortfall task) s = .next t ∧ t.group? task = none := by
  have ends : ¬(s.policy k ≠ 0 ∧ k.rtry < 3) := by omega
  have turn : ∃ u : State, exec (.shortfall task) s = .next (u.abortGroup task 1 0x10) := by
    apply Exists.intro
    show Host.Outcome.next _ = _
    simp only [hg, stop, quiet, hk, Option.getD_some, Bool.not_true, Bool.false_eq_true, if_false, if_neg ends]
    rfl
  obtain ⟨u, turn⟩ := turn
  exact ⟨_, turn, (u.abortGroup_ends task 1 0x10 256).1⟩

/-- A shortfall with a retry left goes back to its queue with more packets (R307). -/
theorem execShortfall_retries (policy : s.policy k ≠ 0) (left : k.rtry < 3) :
    ∃ t j, exec (.shortfall task) s = .next t ∧ t.group? task = none ∧ t.tasks.get? task = some j ∧ j.p = retryP (s.policy k) k.p
      ∧ j.rtry = k.rtry + 1 := by
  have turn : ∃ u : State, State.BooksKept s u ∧ exec (.shortfall task) s = .next ((u.settleMeters task 256).backToQueue task fun t =>
      { t with p := retryP (s.policy k) t.p, rtry := t.rtry + 1 }) := by
    apply Exists.intro
    constructor
    case right =>
      show Host.Outcome.next _ = _
      simp only [hg, stop, quiet, hk, Option.getD_some, Bool.not_true, Bool.false_eq_true, if_false,
        if_pos (show s.policy k ≠ 0 ∧ k.rtry < 3 from ⟨policy, left⟩)]
      rfl
    case left =>
      refine .trans ?_ (State.books_updTask _ task fun _ => rfl)
      exact (s.books_rollback task _).trans (State.books_countAt _ task vt _ _)
  obtain ⟨u, books, turn⟩ := turn
  obtain ⟨m, hm, hp, hr⟩ := (books.trans (u.books_settleMeters task 256)).task hk
  obtain ⟨gone, j, hj, newP, newR⟩ := State.backToQueue_waits _ task hm
    (f := fun t => { t with p := retryP (s.policy k) t.p, rtry := t.rtry + 1 }) (p := retryP (s.policy k) k.p) (rtry := k.rtry + 1)
    fun t same => ⟨congrArg (retryP _) ((congrArg Prod.fst same).trans hp), congrArg (· + 1) ((congrArg Prod.snd same).trans hr)⟩
  exact ⟨_, j, turn, gone, hj, newP, newR⟩

end

/-! ### Group fault (R466, R467) -/

/-- A group fault stands in its context's ring; a group that no debugger holds aborts. -/
theorem execGroupFault_logs {code : Nat} {vt : Fin 16} {node : Node} {opc slot : Nat} {c : Ctx} (stop : g.stop = some (.fault code vt node opc slot))
    (hc : s.ctxs.get? g.ctx = some c) (room : c.prod + 1 ≠ c.cons) :
    ∃ t d, exec (.groupFault task) s = .next t ∧ t.ctxs.get? g.ctx = some d ∧ d.prod = c.prod + 1
      ∧ d.ring.get? c.prod.toNat = some (2 + faultRecord task g.lastCut code g.ctx c.vf (Node.code node) (Node.eid node) vt.val opc slot * 2 ^ 128)
      ∧ (c.fhold = false → t.group? task = none) := by
  have free : s.ringFull g.ctx = false := State.ringFull_of_room hc room
  set hold := (s.ctx g.ctx).fhold && s.invasive g.ctx with isHold
  set u := s.rollback task !hold with isU
  have books : State.BooksKept s u := s.books_rollback task _
  obtain ⟨e, he, ring, prod, vf⟩ := Ctx.of_rings (books.rings g.ctx) hc
  set record := faultRecord task g.lastCut code g.ctx (u.ctx g.ctx).vf (Node.code node) (Node.eid node) vt.val opc slot with isRecord
  set r := u.ringPut g.ctx 2 record with isR
  have logged : r.ctxs.get? g.ctx = some (e.logged 2 record) := State.get?_ringPut he 2 record
  have turn : ∃ t, exec (.groupFault task) s = .next t ∧ (∀ n, (t.ctxs.get? n).map Ctx.journal = (r.ctxs.get? n).map Ctx.journal)
      ∧ (hold = false → t.group? task = none) := by
    have run : exec (.groupFault task) s = .next (if hold then
        (r.updGroup task fun g => { g with state := .halted, stop := none, why := some .held, asked := none }).updCtx g.ctx fun c =>
          { c with grpstat := if g.asked.isSome then 5 else c.grpstat }
      else r.abortGroup task 2 code) := by
      show Host.Outcome.next _ = _
      simp only [hg, stop, quiet, free, Bool.not_true, Bool.false_eq_true, if_false]
      rfl
    refine ⟨_, run, ?_, fun unheld => ?_⟩
    · split
      · exact (State.hubOnly_updCtx (r.updGroup task _) g.ctx
          (f := fun c => { c with grpstat := if g.asked.isSome then 5 else c.grpstat }) fun _ => rfl).rings
      · exact (r.abortGroup_ends task 2 code 256).2
    · rw [unheld, if_neg Bool.false_ne_true]
      exact (r.abortGroup_ends task 2 code 256).1
  obtain ⟨t, turn, rings, ends⟩ := turn
  obtain ⟨d, hd, ring', prod', -⟩ := Ctx.of_rings (rings g.ctx) logged
  have vf' : (u.ctx g.ctx).vf = c.vf := by rw [State.ctx_of_get? he, vf]
  refine ⟨t, d, turn, hd, prod'.trans (congrArg (· + 1) prod), ?_, fun unheld => ends ?_⟩
  · rw [ring', ← prod, ← vf']
    exact Assoc.get?_put_same _ _ _
  · rw [isHold, State.ctx_of_get? hc, unheld, Bool.false_and]

end

/-! ### Commit (R299, R395) -/

theorem State.groups_flushNode (s : State) (task : Nat) (vt : Fin 16) (n : Node) : (s.flushNode task vt n).2.groups = s.groups := rfl

theorem State.groups_flushAll (s : State) (task : Nat) : (s.flushAll task).groups = s.groups := by
  unfold State.flushAll
  refine foldl_keeps State.groups (fun s vt => ?_) _ s
  generalize engineNodes ++ ((List.range 16).map fun e => Node.elem (vtOf e)) = nodes
  refine Eq.trans (b := State.groups (List.foldl _ s nodes)) rfl (foldl_keeps State.groups (fun s n => ?_) nodes s)
  have kept := s.groups_flushNode task vt n
  generalize s.flushNode task vt n = p at kept
  exact kept

/-- A tile that waits for its next store takes nothing from its meter. -/
theorem State.meter_waitStore (s : State) (task : Nat) (vt wt : Fin 16) :
    ((s.waitStore task vt).inst task wt).meter = (s.inst task wt).meter := by
  obtain same | changed := State.inst_updInst_cases { s with fired := true } task vt wt fun x => { x with handover := true }
  · exact congrArg Inst.meter same
  · exact (congrArg Inst.meter changed :)

/-- Each tile of a list that is there waits at handover in the end (R287). -/
theorem State.handover_waitStores {task : Nat} {vt : Fin 16} (l : List (Fin 16)) : ∀ (s : State), (s.inst? task vt).isSome = true →
    vt ∈ l ∨ (s.inst task vt).handover = true → ((l.foldl (fun s vt => s.waitStore task vt) s).inst task vt).handover = true := by
  induction l with
  | nil => exact fun s _ waits => waits.resolve_left List.not_mem_nil
  | cons wt r ih =>
    intro s there waits
    obtain ⟨x, hx⟩ := Option.isSome_iff_exists.1 there
    have own : (s.waitStore task vt).inst? task vt = some { x with handover := true } :=
      State.inst?_updInst (s := { s with fired := true }) hx fun x => { x with handover := true }
    by_cases same : wt = vt
    · subst same
      exact ih _ (by rw [own]; rfl) (.inr (by rw [State.inst_of_inst? own]))
    · have kept : (s.waitStore task wt).inst? task vt = s.inst? task vt :=
        (Assoc.get?_modify s.insts (ikey task wt) (fun x : Inst => { x with handover := true }) _).trans (if_neg fun e => same (ikey_inj.1 e))
      refine ih _ (by rw [kept, there]) (waits.imp (fun mem => (List.mem_cons.1 mem).resolve_left (Ne.symm same)) fun at_ => ?_)
      rw [State.inst_of_inst? (kept.trans hx), ← State.inst_of_inst? hx, at_]

section
variable {s : State} {task : Nat} {g : Group} (hg : s.group? task = some g)
include hg

/-- A group that has ended commits: what it has staged is released (R395). -/
theorem execCommit_commits (live : g.live = true) (free : g.cut = none) (seals : g.seals = []) (quiet : s.quiet task = true)
    (ended : ∀ vt ∈ g.vts, (s.inst task vt).ended = true) :
    ∃ t, exec (.commit task) s = .next t ∧ (t.group task).state = .committing := by
  have takes : (g.live && g.cut.isNone && g.seals.isEmpty && s.quiet task && g.vts.all fun vt => (s.inst task vt).ended) = true := by
    simpa [live, free, seals, quiet] using ended
  have turn : ∃ u : State, u.group? task = some { g with state := .committing } ∧ exec (.commit task) s = .next u.settleAll := by
    apply Exists.intro
    constructor
    case right =>
      show Host.Outcome.next _ = _
      simp only [hg]
      rw [if_pos takes]
    case left => exact State.group?_setGroup _ task _
  obtain ⟨u, hu, turn⟩ := turn
  obtain ⟨k, hk, same⟩ := u.steady_settleAll.courses.group? hu
  exact ⟨_, turn, by rw [State.group_of_group? hk]; exact congrArg Course.state same⟩

section
variable (committing : g.state = .committing) (going : g.stop = none) (performed : s.performedAll task = true)
include committing

omit hg in
theorem Group.not_live_of_committing : g.live = false := by
  rw [Group.live, committing]
  rfl

include going performed

/-- A committing group whose debits are covered by stores retires, and with it its copies (R299, R395). -/
theorem execCommit_retires (built : s.commitWaits task g = []) :
    ∃ t, exec (.commit task) s = .next t ∧ t.group? task = none ∧ ∀ vt : Fin 16, t.inst? task vt = none := by
  have turn : ∃ (u : State) (f : Task → Task), u.groups = s.groups
      ∧ exec (.commit task) s = .next (((u.endGroup task).updTask task f).retire task) := by
    apply Exists.intro
    apply Exists.intro
    constructor
    case h.h.right =>
      show Host.Outcome.next _ = _
      simp only [hg, Group.not_live_of_committing committing, committing, going, performed, built, Bool.false_and, Bool.false_eq_true,
        if_false, beq_self_eq_true, Option.isNone_none, Bool.and_self, if_true, List.isEmpty_nil, Bool.not_true]
      rfl
    case h.h.left =>
      rw [(State.hubOnly_updSlots _ g.ctx _).groups, State.shareAll, (State.HubOnly.foldl (fun s x => s.hubOnly_share _) _ _).groups,
        State.groups_countAt, State.groups_settleMeters, State.groups_flushAll]
  obtain ⟨u, f, groups, turn⟩ := turn
  have hu : u.group? task = some g := by rw [State.group?, groups, ← hg, State.group?]
  have retired : State.HubOnly (u.endGroup task) (((u.endGroup task).updTask task f).retire task) :=
    (State.hubOnly_updTask _ task f).trans (State.hubOnly_retire _ task)
  refine ⟨_, turn, ?_, fun vt => ?_⟩
  · rw [State.group?, retired.groups]
    exact u.group?_endGroup task
  · rw [State.inst?, retired.insts]
    exact u.inst?_endGroup hu vt

/-- A committing group whose debits need stores that are not built waits for them (R287, R495). -/
theorem execCommit_waits (unbuilt : s.commitWaits task g ≠ []) :
    ∃ t, exec (.commit task) s = .next t ∧ (t.group task).state = .committing ∧ t.mem = s.mem
      ∧ ∀ vt ∈ s.commitWaits task g, (s.inst? task vt).isSome = true →
          (t.inst task vt).handover = true ∧ (t.inst task vt).meter = (s.inst task vt).meter := by
  have turn : exec (.commit task) s = .next ((s.commitWaits task g).foldl (fun s vt => s.waitStore task vt) s) := by
    have some_wait : (s.commitWaits task g).isEmpty = false := List.isEmpty_eq_false_iff.2 unbuilt
    show Host.Outcome.next _ = _
    simp only [hg, Group.not_live_of_committing committing, committing, going, performed, some_wait, Bool.false_and, Bool.false_eq_true,
      if_false, beq_self_eq_true, Option.isNone_none, Bool.and_self, if_true, Bool.not_false]
  have groups := foldl_keeps State.groups (f := fun s vt => s.waitStore task vt) (fun _ _ => rfl) (s.commitWaits task g) s
  refine ⟨_, turn, ?_, foldl_keeps State.mem (f := fun s vt => s.waitStore task vt) (fun _ _ => rfl) _ s, fun vt mem there => ⟨?_, ?_⟩⟩
  · rw [State.group, groups]
    exact (congrArg Group.state (State.group_of_group? hg)).trans committing
  · exact State.handover_waitStores _ s there (.inl mem)
  · exact foldl_keeps (fun s : State => (s.inst task vt).meter) (fun s wt => s.meter_waitStore task wt vt) _ s

end

end

end Sys2Proof.Machine
end

section
/-! A group freezes, drains, halts and is aborted by the host, and goes on where its part has left PARKED (R389, R466, R469, R475); the
statement on the end of a dispatch. -/

namespace Sys2Proof.Machine

/-! ### Requests withdrawn (R179, R389) -/

section
variable (s : State) (task : Nat)

theorem State.steady_withdraw : State.Steady s (s.withdraw task) := by
  unfold State.withdraw
  dsimp only
  refine .trans ((s.hubOnly_unlist _).trans (State.hubOnly_dropNames _ _)).steady (.foldl (fun s i => ?_) _ _)
  split
  · exact s.steady_setAcc i _
  · exact .refl s

theorem State.steady_askBack : State.Steady s (s.askBack task) := by
  unfold State.askBack
  dsimp only
  split
  · exact .refl s
  · refine .trans (.foldl (fun s x => ?_) _ s) (State.steady_transmit _)
    exact (s.steady_setAcc x.1 _).trans (State.hubOnly_sendTo _ _ _).steady

/-- What is withdrawn does not turn on the part's power. -/
theorem State.parkedNow_withdraw : (s.withdraw task).parkedNow = s.parkedNow := by
  have dropped : ∀ (u : State) (ctx : Nat), (u.dropNames ctx).parkedNow = u.parkedNow := fun u ctx =>
    foldl_keeps State.parkedNow (fun u x => by
      unfold State.dropName
      split
      · split <;> rfl
      · rfl) _ u
  have noted : ∀ (u : State) (id : Nat) (a : Acc), (u.setAcc id a).parkedNow = u.parkedNow := fun u id a => by
    unfold State.setAcc
    dsimp only
    split <;> rfl
  unfold State.withdraw
  dsimp only
  refine (foldl_keeps State.parkedNow (fun u i => ?_) _ _).trans (dropped _ _)
  split
  · exact noted u i _
  · rfl

/-- The counters of a group mirrored anew leave its course. -/
theorem State.steady_remirror {g : Group} (hg : s.group? task = some g) : State.Steady s (s.remirror task) := by
  refine ⟨?_, (s.remirror_keeps task).2⟩
  unfold State.remirror
  dsimp only
  generalize (List.range 16).map vtOf = es
  refine State.CourseKept.trans ?_ (.foldl (fun s n => ?_) es _)
  case refine_2 => exact s.courseKept_updGroup task fun _ _ => rfl
  refine s.courseKept_setGroup task hg ?_
  rw [State.group_of_group? hg]
  rfl

end

section
variable {s : State} {task : Nat} {g : Group} (hg : s.group? task = some g)
include hg

/-! ### Freezing, and the abort of a halted group (R389, R469) -/

/-- A group that is to be halted freezes (R389). -/
theorem execGroupHalt_freezes {w : Why} (why : g.why = some w) (live : g.live = true) (may : s.mayFreeze task g w = true)
    (unasked : g.asked ≠ some .abort) : ∃ t, exec (.groupHalt task) s = .next t ∧ (t.group task).draining = true ∧ t.mem = s.mem := by
  have turn : exec (.groupHalt task) s = .next (s.freeze task w) := by
    show Host.Outcome.next _ = _
    simp only [hg, why, live, may, Bool.and_self, if_true]
  have asked := (s.steady_withdraw task).trans (State.steady_askBack _ task)
  obtain ⟨h, hh, -⟩ := asked.courses.group? hg
  set u := ((s.withdraw task).askBack task).updGroup task fun g => { g with draining := true, why := some w } with isU
  have hu : u.group? task = some { h with draining := true, why := some w } := State.group?_updGroup_of hh _
  have frozen : ∃ (l : List (Fin 16)) (f : State → Fin 16 → Inst → Inst),
      s.freeze task w = l.foldl (fun s vt => s.updInst task vt (f s vt)) u := ⟨_, _, rfl⟩
  obtain ⟨l, f, frozen⟩ := frozen
  have kept : State.Steady u (s.freeze task w) := frozen ▸ .foldl (fun s vt => s.steady_updInst task vt _) l u
  obtain ⟨k, hk, same⟩ := kept.courses.group? hu
  exact ⟨_, turn, by rw [State.group_of_group? hk]; exact congrArg Course.draining same, kept.mem.trans asked.mem⟩

/-- A halted group that the host has asked to abort ends (R469). -/
theorem execGroupHalt_aborts (asked : g.asked = some .abort) (quiet : s.quiet task = true) :
    ∃ t, exec (.groupHalt task) s = .next t ∧ t.group? task = none := by
  have turn : ∃ (u : State) (f : Ctx → Ctx), exec (.groupHalt task) s = .next ((u.abortGroup task 2 0).updCtx g.ctx f) := by
    apply Exists.intro
    apply Exists.intro
    show Host.Outcome.next _ = _
    simp only [hg, asked, State.abortHalted, quiet, if_true]
    rfl
  obtain ⟨u, f, turn⟩ := turn
  exact ⟨_, turn, (u.abortGroup_ends task 2 0 256).1⟩

/-! ### The drain is complete (R389, R469, R475) -/

/-- A scan-out halts the group; what else stands of its course stays (R348). -/
theorem State.scanOut_halts : ∃ h, (s.scanOut task).group? task = some h ∧ h.state = .halted ∧ h.draining = false ∧ h.why = g.why
    ∧ h.asked = g.asked ∧ h.fold = g.fold ∧ (s.scanOut task).mem = s.mem ∧ (s.scanOut task).parkedNow = s.parkedNow := by
  have withdrawn := s.steady_withdraw task
  obtain ⟨h, hh, same⟩ := withdrawn.courses.group? hg
  set u := (s.withdraw task).updGroup task fun g => { g with state := .halted, draining := false }
  have hu : u.group? task = some { h with state := .halted, draining := false } := State.group?_updGroup_of hh _
  have scanned : ∃ (l : List (Fin 16)) (f : Inst → Inst), s.scanOut task = l.foldl (fun s vt => s.updInst task vt f) u := ⟨_, _, rfl⟩
  obtain ⟨l, f, scanned⟩ := scanned
  have keeps : ∀ {β : Type} (proj : State → β), (∀ (s : State) vt, proj (s.updInst task vt f) = proj s) →
      proj (s.scanOut task) = proj u := fun proj keeps => scanned ▸ foldl_keeps proj keeps l u
  refine ⟨{ h with state := .halted, draining := false }, ?_, rfl, rfl, (congrArg Course.why same :), (congrArg Course.asked same :),
    (congrArg Course.fold same :), ?_, ?_⟩
  · rw [State.group?, keeps State.groups fun _ _ => rfl]
    exact hu
  · exact (keeps State.mem fun _ _ => rfl).trans withdrawn.mem
  · exact (keeps State.parkedNow fun _ _ => rfl).trans (s.parkedNow_withdraw task)

/-- A group that acts again where it stands is as it was armed (R351, R374). -/
theorem State.restart_runs (whole : g.fold = 1) :
    ((s.restart task).group task).state = .running ∧ ((s.restart task).group task).draining = false ∧ (s.restart task).mem = s.mem := by
  set u := s.updGroup task fun g => { g with state := if g.fold = 1 then .running else .folded, why := none, draining := false, stop := none }
  have hu : u.group? task = some { g with state := if g.fold = 1 then .running else .folded, why := none, draining := false, stop := none } :=
    State.group?_updGroup_of hg _
  have started : ∃ (l : List (Fin 16)) (f : Inst → Inst) (k : Task → Task),
      s.restart task = ((l.foldl (fun s vt => s.updInst task vt f) u).remirror task).updTask task k := ⟨_, _, _, rfl⟩
  obtain ⟨l, f, k, started⟩ := started
  set v := l.foldl (fun s vt => s.updInst task vt f) u with isV
  have kept : State.Steady u v := .foldl (fun s vt => s.steady_updInst task vt f) l u
  obtain ⟨x, hv, same⟩ := kept.courses.group? hu
  have mirrored := v.steady_remirror task hv
  obtain ⟨y, hy, still⟩ := mirrored.courses.group? hv
  have course := still.trans same
  have there : (s.restart task).group task = y := by
    have same : ∀ u : State, (u.updTask task k).group task = u.group task := fun _ => rfl
    rw [started, same, State.group_of_group? hy]
  rw [there]
  refine ⟨(congrArg Course.state course).trans (if_pos whole), congrArg Course.draining course, ?_⟩
  rw [started, (State.hubOnly_updTask _ task k).mem, mirrored.mem, kept.mem]
  rfl

/-- A group that leaves its rectangle whole stays halted in its save area (R351). -/
theorem State.requeue_saves : ((s.requeue task).group task).state = .halted ∧ ((s.requeue task).group task).saved = true
    ∧ (s.requeue task).mem = s.mem := by
  have left : ((s.leaveRect task g).groups = s.groups) ∧ (s.leaveRect task g).mem = s.mem := by
    unfold State.leaveRect
    dsimp only
    split <;> exact ⟨rfl, rfl⟩
  have hl : (s.leaveRect task g).group? task = some g := by rw [State.group?, left.1, ← hg, State.group?]
  set u := (s.leaveRect task g).updGroup task fun g => { g with state := .halted, saved := true, why := none, pads := s.padsOf task }
  have hu : u.group? task = some { g with state := .halted, saved := true, why := none, pads := s.padsOf task } := State.group?_updGroup_of hl _
  have queued : ∃ (f : Inst → Inst) (k : Task → Task), s.requeue task = (g.vts.foldl (fun s vt => s.updInst task vt f) u).updTask task k := by
    unfold State.requeue
    rw [hg]
    exact ⟨_, _, rfl⟩
  obtain ⟨f, k, queued⟩ := queued
  have groups : (s.requeue task).groups = u.groups := by
    rw [queued, (State.hubOnly_updTask _ task k).groups]
    exact foldl_keeps State.groups (f := fun s vt => s.updInst task vt f) (fun _ _ => rfl) g.vts u
  have mem : (s.requeue task).mem = u.mem := by
    rw [queued, (State.hubOnly_updTask _ task k).mem]
    exact foldl_keeps State.mem (f := fun s vt => s.updInst task vt f) (fun _ _ => rfl) g.vts u
  have there : (s.requeue task).group task = { g with state := .halted, saved := true, why := none, pads := s.padsOf task } := by
    rw [State.group, groups]
    exact State.group_of_group? hu
  rw [there]
  exact ⟨rfl, rfl, mem.trans left.2⟩

/-- The host's operation ends with the scan-out; a group pre-empted leaves its rectangle (R351, R469). -/
theorem State.endAsked_halts (halted : g.state = .halted) : ((s.endAsked task).group task).state = .halted ∧ (s.endAsked task).mem = s.mem
    ∧ (g.asked = some .preempt → ((s.endAsked task).group task).saved = true) := by
  unfold State.endAsked
  simp only [hg]
  split
  · next asked => exact ⟨by rw [State.group_of_group? hg, halted], rfl, fun preempt => nomatch asked.symm.trans preempt⟩
  · next w asked =>
    set u := (s.updGroup task fun g => { g with asked := none }).updCtx g.ctx fun c => { c with grpstat := 0 }
    have hu : u.group? task = some { g with asked := none } :=
      State.group?_updGroup_of hg fun g => { g with asked := none }
    split
    · obtain ⟨state, saved, mem⟩ := State.requeue_saves hu
      exact ⟨state, mem, fun _ => saved⟩
    · next other =>
      refine ⟨by rw [State.group_of_group? hu, halted], rfl, fun preempt => absurd (Option.some.inj (asked.symm.trans preempt)) ?_⟩
      simpa using other

variable (draining : g.draining = true) (drained : s.drained task = true) (going : g.stop = none)
include draining drained going

/-- A drained group is scanned out, and then what it halted for decides (R389). -/
theorem execDrainComplete_scans : exec (.drainComplete task) s = .next ((s.scanOut task).scanned task) := by
  show Host.Outcome.next _ = _
  simp only [hg, draining, drained, going, Bool.and_self, Bool.not_true, Bool.false_eq_true, if_false]

/-- It stays halted, but where PARK froze it and its part has left PARKED (R389, R469). -/
theorem execDrainComplete_halts (stays : g.why ≠ some .park ∨ s.parkedNow = true) :
    ∃ t, exec (.drainComplete task) s = .next t ∧ (t.group task).state = .halted ∧ t.mem = s.mem
      ∧ (g.asked = some .preempt → (t.group task).saved = true) := by
  obtain ⟨h, hh, halted, -, why, asked, -, mem, parked⟩ := State.scanOut_halts hg
  have ends : (s.scanOut task).scanned task = (s.scanOut task).endAsked task := by
    rw [State.scanned, State.group_of_group? hh, why, parked, if_neg]
    rintro taken
    obtain ⟨park, left⟩ := Bool.and_eq_true_iff.1 taken
    rcases stays with other | still
    · exact other (beq_iff_eq.1 park)
    · rw [still] at left
      cases left
  obtain ⟨state, kept, saved⟩ := State.endAsked_halts hh halted
  refine ⟨_, execDrainComplete_scans hg draining drained going, ?_⟩
  rw [ends]
  exact ⟨state, kept.trans mem, fun preempt => saved (asked.trans preempt)⟩

/-- A group that PARK froze goes on where its part has left PARKED meanwhile (R475). -/
theorem execDrainComplete_goes_on (why : g.why = some .park) (left : s.parkedNow = false) (whole : g.fold = 1) :
    ∃ t, exec (.drainComplete task) s = .next t ∧ (t.group task).state = .running ∧ (t.group task).draining = false ∧ t.mem = s.mem := by
  obtain ⟨h, hh, -, -, why', -, fold, mem, parked⟩ := State.scanOut_halts hg
  have goes : (s.scanOut task).scanned task = (s.scanOut task).restart task := by
    rw [State.scanned, State.group_of_group? hh, why', why, parked, left]
    rfl
  obtain ⟨state, flows, kept⟩ := State.restart_runs hh (fold.trans whole)
  refine ⟨_, execDrainComplete_scans hg draining drained going, ?_⟩
  rw [goes]
  exact ⟨state, flows, kept.trans mem⟩

end

/-! ### The statement -/

/-- Settles O41: each end and each halt by the rule of its event. -/
theorem endsAndHalts : Obligations.EndsAndHalts := by
  unfold Obligations.EndsAndHalts
  intro s task g hg
  refine ⟨fun vt node opc d k stop quiet hk => ⟨?_, ?_⟩, ?_, ?_, fun committing going performed => ⟨?_, ?_⟩, ?_, ?_,
    fun draining drained going => ⟨?_, ?_⟩⟩
  · exact execShortfall_aborts hg quiet stop hk
  · exact execShortfall_retries hg quiet stop hk
  · exact fun code vt node opc slot c stop quiet hc room => execGroupFault_logs hg quiet stop hc room
  · exact execCommit_commits hg
  · exact execCommit_retires hg committing going performed
  · exact execCommit_waits hg committing going performed
  · exact fun w why live may unasked => execGroupHalt_freezes hg why live may unasked
  · exact execGroupHalt_aborts hg
  · exact execDrainComplete_halts hg draining drained going
  · exact execDrainComplete_goes_on hg draining drained going

end Sys2Proof.Machine
end

section
/-! OPEN, CLOSE, QUERY and MKOBJ (R323-R325, R328, R330): three send a request to the directory, CLOSE takes its slot at the end of the
step. -/

namespace Sys2Proof.Machine

/-! ### The port taken for a step (R312) -/

/-- The copy once its directory port is taken. -/
def Inst.usesDir (x : Inst) : Inst := { x with dirUse := true }

/-- The state at the locus once a directory instruction has taken its debit and the port. -/
def State.atPort (s : State) (h : Here) (d : Nat) : State := (Safety.paid s h d).useDir

section
variable {s : State} {h : Here} (hh : s.here = some h) {d : Nat}
include hh

theorem State.beside_atPort : State.Beside s (s.atPort h d) :=
  (State.beside_paid hh d).trans (State.beside_updInst _ _ _ (f := Inst.usesDir) fun _ => rfl)

theorem State.copy_atPort : (s.atPort h d).inst? s.cur.task s.cur.vt = some (h.x.debit d).usesDir := by
  have turn : s.atPort h d = (Safety.paid s h d).updInst s.cur.task s.cur.vt Inst.usesDir := by
    rw [← Safety.cur_paid hh d]
    rfl
  rw [turn]
  exact State.inst?_updInst (State.inst?_paid d) _

/-- A directory instruction that only debits and sends one request (R312). -/
theorem State.sends_atPort (cov : Safety.Covered h.x d) {el : Elem} (same : h.el.Same el) (dst : Dst) (a : Acc) :
    Safety.Sends s ((s.atPort h d).sendReq h el dst a) h a.req (destOf dst)
      ∧ Safety.debited s ((s.atPort h d).sendReq h el dst a) h d := by
  have before := State.beside_atPort hh (d := d)
  have copy := State.copy_atPort hh (d := d)
  rw [← before.cur] at copy
  have sent := State.sent_sendReq (s.atPort h d) h el dst a
  obtain ⟨n, own⟩ := sent.inst? copy
  rw [before.cur] at own
  refine ⟨sent.sends before copy same, ?_⟩
  rw [Safety.debited, State.inst_of_inst? own]
  exact Inst.meter_debit cov

variable (unused : h.x.dirUse = false)
include unused

/-- An OPEN of a name asks the directory for a handle on it (R323). -/
theorem execOpenName_sends {x : EaDap} (gate : s.gate h x.trig = true) (okA : h.el.okA x.sa = true) (takes : Safety.takes s h x.dst)
    (cov : Safety.Covered h.x 32) (named : nameId (h.el.readA x.sa).val ≠ 0) :
    ∃ t, exec (.openName x) s = .next t ∧ Safety.Sends s t h (.dir (.open_ (h.el.readA x.sa).val (isProbe x.dst))) (destOf x.dst)
      ∧ Safety.debited s t h 32 := by
  obtain ⟨ok, room⟩ := takes
  have turn : exec (.openName x) s = .next ((s.atPort h 32).sendReq h
      (h.el.dequeue ((Safety.paid s h 32).pullHere h) (SrcA.takes x.sa)) x.dst
      { req := .dir (.open_ (h.el.readA x.sa).val (isProbe x.dst)), scope := .device, order := .acq, opc := 0x70
        deps := (Safety.paid s h 32).fireDeps h x.trig (h.el.readA x.sa).deps, pw := if x.pw then some x.pd else none }) := by
    show execOpenName x s = _
    simp only [execOpenName, State.dirReady, hh, gate, unused, okA, ok, room, named, Bool.not_false, Bool.and_self, if_true, if_false,
      State.charge_of_covered s h _ _ _ cov]
    rfl
  exact ⟨_, turn, State.sends_atPort hh cov (h.el.same_dequeue _ _) x.dst _⟩

/-- An MKOBJ of a valid descriptor, whose key slot is loaded, asks the directory for an object (R324). -/
theorem execMkobj_sends {x : EaDap} (gate : s.gate h x.trig = true) (okA : h.el.okA x.sa = true) (takes : Safety.takes s h x.dst)
    (cov : Safety.Covered h.x 48) (free : s.argFree h (h.el.readA x.sa).val 32 32 = true) {d : Nat}
    (isD : d = leNat (s.padArg h (h.el.readA x.sa).val 32 32)) (valid : descInvalid d = false) (loaded : s.keyLoaded h.g.ctx d = true) :
    ∃ t, exec (.mkobj x) s = .next t ∧ Safety.Sends s t h (.dir (.mkobj d (isProbe x.dst))) (destOf x.dst)
      ∧ Safety.debited s t h 48 := by
  obtain ⟨ok, room⟩ := takes
  have turn : exec (.mkobj x) s = .next ((s.atPort h 48).sendReq h
      (h.el.dequeue ((Safety.paid s h 48).pullHere h) (SrcA.takes x.sa)) x.dst
      { req := .dir (.mkobj d (isProbe x.dst)), scope := .device, opc := 0x76
        deps := (Safety.paid s h 48).fireDeps h x.trig (h.el.readA x.sa).deps, pw := if x.pw then some x.pd else none }) := by
    show execMkobj x s = _
    simp only [execMkobj, State.dirReady, hh, gate, unused, okA, ok, room, free, ← isD, valid, loaded, Bool.not_false, Bool.not_true,
      Bool.and_self, if_true, Bool.false_eq_true, if_false, State.charge_of_covered s h _ _ _ cov]
    rfl
  exact ⟨_, turn, State.sends_atPort hh cov (h.el.same_dequeue _ _) x.dst _⟩

/-- A QUERY through a usable handle asks the directory for a field of its object (R328). -/
theorem execQuery_sends {x : EaQuery} (gate : s.gate h x.trig = true) (reads : Safety.readable h x.sa x.sb)
    (takes : Safety.takes s h x.dst) (cov : Safety.Covered h.x 16) (handle : (h.el.readA x.sa).val.toNat < 4096)
    (sel : (h.el.readB x.sb).val.toNat ≤ 12) {obj : Nat} {o : Obj}
    (object : s.objOf h.g.ctx s.cur.task (h.el.readA x.sa).val.toNat = some (obj, o)) :
    ∃ t, exec (.query x) s = .next t ∧ Safety.Sends s t h (.dir (.query obj (h.el.readB x.sb).val.toNat)) (destOf x.dst)
      ∧ Safety.debited s t h 16 := by
  obtain ⟨ok, room⟩ := takes
  obtain ⟨okA, okB⟩ := reads
  have turn : exec (.query x) s = .next ((s.atPort h 16).sendReq h
      (h.el.dequeue ((Safety.paid s h 16).pullHere h) (takesOf (SrcA.takes x.sa) (SrcB.takes x.sb))) x.dst
      { req := .dir (.query obj (h.el.readB x.sb).val.toNat), scope := .device, opc := 0x75
        deps := (Safety.paid s h 16).fireDeps h x.trig ((h.el.readA x.sa).deps ++ (h.el.readB x.sb).deps)
        pw := if x.pw then some x.pd else none }) := by
    show execQuery x s = _
    simp only [execQuery, State.dirReady, hh, gate, unused, okA, okB, ok, room, Nat.not_le.2 handle, Nat.not_lt.2 sel, object,
      decide_false, Bool.or_self, Bool.not_false, Bool.and_self, if_true, Bool.false_eq_true, if_false,
      State.charge_of_covered s h _ _ _ cov]
    rfl
  exact ⟨_, turn, State.sends_atPort hh cov (h.el.same_dequeue _ _) x.dst _⟩

end

/-! ### Slots that close (R321, R325, R330) -/

/-- The plan of the step, the slots that it closes, and the directory's slots and objects are the same. -/
structure State.SlotsKept (s t : State) : Prop where
  plan : t.plan = s.plan
  closes : t.closes = s.closes
  slots : t.slots = s.slots
  objs : t.objs = s.objs

theorem State.SlotsKept.trans {s t u : State} (h : State.SlotsKept s t) (k : State.SlotsKept t u) : State.SlotsKept s u :=
  ⟨k.plan.trans h.plan, k.closes.trans h.closes, k.slots.trans h.slots, k.objs.trans h.objs⟩

theorem State.slotsKept_countAt (s : State) (task : Nat) (vt : Fin 16) (src n : Nat) : State.SlotsKept s (s.countAt task vt src n) := by
  unfold State.countAt
  split <;> exact ⟨rfl, rfl, rfl, rfl⟩

theorem State.slotsKept_paid (s : State) (h : Here) (d : Nat) : State.SlotsKept s (Safety.paid s h d) :=
  .trans (t := (s.mark.setInst s.cur.task s.cur.vt (h.x.debit d)).progress s.cur.task) ⟨rfl, rfl, rfl, rfl⟩
    ((State.slotsKept_countAt _ _ s.cur.vt _ _).trans (State.slotsKept_countAt _ _ s.cur.vt _ _))

/-- The slot is CLOSING for the task, on the object that y was on. -/
def Slot.ClosingFor (y : Slot) (task : Nat) (z : Slot) : Prop :=
  ∃ prev k c, z.obj = y.obj ∧ z.st = .closing task prev k c

section
variable {s : State} {c : Closing}

theorem State.get?_closeSlot_other {k : Nat} (other : c.key ≠ k) : (s.closeSlot c).slots.get? k = s.slots.get? k := by
  unfold State.closeSlot
  split
  · rfl
  · rw [(State.slotsKept_countAt _ _ _ _ _).slots]
    exact Assoc.get?_put_other _ _ (Ne.symm other)

theorem State.get?_closeSlot_same {y : Slot} (hy : s.slots.get? c.key = some y) :
    ∃ z, (s.closeSlot c).slots.get? c.key = some z ∧ y.ClosingFor c.task z := by
  unfold State.closeSlot
  rw [hy]
  dsimp only
  rw [(State.slotsKept_countAt _ _ _ _ _).slots]
  exact ⟨_, Assoc.get?_put_same _ _ _, _, _, _, rfl, rfl⟩

theorem State.copiesKept_closeSlot : State.CopiesKept s (s.closeSlot c) := by
  unfold State.closeSlot
  split
  · exact .refl s
  · obtain ⟨cur, accs, nextId, mem, insts, groups⟩ := State.copiesKept_countAt { s with slots := s.slots.put c.key _ } c.task 0 0x1F 1
    exact ⟨cur, accs, nextId, mem, insts, groups⟩

/-- A slot that closes changes neither what the step closes later nor an object. -/
theorem State.closes_objs_closeSlot : (s.closeSlot c).closes = s.closes ∧ (s.closeSlot c).objs = s.objs := by
  unfold State.closeSlot
  split
  · exact ⟨rfl, rfl⟩
  · obtain ⟨-, closes, -, objs⟩ := State.slotsKept_countAt { s with slots := s.slots.put c.key _ } c.task 0 0x1F 1
    exact ⟨closes, objs⟩

theorem State.get?_closeSlots_other {k : Nat} {l : List Closing} (others : ∀ c ∈ l, c.key ≠ k) :
    (l.foldl State.closeSlot s).slots.get? k = s.slots.get? k := by
  induction l generalizing s with
  | nil => rfl
  | cons c r ih =>
    exact (ih fun e he => others e (List.mem_cons_of_mem _ he)).trans (State.get?_closeSlot_other (others c List.mem_cons_self))

/-- A slot that the step does not close stands at its end as before. -/
theorem State.get?_endStep_other {k : Nat} (others : ∀ c ∈ s.closes, c.key ≠ k) (task : Nat) :
    (s.endStep task).slots.get? k = s.slots.get? k :=
  State.get?_closeSlots_other (s := { s with closes := [] }) others

/-- A slot that the step closes last is CLOSING at its end. -/
theorem State.get?_endStep_last {l : List Closing} (closes : s.closes = l ++ [c]) (others : ∀ e ∈ l, e.key ≠ c.key) {y : Slot}
    (hy : s.slots.get? c.key = some y) (task : Nat) :
    ∃ z, (s.endStep task).slots.get? c.key = some z ∧ y.ClosingFor c.task z := by
  have turn : (s.endStep task).slots = ((l.foldl State.closeSlot { s with closes := [] }).closeSlot c).slots := by
    rw [State.endStep, closes, List.foldl_append]
    rfl
  rw [turn]
  exact State.get?_closeSlot_same ((State.get?_closeSlots_other others).trans hy)

end

/-- What CLOSE, with its step, makes of a slot: at once after the last deed of a plan, else at the end of the step (R330). -/
def State.closeLater (s : State) (c : Closing) : State :=
  if s.plan.isEmpty then s.closeSlot c else { s with closes := s.closes ++ [c] }

section
variable {s : State} (c : Closing)

theorem State.copiesKept_closeLater : State.CopiesKept s (s.closeLater c) := by
  unfold State.closeLater
  split
  · exact State.copiesKept_closeSlot
  · exact ⟨rfl, rfl, rfl, rfl, rfl, rfl⟩

theorem State.objs_closeLater : (s.closeLater c).objs = s.objs := by
  unfold State.closeLater
  split
  · exact State.closes_objs_closeSlot.2
  · rfl

theorem State.slots_closeLater (more : s.plan ≠ []) : (s.closeLater c).slots = s.slots := by
  rw [State.closeLater, if_neg (by rwa [List.isEmpty_iff])]

/-- From the end of the step on the slot is CLOSING, where no other rule of the step has closed it. -/
theorem State.closing_endStep_closeLater (once : ∀ e ∈ s.closes, e.key ≠ c.key) {y : Slot} (hy : s.slots.get? c.key = some y) (task : Nat) :
    ∃ z, ((s.closeLater c).endStep task).slots.get? c.key = some z ∧ y.ClosingFor c.task z := by
  unfold State.closeLater
  split
  · rw [State.get?_endStep_other (by rw [State.closes_objs_closeSlot.1]; exact once)]
    exact State.get?_closeSlot_same hy
  · exact State.get?_endStep_last (s := { s with closes := s.closes ++ [c] }) rfl once hy task

end

/-- A handle that a group may close names a slot. -/
theorem State.get?_of_ownHandle {s : State} {ctx task n : Nat} {y : Slot} (own : s.ownHandle ctx task n = some y) :
    s.slots.get? (slotKey ctx n) = some y := by
  have slot : s.slot? ctx n = some y := by
    unfold State.ownHandle at own
    split at own
    · next x hx =>
      split at own
      · rwa [hx]
      · obtain ⟨-, own⟩ := Option.ite_none_right_eq_some.1 own
        rwa [hx]
      · cases own
    · cases own
  exact (Option.ite_none_left_eq_some.1 slot).2

/-- CLOSE debits its drops, and its slot is CLOSING from the end of the step on (R325, R330). -/
theorem execClose_closes {s : State} {h : Here} (hh : s.here = some h) (unused : h.x.dirUse = false) {x : EaA} {y : Slot}
    (gate : s.gate h x.trig = true) (okA : h.el.okA x.sa = true) (cov : Safety.Covered h.x 16)
    (handle : (h.el.readA x.sa).val.toNat < 4096) (own : s.ownHandle h.g.ctx s.cur.task (h.el.readA x.sa).val.toNat = some y)
    {key : Nat} (isKey : key = slotKey h.g.ctx (h.el.readA x.sa).val.toNat) (once : (s.closes.any fun d => d.key == key) = false) :
    ∃ t, exec (.close x) s = .next t ∧ t.mem = s.mem ∧ t.objs = s.objs ∧ Safety.debited s t h 16
      ∧ (s.plan ≠ [] → t.slots = s.slots)
      ∧ ∃ z prev k c, (t.endStep s.cur.task).slots.get? key = some z ∧ z.obj = y.obj ∧ z.st = .closing s.cur.task prev k c := by
  set c : Closing := ⟨key, s.cur.task, h.g.covers s.cur.vt (.elem h.e) none⟩ with isC
  set el := h.el.dequeue ((Safety.paid s h 16).pullHere h) (SrcA.takes x.sa)
  set u := (s.atPort h 16).putHere h el with isU
  have before := State.beside_atPort hh (d := 16)
  have kept : State.SlotsKept s u := (s.slotsKept_paid h 16).trans ⟨rfl, rfl, rfl, rfl⟩
  have copy : u.inst? s.cur.task s.cur.vt = some ((h.x.debit 16).usesDir.setElem h.e el) := by
    rw [isU, State.putHere, before.cur]
    exact State.inst?_updInst (State.copy_atPort hh) _
  have turn : exec (.close x) s = .next (u.closeLater c) := by
    show execClose x s = _
    simp only [execClose, State.dirReady, hh, gate, unused, okA, Nat.not_le.2 handle, own, ← isKey, once, Bool.not_false, Bool.and_self,
      if_true, Bool.false_eq_true, if_false, State.charge_of_covered s h _ _ _ cov]
    rfl
  have only : ∀ e ∈ u.closes, e.key ≠ c.key := by
    rw [kept.closes]
    simpa using once
  have hy : u.slots.get? c.key = some y := by
    rw [kept.slots, isC, isKey]
    exact State.get?_of_ownHandle own
  have closed := State.copiesKept_closeLater (s := u) c
  obtain ⟨z, hz, prev, k, cv, obj, st⟩ := State.closing_endStep_closeLater c only hy s.cur.task
  refine ⟨_, turn, closed.mem.trans before.mem, (State.objs_closeLater c).trans kept.objs, ?_, fun more => ?_, z, prev, k, cv, hz, obj, st⟩
  · rw [Safety.debited, State.inst_of_inst? ((closed.inst? _ _).trans copy)]
    exact Inst.meter_debit cov
  · exact (State.slots_closeLater c (by rwa [kept.plan])).trans kept.slots

/-- Settles O22: OPEN, MKOBJ and QUERY are a debit, the port and a request; CLOSE is a debit, the port and a slot that closes with the
step. -/
theorem directoryInstructions : Obligations.DirectoryInstructions := by
  unfold Obligations.DirectoryInstructions
  intro s h hh unused
  refine ⟨fun x gate okA takes => ⟨?_, ?_⟩, fun x y gate okA cov handle own => ?_,
    fun x obj o gate reads takes cov handle sel object => ?_⟩
  · exact execOpenName_sends hh unused gate okA takes
  · exact fun cov free valid loaded => execMkobj_sends hh unused gate okA takes cov free rfl valid loaded
  · exact execClose_closes hh unused gate okA cov handle own rfl
  · exact execQuery_sends hh unused gate reads takes cov handle sel object

end Sys2Proof.Machine
end

section
/-! BIND, UNBIND and REBIND (R326, R327): each checks its entries, debits its drops and stages them as one entry for the hub. -/

namespace Sys2Proof.Machine

/-! ### An entry staged for the hub (R292, R425, R446) -/

theorem State.stageNo_countAt (s : State) (task : Nat) (vt : Fin 16) (src n : Nat) : (s.countAt task vt src n).stageNo = s.stageNo := by
  unfold State.countAt
  split <;> rfl

theorem State.stageNo_paid (s : State) (h : Here) (d : Nat) : (Safety.paid s h d).stageNo = s.stageNo :=
  (State.stageNo_countAt _ _ s.cur.vt _ _).trans (State.stageNo_countAt _ _ s.cur.vt _ _)

/-- The firing at the locus stages its entry in v, which numbers requests and entries as s does and has the same requests. -/
structure State.Stager (s v : State) (x : Inst) : Prop where
  cur : v.cur = s.cur
  accs : v.accs = s.accs
  nextId : v.nextId = s.nextId
  stageNo : v.stageNo = s.stageNo
  copy : v.inst? s.cur.task s.cur.vt = some x

/-- The element that remembers the request numbered id, derived from some, beside what it has fired (R446). -/
def Elem.recalls (el : Elem) (past : List Nat) (id : Nat) (deps : List Nat) : Elem := { el with past := past }.remember (id :: deps)

theorem Elem.mem_past_recalls (el : Elem) (past : List Nat) (id : Nat) (deps : List Nat) : id ∈ (el.recalls past id deps).past :=
  List.mem_eraseDups.2 (List.mem_append_right _ List.mem_cons_self)

/-- The copy once the entry is staged: it keeps its meter, and its element remembers the request that stands for the entry. -/
theorem State.stagesHub_stageHub {s v : State} {x : Inst} (at_ : State.Stager s v x) (h : Here) (opc : Nat) (deps : List Nat) (what : Stg) :
    Safety.StagesHub s (v.stageHub h opc deps what) h what
      ∧ ((v.stageHub h opc deps what).inst s.cur.task s.cur.vt).meter = x.meter := by
  obtain ⟨cur, accs, nextId, stageNo, copy⟩ := at_
  rw [← cur] at copy
  set u := v.updElem v.cur.task v.cur.vt h.e fun el => el.recalls (v.live el.past) v.nextId deps
  set a : Acc :=
    { task := some v.cur.task, vt := v.cur.vt, node := .elem h.e, req := .hub, scope := .device, order := .rel, opc := opc,
      deps := deps, perf := .group, answered := true, staged := true, rule := v.cur.slot.val }
  have turn : v.stageHub h opc deps what = (u.addAcc a).stage v.cur.task v.cur.vt (.elem h.e) what [v.nextId] := rfl
  have own : (u.addAcc a).inst? v.cur.task v.cur.vt
      = some (x.setElem h.e ((x.elem h.e).recalls (v.live (x.elem h.e).past) v.nextId deps)) :=
    State.inst?_updInst copy fun x => x.setElem h.e ((x.elem h.e).recalls (v.live (x.elem h.e).past) v.nextId deps)
  have staged := State.inst_stage own (.elem h.e) what [v.nextId]
  rw [← turn, cur] at staged
  have requests : (v.stageHub h opc deps what).accs = s.accs.put s.nextId a := by
    rw [← accs, ← nextId]
    rfl
  refine ⟨{ entry := ?_, stands := ⟨a, ?_, rfl, ?_, ?_, rfl, rfl, rfl⟩, kept := fun n other => ?_, past := ?_ }, by rw [staged]; rfl⟩
  · rw [staged]
    refine ⟨_, List.mem_append_right _ List.mem_cons_self, rfl, stageNo, rfl, ?_⟩
    rw [← nextId, ← stageNo]
    exact List.mem_cons_self
  · rw [requests, Assoc.get?_put_same]
  · exact congrArg (some ·.task) cur
  · exact congrArg Locus.vt cur
  · rw [requests, Assoc.get?_put_other _ _ other]
  · rw [State.elem, staged]
    show _ ∈ ((x.setElem h.e _).elem h.e).past
    rw [Inst.elem_setElem_same, ← nextId]
    exact Elem.mem_past_recalls _ _ _ _

/-! ### Names and references reserved (R326) -/

/-- What a reservation leaves: the requests, the copies, the groups, the memory and the staging number. -/
theorem State.copiesKept_reserveBind (s : State) (ctx : Nat) (b : BindEnt) :
    State.CopiesKept s (s.reserveBind ctx b) ∧ (s.reserveBind ctx b).stageNo = s.stageNo := by
  unfold State.reserveBind
  dsimp only
  split <;> exact ⟨⟨rfl, rfl, rfl, rfl, rfl, rfl⟩, rfl⟩

theorem State.copiesKept_reserveBinds (ctx : Nat) (l : List BindEnt) (s : State) :
    State.CopiesKept s (l.foldl (fun s b => s.reserveBind ctx b) s) ∧ (l.foldl (fun s b => s.reserveBind ctx b) s).stageNo = s.stageNo := by
  induction l generalizing s with
  | nil => exact ⟨.refl s, rfl⟩
  | cons b r ih =>
    obtain ⟨⟨cur, accs, nextId, mem, insts, groups⟩, no⟩ := s.copiesKept_reserveBind ctx b
    obtain ⟨⟨cur', accs', nextId', mem', insts', groups'⟩, no'⟩ := ih (s.reserveBind ctx b)
    exact ⟨⟨cur'.trans cur, accs'.trans accs, nextId'.trans nextId, mem'.trans mem, insts'.trans insts, groups'.trans groups⟩,
      no'.trans no⟩

/-! ### The firing -/

section
variable {s : State} {h : Here} (hh : s.here = some h)
include hh

/-- Where its names find a place and a line is free, a bind debits its drops and stages its entries (R326, R327). -/
theorem State.fireBinds_stages (line : s.hasLine s.cur.task h.g s.cur.vt (.elem h.e) none = true) {l : List BindEnt} {d : Nat}
    (cov : Safety.Covered h.x d) (room : s.bindsFull h.g.ctx l = false) (opc : Nat) (el : Elem) (deps : List Nat) :
    Safety.debited s (s.fireBinds h opc d el deps l) h d ∧ (s.fireBinds h opc d el deps l).mem = s.mem
      ∧ Safety.StagesHub s (s.fireBinds h opc d el deps l) h (.binds l) := by
  set u := (s.atPort h d).putHere h el with isU
  set v := l.foldl (fun s b => s.reserveBind h.g.ctx b) u
  have turn : s.fireBinds h opc d el deps l = v.stageHub h opc deps (.binds l) := by
    simp only [State.fireBinds, room, line, Bool.not_true, Bool.false_eq_true, if_false, State.charge_of_covered s h _ _ _ cov]
    rfl
  have before := State.beside_atPort hh (d := d)
  obtain ⟨kept, no⟩ := State.copiesKept_reserveBinds h.g.ctx l u
  have at_ : State.Stager s v ((h.x.debit d).usesDir.setElem h.e el) := {
    cur := kept.cur.trans before.cur
    accs := kept.accs.trans before.accs
    nextId := kept.nextId.trans before.nextId
    stageNo := no.trans (s.stageNo_paid h d)
    copy := by
      rw [kept.inst?, isU, State.putHere, before.cur]
      exact State.inst?_updInst (State.copy_atPort hh) _ }
  obtain ⟨stages, meter⟩ := State.stagesHub_stageHub at_ h opc deps (.binds l)
  rw [turn]
  refine ⟨?_, kept.mem.trans before.mem, stages⟩
  rw [Safety.debited, meter]
  exact Inst.meter_debit cov

variable (unused : h.x.dirUse = false) (line : s.hasLine s.cur.task h.g s.cur.vt (.elem h.e) none = true)
include unused line

theorem execBind_stages {x : EaAb} {b : BindEnt} (gate : s.gate h x.trig = true) (reads : Safety.readable h x.sa x.sb)
    (cov : Safety.Covered h.x 32)
    (entry : bindEntry (s.ownHandle h.g.ctx s.cur.task) (h.el.readA x.sa).val (h.el.readB x.sb).val false = .ok b)
    (room : s.bindsFull h.g.ctx [b] = false) :
    ∃ t, exec (.bind x) s = .next t ∧ Safety.debited s t h 32 ∧ t.mem = s.mem ∧ Safety.StagesHub s t h (.binds [b]) := by
  obtain ⟨okA, okB⟩ := reads
  have turn : exec (.bind x) s = .next (s.fireBinds h 0x72 32
      (h.el.dequeue (s.pullHere h) (takesOf (SrcA.takes x.sa) (SrcB.takes x.sb)))
      (s.fireDeps h x.trig ((h.el.readA x.sa).deps ++ (h.el.readB x.sb).deps)) [b]) := by
    show execBind x s = _
    simp only [execBind, State.dirReady, hh, gate, unused, okA, okB, entry, Bool.not_false, Bool.and_self, if_true]
  exact ⟨_, turn, State.fireBinds_stages hh line cov room _ _ _⟩

omit hh unused line in
/-- The entry of an UNBIND, a name id without WAIT, unbinds the name (R318, R326). -/
theorem bindEntry_unbinds (look : Nat → Option Slot) {name : Word} (noWait : name.toNat < 2 ^ 31) (named : name ≠ 0) :
    bindEntry look name 0 true = .ok ⟨name.toNat, none⟩ := by
  have id : nameId name = name.toNat := Nat.mod_eq_of_lt noWait
  have wait : nameWait name = false := BitVec.msb_eq_false_iff_two_mul_lt.2 (by omega)
  have some : name.toNat ≠ 0 := fun none => named (BitVec.eq_of_toNat_eq none)
  simp [bindEntry, id, wait, some]

theorem execUnbind_stages {x : EaA} (gate : s.gate h x.trig = true) (okA : h.el.okA x.sa = true) (cov : Safety.Covered h.x 32)
    (noWait : (h.el.readA x.sa).val.toNat < 2 ^ 31) (named : (h.el.readA x.sa).val ≠ 0)
    (room : s.bindsFull h.g.ctx [⟨(h.el.readA x.sa).val.toNat, none⟩] = false) :
    ∃ t, exec (.unbind x) s = .next t ∧ Safety.debited s t h 32 ∧ t.mem = s.mem
      ∧ Safety.StagesHub s t h (.binds [⟨(h.el.readA x.sa).val.toNat, none⟩]) := by
  have turn : exec (.unbind x) s = .next (s.fireBinds h 0x73 32 (h.el.dequeue (s.pullHere h) (SrcA.takes x.sa))
      (s.fireDeps h x.trig (h.el.readA x.sa).deps) [⟨(h.el.readA x.sa).val.toNat, none⟩]) := by
    show execUnbind x s = _
    simp only [execUnbind, State.dirReady, hh, gate, unused, okA, bindEntry_unbinds _ noWait named, Bool.not_false, Bool.and_self, if_true]
  exact ⟨_, turn, State.fireBinds_stages hh line cov room _ _ _⟩

theorem execRebind_stages {x : EaAb} {n : Nat} {l : List BindEnt} (gate : s.gate h x.trig = true) (reads : Safety.readable h x.sa x.sb)
    (cov : Safety.Covered h.x (32 + 16 * n)) (isN : (h.el.readB x.sb).val.toNat = n) (low : 1 ≤ n) (high : n ≤ 8)
    (entries : bindList (s.ownHandle h.g.ctx s.cur.task) (s.padArg h (h.el.readA x.sa).val 8 (8 * n)) n = .ok l)
    (free : s.argFree h (h.el.readA x.sa).val 8 (8 * n) = true) (distinct : sameName l = false) (room : s.bindsFull h.g.ctx l = false) :
    ∃ t, exec (.rebind x) s = .next t ∧ Safety.debited s t h (32 + 16 * n) ∧ t.mem = s.mem ∧ Safety.StagesHub s t h (.binds l) := by
  obtain ⟨okA, okB⟩ := reads
  have turn : exec (.rebind x) s = .next (s.fireBinds h 0x74 (32 + 16 * n)
      (h.el.dequeue (s.pullHere h) (takesOf (SrcA.takes x.sa) (SrcB.takes x.sb)))
      (s.fireDeps h x.trig ((h.el.readA x.sa).deps ++ (h.el.readB x.sb).deps)) l) := by
    show execRebind x s = _
    simp only [execRebind, State.dirReady, hh, gate, unused, okA, okB, isN, Nat.ne_of_gt low, Nat.not_lt.2 high, free, entries, distinct,
      decide_false, Bool.or_self, Bool.not_false, Bool.not_true, Bool.and_self, if_true, Bool.false_eq_true, if_false]
  exact ⟨_, turn, State.fireBinds_stages hh line cov room _ _ _⟩

end

/-- Settles O23: each is the shared firing with its entries, once they pass their checks. -/
theorem bindings : Obligations.Bindings := by
  unfold Obligations.Bindings
  intro s h hh unused line
  refine ⟨fun x b gate reads cov entry room => ?_, fun x gate okA cov noWait named room => ?_,
    fun x n l gate reads cov isN low high entries free distinct room => ?_⟩
  · exact execBind_stages hh unused line gate reads cov entry room
  · exact execUnbind_stages hh unused line gate okA cov noWait named room
  · exact execRebind_stages hh unused line gate reads cov isN low high entries free distinct room

end Sys2Proof.Machine
end

section
/-! SUPPORT. What requests answered, performed and failed and messages sent leave of the directory's tables and of the contexts: all of
them. -/

namespace Sys2Proof.Machine

/-- The directory's tables and the contexts are the same (R311). -/
structure State.TablesKept (s t : State) : Prop where
  names : t.names = s.names
  slots : t.slots = s.slots
  objs : t.objs = s.objs
  ctxs : t.ctxs = s.ctxs

theorem State.TablesKept.refl (s : State) : State.TablesKept s s := ⟨rfl, rfl, rfl, rfl⟩

theorem State.TablesKept.trans {s t u : State} (h : State.TablesKept s t) (k : State.TablesKept t u) : State.TablesKept s u :=
  ⟨k.names.trans h.names, k.slots.trans h.slots, k.objs.trans h.objs, k.ctxs.trans h.ctxs⟩

theorem State.TablesKept.foldl {α : Type} {f : State → α → State} (step : ∀ s x, State.TablesKept s (f s x)) (l : List α) (s : State) :
    State.TablesKept s (l.foldl f s) := by
  induction l generalizing s with
  | nil => exact .refl s
  | cons x r ih => exact (step s x).trans (ih _)

section
variable (s : State)

/-! ### Requests answered, performed and failed -/

theorem State.tablesKept_setAcc (id : Nat) (a : Acc) : State.TablesKept s (s.setAcc id a) := by
  unfold State.setAcc
  dsimp only
  split <;> exact ⟨rfl, rfl, rfl, rfl⟩

theorem State.tablesKept_reap (id : Nat) : State.TablesKept s (s.reap id) := by
  unfold State.reap
  split
  · split
    · exact ⟨rfl, rfl, rfl, rfl⟩
    · exact .refl s
  · exact .refl s

theorem State.tablesKept_perform (id : Nat) (p : Perf) : State.TablesKept s (s.perform id p) := by
  unfold State.perform
  split
  · split
    · exact (s.tablesKept_setAcc id _).trans (State.tablesKept_reap _ id)
    · exact .refl s
  · exact .refl s

theorem State.tablesKept_performAll (l : List Nat) (p : Perf) : State.TablesKept s (s.performAll l p) :=
  .foldl (fun s i => s.tablesKept_perform i p) l s

theorem State.tablesKept_updInst (task : Nat) (vt : Fin 16) (f : Inst → Inst) : State.TablesKept s (s.updInst task vt f) :=
  ⟨rfl, rfl, rfl, rfl⟩

theorem State.tablesKept_entrySent (task : Nat) (vt : Fin 16) (no : Nat) : State.TablesKept s (s.entrySent task vt no) :=
  (s.tablesKept_updInst task vt _).trans (State.tablesKept_performAll _ _ _)

theorem State.tablesKept_lineSent (task : Nat) (vt : Fin 16) (no : Nat) (done : List Held) :
    State.TablesKept s (s.lineSent task vt no done) := by
  unfold State.lineSent
  split
  · exact (s.tablesKept_updInst task vt _).trans (State.tablesKept_performAll _ _ _)
  · exact .refl s

theorem State.tablesKept_afterStaged (a : Acc) (id : Nat) : State.TablesKept s (s.afterStaged a id) := by
  unfold State.afterStaged
  split
  · split
    · exact .trans (t := s.updAcc id _) ⟨rfl, rfl, rfl, rfl⟩ (State.tablesKept_lineSent _ _ _ _ _)
    · exact s.tablesKept_entrySent _ _ _
    · exact .refl s
  · exact .refl s

theorem State.tablesKept_hubAnswer (a : Acc) (v : Word) : State.TablesKept s (s.hubAnswer a v) := by
  unfold State.hubAnswer
  split
  · split
    · exact ⟨rfl, rfl, rfl, rfl⟩
    · exact .refl s
  · split
    · exact ⟨rfl, rfl, rfl, rfl⟩
    · exact .refl s
  · exact .refl s

theorem State.tablesKept_sendTo (die : Nat) (m : Msg) : State.TablesKept s (s.sendTo die m) := ⟨rfl, rfl, rfl, rfl⟩

theorem State.tablesKept_dropForeign (id : Nat) : State.TablesKept s (s.dropForeign id) := ⟨rfl, rfl, rfl, rfl⟩

theorem State.tablesKept_mergeClock (c : List (BitVec 16)) : State.TablesKept s (s.mergeClock c) := by
  unfold State.mergeClock
  exact ⟨rfl, rfl, rfl, rfl⟩

/-- An answer to another die is a message, one to this die a request noted. -/
theorem State.tablesKept_answer (id : Nat) (v : Word) (p : Perf) : State.TablesKept s (s.answer id v p) := by
  unfold State.answer
  split
  · split
    · next a _ _ =>
      have dropped : ∀ (u : State) (m : Msg), State.TablesKept u ((u.dropForeign id).sendTo a.rule m) := fun u m =>
        (u.tablesKept_dropForeign id).trans (State.tablesKept_sendTo _ a.rule m)
      have merged : ∀ m : Msg, State.TablesKept s (((s.mergeClock a.clock).dropForeign id).sendTo a.rule m) := fun m =>
        (s.tablesKept_mergeClock a.clock).trans (dropped _ m)
      dsimp only
      split
      · exact merged _
      · exact dropped s _
      · exact merged _
      · exact merged _
      · exact merged _
      · exact dropped s _
    · exact ((s.tablesKept_hubAnswer _ v).trans (State.tablesKept_setAcc _ id _)).trans (State.tablesKept_reap _ id)
  · exact .refl s

theorem State.tablesKept_failAcc (id : Nat) : State.TablesKept s (s.failAcc id) := by
  unfold State.failAcc
  split
  · exact .refl s
  · next a _ =>
    split
    · exact ⟨rfl, rfl, rfl, rfl⟩
    · next t _ =>
      have failed : State.TablesKept s ((s.setAcc id { a with remote := false }).raise t (.fault 0x60 a.vt a.node a.opc a.rule)) :=
        (s.tablesKept_setAcc id _).trans ⟨rfl, rfl, rfl, rfl⟩
      dsimp only
      split
      · exact failed.trans (State.tablesKept_afterStaged _ a id)
      · exact failed.trans ⟨rfl, rfl, rfl, rfl⟩

/-! ### Messages sent (R481, R486-R489) -/

theorem State.tablesKept_form (n : Fin 8) (dst : Nat) (m : Msg) : State.TablesKept s (s.form n dst m) := by
  unfold State.form
  dsimp only [State.push, State.countHub]
  constructor
  · simp only [apply_ite State.names, ite_self]
  · simp only [apply_ite State.slots, ite_self]
  · simp only [apply_ite State.objs, ite_self]
  · simp only [apply_ite State.ctxs, ite_self]

theorem State.tablesKept_trySend (t : Tx) {u : State} (sent : s.trySend t = some u) : State.TablesKept s u := by
  have failed : State.TablesKept s (match t.formed, t.msg with
      | some _, _ => s
      | none, .probe => { s with probed := s.probed &&& ~~~(BitVec.ofNat 16 (2 ^ t.dst)) }
      | none, m => m.request.elim s s.failAcc) := by
    split
    · exact .refl s
    · exact ⟨rfl, rfl, rfl, rfl⟩
    · cases t.msg.request with
      | none => exact .refl s
      | some id => exact s.tablesKept_failAcc id
  unfold State.trySend at sent
  dsimp only at sent
  split at sent
  · obtain ⟨-, sent⟩ := Option.ite_none_left_eq_some.1 sent
    cases sent
    exact failed
  · split at sent
    · obtain ⟨-, sent⟩ := Option.ite_none_left_eq_some.1 sent
      cases sent
      exact failed
    · obtain ⟨-, sent⟩ := Option.ite_none_left_eq_some.1 sent
      split at sent
      · cases sent
        exact ⟨rfl, rfl, rfl, rfl⟩
      · obtain ⟨-, sent⟩ := Option.ite_none_left_eq_some.1 sent
        cases sent
        exact s.tablesKept_form _ _ _

theorem State.tablesKept_sendAll (l : List Tx) : ∀ (blocked : List Nat) (s : State), State.TablesKept s (State.sendAll l blocked s) := by
  induction l with
  | nil => exact fun _ s => .refl s
  | cons t ts ih =>
    intro blocked s
    have waits : State.TablesKept s { s with tx := s.tx ++ [t] } := ⟨rfl, rfl, rfl, rfl⟩
    rw [State.sendAll]
    split
    · exact waits.trans (ih _ _)
    · split
      · next u sent => exact (s.tablesKept_trySend t sent).trans (ih _ _)
      · exact waits.trans (ih _ _)

theorem State.tablesKept_askClocks (dies : List Nat) : State.TablesKept s (s.askClocks dies) := by
  unfold State.askClocks
  refine .foldl (fun s k => ?_) _ s
  exact ⟨rfl, rfl, rfl, rfl⟩

theorem State.tablesKept_transmit : State.TablesKept s s.transmit := by
  have asked : State.TablesKept s (if s.tx.any fun t => t.formed.isNone && t.msg.counted then s.askClocks s.lagging else s) := by
    split
    · exact s.tablesKept_askClocks _
    · exact .refl s
  have emptied : ∀ u : State, State.TablesKept u { u with tx := [] } := fun _ => ⟨rfl, rfl, rfl, rfl⟩
  exact asked.trans ((emptied _).trans (State.tablesKept_sendAll _ [] _))

theorem State.tablesKept_tellAll (m : Msg) : State.TablesKept s (s.tellAll m) := .foldl (fun s d => s.tablesKept_sendTo d m) _ s

end

end Sys2Proof.Machine
end

section
/-! SUPPORT. What binds that take effect make of the names (R319, R326, R327): each name named takes its binding, every other keeps its
own. -/

namespace Sys2Proof.Machine

/-! ### What leaves the bindings -/

/-- The contexts and the binding of every name are the same. -/
structure State.BoundKept (s t : State) : Prop where
  ctxs : t.ctxs = s.ctxs
  bound : ∀ ctx id, (t.name ctx id).obj = (s.name ctx id).obj

theorem State.BoundKept.of_names {s t : State} (ctxs : t.ctxs = s.ctxs) (names : t.names = s.names) : State.BoundKept s t :=
  ⟨ctxs, fun ctx id => by rw [State.name, names, State.name]⟩

theorem State.TablesKept.bound {s t : State} (h : State.TablesKept s t) : State.BoundKept s t := .of_names h.ctxs h.names

theorem State.BoundKept.refl (s : State) : State.BoundKept s s := .of_names rfl rfl

theorem State.BoundKept.trans {s t u : State} (h : State.BoundKept s t) (k : State.BoundKept t u) : State.BoundKept s u :=
  ⟨k.ctxs.trans h.ctxs, fun ctx id => (k.bound ctx id).trans (h.bound ctx id)⟩

/-- What follows a change beside the contexts and the names. -/
theorem State.BoundKept.after {s u t : State} (k : State.BoundKept u t) (ctxs : u.ctxs = s.ctxs) (names : u.names = s.names) :
    State.BoundKept s t := State.BoundKept.trans (.of_names ctxs names) k

theorem State.BoundKept.foldl {α : Type} {f : State → α → State} (step : ∀ s x, State.BoundKept s (f s x)) (l : List α) (s : State) :
    State.BoundKept s (l.foldl f s) := by
  induction l generalizing s with
  | nil => exact .refl s
  | cons x r ih => exact (step s x).trans (ih _)

/-- The name of an id after a change of a name. -/
theorem State.name_updName (s : State) (ctx id : Nat) (f : NameEnt → NameEnt) (ctx' id' : Nat) :
    (s.updName ctx id f).name ctx' id' = if nameKey ctx id = nameKey ctx' id' then f (s.name ctx id) else s.name ctx' id' := by
  simp only [State.name, State.updName, Assoc.getD, Assoc.get?_put]
  split <;> rfl

section
variable (s : State)

theorem State.boundKept_updName (ctx id : Nat) {f : NameEnt → NameEnt} (keeps : ∀ e, (f e).obj = e.obj) :
    State.BoundKept s (s.updName ctx id f) := by
  refine ⟨rfl, fun ctx' id' => ?_⟩
  rw [State.name_updName]
  split
  · next same => rw [keeps, State.name, same, State.name]
  · rfl

theorem State.boundKept_refObj (obj : Nat) : State.BoundKept s (s.refObj obj) := .of_names rfl rfl

theorem State.boundKept_unrefObj (obj : Nat) : State.BoundKept s (s.unrefObj obj) := .of_names rfl rfl

theorem State.boundKept_reserveBind (ctx : Nat) (b : BindEnt) : State.BoundKept s (s.reserveBind ctx b) := by
  have named := s.boundKept_updName ctx b.name (f := fun e => { e with refs := e.refs + 1 }) fun _ => rfl
  unfold State.reserveBind
  dsimp only
  split
  · exact named.trans (State.boundKept_refObj _ _)
  · exact named

theorem State.boundKept_share (obj : Nat) : State.BoundKept s (s.share obj) := by
  unfold State.share
  split
  · exact (State.tablesKept_tellAll _ _).bound.after rfl rfl
  · exact .refl s

theorem State.boundKept_unpinObj (obj : Nat) : State.BoundKept s (s.unpinObj obj) :=
  (State.BoundKept.foldl (fun s _ => (s.tablesKept_tellAll _).bound) _ _).after rfl rfl

/-- A name entry that is dropped was UNBOUND. -/
theorem State.boundKept_dropName (ctx id : Nat) : State.BoundKept s (s.dropName ctx id) := by
  unfold State.dropName
  split
  · next e he =>
    split
    · next unbound =>
      refine ⟨rfl, fun ctx' id' => ?_⟩
      simp only [State.name, Assoc.getD, Assoc.get?_del]
      split
      · next same =>
        rw [← same, he]
        simp only [Bool.and_eq_true, Option.isNone_iff_eq_none] at unbound
        obtain ⟨⟨none, -⟩, -⟩ := unbound
        exact none.symm
      · rfl
    · exact .refl s
  · exact .refl s

theorem State.boundKept_openDo (id : Nat) (a : Acc) (ctx task obj : Nat) (probe : Bool) :
    State.BoundKept s (s.openDo id a ctx task obj probe) := by
  unfold State.openDo
  split
  · exact (s.tablesKept_answer id _ _).bound
  · split
    · exact (s.tablesKept_answer id _ _).bound
    · exact (State.tablesKept_answer _ id _ _).bound.after rfl rfl

theorem State.boundKept_serveWaiters (ctx name : Nat) : State.BoundKept s (s.serveWaiters ctx name) := by
  unfold State.serveWaiters
  split
  · refine (s.boundKept_updName ctx name (f := fun e => { e with fifo := [] }) fun _ => rfl).trans (.foldl (fun s id => ?_) _ _)
    split
    · split
      · exact s.boundKept_openDo id _ _ _ _ _
      · exact .refl s
    · exact .refl s
  · exact .refl s

/-! ### A name bound (R319) -/

/-- The name takes its binding; the binding of every other name stays. -/
theorem State.bound_bindName (ctx : Nat) (b : BindEnt) : (s.bindName ctx b).ctxs = s.ctxs
    ∧ ∀ id, ((s.bindName ctx b).name ctx id).obj = if b.name = id then b.obj else (s.name ctx id).obj := by
  set u := s.updName ctx b.name fun e => { e with obj := b.obj } with isU
  have taken : ∀ id, (u.name ctx id).obj = if b.name = id then b.obj else (s.name ctx id).obj := fun id => by
    have key : nameKey ctx b.name = nameKey ctx id ↔ b.name = id := by simp only [nameKey, Nat.add_left_cancel_iff]
    simp only [isU, State.name_updName, key]
    split <;> rfl
  have shared : ∀ obj : Option Nat, State.BoundKept u (match obj with
      | some o => (u.share o).unpinObj o
      | none => u) := fun obj => by
    cases obj with
    | some o => exact (u.boundKept_share o).trans (State.boundKept_unpinObj _ o)
    | none => exact .refl u
  have kept : State.BoundKept u (s.bindName ctx b) := by
    unfold State.bindName
    dsimp only
    split
    · exact (shared b.obj).trans (State.boundKept_unrefObj _ _)
    · exact shared b.obj
  exact ⟨kept.ctxs, fun id => (kept.bound ctx id).trans (taken id)⟩

end

/-! ### Entries that take effect together (R327) -/

/-- No two entries name the same id. -/
theorem sameName_eq_false_iff (l : List BindEnt) : sameName l = false ↔ (l.map (·.name)).Nodup := by
  induction l with
  | nil => simp [sameName]
  | cons b r ih =>
    simp only [sameName, Bool.or_eq_false_iff, List.any_eq_false, beq_iff_eq, ih, List.map_cons, List.nodup_cons, List.mem_map,
      not_exists, not_and]

/-- Every name named has its binding, every other name of the context its own as before. -/
theorem State.bound_bindNames (ctx : Nat) {l : List BindEnt} (distinct : (l.map (·.name)).Nodup) (s : State) :
    (l.foldl (fun s b => s.bindName ctx b) s).ctxs = s.ctxs
      ∧ (∀ b ∈ l, ((l.foldl (fun s b => s.bindName ctx b) s).name ctx b.name).obj = b.obj)
      ∧ ∀ id, (∀ b ∈ l, b.name ≠ id) → ((l.foldl (fun s b => s.bindName ctx b) s).name ctx id).obj = (s.name ctx id).obj := by
  induction l generalizing s with
  | nil => exact ⟨rfl, fun b hb => absurd hb List.not_mem_nil, fun _ _ => rfl⟩
  | cons b r ih =>
    obtain ⟨first, distinct⟩ := List.nodup_cons.1 distinct
    obtain ⟨ctxs, taken⟩ := s.bound_bindName ctx b
    obtain ⟨ctxs', binds, others⟩ := ih distinct (s.bindName ctx b)
    refine ⟨ctxs'.trans ctxs, fun c hc => ?_, fun id hid => ?_⟩
    · obtain rfl | hc := List.mem_cons.1 hc
      · refine (others c.name fun d hd same => first (List.mem_map.2 ⟨d, hd, same⟩)).trans ?_
        rw [taken, if_pos rfl]
      · exact binds c hc
    · refine (others id fun d hd => hid d (List.mem_cons_of_mem _ hd)).trans ?_
      rw [taken, if_neg (hid b List.mem_cons_self)]

/-- Entries reserved and released bind their names, and no other of the context (R319, R326, R327). -/
theorem State.bound_releaseBinds (ctx : Nat) {l : List BindEnt} (distinct : (l.map (·.name)).Nodup) (s : State) :
    let t := (l.foldl (fun s b => s.reserveBind ctx b) s).releaseBinds ctx l
    t.ctxs = s.ctxs ∧ (∀ b ∈ l, (t.name ctx b.name).obj = b.obj)
      ∧ ∀ id, (∀ b ∈ l, b.name ≠ id) → (t.name ctx id).obj = (s.name ctx id).obj := by
  intro t
  set u := l.foldl (fun s b => s.reserveBind ctx b) s
  set v := l.foldl (fun s b => s.bindName ctx b) u
  have reserved : State.BoundKept s u := .foldl (fun s b => s.boundKept_reserveBind ctx b) l s
  obtain ⟨ctxs, binds, others⟩ := State.bound_bindNames ctx distinct u
  have served : ∀ w : State, State.BoundKept w (l.foldl (fun s b => if b.obj.isSome then s.serveWaiters ctx b.name else s) w) :=
    .foldl (fun s b => by
      split
      · exact s.boundKept_serveWaiters ctx b.name
      · exact .refl s) l
  have dropped : ∀ w : State, State.BoundKept w (l.foldl (fun s b =>
      (s.updName ctx b.name fun e => { e with refs := e.refs - 1 }).dropName ctx b.name) w) :=
    .foldl (fun s b => (s.boundKept_updName ctx b.name (f := fun e => { e with refs := e.refs - 1 }) fun _ => rfl).trans
      (State.boundKept_dropName _ ctx b.name)) l
  have after : State.BoundKept v t := (served v).trans (dropped _)
  refine ⟨after.ctxs.trans (ctxs.trans reserved.ctxs), fun b hb => (after.bound ctx b.name).trans (binds b hb), fun id hid => ?_⟩
  exact (after.bound ctx id).trans ((others id hid).trans (reserved.bound ctx id))

/-- They leave the memory as it is. -/
theorem State.mem_releaseBinds (ctx : Nat) (l : List BindEnt) (s : State) :
    ((l.foldl (fun s b => s.reserveBind ctx b) s).releaseBinds ctx l).mem = s.mem :=
  (State.steady_releaseBinds _ ctx l).mem.trans (State.copiesKept_reserveBinds ctx l s).1.mem

end Sys2Proof.Machine
end

section
/-! The host's directory window (R331, R509, R510): what each operation does where its checks pass, and the MKOBJ that finds no free
object id. -/

namespace Sys2Proof.Machine

/-! ### A command that has its turn (R511) -/

/-- A write of a function that has its turn takes effect at once. -/
theorem State.inOrder_of_turn {s : State} {via : Via} (turn : Safety.HostTurn s via) (i : HostCmd) (act : State → State) :
    s.inOrder via i act = act s := by
  obtain ⟨first, performed⟩ := turn
  have free : s.hostWaits (Via.fn via) i = false := by
    simp only [State.hostWaits, performed, List.isEmpty_nil, Bool.not_true, Bool.and_false, Bool.or_false, List.any_eq_false, beq_iff_eq]
    exact first
  rw [State.inOrder, free, if_neg Bool.false_ne_true]

theorem State.get?_of_window? {s : State} {h : HostAt} {c : Ctx} (hw : s.window? h = some c) : s.ctxs.get? h.ctx = some c := by
  unfold State.window? at hw
  obtain ⟨-, hw⟩ := Option.ite_none_left_eq_some.1 hw
  split at hw
  · next d hd =>
    obtain ⟨-, hw⟩ := Option.ite_none_left_eq_some.1 hw
    split at hw
    · rw [hd, ← hw]
    · obtain ⟨-, hw⟩ := Option.ite_none_right_eq_some.1 hw
      rw [hd, ← hw]
  · cases hw

/-- DIRSTAT of a context holds a result and the status 0. -/
def State.Answers (t : State) (ctx v : Nat) : Prop := (t.ctx ctx).dirstat = BitVec.ofNat 64 (v % 2 ^ 32 * 2 ^ 32)

/-- An answer stands in the DIRSTAT of the window's context. -/
theorem State.answers_dirAnswer {s : State} {h : HostAt} {c : Ctx} (hc : s.ctxs.get? h.ctx = some c) (v : Nat) :
    (s.dirAnswer h v 0).Answers h.ctx v := by
  have answered : (s.dirAnswer h v 0).ctxs.get? h.ctx = some { c with dirstat := BitVec.ofNat 64 (v % 2 ^ 32 * 2 ^ 32) } := by
    simp only [State.dirAnswer, State.updCtx_ctxs, Assoc.get?_modify, if_true, hc, Option.map_some, Nat.add_zero]
  rw [State.Answers, State.ctx_of_get? answered]

/-- It stays through what leaves the contexts. -/
theorem State.Answers.of_ctxs {s t : State} {ctx v : Nat} (answers : s.Answers ctx v) (ctxs : t.ctxs = s.ctxs) : t.Answers ctx v := by
  rw [State.Answers, State.ctx, ctxs]
  exact answers

/-- The state once the hub's counters have counted the operation. -/
def State.dirCounted (s : State) (h : HostAt) : State := s.countHub 0x1F 1 (some h.ctx)

theorem State.Answers.dirCounted {s : State} {h : HostAt} {ctx v : Nat} (answers : s.Answers ctx v) : (s.dirCounted h).Answers ctx v :=
  answers.of_ctxs rfl

/-! ### Entries of a bind (R318, R326, R327) -/

/-- An entry that no handle 0 can unbind binds its name. -/
theorem isSome_of_bindEntry {look : Nat → Option Slot} {name handle : Word} {b : BindEnt}
    (entry : bindEntry look name handle false = .ok b) : b.obj.isSome = true := by
  unfold bindEntry at entry
  split at entry
  · cases entry
  · simp only [Bool.false_and, Bool.false_eq_true, if_false] at entry
    split at entry
    · cases entry
      rfl
    · cases entry

/-- Handle 0 unbinds. -/
theorem obj_of_bindEntry_zero {look : Nat → Option Slot} {name : Word} {b : BindEnt} (entry : bindEntry look name 0 true = .ok b) :
    b.obj = none := by
  unfold bindEntry at entry
  split at entry
  · cases entry
  · simp only [decide_true, Bool.and_self, if_true] at entry
    cases entry
    rfl

/-! ### Object ids (R311, R324) -/

/-- What lowFree finds is not used. -/
theorem not_mem_of_lowFree {used : List Nat} {base n : Nat} (fuel : Nat) : ∀ {k limit : Nat}, lowFree used base fuel k limit = some n →
    base + n ∉ used := by
  induction fuel with
  | zero => exact fun found => nomatch found
  | succ fuel ih =>
    intro k limit found
    rw [lowFree] at found
    obtain ⟨-, found⟩ := Option.ite_none_left_eq_some.1 found
    split at found
    · exact ih found
    · next free =>
      cases found
      simpa using free

/-- Where all below the limit are used it finds none. -/
theorem lowFree_eq_none {used : List Nat} {base limit : Nat} (fuel : Nat) : ∀ {k : Nat}, (∀ i, k ≤ i → i < limit → base + i ∈ used) →
    lowFree used base fuel k limit = none := by
  induction fuel with
  | zero => exact fun _ => rfl
  | succ fuel ih =>
    intro k all
    rw [lowFree]
    split
    · rfl
    · next inside =>
      rw [if_pos (by simpa using all k le_rfl (Nat.lt_of_not_le inside))]
      exact ih fun i above => all i (Nat.le_of_succ_le above)

theorem Assoc.get?_eq_none_of_not_mem {α : Type} {m : Assoc α} {k : Nat} (absent : k ∉ m.map (·.1)) : m.get? k = none := by
  induction m with
  | nil => rfl
  | cons x r ih =>
    rw [List.map_cons, List.mem_cons, not_or] at absent
    obtain ⟨other, absent⟩ := absent
    exact (Assoc.get?_cons x.1 x.2 r k).trans ((if_neg (Ne.symm other)).trans (ih absent))

theorem State.tablesKept_freeObj (s : State) : State.TablesKept s s.freeObj.2 := ⟨rfl, rfl, rfl, rfl⟩

section
variable {s : State}

/-- A free object id is no object's. -/
theorem State.get?_of_freeObj {id : Nat} (found : s.freeObj.1 = some id) : s.objs.get? id = none := by
  have free : id ∉ s.objs.map (·.1) ++ s.gone.map (·.1) := by
    obtain low | ⟨-, high⟩ := Option.or_eq_some_iff.1 found
    · exact Nat.zero_add id ▸ not_mem_of_lowFree _ low
    · exact Nat.zero_add id ▸ not_mem_of_lowFree _ high
  exact Assoc.get?_eq_none_of_not_mem fun mem => free (List.mem_append_left _ mem)

/-- No id is free where each is an object's, or one that another die still has. -/
theorem State.freeObj_eq_none (all : ∀ id, 1 ≤ id → id < 65536 → id ∈ s.objs.map (·.1) ++ s.gone.map (·.1)) : s.freeObj.1 = none := by
  have start : (Config.freeWord s.freeNo).toNat % 65535 < 65535 := Nat.mod_lt _ (by decide)
  refine Option.or_eq_none_iff.2 ⟨lowFree_eq_none _ fun i low high => ?_, lowFree_eq_none _ fun i low high => ?_⟩
  · rw [Nat.zero_add]
    exact all i (Nat.le_trans (Nat.le_add_left 1 _) low) high
  · rw [Nat.zero_add]
    exact all i low (by omega)

variable {ctx d t r : Nat} (st : ObjSt) (slot : HSt) (cvd : Bool)

/-- An object that may be made, where an id is free, is made with a slot on it (R315, R324). -/
theorem State.makeObj_makes (may : s.canMake ctx d t r = true) (id_free : s.freeObj.1.isSome = true) :
    ∃ n id o u, s.makeObj ctx d t r st slot cvd = (n, u) ∧ s.freeSlot ctx = some n
      ∧ u.slots.get? (slotKey ctx n) = some { st := slot, cvd := cvd, obj := id } ∧ u.objs.get? id = some o ∧ o.desc = d ∧ o.ctx = ctx
      ∧ o.st = st ∧ s.objs.get? id = none ∧ u.ctxs = s.ctxs := by
  simp only [State.canMake, Bool.and_eq_true, Option.isSome_iff_exists] at may
  obtain ⟨⟨-, n, hn⟩, frames, hf⟩ := may
  obtain ⟨id, hid⟩ := Option.isSome_iff_exists.1 id_free
  obtain ⟨v, hv⟩ : ∃ v, s.freeObj = (some id, v) := ⟨s.freeObj.2, Prod.ext hid rfl⟩
  have tables := s.tablesKept_freeObj
  rw [hv] at tables
  have turn : ∃ o m fs, s.makeObj ctx d t r st slot cvd = (n, State.tellAll { v with
      objs := v.objs.put id o, slots := v.slots.put (slotKey ctx n) { st := slot, cvd := cvd, obj := id }, usedFrames := fs } m)
      ∧ o.desc = d ∧ o.ctx = ctx ∧ o.st = st := by
    rw [State.makeObj, hf, hn]
    dsimp only
    rw [hv]
    exact ⟨_, _, _, rfl, rfl, rfl, rfl⟩
  obtain ⟨o, m, fs, made, desc, own, is⟩ := turn
  have told := State.tablesKept_tellAll { v with
    objs := v.objs.put id o, slots := v.slots.put (slotKey ctx n) { st := slot, cvd := cvd, obj := id }, usedFrames := fs } m
  refine ⟨n, id, o, _, made, hn, ?_, ?_, desc, own, is, State.get?_of_freeObj hid, told.ctxs.trans tables.ctxs⟩
  · rw [told.slots, Assoc.get?_put_same]
  · rw [told.objs, Assoc.get?_put_same]

/-- Where no id is free nothing is made, and the handle is 0. -/
theorem State.makeObj_of_no_id (full : s.freeObj.1 = none) :
    ∃ u, s.makeObj ctx d t r st slot cvd = (0, u) ∧ State.TablesKept s u := by
  have tables := s.tablesKept_freeObj
  obtain ⟨v, hv⟩ : ∃ v, s.freeObj = (none, v) := ⟨s.freeObj.2, Prod.ext full rfl⟩
  rw [hv] at tables
  cases hf : s.framesFor d t r with
  | none => exact ⟨s, by rw [State.makeObj, hf], .refl s⟩
  | some frames =>
    cases hn : s.freeSlot ctx with
    | none => exact ⟨s, by rw [State.makeObj, hf, hn], .refl s⟩
    | some n => exact ⟨v, by rw [State.makeObj, hf, hn]; dsimp only; rw [hv], tables⟩

end

/-! ### Operations of the window -/

section
variable {s : State} {h : HostAt} {c : Ctx} {w : Dword} (hw : s.window? h = some c) (up : c.state ≠ .resetting)
include hw up

/-- The command word of an operation runs it and is counted (R312, R505). -/
theorem State.dirHostOp_of {op : Nat} (isOp : field w.toNat 63 60 = op) (act : State) : s.dirHostOp h w op act = act.dirCounted h := by
  rw [State.dirHostOp, State.onWindow, hw]
  dsimp only
  rw [if_neg (by simpa using up), State.onOp, if_pos isOp]
  rfl

variable (turn : Safety.HostTurn s h.via)
include turn

/-- OPEN of a bound name: the lowest FREE slot is OPEN on its object (R323, R331). -/
theorem execHostOpen_opens {o n : Nat} (op : field w.toNat 63 60 = 1) (noWait : nameWait (w.setWidth 32) = false)
    (named : nameId (w.setWidth 32) ≠ 0) (bound : (s.name h.ctx (nameId (w.setWidth 32))).obj = some o) (free : s.freeSlot h.ctx = some n) :
    ∃ t, exec (.hostOpen h w) s = .next t ∧ t.Answers h.ctx n ∧ t.slots.get? (slotKey h.ctx n) = some { obj := o } ∧ t.mem = s.mem := by
  set u := State.refObj { s with slots := s.slots.put (slotKey h.ctx n) { obj := o } } o
  have run : exec (.hostOpen h w) s = .next ((u.dirAnswer h n 0).dirCounted h) := by
    show execHostOpen h w s = _
    rw [execHostOpen, State.inOrder_of_turn turn, State.hostOpenNow, State.dirHostOp_of hw up op]
    simp only [noWait, named, bound, free, decide_false, Bool.or_self, Bool.false_eq_true, if_false]
    rfl
  have opened : u.slots.get? (slotKey h.ctx n) = some { obj := o } := Assoc.get?_put_same s.slots _ _
  have hc : u.ctxs.get? h.ctx = some c := State.get?_of_window? hw
  exact ⟨_, run, (State.answers_dirAnswer hc n).dirCounted, opened, rfl⟩

/-- CLOSE of an OPEN slot frees it (R325, R331). -/
theorem execHostClose_frees {y : Slot} (op : field w.toNat 63 60 = 2) (slot : s.slot? h.ctx (field w.toNat 55 44) = some y)
    (opened : y.st = .opened) :
    ∃ t, exec (.hostClose h w) s = .next t ∧ t.Answers h.ctx 0 ∧ t.slots.get? (slotKey h.ctx (field w.toNat 55 44)) = none
      ∧ t.mem = s.mem := by
  obtain ⟨-, there⟩ := Option.ite_none_left_eq_some.1 slot
  obtain ⟨st, keep, cvd, obj⟩ := y
  obtain rfl : st = .opened := opened
  set u := s.freeHandle (slotKey h.ctx (field w.toNat 55 44)) with isU
  have run : exec (.hostClose h w) s = .next ((u.dirAnswer h 0 0).dirCounted h) := by
    show execHostClose h w s = _
    rw [execHostClose, State.inOrder_of_turn turn, State.hostCloseNow, State.dirHostOp_of hw up op, dirHandle, slot]
  have freed : u.slots.get? (slotKey h.ctx (field w.toNat 55 44)) = none ∧ u.mem = s.mem ∧ u.ctxs = s.ctxs := by
    rw [isU, State.freeHandle, there]
    exact ⟨(Assoc.get?_del _ _ _).trans (if_pos rfl), rfl, rfl⟩
  obtain ⟨gone, mem, ctxs⟩ := freed
  have hc : u.ctxs.get? h.ctx = some c := ctxs ▸ State.get?_of_window? hw
  exact ⟨_, run, (State.answers_dirAnswer hc 0).dirCounted, gone, mem⟩

/-- QUERY answers a field of the object (R328, R331). -/
theorem execHostQuery_answers {y : Slot} (op : field w.toNat 63 60 = 6) (sel : field w.toNat 59 56 ≤ 12)
    (slot : s.hostSlot h.ctx (field w.toNat 55 44) = some y) :
    ∃ t, exec (.hostQuery h w) s = .next t ∧ t.Answers h.ctx (s.queryVal y.obj (field w.toNat 59 56)) ∧ t.objs = s.objs
      ∧ t.mem = s.mem := by
  have run : exec (.hostQuery h w) s = .next ((s.dirAnswer h (s.queryVal y.obj (field w.toNat 59 56)) 0).dirCounted h) := by
    show execHostQuery h w s = _
    rw [execHostQuery, State.inOrder_of_turn turn, State.hostQueryNow, State.dirHostOp_of hw up op, dirArgOf, dirHandle,
      if_neg (Nat.not_lt.2 sel), slot]
  exact ⟨_, run, (State.answers_dirAnswer (State.get?_of_window? hw) _).dirCounted, rfl, rfl⟩

omit up turn in
/-- Entries that the host binds bind their names at once; a name without an entry stays unbound (R319, R331). -/
theorem State.hostBinds_binds {l : List BindEnt} (distinct : sameName l = false)
    (room : s.bindsFull h.ctx (l.filter fun b => b.obj.isSome || s.hasName h.ctx b.name) = false) :
    (s.hostBinds h l).Answers h.ctx 0 ∧ (∀ b ∈ l, ((s.hostBinds h l).name h.ctx b.name).obj = b.obj) ∧ (s.hostBinds h l).mem = s.mem := by
  rw [sameName_eq_false_iff] at distinct
  set r := l.filter fun b => b.obj.isSome || s.hasName h.ctx b.name with isR
  set v := (r.foldl (fun s b => s.reserveBind h.ctx b) s).releaseBinds h.ctx r with isV
  have apart : (r.map (·.name)).Nodup := distinct.sublist (List.filter_sublist.map _)
  obtain ⟨ctxs, binds, others⟩ := State.bound_releaseBinds h.ctx apart s
  have turn : s.hostBinds h l = (v.dirAnswer h 0 0).transmit := by
    simp only [State.hostBinds, ← isR, room, Bool.false_eq_true, if_false]
    rfl
  have sent := (v.dirAnswer h 0 0).tablesKept_transmit
  have names : ∀ id, ((s.hostBinds h l).name h.ctx id).obj = (v.name h.ctx id).obj := fun id => by
    rw [turn]
    exact sent.bound.bound h.ctx id
  refine ⟨?_, fun b hb => ?_, ?_⟩
  · have hc : v.ctxs.get? h.ctx = some c := ctxs.symm ▸ State.get?_of_window? hw
    rw [turn]
    exact (State.answers_dirAnswer hc 0).of_ctxs sent.ctxs
  · rw [names]
    by_cases kept : (b.obj.isSome || s.hasName h.ctx b.name) = true
    · exact binds b (List.mem_filter.2 ⟨hb, kept⟩)
    · simp only [Bool.or_eq_true, not_or, Bool.not_eq_true, Option.isSome_eq_false_iff, Option.isNone_iff_eq_none, State.hasName] at kept
      obtain ⟨unbinds, absent⟩ := kept
      refine (others b.name fun d hd same => ?_).trans ?_
      · obtain ⟨mem, kept⟩ := List.mem_filter.1 hd
        obtain rfl := List.inj_on_of_nodup_map distinct mem hb same
        simp [unbinds, State.hasName, absent] at kept
      · rw [State.name, Assoc.getD, absent, unbinds]
        rfl
  · rw [turn, (State.steady_transmit _).mem]
    exact State.mem_releaseBinds h.ctx r s

omit turn in
/-- A window operation that binds the entries of l does what they say. -/
theorem State.dirHostOp_binds {i : Instr} {op : Nat} (isOp : field w.toNat 63 60 = op) {l : List BindEnt}
    (run : exec i s = .next (s.dirHostOp h w op (s.hostBinds h l))) (distinct : sameName l = false)
    (room : s.bindsFull h.ctx (l.filter fun b => b.obj.isSome || s.hasName h.ctx b.name) = false) :
    ∃ t, exec i s = .next t ∧ t.Answers h.ctx 0 ∧ (∀ b ∈ l, (t.name h.ctx b.name).obj = b.obj) ∧ t.mem = s.mem := by
  obtain ⟨answers, binds, mem⟩ := State.hostBinds_binds hw distinct room
  rw [State.dirHostOp_of hw up isOp] at run
  exact ⟨_, run, answers.dirCounted, binds, mem⟩

/-- BIND of a name to the object of an OPEN handle (R326, R331). -/
theorem execHostBind_binds {b : BindEnt} (op : field w.toNat 63 60 = 3)
    (entry : bindEntry (s.hostClosable h.ctx) (w.setWidth 32) (BitVec.ofNat 32 (field w.toNat 55 44)) false = .ok b)
    (room : s.bindsFull h.ctx [b] = false) :
    ∃ t, exec (.hostBind h w) s = .next t ∧ t.Answers h.ctx 0 ∧ (t.name h.ctx b.name).obj = b.obj ∧ t.mem = s.mem := by
  have run : exec (.hostBind h w) s = .next (s.dirHostOp h w 3 (s.hostBinds h [b])) := by
    show execHostBind h w s = _
    rw [execHostBind, State.inOrder_of_turn turn, State.hostBindNow, dirHandle, entry]
  have kept : [b].filter (fun b => b.obj.isSome || s.hasName h.ctx b.name) = [b] := by
    simp [isSome_of_bindEntry entry]
  obtain ⟨t, next, answers, binds, mem⟩ := State.dirHostOp_binds hw up op run rfl (by rwa [kept])
  exact ⟨t, next, answers, binds b List.mem_cons_self, mem⟩

/-- UNBIND of a name that exists (R326, R331). -/
theorem execHostUnbind_unbinds {b : BindEnt} (op : field w.toNat 63 60 = 4)
    (entry : bindEntry (s.hostClosable h.ctx) (w.setWidth 32) 0 true = .ok b) (named : s.hasName h.ctx b.name = true) :
    ∃ t, exec (.hostUnbind h w) s = .next t ∧ t.Answers h.ctx 0 ∧ (t.name h.ctx b.name).obj = none ∧ t.mem = s.mem := by
  have run : exec (.hostUnbind h w) s = .next (s.dirHostOp h w 4 (s.hostBinds h [b])) := by
    show execHostUnbind h w s = _
    rw [execHostUnbind, State.inOrder_of_turn turn, State.hostUnbindNow, entry]
  have room : s.bindsFull h.ctx ([b].filter fun b => b.obj.isSome || s.hasName h.ctx b.name) = false := by
    simp [named, State.bindsFull]
  obtain ⟨t, next, answers, binds, mem⟩ := State.dirHostOp_binds hw up op run rfl room
  exact ⟨t, next, answers, (binds b List.mem_cons_self).trans (obj_of_bindEntry_zero entry), mem⟩

/-- REBIND of the entries of DIRARG (R327, R331). -/
theorem execHostRebind_binds {l : List BindEnt} (op : field w.toNat 63 60 = 5) (few : field w.toNat 59 56 < 8)
    (entries : bindList (s.hostClosable h.ctx) c.dirBytes (field w.toNat 59 56 + 1) = .ok l) (distinct : sameName l = false)
    (room : s.bindsFull h.ctx (l.filter fun b => b.obj.isSome || s.hasName h.ctx b.name) = false) :
    ∃ t, exec (.hostRebind h w) s = .next t ∧ t.Answers h.ctx 0 ∧ (∀ b ∈ l, (t.name h.ctx b.name).obj = b.obj) ∧ t.mem = s.mem := by
  have run : exec (.hostRebind h w) s = .next (s.dirHostOp h w 5 (s.hostBinds h l)) := by
    show execHostRebind h w s = _
    rw [execHostRebind, State.inOrder_of_turn turn, State.hostRebindNow, dirArgOf, State.ctx_of_get? (State.get?_of_window? hw)]
    simp only [entries, distinct, Nat.not_lt.2 few, Bool.false_eq_true, if_false]
  exact State.dirHostOp_binds hw up op run distinct room

/-- MKOBJ of a descriptor that may be made answers what its creation gives (R331). -/
theorem execHostMkobj_of_checks {d : Nat} (op : field w.toNat 63 60 = 7) (isD : d = leNat (c.dirBytes.take 32)) (valid : descInvalid d = false)
    (loaded : s.keyLoaded h.ctx d = true) (may : s.canMake h.ctx d 0 (s.home h.ctx) = true) {n : Nat} {u : State}
    (made : s.makeObj h.ctx d 0 (s.home h.ctx) .shared .opened false = (n, u)) :
    exec (.hostMkobj h w) s = .next ((u.dirAnswer h n 0).transmit.dirCounted h) := by
  show execHostMkobj h w s = _
  rw [execHostMkobj, State.inOrder_of_turn turn, State.hostMkobjNow, State.dirHostOp_of hw up op,
    State.ctx_of_get? (State.get?_of_window? hw), ← isD]
  refine congrArg (fun u : State => Host.Outcome.next (u.dirCounted h)) ((if_neg ?_).trans ((if_neg ?_).trans ?_))
  · rw [valid, loaded]
    exact Bool.false_ne_true
  · rw [may]
    exact Bool.false_ne_true
  · rw [made]

/-- MKOBJ of a descriptor that may be made, where an object id is free: a SHARED object, and an OPEN slot on it (R324, R331). -/
theorem execHostMkobj_makes {d : Nat} (op : field w.toNat 63 60 = 7) (isD : d = leNat (c.dirBytes.take 32)) (valid : descInvalid d = false)
    (loaded : s.keyLoaded h.ctx d = true) (may : s.canMake h.ctx d 0 (s.home h.ctx) = true) (id_free : s.freeObj.1.isSome = true) :
    ∃ t n id o, exec (.hostMkobj h w) s = .next t ∧ s.freeSlot h.ctx = some n ∧ t.Answers h.ctx n
      ∧ t.slots.get? (slotKey h.ctx n) = some { obj := id } ∧ t.objs.get? id = some o ∧ o.desc = d ∧ o.ctx = h.ctx
      ∧ o.st = .shared ∧ s.objs.get? id = none := by
  obtain ⟨n, id, o, u, made, slot, atSlot, atId, desc, ctx, st, fresh, ctxs⟩ := State.makeObj_makes .shared .opened false may id_free
  have run : exec (.hostMkobj h w) s = .next ((u.dirAnswer h n 0).transmit.dirCounted h) :=
    execHostMkobj_of_checks hw up turn op isD valid loaded may made
  have sent := (u.dirAnswer h n 0).tablesKept_transmit
  have hc : u.ctxs.get? h.ctx = some c := ctxs ▸ State.get?_of_window? hw
  refine ⟨_, n, id, o, run, slot, ((State.answers_dirAnswer hc n).of_ctxs sent.ctxs).dirCounted, ?_, ?_, desc, ctx, st, fresh⟩
  · exact (congrArg (Assoc.get? · _) sent.slots).trans atSlot
  · exact (congrArg (Assoc.get? · _) sent.objs).trans atId

omit up turn in
/-- DIRENT reads the entry of the slot that DIRSEL names where the debug level lets it; else it reads 0 and DIRSTAT says so (R510). -/
theorem execDirentRead_observes (observes : s.observes = true) :
    ∃ t, exec (.direntRead h) s = .next t ∧ t.readData = BitVec.ofNat 64 (slotEntry (s.slot? h.ctx (c.dirsel.toNat % 4096)))
      ∧ t.ctxs = s.ctxs := by
  refine ⟨{ s with readData := BitVec.ofNat 64 (slotEntry (s.slot? h.ctx (c.dirsel.toNat % 4096))) }, ?_, rfl, rfl⟩
  show Host.Outcome.next _ = _
  simp only [hw, observes, if_true]

omit up turn in
/-- Where it does not, DIRENT reads 0 and DIRSTAT says so (R510). -/
theorem execDirentRead_refuses (observes : s.observes = false) :
    ∃ t, exec (.direntRead h) s = .next t ∧ t.readData = 0 ∧ (t.ctx h.ctx).dirstat.toNat = c.dirstat.toNat / 8 * 8 + 6 := by
  have run : exec (.direntRead h) s = .next (State.updCtx { s with readData := 0 } h.ctx fun c =>
      { c with dirstat := BitVec.ofNat 64 (c.dirstat.toNat / 8 * 8 + 6) }) := by
    show Host.Outcome.next _ = _
    simp only [hw, observes, Bool.false_eq_true, if_false]
  refine ⟨_, run, rfl, ?_⟩
  rw [State.ctx_of_get? (c := { c with dirstat := BitVec.ofNat 64 (c.dirstat.toNat / 8 * 8 + 6) })]
  · have bound := c.dirstat.isLt
    exact Nat.mod_eq_of_lt (by omega)
  · simp only [State.updCtx_ctxs, Assoc.get?_modify, if_true, State.get?_of_window? hw, Option.map_some]

end

/-! ### The statement, and the ids that it does not count -/

/-- A context with a quota of objects, whose DIRARG describes sixteen FP32 elements. -/
def makerCtx : Ctx := { state := .resident, objs := 4, dirarg := #v[0, 16, 0, 0, 0, 0, 0, 0] }

/-- Every object id, each of an object that is gone and that die 1 has not let go of yet (R311, R472). -/
def goneIds : Assoc (List Nat) := (List.range 65535).map fun i => (i + 1, [1])

/-- A part of two dies, in which that context's key is loaded and a slot and frames are free. `full`: no object id is. -/
def makerState (full : Bool) : State :=
  { State.reset with pst := .run, spm1 := 1, ctxs := [(0, makerCtx)], keys := [(0, {})], gone := if full then goneIds else [] }

/-- The command word of an MKOBJ. -/
def mkobjWord : Dword := 7#64 <<< 60

theorem op_mkobjWord : field mkobjWord.toNat 63 60 = 7 := by decide

theorem freeObj_makerState_false : (makerState false).freeObj.1.isSome = true := by
  have start : (Config.freeWord 0).toNat % 65535 < 65535 := Nat.mod_lt _ (by decide)
  have low : lowFree [] 0 1 ((Config.freeWord 0).toNat % 65535 + 1) 65536 = some ((Config.freeWord 0).toNat % 65535 + 1) := by
    rw [lowFree, if_neg (by omega)]
    rfl
  exact (congrArg (fun a : Option Nat => (a.or _).isSome) low).trans rfl

theorem freeObj_makerState_true : (makerState true).freeObj.1 = none := by
  refine State.freeObj_eq_none fun id low high => List.mem_append_right _ ?_
  simp only [makerState, ↓reduceIte, goneIds, List.map_map, List.mem_map, List.mem_range, Function.comp_apply]
  exact ⟨id - 1, by omega, by omega⟩

/-- What O50 asks of the state for MKOBJ holds, whether an id is free or not. -/
theorem mayMake_makerState (full : Bool) :
    (makerState full).window? ⟨.pf, 0⟩ = some makerCtx ∧ Safety.HostTurn (makerState full) .pf
      ∧ (makerState full).keyLoaded 0 (leNat (makerCtx.dirBytes.take 32)) = true
      ∧ (makerState full).canMake 0 (leNat (makerCtx.dirBytes.take 32)) 0 ((makerState full).home 0) = true := by
  revert full
  decide +kernel

/-- In the part where nothing is gone an id is free, and MKOBJ makes an object with a slot on it. -/
theorem mkobj_makes : ∃ t n id, exec (.hostMkobj ⟨.pf, 0⟩ mkobjWord) (makerState false) = .next t ∧ t.Answers 0 n
    ∧ t.slots.get? (slotKey 0 n) = some { obj := id } := by
  obtain ⟨window, turn, loaded, may⟩ := mayMake_makerState false
  obtain ⟨t, n, id, -, run, -, answers, slot, -⟩ := execHostMkobj_makes window (by decide) turn op_mkobjWord rfl (by decide +kernel) loaded
    may freeObj_makerState_false
  exact ⟨t, n, id, run, answers, slot⟩

/-- Refutes O50: where every object id is one that another die still has, no id is free, and MKOBJ makes nothing and answers the handle 0
with status 0 (R324 and R331 have it answer 2), though all that O50 asks for holds. Where an id is free MKOBJ makes its object
(`execHostMkobj_makes`), and every other operation of the window does what O50 says (`execHostOpen_opens`, `execHostClose_frees`,
`execHostBind_binds`, `execHostUnbind_unbinds`, `execHostRebind_binds`, `execHostQuery_answers`, `execDirentRead_observes`,
`execDirentRead_refuses`). -/
theorem not_hostDirectory : ¬ Obligations.HostDirectory := by
  unfold Obligations.HostDirectory
  intro holds
  obtain ⟨window, turn, loaded, may⟩ := mayMake_makerState true
  obtain ⟨-, -, -, -, -, -, mkobj, -⟩ := holds (makerState true) ⟨.pf, 0⟩ makerCtx mkobjWord window (by decide) turn
  obtain ⟨t, n, id, o, run, -, -, slot, -⟩ := mkobj op_mkobjWord (by decide +kernel) loaded may
  obtain ⟨u, made, kept⟩ := State.makeObj_of_no_id (ctx := 0) (d := leNat (makerCtx.dirBytes.take 32)) (t := 0)
    (r := (makerState true).home 0) .shared .opened false freeObj_makerState_true
  have same : t = (u.dirAnswer ⟨.pf, 0⟩ 0 0).transmit.dirCounted ⟨.pf, 0⟩ :=
    Host.Outcome.next.inj (run.symm.trans
      (execHostMkobj_of_checks window (by decide) turn op_mkobjWord rfl (by decide +kernel) loaded may made))
  have empty : t.slots = [] := by
    rw [same]
    exact (u.dirAnswer ⟨.pf, 0⟩ 0 0).tablesKept_transmit.slots.trans kept.slots
  rw [empty] at slot
  cases slot

end Sys2Proof.Machine
end
